-- ==== Sys2Proof/Word.lean ====
section
/-! DEFINITION. The word types of the model. Bytes, halfwords and words are bit vectors (00 R5, R6);
counts, lengths and indexes are natural numbers. -/
namespace Sys2Proof

abbrev Byte := BitVec 8
abbrev Half := BitVec 16
abbrev Word := BitVec 32
abbrev DWord := BitVec 64
/-- A vector register (09 R251). -/
abbrev Vec := BitVec 128

/-- A table with natural-number keys: a list of pairs, the newest binding of a key first. -/
abbrev Tbl (α : Type) := List (Nat × α)

end Sys2Proof
end

