-- ==== Sys2Proof/Syntax.lean ====
section
/-! DEFINITION. The commands of the block: one constructor per row of spec/opcode_table.json, with the
operands the spec gives the row. A time or event row carries what the environment supplies (a received
frame, a sensor reading, the outcome of a comparison); the rest is read from the state. -/
namespace Sys2Proof

/-- Direction of a lane unit or key: encrypt or decrypt (03 R56). -/
inductive Dir where | enc | dec
  deriving DecidableEq, Repr

/-- Side of a port group (12 R330). -/
inductive Side where | home | strait
  deriving DecidableEq, Repr

/-- Cause of a cold reset (15 R422). -/
inductive ColdKind where | powerOn | resetN
  deriving DecidableEq, Repr

/-- Pages with a common header (14 R392). -/
inductive Page where
  | dev | cfg | evt (i : Fin 2) | pci | lhs | pwr | clk | rst | saf (i : Fin 4)
  | hpt (g : Fin 8) | spt (g : Fin 8) | cls | cphE (n : Fin 9) | asx | cphD (n : Fin 9) | qmg
  | hbm (n : Fin 2) | sns | tim | vlt | drb | hrb | boot | ringGroup (q : Fin 8) | ring (r : Fin 64)
  | kln (k : Fin 24) | eng (n : Fin 192)
  deriving DecidableEq, Repr

/-- What shows while one frame passes a lane unit (03 R67, R71 to R73, 05 R127, R131): the twins' words agree; they agree and
a key cache word, or a holding-buffer word, was corrected; they agree and the frame read next from the reorder partition has
an uncorrectable error; twin word k differs; or the echo check matches at word k. -/
inductive LgOutcome where
  | agree
  | keyCe
  | bufCe
  | heldUe
  | mismatch (word : Nat)
  | echo (word : Nat)
  deriving DecidableEq, Repr

/-- What the OTU SM overhead of a received seal block shows (12 R340): the TTI of each of its multiframes, 64 bytes each, its BIP-8
errors and its BEI. -/
structure SmRead where
  tti : List (List Byte) := []
  bip : Nat := 0
  bei : Nat := 0
  deriving DecidableEq, Repr

/-- One lane's part of a seal block as it reaches its unit (03 R62, R63): its payload, the overhead that passes unchanged beside it, and
what the twins show. -/
structure LaneBlock where
  payload : List Byte
  ohd : List Byte := []
  sm : SmRead := {}
  lg : LgOutcome := .agree
  deriving DecidableEq, Repr

/-- A home-side frame: the bytes from the destination MAC up to the FCS, and whether the FCS is good. -/
structure HomeFrame where
  bytes : List Byte
  fcsOk : Bool
  deriving DecidableEq, Repr

/-- What a read of a retention record finds in HBM (04 R99, 05 R131): nothing wrong; uncorrectable errors in the chunks listed,
counted from the record's first; or a check that fails on both reads. -/
inductive RetRead where
  | good
  | rebuilt (chunks : List Nat)
  | bad
  deriving DecidableEq, Repr

/-- What a fetch of a frame from home hold finds (05 R127, R131): nothing wrong, a corrected or an uncorrectable error in its
holding-buffer cells, or uncorrectable errors in the chunks listed, counted from the frame's first. -/
inductive FetchRead where
  | clean
  | bufCe
  | bufUe
  | rebuilt (chunks : List Nat)
  deriving DecidableEq, Repr

/-- What shows while a frame leaves home egress (05 R127, R131): nothing wrong, a corrected or an uncorrectable error in its
cells, or an uncorrectable error in the frame read next from the reorder partition. -/
inductive EgressRead where | clean | bufCe | bufUe | heldUe
  deriving DecidableEq, Repr

/-- A clock or PLL that a monitor watches (15 R408). -/
inductive ClockSrc where
  | hclk | dclk | sysref | serdesRef (i : Fin 2) | pcieRef
  | kilnEclk (k : Fin 24) | portPll (side : Side) (g : Fin 8)
  deriving DecidableEq, Repr

/-- A unit that a unit reset names (15 R425). -/
inductive UnitId where
  | engine (n : Fin 192) | kiln (k : Fin 24) | lane (d : Dir) (n : Fin 9)
  | group (side : Side) (g : Fin 8) | harbour (h : Fin 2) | hostIf
  deriving DecidableEq, Repr

/-- What a boot stage found, beyond what its images hold (13 R359): used by the stages that look for it. -/
structure BootOutcome where
  stageFailed : Bool      -- ROM self-test, eFuse read or DRB start-up failed three times
  bootMs : Word
  deriving DecidableEq, Repr

/-- Agent of a register access inside the device (10 R286, R299). -/
inductive Agent where
  | engine (n : Fin 192) | harbour (h : Fin 2) | host
  deriving DecidableEq, Repr

/-- A COPY descriptor of 14 R400. -/
structure CopyDesc where
  hostAddr : DWord
  barOff : Word
  len : Word
  dflags : Word
  deriving DecidableEq, Repr

/-- What a scrub or background read found in a memory (05 R131, 07 R195, 10 R287, 09 R282). -/
inductive ScrubFinding where
  | clean
  | corrected (n : Nat)
  | uncorrectable (where_ : Nat)
  deriving DecidableEq, Repr

/-- What an HBM scrub sweep found (05 R131): counts of corrected errors, and uncorrectable ones by the
pseudo-channel and, for a reorder frame, the channel and PN it held. -/
structure HbmSweep where
  corrected : Nat
  rebuilt : List (Fin 32)
  unrebuilt : List (Fin 32)
  reorderLost : List (Fin 8192 × Nat)
  unresponsive : List (Fin 32)
  deriving DecidableEq, Repr

/-- Equaliser codes of one lane (11 R320). -/
structure EqCodes where
  ctle : Byte
  vga : Byte
  dfe : List (BitVec 8)
  deriving DecidableEq, Repr

/-- The CMIS bytes that a module answers to a poll (11 R321), each field most significant byte first (00 R6). -/
structure SlotRead where
  lower : List Byte       -- lower page, bytes 14 to 17: temperature and supply voltage
  tx : List Byte          -- page 11h, bytes 154 to 169: TX power, lanes 1 to 8
  rx : List Byte          -- page 11h, bytes 186 to 201: RX power, lanes 1 to 8
  pageSel : Byte          -- byte 127
  deriving DecidableEq, Repr

/-- A PTP message sent by HC0 (12 R347). -/
structure PtpSend where
  oneStep : Bool
  msgType : BitVec 4
  seqId : Half
  domain : Byte
  bytes : List Byte
  deriving DecidableEq, Repr

/-- A TAP instruction (17 R457). -/
inductive TapOp where
  | sample | extest (drive : List Bool) | bypass
  | haltEngine (n : Fin 192) | stepEngine (n : Fin 192) | haltHarbour (h : Fin 2) | stepHarbour (h : Fin 2)
  | memRead (addr : Nat) | memWrite (addr : Nat) (v : Byte)
  deriving DecidableEq, Repr

/-- A failed entropy test (06 R176, R178). -/
inductive HealthTest where | repetition | adaptive | knownAnswer
  deriving DecidableEq, Repr

/-! Operands of the Traim rows (08). -/

/-- A scalar register s0 to s31; s31 is sp (07 R187). -/
abbrev Reg := Fin 32
/-- A vector register v0 to v15. -/
abbrev VReg := Fin 16
/-- An FP register f0 to f15. -/
abbrev FReg := Fin 16
/-- An accumulator acc0 to acc3. -/
abbrev AReg := Fin 4

/-- The core that executes an operation: a Traim engine or a harbour pair (08 R246). -/
inductive Core where
  | engine (n : Fin 192)
  | harbour (h : Fin 2)
  deriving DecidableEq, Repr

/-- Where an operation stands: its core, whether its bundle goes on after it (the P bit of its word, or a
second short operation), and the words it adds to the bundle (08 R221, R222). -/
structure At where
  core : Core
  more : Bool
  words : Nat
  deriving DecidableEq, Repr

/-- Addressing modes of loads and stores (08 R226). -/
inductive Addr where
  | disp (base : Reg) (d : Word)
  | postInc (base : Reg) (k : Word)
  | preDec (base : Reg)
  | index (base ix : Reg) (scale : Fin 4)
  deriving DecidableEq, Repr

/-- The second source of a V operation (08 R228). -/
inductive VSrc where
  | reg (v : VReg)
  | mem (s : Reg) (inc : Bool)
  deriving DecidableEq, Repr

/-- A loop or repeat count (08 R232, R235). -/
inductive Count where
  | imm (n : Nat)
  | reg (r : Reg)
  deriving DecidableEq, Repr

/-- The commands, one constructor per row of the table. -/
inductive Instr where
  | powerOn (k : ColdKind)
  | resetNRelease
  | bootStageDone (o : BootOutcome)
  | asxonStartHoldEnd
  | zeroizeNAssert
  | tamperCheck (n : Fin 4) (sns : Bool)
  | tamperTrip (sensor : Fin 7)
  | zeroizeComplete (readBackZero : Bool)
  | mainPowerFail (rails : BitVec 13)
  | lighthousePowerLoss
  | railOutOfRange (r : Fin 13)
  | lclkFallback
  | lclkRestored
  | clockMonitorFail (src : ClockSrc) (pll : Bool)
  | tempSample (quarterC : Int) (sensor : Byte)
  | perstNAssert
  | pcieHotReset
  | pcieLinkDown
  | functionLevelReset
  | ember (v : Word)
  | emberDone (copiesOk retainedOk : Bool) (ms : Word)
  | emberSlow
  | unitResetEngine (n : Fin 192)
  | unitResetKiln (k : Fin 24)
  | unitResetEncryptLane (n : Fin 9)
  | unitResetDecryptLane (n : Fin 9)
  | unitResetHomeGroup (g : Fin 8)
  | unitResetStraitGroup (g : Fin 8)
  | unitResetHarbourPair (h : Fin 2)
  | unitResetHostInterface
  | unitResetDone (u : UnitId)
  | lockstepMismatch (h : Fin 2)
  | pairBack (h : Fin 2)
  | faultLineAssert (p : Page) (bit : Fin 6) (chans : List (Fin 8192))
  | sealCmd (v : Word)
  | causeClear
  | collectorSelftest (inputsOk driveA driveB : Bool)
  | proofArm (v : Word)
  | proofArmExpiry
  | faultInj (p : Page) (v : Word)
  | unseal (tag : Half)
  | homeIngressFrame (p : Fin 32) (f : HomeFrame)
  | pauseExpiry (p : Fin 32) (pri : Option (Fin 8))
  | admissionDecision (p : Fin 32)
  | frameAcceptance (p : Fin 32)
  | homeHoldFetch (c : Fin 8192) (rd : FetchRead)
  | sendDataFrame (c : Fin 8192) (cut : Option (Fin 32)) (lg : LgOutcome) (ue : Bool)
  | spareSwitchIn (d : Dir) (n : Fin 9)
  | unitWarm (d : Dir) (n : Fin 9)
  | leakGuardSelftest (d : Dir) (n : Fin 9) (detected : Bool)
  | holdingBufferRelease (c : Fin 8192)
  | keySlotRewrite (d : Dir) (n : Fin 9) (c : Fin 8192) (slot : Fin 2) (kcvOk : Bool)
  | heldKeyWriteComplete (d : Dir) (c : Fin 8192)
  | epochPromotion (c : Fin 8192)
  | straitIngressFrame (p : Fin 32) (bytes : List Byte) (fcsOk : Bool) (lg : LgOutcome)
  | frameReleased (p : Fin 32) (rd : EgressRead)
  | homeEgressSelect (p : Fin 32)
  | ackTimer (c : Fin 8192)
  | ackRefresh (g : Fin 8)
  | ackFrameFlush (g : Fin 8)
  | nackRetry (c : Fin 8192) (pn : Nat)
  | retransmit (c : Fin 8192) (rd : RetRead)
  | tailTimer (c : Fin 8192) (rd : RetRead)
  | keepaliveTimer (p : Fin 32)
  | pathDownTimeout (p : Fin 32)
  | pathUp (g : Fin 8)
  | strandTimeout (g : Fin 8)
  | resyncResend (g : Fin 8)
  | wpSwitch (p : Fin 4)
  | wpSwitchConnected (p : Fin 4)
  | forceToProtect (p : Fin 4)
  | forceToWorking (p : Fin 4)
  | clearForce (p : Fin 4)
  | waitToRestoreExpiry (p : Fin 4)
  | closePeer (g : Fin 8)
  | hardExpiry (c : Fin 8192)
  | rekeyDue (c : Fin 8192)
  | refreshDue (c : Fin 8192)
  | ratchetDue (c : Fin 8192)
  | portRekeyDue (g : Fin 8)
  | heldKeyingResume (g : Fin 8)
  | exchangeRetry (xid : DWord)
  | keyingBackoffExpiry (g : Fin 8)
  | busyRetry (g : Fin 8) (chan : Option (Fin 8192))
  | nextRepeat (g : Fin 8)
  | prkErase (xid : DWord)
  | kpGo (n : Fin 192) (v : Word)
  | pairingTimeout (i : Nat)
  | keyPolicySet (tag : Half) (word mask : Word)
  | anchorSet (tag : Half) (g : Byte) (ec pq : List Byte)
  | imkGet (tag : Half)
  | saImport (tag : Half) (blob : List Byte)
  | attest (tag : Half) (nonce : List Byte)
  | identProvision (tag : Half) (subject : List Byte)
  | identCertSet (tag : Half) (cert : List Byte)
  | identGet (tag : Half)
  | zeroize (confirm : Word)
  | rekey (tag : Half) (g : Byte) (chan : Half)
  | sensePolicySet (tag : Half) (word mask : Word)
  | lifecycleAdvance (tag : Half) (target : Byte) (confirm : Word)
  | integratorKeySet (tag : Half) (n : Byte) (hash : List Byte)
  | integratorKeyRevoke (tag : Half) (n : Byte)
  | floorSet (tag : Half) (which : Byte) (ver : Word)
  | fwInfo (tag : Half)
  | fwWrite (tag : Half) (slot : Byte) (off : Word) (bytes : List Byte)
  | fwVerify (tag : Half) (slot : Byte)
  | storeWrite (tag : Half) (off : Word) (bytes : List Byte)
  | imagesReload (tag : Half)
  | logRead (tag : Half) (start : Word)
  | greenOpen (v : Word)
  | greenAbort (v : Word)
  | fire (v : Word)
  | refire (v : Word)
  | fireChecksDone
  | portSwitchPoint (side : Side) (p : Fin 32)
  | generationSwitchDone (ns : Word)
  | stagedWrite (off : Word) (v : Word)
  | registerWrite (off : Word) (size : Nat) (v : DWord)
  | rcRead (off : Word)
  | counterLowRead (off : Word)
  | tsfPop (side : Side) (p : Fin 32)
  | ppsInNsRead
  | tempMaxRead
  | rndDataRead (k : Fin 24) (a : Agent)
  | cntClear (v : Word)
  | portCntClear (side : Side) (g : Fin 8) (v : Word)
  | mmClear (d : Dir) (n : Fin 9) (v : Word)
  | lockWrite (p : Page) (v : Word)
  | evtPendClear (p : Page) (v : Word)
  | evtForce (p : Page) (v : Word)
  | evtEnWrite (p : Page) (v : Word)
  | faultPendClear (p : Page) (v : Word)
  | hostRouteWrite (n : Fin 640) (v : Word)
  | msixMessage (v : Fin 256)
  | ringEnable (r : Fin 64) (v : Word)
  | copyDoorbell (r : Fin 64) (v : Word)
  | copyDescriptor (r : Fin 64) (d : CopyDesc) (host : List Word) (hostErr : Bool)
  | islCmdUp (i : Fin 260)
  | islCmdDown (i : Fin 260)
  | powerHoldDone (i : Fin 260)
  | holdLimitExpiry (i : Fin 260)
  | islandWakeDone (i : Fin 260)
  | islandSwitchTimeout (i : Fin 260)
  | engineSleep (n : Fin 192)
  | engineWake (n : Fin 192)
  | kilnPllStop (k : Fin 24)
  | deepIdleEnter
  | deepIdleLeave
  | eclkSelWrite (k : Fin 24) (v : Word)
  | eclkStepDone (k : Fin 24)
  | todStep (a : Agent) (v : Word)
  | todLoad (a : Agent) (v : Word)
  | rateWrite (a : Agent) (v : Word)
  | ppsOutEdge
  | ppsInEdge
  | ppsMiss
  | retireCmd (h : Fin 2) (v : Word)
  | hbmScrub (h : Fin 2) (f : HbmSweep)
  | lighthouseScrub (f : ScrubFinding)
  | engineScrub (n : Fin 192) (iram : Bool) (f : ScrubFinding)
  | shmemScrub (k : Fin 24) (f : ScrubFinding)
  | controlStoreCheck (k : Fin 24) (f : ScrubFinding)
  | drbgReseed (i : Fin 3)
  | healthTestFail (t : HealthTest)
  | qTailDoorbell (h : Fin 2) (k : Fin 24) (q : Fin 4) (v : Word)
  | jobDispatch (k : Fin 24)
  | jobTimeout (n : Fin 192) (ctx : Fin 64)
  | resume (h : Fin 2) (n : Fin 192) (ctx : Fin 64)
  | kill (h : Fin 2) (n : Fin 192) (ctx : Fin 64)
  | engDoorbell (h : Fin 2) (k : Fin 24) (v : Word)
  | timerCmpMatch (k : Fin 24)
  | dmaGo (k : Fin 24) (ch : Fin 8) (a : Agent)
  | dmaStop (k : Fin 24) (ch : Fin 8) (a : Agent)
  | dmaResume (k : Fin 24) (ch : Fin 8) (a : Agent)
  | dmaEntryDone (k : Fin 24) (ch : Fin 8) (memErr : Bool)
  | hashStart (k : Fin 24) (h : Fin 4) (a : Agent) (v : Word)
  | hashDone (k : Fin 24) (h : Fin 4)
  | hsRelease (k : Fin 24) (h : Fin 4) (a : Agent) (v : Word)
  | halt (n : Fin 192) (v : Word)
  | interruptLevel1 (n : Fin 192) (line : Fin 16)
  | interruptLevel2 (n : Fin 192) (line : Fin 16)
  | machineCheck (n : Fin 192) (cause : Byte) (addr : Word) (bank : Fin 8)
  | contextFault (n : Fin 192) (code : Byte) (addr : Word)
  | fpTrap (n : Fin 192)
  | contextFill (n : Fin 192) (ctx : Fin 64)
  | longOpComplete (n : Fin 192)
  | dintLimit (n : Fin 192)
  | probeReqTimer (p : Fin 32)
  | probeLost (p : Fin 32) (seq : Nat)
  | sensingBatch (g : Fin 8) (skews : List Int)
  | batchMiss (g : Fin 8)
  | senseLost (g : Fin 8)
  | learningEnd (g : Fin 8)
  | alarmHoldoffEnd (g : Fin 8)
  | eqSnapshot (l : Fin 32) (codes : EqCodes)
  | opticsFastPoll (i : Fin 32) (r : Option SlotRead)
  | opticsSlowPoll (i : Fin 32) (r : Option SlotRead)
  | pauseRepeat (p : Fin 32)
  | srcMaskAge (c : Fin 8192) (p : Fin 32)
  | linkBringupStep (side : Side) (p : Fin 32) (success : Bool)
  | alignmentTimeout (side : Side) (p : Fin 32)
  | linkUp (side : Side) (p : Fin 32)
  | linkDown (side : Side) (p : Fin 32)
  | ptpTxTimestamp (side : Side) (p : Fin 32) (m : PtpSend)
  | otnSourceLost (side : Side) (g : Fin 8) (defects : Word)
  | sealBlockRx (c : Fin 8192) (lane : Fin 2) (block : LaneBlock) (field : List Byte)
  | sealBlockTx (c : Fin 8192) (lane : Fin 2) (block : LaneBlock)
  | nop (w : At)
  | add (w : At) (rd ra rb : Reg)
  | sub (w : At) (rd ra rb : Reg)
  | and (w : At) (rd ra rb : Reg)
  | or (w : At) (rd ra rb : Reg)
  | xor (w : At) (rd ra rb : Reg)
  | andn (w : At) (rd ra rb : Reg)
  | sll (w : At) (rd ra rb : Reg)
  | srl (w : At) (rd ra rb : Reg)
  | sra (w : At) (rd ra rb : Reg)
  | ror (w : At) (rd ra rb : Reg)
  | rol (w : At) (rd ra rb : Reg)
  | slt (w : At) (rd ra rb : Reg)
  | sltu (w : At) (rd ra rb : Reg)
  | min (w : At) (rd ra rb : Reg)
  | max (w : At) (rd ra rb : Reg)
  | minu (w : At) (rd ra rb : Reg)
  | maxu (w : At) (rd ra rb : Reg)
  | adds (w : At) (rd ra rb : Reg)
  | subs (w : At) (rd ra rb : Reg)
  | neg (w : At) (rd ra : Reg)
  | negs (w : At) (rd ra : Reg)
  | abs (w : At) (rd ra : Reg)
  | abss (w : At) (rd ra : Reg)
  | addc (w : At) (rd ra rb : Reg)
  | subc (w : At) (rd ra rb : Reg)
  | clz (w : At) (rd ra : Reg)
  | popc (w : At) (rd ra : Reg)
  | brev (w : At) (rd ra : Reg)
  | bswap (w : At) (rd ra : Reg)
  | addi (w : At) (rd ra : Reg) (imm : Word)
  | andi (w : At) (rd ra : Reg) (imm : Word)
  | ori (w : At) (rd ra : Reg) (imm : Word)
  | xori (w : At) (rd ra : Reg) (imm : Word)
  | slti (w : At) (rd ra : Reg) (imm : Word)
  | sltiu (w : At) (rd ra : Reg) (imm : Word)
  | slli (w : At) (rd ra : Reg) (n : Byte)
  | srli (w : At) (rd ra : Reg) (n : Byte)
  | srai (w : At) (rd ra : Reg) (n : Byte)
  | rori (w : At) (rd ra : Reg) (n : Byte)
  | li (w : At) (rd : Reg) (imm : Word)
  | mov (w : At) (rd ra : Reg)
  | div (w : At) (rd ra rb : Reg)
  | divu (w : At) (rd ra rb : Reg)
  | rem (w : At) (rd ra rb : Reg)
  | remu (w : At) (rd ra rb : Reg)
  | mvs (w : At) (rd : Reg) (n : Fin 32)
  | mvts (w : At) (n : Fin 32) (ra : Reg)
  | estclr (w : At)
  | beq (w : At) (ra rb : Reg) (disp : Word)
  | bne (w : At) (ra rb : Reg) (disp : Word)
  | blt (w : At) (ra rb : Reg) (disp : Word)
  | bge (w : At) (ra rb : Reg) (disp : Word)
  | bltu (w : At) (ra rb : Reg) (disp : Word)
  | bgeu (w : At) (ra rb : Reg) (disp : Word)
  | beqz (w : At) (ra : Reg) (disp : Word)
  | bnez (w : At) (ra : Reg) (disp : Word)
  | dbnz (w : At) (ra : Reg) (disp : Word)
  | j (w : At) (disp : Word)
  | call (w : At) (disp : Word)
  | callr (w : At) (ra : Reg)
  | jr (w : At) (ra : Reg)
  | ret (w : At)
  | loop (w : At) (level : Fin 4) (count : Count) (endDisp : Fin 2048)
  | rpt (w : At) (count : Count)
  | dint (w : At)
  | eint (w : At)
  | swi (w : At) (n : Byte)
  | brk (w : At)
  | syncW (w : At)
  | iflush (w : At)
  | pflush (w : At)
  | pbar (w : At) (n : Byte)
  | dcwb (w : At) (ra : Reg)
  | dcinv (w : At) (ra : Reg)
  | reti (w : At)
  | mret (w : At)
  | lclr (w : At) (n : Fin 4)
  | end_ (w : At)
  | yield (w : At)
  | fpbar (w : At)
  | ecall (w : At)
  | eret (w : At)
  | wfi (w : At)
  | csrr (w : At) (rd : Reg) (n : Fin 32)
  | csrw (w : At) (n : Fin 32) (ra : Reg)
  | harbourTrap (h : Fin 2) (cause : Byte) (tval : Word)
  | mcrd (w : At) (rd : Reg) (bank : Fin 8) (rs : Reg)
  | mcwr (w : At) (rs : Reg) (bank : Fin 8) (rd : Reg)
  | ldB (w : At) (rt : Reg) (a : Addr)
  | ldBu (w : At) (rt : Reg) (a : Addr)
  | ldH (w : At) (rt : Reg) (a : Addr)
  | ldHu (w : At) (rt : Reg) (a : Addr)
  | ldW (w : At) (rt : Reg) (a : Addr)
  | ldD (w : At) (rt : Reg) (a : Addr)
  | stB (w : At) (rt : Reg) (a : Addr)
  | stH (w : At) (rt : Reg) (a : Addr)
  | stW (w : At) (rt : Reg) (a : Addr)
  | stD (w : At) (rt : Reg) (a : Addr)
  | vldQ (w : At) (vt : VReg) (a : Addr)
  | vstQ (w : At) (vt : VReg) (a : Addr)
  | vgathH (w : At) (vd : VReg) (sn : Reg) (vi : VReg)
  | savel (w : At)
  | saveu (w : At)
  | restl (w : At)
  | restu (w : At)
  | vaddH (w : At) (vd va : VReg) (b : VSrc)
  | vsubH (w : At) (vd va : VReg) (b : VSrc)
  | vand (w : At) (vd va : VReg) (b : VSrc)
  | vor (w : At) (vd va : VReg) (b : VSrc)
  | vxor (w : At) (vd va : VReg) (b : VSrc)
  | vsllH (w : At) (vd va : VReg) (b : VSrc)
  | vsraH (w : At) (vd va : VReg) (b : VSrc)
  | vaddW (w : At) (vd va : VReg) (b : VSrc)
  | vsubW (w : At) (vd va : VReg) (b : VSrc)
  | vshuf (w : At) (vd va : VReg) (b : VSrc)
  | vbcastH (w : At) (vd : VReg) (sa : Reg)
  | vmacH (w : At) (ad : AReg) (va : VReg) (b : VSrc)
  | vmsuH (w : At) (ad : AReg) (va : VReg) (b : VSrc)
  | vmulH (w : At) (ad : AReg) (va : VReg) (b : VSrc)
  | vaclr (w : At) (ad : AReg)
  | vacstH (w : At) (vd : VReg) (aa : AReg) (k : Fin 32) (rnd : Bool)
  | vacstW (w : At) (vd : VReg) (aa : AReg) (k : Fin 32) (rnd : Bool)
  | vmontH (w : At) (vd va : VReg) (b : VSrc)
  | vbarrH (w : At) (vd va : VReg)
  | vmaddH (w : At) (vd va : VReg) (b : VSrc)
  | vmsubH (w : At) (vd va : VReg) (b : VSrc)
  | vnttL (w : At) (sn : Reg) (n : Fin 16)
  | vinttL (w : At) (sn : Reg) (n : Fin 16)
  | fadd (w : At) (fd fa fb : FReg)
  | fsub (w : At) (fd fa fb : FReg)
  | fmul (w : At) (fd fa fb : FReg)
  | fma (w : At) (fd fa fb : FReg)
  | fmin (w : At) (fd fa fb : FReg)
  | fmax (w : At) (fd fa fb : FReg)
  | fdiv (w : At) (fd fa fb : FReg)
  | fsqrt (w : At) (fd fa : FReg)
  | fcvtWS (w : At) (rd : Reg) (fa : FReg)
  | fcvtSW (w : At) (fd : FReg) (ra : Reg)
  | fcmp (w : At) (rd : Reg) (fa fb : FReg) (c : Fin 4)
  | vfadd (w : At) (vd va : VReg) (b : VSrc)
  | vfsub (w : At) (vd va : VReg) (b : VSrc)
  | vfmul (w : At) (vd va : VReg) (b : VSrc)
  | vfma (w : At) (vd va : VReg) (b : VSrc)
  | mul (w : At) (rd ra rb : Reg)
  | mulh (w : At) (rd ra rb : Reg)
  | mulhu (w : At) (rd ra rb : Reg)
  | mvsf (w : At) (fd : FReg) (ra : Reg)
  | mvfs (w : At) (rd : Reg) (fa : FReg)
  | mvsvW (w : At) (vd : VReg) (lane : Fin 4) (ra : Reg)
  | mvvsW (w : At) (rd : Reg) (va : VReg) (lane : Fin 4)
  | mmulW (w : At) (vd va vb : VReg)
  | mredW (w : At) (vd va : VReg)
  | perstNRelease
  | pcieLinkUp (speed : Fin 6) (width : Fin 5)
  | pcieConfigWrite (msixEn fnMask busMaster d3hot : Bool)
  | otnSourceReturn (side : Side) (g : Fin 8)
  | startupTestsPassed
  | lostSlotPoll (i : Fin 32) (r : Option SlotRead)
  | ppsOutPulseEnd
  | tapInstruction (op : TapOp)
  deriving DecidableEq, Repr

end Sys2Proof
end

