-- ==== Sys2Proof/Config.lean ====
section
/-! DEFINITION. What an implementation fixes and what the manual leaves open: opaque constants with no
body, so that no proof can see their value (log entries 3 and 4). -/
namespace Sys2Proof.Config

/-- Free 32-bit value number n (log entry 3). -/
opaque freeWord : Nat → Word
/-- Free byte number n. -/
opaque freeByte : Nat → Byte
/-- Free truth value number n. -/
opaque freeBool : Nat → Bool
/-- Free natural number n. -/
opaque freeNat : Nat → Nat
/-- The choice a way replacement makes (07 R184 gives no replacement policy). -/
opaque victimWay : Nat → Bool
/-- The way that the instruction cache replaces (07 R184). -/
opaque victimLine : Nat → Nat
/-- Index and tag of a branch in predictor table t, from its address and history, and the tagged table that a misprediction
allocates in, if any (07 R208 gives none of these functions). -/
opaque predIndex : Nat → Nat → Nat → Nat
opaque predTag : Nat → Nat → Nat → Nat
opaque predAlloc : Nat → Nat → Nat

/-! Public-key algorithms and manufacture-time constants are named by the manual and defined outside it
(log entry 4): FIPS 203, FIPS 204, FIPS 186-5, SP 800-56A. -/

/-- ECDSA P-256 verification of a signature over a message under a SEC1 public key. -/
opaque ecdsaVerify : List Byte → List Byte → List Byte → Bool
/-- ECDSA P-256 signature by the private key over a message, with the nonce of draw n. -/
opaque ecdsaSign : List Byte → List Byte → Nat → List Byte
/-- ML-DSA-65 verification. -/
opaque mldsaVerify : List Byte → List Byte → List Byte → Bool
/-- ML-DSA-65 signature. -/
opaque mldsaSign : List Byte → List Byte → Nat → List Byte
/-- Whether 65 bytes are a valid point of P-256. -/
opaque pointOk : List Byte → Bool
/-- Whether an encapsulation key passes the checks of FIPS 203. -/
opaque ekOk : List Byte → Bool
/-- Whether a ciphertext passes the checks of FIPS 203. -/
opaque ctOk : List Byte → Bool
/-- The ephemeral public fields (Q and EK, or Q and CT) of the exchange message of draw n. -/
opaque xchPublic : Nat → Nat → List Byte
/-- The 64 bytes ss_kem then ss_ec of the private keys of a draw against the peer's public fields. -/
opaque xchSecret : Nat → List Byte → List Byte
/-- Decapsulation and ECDH of an import blob: ss_kem then ss_ec under the import private keys. -/
opaque importSecret : List Byte → List Byte → List Byte
/-- Public half of a stored private key. -/
opaque publicOf : List Byte → List Byte
/-- The PKCS #10 request for the identity key and the subject fields. -/
opaque pkcs10 : List Byte → List Byte → List Byte
/-- The fused patch key, the fused die serial number and the ROM hashes of the signing keys 0 to 2. -/
opaque patchKey : List Byte
opaque dieSerial : Nat → Word
opaque romKeyHash : Nat → List Byte

end Sys2Proof.Config
end

