-- ==== Sys2Proof/Machine/State.lean ====
section
/-! DEFINITION. The state of the device: plain data. Registers that the host can see stand in `regs`, keyed by
their register BAR offset (a key that is not listed reads as the reset value of the register map); the rest of
the state has typed fields. The fields `free`, `out` and `pending` are the model's own. -/
namespace Sys2Proof.Machine

/-- Why the device stops with a fault: the manual gives no command such an effect, so the model has none that
ends a run; the one constructor stands for an access the manual places nowhere. -/
inductive Fault where
  /-- A step outside the address space. No meaning of this model raises it. Safe. -/
  | noSuchAddress (a : Nat)
  deriving DecidableEq, Repr

/-- Why a command is refused. -/
inductive Refusal where
  /-- The command has no meaning yet: raised by its arm of the dispatch only. Safe. -/
  | notModelled (mnemonic : String)
  deriving DecidableEq, Repr

/-- Device states (01 R25). -/
inductive DState where | cold | boot | staged | protect | sealed | zeroized
  deriving DecidableEq, Repr

/-- Peer sub-states (01 R29). -/
inductive Sub where | unkeyed | keying | joined | stranded | landfall
  deriving DecidableEq, Repr

/-- Channel states (01 R31). -/
inductive CState where | idle | active | held | closed
  deriving DecidableEq, Repr

/-- What leaves the device or is returned, in order: the model's own record. -/
inductive Out where
  /-- A frame from its destination MAC up to its FCS; `bad` when ended with an error block and inverted FCS. -/
  | frame (strait : Bool) (port : Nat) (bytes : List Byte) (bad : Bool)
  /-- A PAUSE frame with its one time, or a PFC frame with its enable bits and the times of priorities 0 to 7. -/
  | pause (port : Nat) (pfc : Bool) (enables : Nat) (times : List Nat)
  | msix (vector : Nat) (addr : DWord) (data : Word)
  | hostWrite (addr : DWord) (words : List Word)
  | response (chan slot : Nat) (bytes : List Byte)
  | read (v : DWord)
  | pps (level : Bool)
  | otn (strait : Bool) (group : Nat) (what : String) (bytes : List Byte)
  | ptp (strait : Bool) (port : Nat) (bytes : List Byte)
  | trapped (port : Nat) (bytes : List Byte) (tod : Nat)
  | optics (slot : Nat) (byte : Nat) (value : Nat)
  deriving DecidableEq, Repr

/-- A running Ember reset (15 R423): where it was entered from, its LAST_RESET code, and whether a seal fell in it. -/
structure EmberRun where
  from_ : DState
  code : Nat
  sealedIn : Bool := false
  deriving DecidableEq, Repr

/-- Device-wide state (01, 15, 17). -/
structure Dev where
  h48 : Bool
  dstate : DState
  ember : Option EmberRun := none
  resetN : Bool := false           -- RESET_N asserted
  perstN : Bool := false           -- PERST_N asserted
  lhOnly : Bool := false           -- Lighthouse-only (15 R406)
  zeroBall : Bool := false         -- ZEROIZE_N was asserted while the device was COLD (17 R460)
  zeroing : Option Nat := none     -- zeroization under way, its ZREASON
  startHold : Bool := true         -- within 250 ms of the release of RESET_N (04 R115)
  units : List Nat := []           -- units resetting: 256 × TYPE + index (15 R425)
  mono : Nat := 0                  -- MONO, ns, modulo 2^64 (11 R310)
  tod : Nat := 0                   -- ToD in units of 2^-40 ns (11 R310)
  ppsOut : Bool := false           -- the PPS_OUT ball
  ppsLast : Option Nat := none     -- MONO of the last captured PPS_IN edge
  lifecycle : Nat := 1             -- lifecycle in force (13 R364)
  tampDriven : List Bool := [false, false, false, false]
  tampRun : List Nat := [0, 0, 0, 0]
  hbmUes : Tbl (List Nat) := []    -- MONO of the uncorrectable errors of a pseudo-channel, by 32 × stack + channel
  extest : Option (List Bool) := none  -- what EXTEST drives on the balls (17 R457)
  kilnTimerFrac : Tbl Nat := []    -- tenths of an ECLK cycle owed to TIMER, by kiln
  deriving DecidableEq, Repr

/-- Configuration generations (13 R369 to R375). -/
structure Gen where
  phase : Nat := 0
  refire : Bool := false
  live : Tbl Word := []
  green : Tbl Word := []
  prev : Tbl Word := []
  liveNo : Word := 0
  prevNo : Word := 0
  refireOk : Bool := false
  passed : List Nat := []          -- ports past their switch point: 32 × side + port
  copiesLost : Bool := false       -- both metadata copies unreadable
  held : Tbl Word := []            -- writes that left a set in disagreement, by BAR offset (13 R376)
  deriving DecidableEq, Repr

/-- An island (15 R412): PSTATE, the host's DOWN, whether a command awaits its result, a kept command (true UP). -/
structure Isl where
  ps : Nat
  hostDown : Bool := false
  cmd : Bool := false
  kept : Option Bool := none
  savedSvc : Nat := 0              -- KCTRL before the hold
  deriving DecidableEq, Repr

/-- Safety collector (16). -/
structure Safety where
  active : List Nat := []          -- SEAL-class fault numbers of this entry still asserted
  proofArmed : Bool := false
  injected : List (Nat × Nat) := []  -- (page base, bit) injected and not yet detected
  collectorOk : Bool := false
  driveA : Bool := false
  driveB : Bool := false
  entry : Option (Nat × Nat) := none  -- LCLK cycle of the entry to SEALED, and DSTATE before it (16 R439)
  deriving DecidableEq, Repr

/-- One MSI-X table entry (14 R397). -/
structure Msix where
  addrLo : Word := 0
  addrHi : Word := 0
  data : Word := 0
  ctrl : Word := 1
  deriving DecidableEq, Repr

/-- Host interface (14). -/
structure Pci where
  msixEn : Bool := false
  fnMask : Bool := false
  busMaster : Bool := false
  d3hot : Bool := false
  table : Tbl Msix := []
  due : List Nat := []             -- vectors due
  routes : Tbl Word := []          -- HOST_ROUTE
  fwRoutes : Tbl Word := []        -- FW_ROUTE
  evLast : Tbl Nat := []           -- MONO of an event's last record
  evRepeat : Tbl Nat := []         -- raises of an event not recorded
  turn : Tbl Nat := []             -- ring of a group that had the last turn (14 R399)
  deriving DecidableEq, Repr

/-- A cipher lane unit (03 R56): island and roles stand in ASSIGN; what is under way stands here. -/
structure Lane where
  loaded : Bool := true            -- its key cache is loaded
  resetting : Bool := false
  frames : Nat := 0                -- FRAMES (64 bits)
  deriving DecidableEq, Repr

/-- A key cache slot and the vault copy of it (03 R66, 06 R146): the nine units of a direction hold the same. -/
structure KeySlot where
  valid : Bool := false
  bad : Bool := false              -- not used until rewritten (03 R67)
  epoch : Nat := 0
  key : List Byte := []
  salt : List Byte := []
  ssci : Word := 0
  kcv : Word := 0
  count : Nat := 0
  confirmed : Bool := false
  used : Bool := false             -- a frame was sent, or verified, under it
  ratchet : Bool := false          -- its NEXT had ORIGIN ratchet
  pn0 : Nat := 0                   -- 802.1AE: the imported PN
  firstAt : Option Nat := none     -- MONO of the first frame under it
  at_ : Nat := 0                   -- MONO of its import, or of the exchange it descends from
  hi : Nat := 0                    -- decrypt, 802.1AE: highest PN verified under it
  seen : List Nat := []            -- decrypt, 802.1AE: PNs verified within the window
  deriving DecidableEq, Repr

/-- A frame in a transmit queue (05 R122, 13 R372). -/
structure QFrame where
  bytes : List Byte                -- destination MAC up to the FCS
  cls : Nat
  fmt : Nat
  conf : Nat
  onChip : Bool := true
  hold : List Nat := []            -- its cells in the home hold partition (05 R124)
  deriving DecidableEq, Repr

/-- A retention record as ASX knows it (04 R97): its bytes stand in the channel's ring in HBM. -/
structure Ret where
  pn : Nat
  epoch : Nat
  units : Nat
  void : Bool := false
  tsent : Nat := 0                 -- MONO of the last transmission
  off : Nat := 0                   -- byte offset of its header in the ring
  len : Nat := 0                   -- stored bytes after the header
  rtx : Bool := false              -- marked for retransmission
  resent : Bool := false           -- it was retransmitted (04 R103)
  deriving DecidableEq, Repr

/-- A frame encrypted and not yet released from the holding buffer, or to be replayed on a spare (03 R75). -/
structure Flight where
  pn : Nat
  epoch : Nat
  bytes : List Byte                -- home frame
  frame : List Byte                -- the strait frame that replays it, without FCS
  retained : Bool := false         -- its retention record is complete
  replay : Bool := false           -- marked for replay
  deriving DecidableEq, Repr

/-- A received frame: queued plaintext, or ciphertext held for reorder (04 R106). -/
structure RxFrame where
  pn : Nat
  epoch : Nat
  units : Nat
  bytes : List Byte                -- plaintext home frame without FCS, or, while ciphertext, the strait frame
  lib : Bool := false
  handed : Bool := false           -- handed in order into the reorder partition (05 R141)
  port : Nat := 0                  -- strait port of arrival, kept while a key slot is rewritten
  deriving DecidableEq, Repr

/-- A channel (02 R35, 04 R94 to R106). -/
structure Chan where
  st : CState := .idle
  gap : Bool := false
  resync : Bool := false           -- waiting for the peer's STATE record
  q : List QFrame := []
  resv : Nat := 0                  -- reservations of frames still arriving, in units
  txNext : Nat := 0
  acked : Nat := 0
  csent : Nat := 0
  climit : Nat := 0
  guard : Nat := 1                 -- multiple of RTO_GUARD_US
  ret : List Ret := []
  ring : Nat := 0                  -- size of the retention ring in bytes, taken while it was empty
  head : Nat := 0                  -- ring offset of the next record (04 R99)
  tail : Nat := 0                  -- ring offset of the oldest record
  flight : List Flight := []
  rxNext : Nat := 1
  rxHand : Nat := 1
  released : Nat := 0
  highest : Nat := 0
  marks : List Nat := []           -- PNs received and not yet released
  voids : List (Nat × Nat) := []   -- void marks: PN and units
  rq : List RxFrame := []
  held : List RxFrame := []
  waitKey : List RxFrame := []     -- stored as ciphertext until a slot is rewritten (03 R67)
  nacked : List (Nat × Nat) := []  -- PN and MONO of its last NACK
  ackSent : Nat := 0
  ackLimit : Nat := 0
  ackChange : Nat := 0             -- MONO of the last change of n or CLIMIT
  ackFrames : Nat := 0
  beHi : Nat := 0                  -- replay window: highest PN verified
  beSeen : List Nat := []
  srcMask : Nat := 0
  beHeld : Bool := false           -- a Best-effort queue is above 3/4 of BE_LIMIT and not yet below 1/2
  cur : Nat := 0                   -- current encrypt slot
  curEpoch : Nat := 0              -- current encrypt epoch, 0 when none
  rxCur : Nat := 0                 -- decrypt slot of the newest epoch received
  rxEpoch : Nat := 0               -- newest decrypt epoch held
  rxEpPn : Nat := 0                -- lowest PN verified under the newest epoch received
  esw : Bool := false              -- the next frame is the first under its epoch
  rekeyHeld : Bool := false
  ratchetHeld : Bool := false
  readyWait : Nat := 0             -- receive epoch whose NEXT awaits its key; 0 when none
  nextSent : Nat := 0              -- transmit epoch named in an unanswered NEXT; 0 when none
  nextXid : DWord := 0
  unconfirmed : Bool := false      -- STATE record not yet confirmed
  gotState : Bool := false
  deriving DecidableEq, Repr

/-- A path: one strait port group towards its peer (04 R109). -/
structure Path where
  up : Bool := false
  heard : Nat := 0                 -- ports with a verified frame within PATH_DOWN_US
  rxOk : Nat := 0                  -- the peer's latest RX_OK
  keyedAt : Option Nat := none     -- MONO of the installation of the port key, until PATH_DOWN_US has passed
  deriving DecidableEq, Repr

/-- An ack/credit record waiting to be sent (04 R91). -/
structure AckRec where
  rtype : Nat
  chan : Nat
  a : Nat
  b : Nat
  deriving DecidableEq, Repr

/-- The peer of a working group (01 R29, 04 R88, R111 to R114). -/
structure Peer where
  sub : Sub := .unkeyed
  strandAt : Nat := 0
  portEpoch : Nat := 0             -- transmit port epoch; 0 before the first exchange
  portNew : Bool := false          -- the initiator holds a newer port key and has not switched (06 R162)
  portPn : Nat := 0
  rw : Tbl (Nat × List Nat) := []  -- replay windows by receive port-key slot: highest PN and PNs seen
  resync : Bool := false           -- a resynchronisation exchange runs
  doneSent : Bool := false
  doneGot : Bool := false
  acks : List AckRec := []
  onProtect : Bool := false
  force : Nat := 0                 -- 0 none, 1 to protect, 2 to working
  connecting : Option Bool := none -- a switch connecting to protect (true) or working
  switchNext : Bool := false       -- a cause that arrived while connecting
  backoff : Nat := 0               -- current back-off in s; 0 none yet
  backing : Bool := false          -- the back-off runs
  rekeyBy : List Nat := []         -- groups whose sensing holds the REKEY action (11 R328)
  rekeyHeld : Bool := false        -- a held REKEY action
  deriving DecidableEq, Repr

/-- A running exchange (06 R150 to R157). -/
structure Xch where
  xid : DWord
  g : Nat
  chan : Option Nat
  init : Bool
  phase : Nat                      -- 0 HELLO sent, 1 FINISH sent, 2 REPLY sent, 3 complete here and FINISH unanswered
  sends : Nat := 1
  priv : Nat := 0                  -- draw number of its ephemeral keys
  hello : List Byte := []
  reply : List Byte := []
  finish : List Byte := []
  anchor : List Byte := []         -- the group's anchor when it started (06 R149)
  deriving DecidableEq, Repr

/-- A PRK in the vault (06 R158). -/
structure Prk where
  xid : DWord
  g : Nat
  chan : Option Nat
  key : List Byte := []
  init : Bool := false
  done : Bool := false
  doneAt : Nat := 0
  chans : List Nat := []           -- channels its completion covered
  waiting : List Nat := []         -- NEXT records unanswered: 2 × channel, plus 1 for the peer's
  deriving DecidableEq, Repr

/-- A pending write in the pairing table (10 R306). -/
structure Pairing where
  id : Nat
  kiln : Nat
  tag : Nat
  desc0 : Word
  desc1 : Word
  desc2 : Word
  data : List Byte
  deriving DecidableEq, Repr

/-- A key-port write held under R22 or R70. -/
structure HeldWrite where
  enc : Bool
  chan : Nat
  epoch : Nat
  data : List Byte                 -- key, salt (and SSCI, PN for an SA)
  sa : Bool := false
  use : Bool := false
  ratchet : Bool := false
  xid : DWord := 0                 -- exchange it descends from; 0 for a ratchet
  at_ : Nat := 0
  deriving DecidableEq, Repr

/-- The vault and DRB (06). -/
structure Vault where
  duk : Tbl (List Byte) := []      -- DUK slots (eFuse)
  dukRetired : List Nat := []
  dukCur : Nat := 0
  idk : List Byte := []            -- identity private keys, empty when absent
  cert : List Byte := []
  anchors : Tbl (List Byte) := []  -- by group: EC key then PQ key
  imkPriv : List Byte := []
  imkPub : List Byte := []
  policy : Word := 0
  sense : Word := 0
  chains : Tbl (Nat × Nat × List Byte) := []  -- epoch served, DIR of its info string, chain key
  xchs : List Xch := []
  prks : List Prk := []
  pairs : List Pairing := []
  pairNext : Nat := 0
  heldWrites : List HeldWrite := []
  published : List (List Byte) := []   -- PUBLISH data released to HC1
  busy : List (Nat × Option Nat) := [] -- initiators waiting 100 ms after ABORT busy
  retry : List Nat := []               -- channels whose failed rekey waits
  mism : List (Nat × Nat × Nat) := []  -- disagreements by key: group, descriptor word 0 and epoch (06 R170)
  drbFails : List Nat := []        -- MONO of the health failures of the last hour
  drbSrc : Bool := false
  drbUp : Bool := false            -- start-up tests passed
  drbDead : Bool := false
  drbCast : Bool := false
  drbStall : List Nat := []
  drbReq : List Nat := [0, 0, 0]   -- requests since reseed
  draws : Nat := 0
  deriving DecidableEq, Repr

/-- A frame arriving at a home port, after classification (05 R119). -/
structure Arriving where
  bytes : List Byte
  fcsOk : Bool
  chan : Nat
  newGen : Bool := false
  resv : Nat := 0                  -- reservation held; 0 before the decision
  decided : Bool := false
  refused : Nat := 0               -- 0 not refused, 2 by state, 3 by admission
  onChip : Bool := true
  cutPn : Option Nat := none       -- it is being sent in cut-through under this PN
  cutEpoch : Nat := 0
  cutFrame : List Byte := []       -- the strait frame it becomes, without FCS
  cutUnits : Nat := 0
  cutEnded : Bool := false         -- its strait frame was already ended by a squelch
  deriving DecidableEq, Repr

/-- A timestamp FIFO entry (12 R347). -/
structure Stamp where
  seqId : Nat
  msgType : Nat
  domain : Nat
  tod : Nat
  deriving DecidableEq, Repr

/-- A home or strait port (12). -/
structure Port where
  step : Nat := 0
  anFail : Bool := false
  ltFail : Bool := false
  paused : Bool := false
  pfcPaused : Nat := 0
  tsf : List Stamp := []
  tsfOver : Bool := false
  tsfLatch : Option Stamp := none
  arr : Option Arriving := none
  clearQ : List (List Byte) := []  -- clear frames from the strait waiting at a home port
  rr : Nat := 0                    -- round-robin pointer of home egress
  leaving : Option (Nat × Nat) := none  -- channel and PN of the frame selected for egress
  xoffPause : Bool := false
  xoffPfc : Nat := 0
  reqs : List (Nat × Nat) := []    -- outstanding REQs: SEQ and T1
  t2s : List (Nat × Nat × Nat) := []    -- SEQ, T2 and T4 of ECHOs awaiting T3
  seq : Nat := 1
  echoPrev : Option (Nat × Nat) := none -- SEQ and T3 of this port's previous ECHO
  done : Nat := 0                  -- probes completed since the path came up
  probes : List (Nat × Nat × Nat × Nat) := []   -- T1 to T4 of the complete probes, newest first, at most 1,088
  doneNow : Nat := 0               -- probes completed, and lost, since the last batch
  lostNow : Nat := 0
  tsBad : Bool := false            -- its timestamps ran backward, or an rtt fell outside 0 to 1 s
  stopped : Bool := false          -- stopped by SNS_FT_TS_CHECK
  srcLost : Bool := false          -- OTN source lost
  tti : List Byte := []            -- the last SM TTI received, and how many multiframes in a row carried it
  ttiRun : Nat := 0
  deficits : Tbl Nat := []         -- strait: deficits of the channels with an eligible frame, in bytes (05 R140)
  turn : Nat := 0                  -- strait: the channel served last
  deriving DecidableEq, Repr

/-- Stream seal state of one channel, lane and direction (03 R62, R63). -/
structure Stream where
  block : Option Nat := none       -- number announced for the next block
  epoch : Nat := 0                 -- epoch announced for it
  opens : Bool := false            -- it opens a new epoch
  cur : Option Nat := none         -- number of the last block
  curEpoch : Nat := 0
  prevTag : List Byte := []        -- tag computed for the last block; empty when it was not decrypted
  prevVoid : Bool := true          -- transmit: the next field's tag is void
  deriving DecidableEq, Repr

/-- Sensing state of one group that no register holds (11). -/
structure Sense where
  wasArmed : Bool := false
  learnEnd : Nat := 0              -- MONO at which learning ends
  learned : Rat := 0               -- learned and tracked RTT baselines, 2^-16 ns
  tracked : Rat := 0
  hits : Tbl Nat := []             -- consecutive batches, or snapshots, in which a step test reached its threshold
  skewHist : List (List Int) := [] -- skews of the previous 16 batches, newest first, by lane
  eqBase : List (List Int) := []   -- baseline codes by lane of the group
  asym : Rat := 0                  -- asymmetry a, 2^-16 ns
  authHit : Bool := false          -- CPH_EV_STREAM_AUTH since the last batch
  rekeyAt : Option Nat := none     -- MONO of the last exchange started by sensing
  deriving DecidableEq, Repr

/-- Sensing state of one optics slot (11 R321, R322). -/
structure Slot where
  misses : Nat := 0
  samples : Tbl (List Int) := []   -- by lane: the previous 16 fast samples that raised no alarm, newest first
  lowNow : List Nat := []          -- lanes below LOW
  answered : Bool := false
  deriving DecidableEq, Repr

/-- A job taken by a dispatcher and not yet completed (10 R289, R290). -/
structure Job where
  kiln : Nat
  queue : Nat
  id : Word
  engine : Nat                     -- within the kiln
  ctx : Nat
  sealed_ : Bool
  pair : Nat
  grant : Word
  timeout : Nat
  deriving DecidableEq, Repr

/-- A DMA channel's walk (10 R299, R300). -/
structure Dma where
  list : Nat := 0
  idx : Nat := 0
  owner : Nat := 0                 -- 0 to 7 engine, 8 HC0, 9 HC1
  ctx : Nat := 0
  sealed_ : Bool := false
  used : Bool := false
  deriving DecidableEq, Repr

/-- A hash session (10 R301). -/
structure Hash where
  owner : Option (Nat × Nat) := none  -- engine within the kiln (8, 9: harbour pair) and context
  sealed_ : Bool := false
  input : List Byte := []
  xof : List Byte := []
  xofPos : Nat := 0
  pos : Nat := 0
  deriving DecidableEq, Repr

/-- A key-port block (10 R304). -/
structure Kp where
  data : List Byte := []           -- bytes written and not submitted
  back : List Byte := []           -- bytes of a key read and not yet taken
  deriving DecidableEq, Repr

/-- A random stream of a PAIR tag (10 R306). -/
structure Rnd where
  tag : Nat
  at_ : Nat
  base : Nat                       -- first free value of the stream
  pos : Tbl Nat := []              -- words read, by kiln
  deriving DecidableEq, Repr

/-- Kiln services (10). -/
structure Kilns where
  jobs : List Job := []
  dma : Tbl Dma := []              -- key 8k + n
  hash : Tbl Hash := []            -- key 4k + h
  kp : Tbl Kp := []                -- key 8k + e
  rnds : List Rnd := []
  patched : List Nat := []         -- kilns whose patch is loaded
  patchLock : List Nat := []
  parity : List Nat := []          -- kilns whose control store is poisoned (09 R282)
  recs : Tbl Nat := []             -- completion records not consumed, by 4k + q
  pllOff : List Nat := []          -- kilns whose PLL is stopped
  stepTo : Tbl Nat := []           -- frequency a step in progress goes to, by kiln
  waits : List Nat := []           -- kilns that wait for a pair to load their patch and images (13 R352)
  deriving DecidableEq, Repr

/-! Traim cores (07 to 09). -/

/-- A register that a result can target; `v2` is a register pair (09 R251). -/
inductive Dst where
  | s (r : Nat) | v (r : Nat) | v2 (r : Nat) | f (r : Nat) | acc (r : Nat)
  deriving DecidableEq, Repr

/-- The value of a result. -/
inductive Val where
  | w (x : Word) | v (x : Vec) | v2 (lo hi : Vec) | a (x : List Int)
  deriving DecidableEq, Repr

/-- A result in its shadow, or a long operation (07 R197, R199). `flags` arrive with it: ESTAT in the low three bits,
FPSTAT.FLAGS above. -/
structure Pend where
  dst : Option Dst                 -- none once a younger write has discarded the value
  val : Val
  age : Nat := 0                   -- bundles left
  flags : Nat := 0
  src : List (Nat × Vec) := []     -- vector registers that a microcoded operation reads, as they stood at its start
  deriving DecidableEq, Repr

/-- A serialising micro-routine (09 R277): an NTT layer, of which the register that names the coefficients and the layer field are
kept, or a save or restore of a half. -/
inductive Routine where
  | ntt (inverse : Bool) (sn k : Nat)
  | half (upper save : Bool)
  deriving DecidableEq, Repr

/-- A serialising micro-routine that runs: the steps it has done, the bytes it works through, and OV seen. A layer reads its
coefficients at each step; its bytes are listed only once they are free (09 R280). -/
structure Run where
  kind : Routine
  step : Nat := 0
  img : List Byte := []
  ov : Bool := false
  deriving DecidableEq, Repr

/-- A suspended micro-routine (09 R279): micro-PC, micro-temporaries and the result it works on, or the serialising routine with
its operands as they stood. `known` is false once the micro-save slot holds anything else than was saved. -/
structure Micro where
  pc : Nat
  temps : List DWord
  pend : Pend
  run : Option Run := none
  seen : List Byte := []
  known : Bool := true
  deriving DecidableEq, Repr

/-- One hardware loop level (08 R232). -/
structure LoopLv where
  active : Bool := false
  count : Word := 0
  start : Word := 0
  stop : Word := 0
  order : Nat := 0                 -- when it was started
  deriving DecidableEq, Repr

/-- The registers of a context (07 R187): a bank while resident, a save area while spilled. -/
structure Regs where
  s : List Word
  v : List Vec
  acc : List (List Int)            -- 4 × 8 lanes, 40-bit signed
  vq : Word := 0
  cy : Bool := false
  estat : Word := 0
  vprog : Word := 0
  loops : List LoopLv
  loopNext : Nat := 1
  deriving DecidableEq, Repr

/-- A context (07 R188, R219). -/
structure Ctx where
  st : Nat := 0                    -- 0 FREE, 1 SPILLED, 2 RESIDENT, 3 RUNNING, 4 FAULTED
  bank : Nat := 0
  det : Bool := false
  detNow : Bool := false           -- DET as it stood when the context last entered RUNNING (07 R205)
  sealed_ : Bool := false
  pin : Bool := false
  poisoned : Bool := false
  parked : Bool := false           -- a handler context after RETI: it runs at its next interrupt
  regs : Regs
  f : List Word := List.replicate 16 0   -- the FP file while the context owns it (07 R193)
  fpstat : Word := 0
  fpTrap : Nat := 0                -- enabled exceptions not yet taken (09 R274)
  heldTrap : Nat := 0              -- those that a level-1 interrupt came before: they wait for RETI (07 R213)
  pc : Word := 0
  codeBase : Word := 0
  codeLimit : Word := 0
  dataBase : List Word := [0, 0, 0, 0]
  dataLimit : List Word := [0, 0, 0, 0]
  pend : List Pend := []           -- oldest first
  longs : List Pend := []          -- at most two, oldest first
  save : Nat := 0                  -- address of its save area
  micro : Option Micro := none
  routine : Option Run := none     -- the serialising micro-routine that runs
  fault : Nat := 0                 -- FAULT_CODE, and PRECISE in bit 8
  faultPc : Word := 0
  faultAddr : Word := 0
  restart : Bool := false
  brkAt : Option Word := none      -- address of a BRK at which it was resumed, which completes as a NOP (08 R237)
  rpt : Option Nat := none         -- after an RPT: executions of the next bundle left (08 R235)
  rptPc : Word := 0
  deriving DecidableEq, Repr

/-- A system operation that acts when its bundle completes (08 R237, R248). -/
inductive SysOp where
  | dint | eint | swi (n : Nat) | sync | iflush | pbar (n : Nat) | dcwb (a : Word) | dcinv (a : Word) | reti | mret | end_
  | yield | lclr | fpbar | pflush | mcwr (bank r : Nat) (v : Word) | ecall | eret | wfi | csrr (rd n : Nat) | csrw (n : Nat) (v : Word) | brk
  deriving DecidableEq, Repr

/-- What an operation does when its bundle completes (08 R224, R225). -/
inductive Act where
  | set (d : Dst) (v : Val)                                -- read by the next bundle
  | late (d : Dst) (v : Val) (flags : Nat)                 -- read by the third bundle
  | long (d : Dst) (v : Val) (flags : Nat) (src : List (Nat × Vec))
  | flag (flags : Nat)
  | special (n : Nat) (v : Word)
  | jump (pc : Word)
  | load (d : Dst) (size : Nat) (signed : Bool) (a : Word)
  | store (a : Word) (bytes : List Byte)
  | link (a : Word)                                        -- CALL: the next bundle's address to the stack
  | retAt (a : Word)                                       -- RET: the PC from the stack
  | gather (vd : Nat) (base : Word) (idx : List Nat)
  | loop (lv : Nat) (count stop : Word)
  | lclr (lv : Nat)
  | rpt (n : Nat)
  | routine (r : Routine)
  | sys (op : SysOp)
  deriving DecidableEq, Repr

/-- The operations of the bundle read so far (08 R223). -/
structure Bundle where
  ops : Nat := 0
  words : Nat := 0
  sN : Nat := 0
  mN : Nat := 0
  vN : Nat := 0
  ctl : Nat := 0
  cond : Nat := 0                  -- conditional branches
  alone : Bool := false            -- holds RPT or BRK
  writes : List Nat := []          -- register numbers of `regS` and the like
  vmem : Bool := false
  store : Bool := false
  slow : Bool := false             -- holds a long or serialising operation
  fp : Bool := false
  bad : Bool := false              -- holds a reserved form
  fault : Option (Nat × Word) := none
  acts : List Act := []
  deriving DecidableEq, Repr

/-- A store-buffer entry (07 R201): address and bytes. -/
structure StBuf where
  addr : Nat
  bytes : List Byte
  deriving DecidableEq, Repr

/-- A D-cache line (07 R184): 32 bytes. -/
structure Line where
  addr : Nat
  bytes : List Byte
  dirty : Bool
  deriving DecidableEq, Repr

/-- The loop body that the repeat cache records or issues (09 R266): its start, the bundles seen in this iteration, and whether it
issues. -/
structure RepBody where
  start : Word
  seen : Nat := 0
  on : Bool := false
  deriving DecidableEq, Repr

/-- A spill that SAVE_EXHAUSTED stopped, tried again at MRET (07 R190): for the fill of a context, or for a job. -/
inductive Retry where
  | fill (ctx : Nat)
  | job
  deriving DecidableEq, Repr

/-- What stands in front of an engine's pipeline and beside it: the predictor (07 R208), the lines of the instruction cache (R184)
and the performance counters (R218). -/
structure Front where
  base : Tbl Nat := []             -- two-bit counters, by index
  tagged : Tbl (Nat × Nat) := []   -- tag and three-bit counter, by 512 × table + index
  hist : Nat := 0                  -- global history, the newest branch in bit 0
  icache : List Nat := []          -- line addresses
  draws : Nat := 0                 -- replacements drawn so far
  perf : List Nat := [0, 0, 0, 0]
  perfOpen : List Nat := []        -- counters that have counted an event which the model cannot count
  deriving DecidableEq, Repr

/-- An engine (07). -/
structure Engine where
  ctxs : Tbl Ctx := []
  run : Option Nat := none         -- running context
  fpOwner : Option Nat := none
  stbuf : List StBuf := []
  dcache : List Line := []
  lines : List Nat := []           -- interrupt lines asserted by the kiln and by SWI
  shadow : List Word := List.replicate 8 0   -- shadow s24 to s31 (07 R212)
  shadowIn : Bool := false         -- a level-1 handler runs on the shadow registers
  retPc : Word := 0
  level2 : Bool := false           -- a level-2 handler context runs
  level2From : Option Nat := none  -- the context it interrupted
  dint : Option Nat := none        -- bundles of DINT deferral left (07 R213)
  pbar : Nat := 0
  rep : Tbl (Nat × Vec) := []      -- operands read ahead by the repeat cache, by bundle address (09 R266)
  repBody : Option RepBody := none
  retry : Option Retry := none
  bankS : Tbl Word := []           -- s registers of banks that no context occupies, by 32 × bank + register (08 R238)
  mc : Bool := false               -- a machine-check handler runs on bank 7
  mcCtx : Ctx                      -- bank 7 and the handler's PC
  halted : Bool := false           -- halted by a double machine check
  fixed : Bool := false            -- fixed-count setting taken at the last leaving of halt (07 R207)
  step : Bool := false             -- debug step: one bundle may run while halted
  lru : List Nat := []             -- contexts that have run, least recently first
  bundle : Bundle := {}
  deriving DecidableEq, Repr

/-- A harbour pair (13 R351 to R354, 08 R246). -/
structure Harbour where
  regs : Regs
  pc : Word := 0
  csr : Tbl Word := []
  cycleLatch : Word := 0           -- CYCLE_HI as CYCLE_LO's read latched it
  bundle : Bundle := {}
  inService : Bool := true
  halted : Bool := false
  waiting : Bool := false          -- WFI
  step : Bool := false             -- debug step
  lockFaults : List Nat := []      -- MONO of its lockstep faults
  recoveries : Nat := 0
  deriving DecidableEq, Repr

/-- An engine image loaded, as its retained copy holds it (13 R361, 10 R307): the file and the masks it goes to. -/
structure Img where
  bytes : List Byte
  kilns : Nat
  engines : Nat
  deriving DecidableEq, Repr

/-- Boot, eFuse and the mailbox (13). -/
structure Boot where
  fuses : Nat := 0                 -- lifecycle fuses blown: bit 0 FIELD, bit 1 RETURNED
  intKeys : Tbl (List Byte) := []  -- integrator key hashes
  intRevoked : List Nat := []
  fwFloor : Nat := 0
  patchFloor : Nat := 0
  fw : List Byte := []             -- the firmware image that boots
  pairDigest : List (List Byte) := [[], []]  -- SHA-256 of each pair's decrypted firmware, in the Lighthouse
  fwDigest : List Byte := []       -- SHA-256 of the firmware image verified at boot
  patch : Option (List Byte) := none  -- retained copy of the patch image
  images : List Img := []          -- retained copy of the engine images, in load order
  inSvc : List Nat := []           -- mailbox channels with a request in service
  deriving DecidableEq, Repr

/-- The whole state. -/
structure State where
  dev : Dev
  regs : Tbl Word
  cnt : Tbl Nat                    -- 64-bit counters by BAR offset of the low word
  latch : Tbl Word                 -- latched words by BAR offset
  gen : Gen
  mem : List Host.Cell
  isl : Tbl Isl
  saf : Safety
  pci : Pci
  lane : Tbl Lane                  -- key 16 × direction + unit
  slots : Tbl KeySlot              -- key (direction × 16384) + 2 × channel + slot
  portSlots : Tbl KeySlot          -- key (direction × 16) + 2 × group + slot
  chans : Tbl Chan
  paths : Tbl Path
  peers : Tbl Peer
  vault : Vault
  ports : Tbl Port                 -- key 32 × side + port
  streams : Tbl Stream             -- key (direction × 16384) + 2 × channel + lane
  senses : Tbl Sense
  optics : Tbl Slot
  kiln : Kilns
  engines : Tbl Engine
  fronts : Tbl Front               -- by engine
  harbours : Tbl Harbour
  boot : Boot
  free : Nat                       -- free values drawn so far
  out : List Out
  pending : List Instr
  deriving DecidableEq, Repr

/-- Registers all zero, loops inactive (10 R290). -/
def Regs.zero : Regs :=
  { s := List.replicate 32 0, v := List.replicate 16 0, acc := List.replicate 4 (List.replicate 8 0), loops := List.replicate 4 {} }

/-- The vault policy after a cold reset (06 R179): TAMPER_ZEROIZE 1, PORT_REKEY_S 3,600. -/
def policyReset : Word := 0x0E100004

/-- The device right after the release of RESET_N: the Lighthouse is out of reset and HC0 starts the ROM
(15 R422, 13 R359). Every register stands at its reset value, which the register map gives. -/
def State.reset : State :=
  { dev := { h48 := true, dstate := .boot }, regs := [], cnt := [], latch := [], gen := {}, mem := [], isl := [],
    saf := {}, pci := {}, lane := [], slots := [], portSlots := [], chans := [], paths := [], peers := [],
    vault := { policy := policyReset, sense := 0x111 }, ports := [], streams := [], senses := [], optics := [],
    kiln := {}, engines := [], fronts := [], harbours := [], boot := {}, free := 0, out := [], pending := [] }

end Sys2Proof.Machine
end

