-- ==== Sys2Proof/Machine/RegMap.lean ====
section
/-! DEFINITION. The register map (14 R386, R392): for each page layout its rows of offset, stride, count, access
code, reset value and writable bits, from the register tables of the manual. Rows that share an offset formula
stand once. -/
namespace Sys2Proof.Machine

/-- Access codes (00 R8). RSV is the absence of a row. -/
inductive Acc where | ro | rw | rws | w1c | w1s | wo | rc
  deriving DecidableEq, Repr

/-- One row of a register table. -/
structure Row where
  off : Nat
  stride : Nat
  count : Nat
  acc : Acc
  reset : Word
  mask : Word
  deriving DecidableEq, Repr

/-- DEV (00 R3). -/
def rowsDev : List Row :=
  [
   ⟨0x100, 4, 1, .ro, 0x0, 0xFFFFFFFF⟩,  -- IDENT
   ⟨0x104, 4, 4, .ro, 0x0, 0xFFFFFFFF⟩]  -- SERIAL[i]

/-- CLS (02 R55). -/
def rowsCls : List Row :=
  [
   ⟨0x100, 4, 1, .rws, 0x0, 0xFFFFFFFF⟩,  -- HASH_SEED0
   ⟨0x104, 4, 1, .rws, 0x9E3779B9, 0xFFFFFFFF⟩,  -- HASH_SEED1
   ⟨0x108, 4, 1, .ro, 0x0, 0xFFFFFFFF⟩,  -- EM_VALID
   ⟨0x10C, 4, 1, .ro, 0x0, 0xFFFFFFFF⟩,  -- TCAM_VALID
   ⟨0x110, 4, 1, .ro, 0x0, 0xFFFFFFFF⟩,  -- CLEAR_PASS_TOTAL
   ⟨0x118, 4, 1, .ro, 0x0, 0xFFFFFFFF⟩,  -- CLEAR_DENIED_TOTAL
   ⟨0x120, 4, 1, .ro, 0x0, 0xFFFFFFFF⟩,  -- FIRE_CHECK
   ⟨0x124, 4, 1, .ro, 0x0, 0xFFFFFFFF⟩,  -- DUP_INDEX
   ⟨0x128, 4, 1, .wo, 0x0, 0x80001FFF⟩,  -- CNT_CLEAR
   ⟨0x12C, 4, 1, .rws, 0x88A8, 0xFFFF⟩,  -- TPID_S
   ⟨0x130, 4, 1, .rws, 0x8100, 0xFFFF⟩,  -- TPID_C
   ⟨0x140, 4, 8, .rws, 0x0, 0x3FFF⟩,  -- STREAM_MAP[g]
   ⟨0x180, 4, 32, .rws, 0x0, 0x7FFF⟩,  -- MISS[p]
   ⟨0x200, 4, 32, .rc, 0x0, 0xFFFFFFFF⟩,  -- MISS_CNT[p]
   ⟨0x280, 4, 8, .rws, 0x0, 0x3F⟩,  -- STRAIT_CLEAR[g]
   ⟨0x2A0, 4, 8, .rc, 0x0, 0xFFFFFFFF⟩,  -- CLR_IN_PASS[g]
   ⟨0x2C0, 4, 8, .rc, 0x0, 0xFFFFFFFF⟩,  -- CLR_IN_DROP[g]
   ⟨0x2E0, 4, 8, .rc, 0x0, 0xFFFFFFFF⟩]  -- SCI_MISS[g]

/-- CPH (03 R82). -/
def rowsCph : List Row :=
  [
   ⟨0x100, 4, 1, .ro, 0x0, 0xFFFFFFFF⟩,  -- ASSIGN
   ⟨0x104, 4, 1, .ro, 0x0, 0xFFFFFFFF⟩,  -- LG_TESTS
   ⟨0x108, 4, 1, .ro, 0x0, 0xFFFFFFFF⟩,  -- FRAMES_LO
   ⟨0x10C, 4, 1, .ro, 0x0, 0xFFFFFFFF⟩,  -- FRAMES_HI
   ⟨0x110, 4, 1, .rc, 0x0, 0xFFFFFFFF⟩,  -- SQUELCH_CNT
   ⟨0x114, 4, 1, .rc, 0x0, 0xFFFFFFFF⟩,  -- STOMP_CNT
   ⟨0x118, 4, 1, .rc, 0x0, 0xFFFFFFFF⟩,  -- ECHO_CNT
   ⟨0x11C, 4, 1, .rc, 0x0, 0xFFFFFFFF⟩,  -- KEY_CE_CNT
   ⟨0x120, 4, 1, .rc, 0x0, 0xFFFFFFFF⟩,  -- KEY_UE_CNT
   ⟨0x124, 4, 1, .rc, 0x0, 0xFFFFFFFF⟩,  -- KCV_FAIL_CNT
   ⟨0x128, 4, 1, .rc, 0x0, 0xFFFFFFFF⟩,  -- NO_KEY_CNT
   ⟨0x12C, 4, 1, .rc, 0x0, 0xFFFFFFFF⟩,  -- STREAM_AUTH_CNT
   ⟨0x130, 4, 1, .ro, 0x0, 0xFFFFFFFF⟩,  -- MM_INFO
   ⟨0x134, 4, 1, .ro, 0x0, 0xFFFFFFFF⟩,  -- MM_PN_LO
   ⟨0x138, 4, 1, .ro, 0x0, 0xFFFFFFFF⟩,  -- MM_PN_HI
   ⟨0x13C, 4, 1, .wo, 0x0, 0x1⟩,  -- MM_CLEAR
   ⟨0x140, 4, 1, .rc, 0x0, 0xFFFFFFFF⟩]  -- STREAM_SYNC_CNT

/-- ASX (04 R116). -/
def rowsAsx : List Row :=
  [
   ⟨0x100, 4, 1, .rws, 0x88B5, 0xFFFF⟩,  -- ETYPE
   ⟨0x104, 4, 1, .rws, 0x400032, 0xFF00FF⟩,  -- ACK_CTRL
   ⟨0x108, 4, 1, .rws, 0x64, 0xFFFF⟩,  -- KA_US
   ⟨0x10C, 4, 1, .rws, 0x3E8, 0xFFFF⟩,  -- PATH_DOWN_US
   ⟨0x110, 4, 1, .rws, 0x32, 0x7F⟩,  -- STRAND_MS
   ⟨0x114, 4, 1, .rws, 0x64, 0xFFFF⟩,  -- RTO_GUARD_US
   ⟨0x118, 4, 1, .rws, 0x32, 0xFFFF⟩,  -- NACK_GUARD_US
   ⟨0x11C, 4, 1, .rws, 0x640001, 0xFF00FF⟩,  -- REFRESH
   ⟨0x120, 4, 1, .ro, 0x0, 0xFFFFFFFF⟩,  -- FIRE_CHECK
   ⟨0x124, 4, 1, .wo, 0x0, 0xF⟩,  -- WP_CMD
   ⟨0x128, 4, 1, .wo, 0x0, 0x17⟩,  -- CMD
   ⟨0x140, 4, 4, .rws, 0x0, 0xFFFFFF⟩,  -- WP_PAIR[p]
   ⟨0x150, 4, 4, .ro, 0x0, 0xFFFFFFFF⟩,  -- WP_STATUS[p]
   ⟨0x200, 64, 8, .rws, 0x2, 0x3⟩,  -- GRP[g].GRP_CTRL
   ⟨0x204, 64, 8, .ro, 0x0, 0xFFFFFFFF⟩,  -- GRP[g].PEER_STATE
   ⟨0x208, 64, 8, .rws, 0x0, 0xFFFFFFFF⟩,  -- GRP[g].LOCAL_MAC_LO
   ⟨0x20C, 64, 8, .rws, 0x0, 0xFFFF⟩,  -- GRP[g].LOCAL_MAC_HI
   ⟨0x210, 64, 8, .rws, 0x0, 0xFFFFFFFF⟩,  -- GRP[g].PEER_MAC_LO
   ⟨0x214, 64, 8, .rws, 0x0, 0xFFFFFFFF⟩,  -- GRP[g].PEER_MAC_HI
   ⟨0x218, 64, 8, .ro, 0x0, 0xFFFFFFFF⟩,  -- GRP[g].RTT_NS
   ⟨0x21C, 64, 8, .rc, 0x0, 0xFFFFFFFF⟩,  -- GRP[g].HDR_ERR
   ⟨0x220, 64, 8, .rc, 0x0, 0xFFFFFFFF⟩,  -- GRP[g].PROTO_ERR
   ⟨0x224, 64, 8, .rc, 0x0, 0xFFFFFFFF⟩,  -- GRP[g].PORT_AUTH_FAIL
   ⟨0x228, 64, 8, .rc, 0x0, 0xFFFFFFFF⟩,  -- GRP[g].VOID_CNT
   ⟨0x22C, 64, 8, .rc, 0x0, 0xFFFFFFFF⟩,  -- GRP[g].STRAND_CNT
   ⟨0x230, 64, 8, .rc, 0x0, 0xFFFFFFFF⟩,  -- GRP[g].LANDFALL_CNT
   ⟨0x234, 64, 8, .rc, 0x0, 0xFFFFFFFF⟩,  -- GRP[g].SWITCH_CNT
   ⟨0x238, 64, 8, .rc, 0x0, 0xFFFFFFFF⟩,  -- GRP[g].LF_FLUSHED
   ⟨0x23C, 64, 8, .rc, 0x0, 0xFFFFFFFF⟩]  -- GRP[g].GAP_CNT

/-- QMG (05). -/
def rowsQmg : List Row :=
  [
   ⟨0x100, 4, 1, .rws, 0x810000, 0xFFFFFFFF⟩,  -- HB_SPLIT
   ⟨0x104, 4, 1, .rws, 0x200, 0xFFFF⟩,  -- ONCHIP_Q
   ⟨0x108, 4, 1, .rws, 0xC0E0, 0xFFFF⟩,  -- POOL_WM
   ⟨0x10C, 4, 1, .rws, 0x400, 0xFFFF⟩,  -- BE_LIMIT
   ⟨0x110, 4, 1, .rws, 0x3E8, 0xFFFF⟩,  -- SRC_AGE_US
   ⟨0x114, 4, 1, .rws, 0xFFFF, 0xFFFF⟩,  -- PAUSE_CTRL
   ⟨0x118, 4, 1, .rws, 0x90, 0xFF⟩,  -- PART_RET
   ⟨0x11C, 4, 1, .rws, 0x18, 0xFF⟩,  -- PART_REORDER
   ⟨0x120, 4, 1, .rws, 0x8, 0xFF⟩,  -- PART_HOLD
   ⟨0x124, 4, 1, .rws, 0x4, 0xFF⟩,  -- PART_ENGINE
   ⟨0x128, 4, 1, .ro, 0xC00, 0xFFFFFFFF⟩,  -- PART_META
   ⟨0x12C, 4, 1, .ro, 0x0, 0xFFFFFFFF⟩,  -- FIRE_CHECK
   ⟨0x130, 4, 1, .ro, 0x0, 0xFFFFFFFF⟩,  -- POOL_OCC
   ⟨0x134, 4, 1, .ro, 0x40000, 0xFFFFFFFF⟩,  -- HB_FREE
   ⟨0x138, 4, 1, .ro, 0x0, 0xFFFFFFFF⟩,  -- HOLD_OCC
   ⟨0x13C, 4, 1, .ro, 0x0, 0xFFFFFFFF⟩,  -- STATUS2
   ⟨0x140, 4, 1, .rc, 0x0, 0xFFFFFFFF⟩,  -- REFUSED_POOL
   ⟨0x144, 4, 1, .rc, 0x0, 0xFFFFFFFF⟩,  -- EMBER_CUT
   ⟨0x148, 4, 1, .rc, 0x0, 0xFFFFFFFF⟩,  -- HB_UE_LOSS
   ⟨0x14C, 4, 1, .rc, 0x0, 0xFFFFFFFF⟩,  -- HB_CE_CNT
   ⟨0x150, 4, 1, .rc, 0x0, 0xFFFFFFFF⟩,  -- RX_BE_DROP
   ⟨0x180, 4, 32, .ro, 0x0, 0xFFFFFFFF⟩,  -- FC_STATUS[p]
   ⟨0x200, 4, 32, .rws, 0x3, 0x3⟩,  -- FC_EN[p]
   ⟨0x280, 4, 32, .rc, 0x0, 0xFFFFFFFF⟩]  -- XOFF_CNT[p]

/-- HBM (05). -/
def rowsHbm : List Row :=
  [
   ⟨0x100, 4, 1, .ro, 0x0, 0xFFFFFFFF⟩,  -- PC_RETIRED
   ⟨0x104, 4, 1, .rw, 0x4, 0xFF⟩,  -- RETIRE_UE
   ⟨0x108, 4, 1, .wo, 0x0, 0x11F⟩,  -- RETIRE_CMD
   ⟨0x10C, 4, 1, .rc, 0x0, 0xFFFFFFFF⟩,  -- CE_CNT
   ⟨0x110, 4, 1, .rc, 0x0, 0xFFFFFFFF⟩,  -- UE_CNT
   ⟨0x114, 4, 1, .rc, 0x0, 0xFFFFFFFF⟩,  -- PARITY_REBUILD
   ⟨0x118, 4, 1, .rw, 0x1, 0x1⟩,  -- SCRUB_CTRL
   ⟨0x11C, 4, 1, .ro, 0x0, 0xFFFFFFFF⟩]  -- SCRUB_PASS

/-- VLT (06 R182). -/
def rowsVlt : List Row :=
  [
   ⟨0x100, 4, 1, .ro, 0x0, 0xFFFFFFFF⟩,  -- STATUS
   ⟨0x104, 4, 1, .ro, 0xE100004, 0xFFFFFFFF⟩,  -- POLICY_STATUS
   ⟨0x108, 4, 1, .ro, 0x0, 0xFFFFFFFF⟩,  -- IMK_ID_LO
   ⟨0x10C, 4, 1, .ro, 0x0, 0xFFFFFFFF⟩,  -- IMK_ID_HI
   ⟨0x110, 4, 1, .rc, 0x0, 0xFFFFFFFF⟩,  -- XCH_DONE
   ⟨0x114, 4, 1, .rc, 0x0, 0xFFFFFFFF⟩,  -- XCH_FAIL
   ⟨0x118, 4, 1, .rc, 0x0, 0xFFFFFFFF⟩,  -- DERIVE_MISMATCH
   ⟨0x11C, 4, 1, .rc, 0x0, 0xFFFFFFFF⟩,  -- IMPORT_REFUSED
   ⟨0x120, 4, 1, .rc, 0x0, 0xFFFFFFFF⟩,  -- RATCHET_CNT
   ⟨0x124, 4, 1, .ro, 0x0, 0xFFFFFFFF⟩,  -- IN_FLIGHT
   ⟨0x128, 4, 1, .ro, 0x0, 0xFFFFFFFF⟩,  -- LAST_FAIL
   ⟨0x140, 4, 8, .ro, 0x0, 0xFFFFFFFF⟩]  -- GRP_KEY[g]

/-- DRB (06 R183). -/
def rowsDrb : List Row :=
  [
   ⟨0x100, 4, 1, .ro, 0x0, 0xFFFFFFFF⟩,  -- STATUS
   ⟨0x104, 4, 1, .rc, 0x0, 0xFFFFFFFF⟩,  -- HEALTH_FAILS
   ⟨0x108, 4, 1, .ro, 0x0, 0xFFFFFFFF⟩,  -- RESEED_CNT
   ⟨0x10C, 4, 1, .ro, 0x0, 0xFFFFFFFF⟩]  -- FAIL_WIN

/-- ENG (07 R218). -/
def rowsEng : List Row :=
  [
   ⟨0x100, 4, 1, .ro, 0x0, 0xFFFFFFFF⟩,  -- STATUS
   ⟨0x104, 4, 1, .rw, 0x1, 0x3⟩,  -- CTRL
   ⟨0x108, 4, 1, .ro, 0x0, 0xFFFFFFFF⟩,  -- BANK_MAP0
   ⟨0x10C, 4, 1, .ro, 0x0, 0xFFFFFFFF⟩,  -- BANK_MAP1
   ⟨0x110, 4, 1, .rw, 0x0, 0xFFFFFFFF⟩,  -- SAVE_FREE
   ⟨0x114, 4, 1, .rc, 0x0, 0xFFFFFFFF⟩,  -- SPILL_CNT
   ⟨0x118, 4, 1, .rc, 0x0, 0xFFFFFFFF⟩,  -- FILL_CNT
   ⟨0x11C, 4, 1, .rw, 0x0, 0xFFFFFFFF⟩,  -- MC_VEC
   ⟨0x120, 4, 1, .ro, 0x0, 0xFFFFFFFF⟩,  -- MC_CAUSE
   ⟨0x124, 4, 1, .ro, 0x0, 0xFFFFFFFF⟩,  -- MC_ADDR
   ⟨0x128, 4, 1, .ro, 0x0, 0xFFFFFFFF⟩,  -- MC_PC
   ⟨0x12C, 4, 1, .ro, 0x0, 0xFFFFFFFF⟩,  -- FPOWNER
   ⟨0x130, 4, 1, .ro, 0x0, 0xFFFFFFFF⟩,  -- INT_PEND
   ⟨0x134, 4, 1, .rw, 0x0, 0xFFFF⟩,  -- INT_EN
   ⟨0x138, 4, 1, .rw, 0x0, 0xFFFF⟩,  -- INT_LEVEL
   ⟨0x13C, 4, 1, .rw, 0x0, 0xFFFFFFFF⟩,  -- PERF_SEL
   ⟨0x140, 4, 16, .rw, 0x0, 0x3F⟩,  -- INT_CTX[i]
   ⟨0x180, 4, 16, .rw, 0x0, 0xFFFFFFFF⟩,  -- INT_VEC[i]
   ⟨0x1C0, 8, 4, .ro, 0x0, 0xFFFFFFFF⟩,  -- PERF_CNT[n]
   ⟨0x1E0, 4, 1, .ro, 0x0, 0xFFFFFFFF⟩]  -- CYCLES

/-- KLN (10 R286). -/
def rowsKln : List Row :=
  [
   ⟨0x100, 4, 1, .ro, 0x0, 0xFFFFFFFF⟩,  -- KSTATUS
   ⟨0x104, 4, 1, .rw, 0x0, 0x3⟩,  -- KCTRL
   ⟨0x108, 4, 1, .rw, 0x1000, 0xFFFFF⟩,  -- SLEEP_IDLE
   ⟨0x10C, 4, 1, .ro, 0x0, 0xFFFFFFFF⟩,  -- TIMER
   ⟨0x110, 4, 1, .rw, 0x0, 0xFFFFFFFF⟩,  -- TIMER_CMP
   ⟨0x114, 4, 1, .w1s, 0x0, 0xFF⟩,  -- ENG_DOORBELL
   ⟨0x118, 4, 1, .wo, 0x0, 0x33F07⟩,  -- CTX_CMD
   ⟨0x11C, 4, 1, .rc, 0x0, 0xFFFFFFFF⟩,  -- JOBS_DONE
   ⟨0x120, 4, 1, .rc, 0x0, 0xFFFFFFFF⟩,  -- JOBS_FAILED
   ⟨0x124, 4, 1, .rc, 0x0, 0xFFFFFFFF⟩,  -- IGNORED_WR
   ⟨0x128, 4, 1, .rc, 0x0, 0xFFFFFFFF⟩,  -- SHMEM_CE
   ⟨0x700, 4, 1, .ro, 0x0, 0xFFFFFFFF⟩]  -- RND_DATA

/-- SNS (11). -/
def rowsSns : List Row :=
  [
   ⟨0x100, 4, 1, .rws, 0x10032, 0x1FFFF⟩,  -- PROBE_CFG
   ⟨0x104, 4, 1, .rws, 0x14000A, 0xFFFFFFFF⟩,  -- STEP_TH
   ⟨0x108, 4, 1, .rws, 0xFA240008, 0xFFFF00FF⟩,  -- PWR_TH
   ⟨0x10C, 4, 1, .rws, 0xC803E8, 0xFFFFFFFF⟩,  -- DRIFT_TH
   ⟨0x110, 4, 1, .rws, 0x2580A, 0xFFFFFF⟩,  -- LEARN
   ⟨0x114, 4, 1, .rws, 0x8, 0xFFFF⟩,  -- EQ_TH
   ⟨0x118, 4, 1, .rws, 0x10A14, 0x1FFFF⟩,  -- OPT_POLL
   ⟨0x11C, 4, 1, .rws, 0x64000A, 0xFFFFFFFF⟩,  -- HOLDOFF
   ⟨0x120, 4, 1, .ro, 0x111, 0xFFFFFFFF⟩,  -- ACTION
   ⟨0x124, 4, 1, .ro, 0x0, 0xFFFFFFFF⟩,  -- LAST_ALARM
   ⟨0x128, 4, 1, .ro, 0x0, 0xFFFFFFFF⟩,  -- LAST_MAG
   ⟨0x12C, 4, 1, .rc, 0x0, 0xFFFFFFFF⟩,  -- BATCH_MISS
   ⟨0x200, 64, 8, .rws, 0x4, 0x7⟩,  -- GRP[g].GCFG
   ⟨0x204, 64, 8, .rws, 0x0, 0xFFFFFFFF⟩,  -- GRP[g].ASYM_PS
   ⟨0x208, 64, 8, .ro, 0x0, 0xFFFFFFFF⟩,  -- GRP[g].STATE
   ⟨0x20C, 64, 8, .ro, 0x0, 0xFFFFFFFF⟩,  -- GRP[g].RTT_LO
   ⟨0x210, 64, 8, .ro, 0x0, 0xFFFFFFFF⟩,  -- GRP[g].RTT_HI
   ⟨0x214, 64, 8, .ro, 0x0, 0xFFFFFFFF⟩,  -- GRP[g].FWD_LO
   ⟨0x218, 64, 8, .ro, 0x0, 0xFFFFFFFF⟩,  -- GRP[g].FWD_HI
   ⟨0x21C, 64, 8, .ro, 0x0, 0xFFFFFFFF⟩,  -- GRP[g].REV_LO
   ⟨0x220, 64, 8, .ro, 0x0, 0xFFFFFFFF⟩,  -- GRP[g].REV_HI
   ⟨0x224, 64, 8, .ro, 0x0, 0xFFFFFFFF⟩,  -- GRP[g].RHO
   ⟨0x228, 64, 8, .w1c, 0x0, 0xFFF⟩,  -- GRP[g].ALARM_LATCH
   ⟨0x22C, 64, 8, .rc, 0x0, 0xFFFFFFFF⟩,  -- GRP[g].PROBES_LOST
   ⟨0x230, 64, 8, .rc, 0x0, 0xFFFFFFFF⟩,  -- GRP[g].PROBE_BAD
   ⟨0x234, 64, 8, .rc, 0x0, 0xFFFFFFFF⟩,  -- GRP[g].ALARM_CNT
   ⟨0x238, 64, 8, .ro, 0x0, 0xFFFFFFFF⟩,  -- GRP[g].BASE_RTT_LO
   ⟨0x23C, 64, 8, .ro, 0x0, 0xFFFFFFFF⟩,  -- GRP[g].BASE_RTT_HI
   ⟨0x400, 4, 32, .rws, 0x0, 0xFF1F⟩]  -- OPT_SLOT[s]

/-- TIM (11). -/
def rowsTim : List Row :=
  [
   ⟨0x100, 4, 1, .ro, 0x0, 0xFFFFFFFF⟩,  -- MONO_LO
   ⟨0x104, 4, 1, .ro, 0x0, 0xFFFFFFFF⟩,  -- MONO_HI
   ⟨0x108, 4, 1, .ro, 0x0, 0xFFFFFFFF⟩,  -- TOD_NS
   ⟨0x10C, 4, 1, .ro, 0x0, 0xFFFFFFFF⟩,  -- TOD_SEC_LO
   ⟨0x110, 4, 1, .ro, 0x0, 0xFFFFFFFF⟩,  -- TOD_SEC_HI
   ⟨0x114, 4, 1, .wo, 0x0, 0xFFFFFFFF⟩,  -- TOD_STEP_NS
   ⟨0x118, 4, 1, .rw, 0x0, 0xFFFFFFFF⟩,  -- TOD_LOAD_SEC_LO
   ⟨0x11C, 4, 1, .rw, 0x0, 0xFFFF⟩,  -- TOD_LOAD_SEC_HI
   ⟨0x120, 4, 1, .rw, 0x0, 0xBFFFFFFF⟩,  -- TOD_LOAD_NS
   ⟨0x124, 4, 1, .rw, 0x0, 0xFFFFFFFF⟩,  -- RATE
   ⟨0x128, 4, 1, .rws, 0x6400, 0xFFFFFF03⟩,  -- PPS_CTRL
   ⟨0x12C, 4, 1, .ro, 0x0, 0xFFFFFFFF⟩,  -- PPS_IN_NS
   ⟨0x130, 4, 1, .ro, 0x0, 0xFFFFFFFF⟩,  -- PPS_IN_SEC
   ⟨0x134, 4, 1, .rws, 0x0, 0x1⟩]  -- TOD_OWNER

/-- HPT and SPT (12). -/
def rowsPort : List Row :=
  [
   ⟨0x100, 4, 1, .rws, 0x0, 0xFF7F⟩,  -- GCFG
   ⟨0x104, 4, 1, .rws, 0xA, 0x3FF⟩,  -- UP_HOLD
   ⟨0x108, 4, 1, .ro, 0x0, 0xFFFFFFFF⟩,  -- FIRE_CHECK
   ⟨0x10C, 4, 1, .wo, 0x0, 0xF⟩,  -- CNT_CLEAR
   ⟨0x110, 4, 4, .rws, 0x1, 0x1F⟩,  -- PCFG[n]
   ⟨0x120, 4, 4, .ro, 0x0, 0xFFFFFFFF⟩,  -- LSTATE[n]
   ⟨0x140, 16, 4, .ro, 0x0, 0xFFFFFFFF⟩,  -- TSF[n].INFO
   ⟨0x144, 16, 4, .ro, 0x0, 0xFFFFFFFF⟩,  -- TSF[n].NS
   ⟨0x148, 16, 4, .ro, 0x0, 0xFFFFFFFF⟩,  -- TSF[n].SEC_LO
   ⟨0x14C, 16, 4, .ro, 0x0, 0xFFFFFFFF⟩,  -- TSF[n].SEC_HI
   ⟨0x180, 4, 1, .ro, 0x0, 0xFFFFFFFF⟩,  -- OTN_STATUS
   ⟨0x200, 4, 16, .rws, 0x0, 0xFFFFFFFF⟩,  -- TTI_TX
   ⟨0x240, 4, 16, .ro, 0x0, 0xFFFFFFFF⟩]  -- TTI_RX

/-- CFG (13 R377). -/
def rowsCfg : List Row :=
  [
   ⟨0x100, 4, 1, .wo, 0x0, 0x1⟩,  -- GREEN_OPEN
   ⟨0x104, 4, 1, .wo, 0x0, 0x1⟩,  -- FIRE
   ⟨0x108, 4, 1, .wo, 0x0, 0x1⟩,  -- REFIRE
   ⟨0x10C, 4, 1, .wo, 0x0, 0x1⟩,  -- GREEN_ABORT
   ⟨0x110, 4, 1, .ro, 0x0, 0xFFFFFFFF⟩,  -- CSTATUS
   ⟨0x114, 4, 1, .ro, 0x0, 0xFFFFFFFF⟩,  -- LIVE_GEN
   ⟨0x118, 4, 1, .ro, 0x0, 0xFFFFFFFF⟩,  -- PREV_GEN
   ⟨0x11C, 4, 1, .ro, 0x0, 0xFFFFFFFF⟩,  -- FIRE_RESULT
   ⟨0x120, 4, 1, .rc, 0x0, 0xFFFFFFFF⟩,  -- WR_CLOSED
   ⟨0x124, 4, 1, .ro, 0x0, 0xFFFFFFFF⟩,  -- MISMATCH
   ⟨0x128, 4, 1, .ro, 0x0, 0xFFFFFFFF⟩,  -- MISMATCH_WHERE
   ⟨0x12C, 4, 1, .rc, 0x0, 0xFFFFFFFF⟩,  -- FIRE_CNT
   ⟨0x130, 4, 1, .ro, 0x0, 0xFFFFFFFF⟩]  -- SWITCH_NS

/-- BOOT (13 R378). -/
def rowsBoot : List Row :=
  [
   ⟨0x100, 4, 1, .ro, 0x1, 0xFFFFFFFF⟩,  -- BSTATUS
   ⟨0x104, 4, 1, .ro, 0x0, 0xFFFFFFFF⟩,  -- BRESULT
   ⟨0x108, 4, 1, .ro, 0x0, 0xFFFFFFFF⟩,  -- FW_VER
   ⟨0x10C, 4, 1, .ro, 0x0, 0xFFFFFFFF⟩,  -- FLOORS
   ⟨0x110, 4, 1, .ro, 0x0, 0xFFFFFFFF⟩,  -- PATCH_VER
   ⟨0x114, 4, 1, .rw, 0x1, 0x1⟩,  -- FIXED_CNT
   ⟨0x118, 4, 1, .ro, 0x0, 0xFFFFFFFF⟩,  -- BOOT_MS
   ⟨0x11C, 4, 1, .ro, 0x0, 0xFFFFFFFF⟩]  -- DEBUG

/-- EVT page 0 (14 R396). -/
def rowsEvt0 : List Row :=
  [
   ⟨0x100, 4, 20, .ro, 0x0, 0xFFFFFFFF⟩,  -- PEND_SUM[w]
   ⟨0x400, 4, 640, .ro, 0x0, 0xFFFFFFFF⟩]  -- FW_ROUTE[n]

/-- EVT page 1 (14 R396). -/
def rowsEvt1 : List Row :=
  [
   ⟨0x100, 4, 640, .rw, 0x0, 0xFFFF⟩]  -- HOST_ROUTE[n]

/-- PCI ring (14 R399). -/
def rowsRing : List Row :=
  [
   ⟨0x100, 4, 1, .rw, 0x0, 0xFFFFF000⟩,  -- BASE_LO
   ⟨0x104, 4, 1, .rw, 0x0, 0xFFFFFFFF⟩,  -- BASE_HI
   ⟨0x108, 4, 1, .rw, 0x0, 0x1FF013F⟩,  -- RCTRL
   ⟨0x10C, 4, 1, .rw, 0x0, 0xFFFF⟩,  -- HEAD
   ⟨0x110, 4, 1, .rw, 0x0, 0xFFFF⟩,  -- TAIL
   ⟨0x114, 4, 1, .ro, 0x0, 0xFFFFFFFF⟩,  -- RSTATUS
   ⟨0x118, 4, 1, .rc, 0x0, 0xFFFFFFFF⟩,  -- DROPPED
   ⟨0x11C, 4, 1, .rc, 0x0, 0xFFFFFFFF⟩]  -- DONE_CNT

/-- PCI ring group (14 R402). -/
def rowsRgrp : List Row :=
  [
   ⟨0x100, 4, 1, .ro, 0x0, 0xFFFFFFFF⟩,  -- GSTATUS
   ⟨0x104, 4, 1, .ro, 0x0, 0xFFFFFFFF⟩,  -- GBYTES_LO
   ⟨0x108, 4, 1, .ro, 0x0, 0xFFFFFFFF⟩]  -- GBYTES_HI

/-- PCI (14 R403). -/
def rowsPci : List Row :=
  [
   ⟨0x100, 4, 1, .rw, 0x1, 0x1⟩,  -- PCTRL
   ⟨0x104, 4, 1, .ro, 0x0, 0xFFFFFFFF⟩,  -- LINK
   ⟨0x108, 4, 1, .rc, 0x0, 0xFFFFFFFF⟩,  -- ACCESS_ERR
   ⟨0x10C, 4, 1, .ro, 0x0, 0xFFFFFFFF⟩,  -- ACCESS_ERR_OFF
   ⟨0x110, 4, 1, .rc, 0x0, 0xFFFFFFFF⟩,  -- FW_WR
   ⟨0x114, 4, 1, .rc, 0x0, 0xFFFFFFFF⟩,  -- LOCKED_WR
   ⟨0x118, 4, 1, .rc, 0x0, 0xFFFFFFFF⟩,  -- OFF_WR
   ⟨0x11C, 4, 1, .rc, 0x0, 0xFFFFFFFF⟩,  -- AER_CE
   ⟨0x120, 4, 1, .rc, 0x0, 0xFFFFFFFF⟩,  -- AER_UE
   ⟨0x140, 4, 8, .ro, 0x0, 0xFFFFFFFF⟩]  -- VEC_CAUSE[w]

/-- LHS (15). -/
def rowsLhs : List Row :=
  [
   ⟨0x100, 4, 1, .ro, 0x2, 0xFFFFFFFF⟩,  -- LSTATUS
   ⟨0x104, 4, 1, .ro, 0x0, 0xFFFFFFFF⟩,  -- TEMP
   ⟨0x108, 4, 1, .rc, 0x0, 0xFFFFFFFF⟩,  -- TEMP_MAX
   ⟨0x10C, 4, 1, .ro, 0x0, 0xFFFFFFFF⟩,  -- VMON
   ⟨0x110, 4, 1, .rc, 0x0, 0xFFFFFFFF⟩,  -- RET_CE
   ⟨0x114, 4, 1, .ro, 0x0, 0xFFFFFFFF⟩]  -- LH_TIME_S

/-- PWR (15). -/
def rowsPwr : List Row :=
  [
   ⟨0x100, 4, 1, .wo, 0x0, 0x301FF⟩,  -- ISL_CMD
   ⟨0x104, 4, 1, .rw, 0x64, 0x3FFF⟩,  -- HOLD_LIMIT
   ⟨0x108, 4, 1, .ro, 0x0, 0xFFFFFFFF⟩,  -- CMD_RESULT
   ⟨0x10C, 4, 1, .rw, 0x0, 0x1⟩,  -- DEEP_IDLE
   ⟨0x110, 4, 1, .ro, 0x0, 0xFFFFFFFF⟩,  -- PSTATUS
   ⟨0x114, 4, 1, .rc, 0x0, 0xFFFFFFFF⟩,  -- HOLD_CNT
   ⟨0x118, 4, 1, .rc, 0x0, 0xFFFFFFFF⟩,  -- ABORT_CNT
   ⟨0x11C, 4, 1, .rc, 0x0, 0xFFFFFFFF⟩,  -- REFUSED_CNT
   ⟨0x200, 4, 17, .ro, 0x0, 0xFFFFFFFF⟩]  -- ISL_STATE[w]

/-- CLK (15). -/
def rowsClk : List Row :=
  [
   ⟨0x100, 4, 1, .ro, 0x0, 0xFFFFFFFF⟩,  -- CSTATUS
   ⟨0x104, 4, 1, .ro, 0x0, 0xFFFFFFFF⟩,  -- KPLL_LOCK
   ⟨0x108, 4, 1, .ro, 0x0, 0xFFFFFFFF⟩,  -- MON_FAIL
   ⟨0x140, 4, 24, .rw, 0x3, 0x3⟩,  -- ECLK_SEL[k]
   ⟨0x1A0, 4, 24, .ro, 0x3, 0xFFFFFFFF⟩]  -- ECLK_NOW[k]

/-- RST (15). -/
def rowsRst : List Row :=
  [
   ⟨0x100, 4, 1, .wo, 0x0, 0xFFFFFFFF⟩,  -- EMBER
   ⟨0x104, 4, 1, .wo, 0x0, 0xFF00FF0F⟩,  -- UNIT_CMD
   ⟨0x108, 4, 1, .ro, 0x0, 0xFFFFFFFF⟩,  -- UNIT_RESULT
   ⟨0x10C, 4, 1, .ro, 0x1, 0xFFFFFFFF⟩,  -- LAST_RESET
   ⟨0x110, 4, 1, .ro, 0x0, 0xFFFFFFFF⟩,  -- EMBER_CNT
   ⟨0x114, 4, 1, .ro, 0x0, 0xFFFFFFFF⟩,  -- EMBER_MS
   ⟨0x118, 4, 1, .rc, 0x0, 0xFFFFFFFF⟩,  -- UNIT_CNT
   ⟨0x11C, 4, 1, .rc, 0x0, 0xFFFFFFFF⟩]  -- UNIT_REFUSED

/-- SAF page 0 (16). -/
def rowsSaf0 : List Row :=
  [
   ⟨0x100, 4, 1, .ro, 0x0, 0xFFFFFFFF⟩,  -- SSTATUS
   ⟨0x104, 4, 1, .wo, 0x0, 0xFFFFFFFF⟩,  -- SEAL_CMD
   ⟨0x108, 4, 1, .ro, 0x0, 0xFFFFFFFF⟩,  -- SEAL_CUR
   ⟨0x10C, 4, 1, .ro, 0x0, 0xFFFFFFFF⟩,  -- SEAL_KINDS
   ⟨0x110, 4, 1, .ro, 0x0, 0xFFFFFFFF⟩,  -- SEAL_FIRST
   ⟨0x114, 4, 1, .ro, 0x0, 0xFFFFFFFF⟩,  -- SEAL_CNT
   ⟨0x118, 4, 1, .wo, 0x0, 0xFFFFFFFF⟩,  -- PROOF_ARM
   ⟨0x11C, 4, 1, .ro, 0x0, 0xFFFFFFFF⟩,  -- SELFTEST_CNT
   ⟨0x120, 4, 1, .ro, 0x0, 0xFFFFFFFF⟩,  -- LG_FAIL
   ⟨0x124, 4, 1, .rc, 0x0, 0xFFFFFFFF⟩,  -- UNSEAL_REFUSED
   ⟨0x128, 4, 1, .rc, 0x0, 0xFFFFFFFF⟩,  -- INJ_REFUSED
   ⟨0x12C, 4, 1, .rc, 0x0, 0xFFFFFFFF⟩,  -- SEALED_RX_DROP
   ⟨0x130, 4, 1, .ro, 0x1B8, 0xFFFFFFFF⟩]  -- TEMP_SEAL

/-- SAF page 1 (16). -/
def rowsSaf1 : List Row :=
  [
   ⟨0x100, 4, 20, .ro, 0x0, 0xFFFFFFFF⟩]  -- FAULT_SUM[w]

/-- SAF page 2 (16). -/
def rowsSaf2 : List Row :=
  [
   ⟨0x100, 16, 16, .ro, 0x0, 0xFFFFFFFF⟩,  -- SEAL_HIST[i].REASON
   ⟨0x104, 16, 16, .ro, 0x0, 0xFFFFFFFF⟩,  -- SEAL_HIST[i].MONO_LO
   ⟨0x108, 16, 16, .ro, 0x0, 0xFFFFFFFF⟩,  -- SEAL_HIST[i].MONO_HI
   ⟨0x10C, 16, 16, .ro, 0x0, 0xFFFFFFFF⟩,  -- SEAL_HIST[i].FLAGS
   ⟨0x200, 4, 1, .ro, 0x0, 0xFFFFFFFF⟩]  -- HIST_IDX

/-- SAF page 3 (16). -/
def rowsSaf3 : List Row :=
  [
   ⟨0x100, 4, 40, .ro, 0x0, 0xFFFFFFFF⟩]  -- FT_CLASS[w]

/-- HRB (13 R379): REQ_TAIL, REQ_HEAD, MB_EPOCH, CH_STATUS of channels 0 and 1. -/
def rowsHrb : List Row :=
  [⟨0x100, 0x20, 2, .rw, 0, 0x3F⟩, ⟨0x104, 0x20, 2, .ro, 0, 0xFFFFFFFF⟩,
   ⟨0x108, 0x20, 2, .ro, 0, 0xFFFFFFFF⟩, ⟨0x10C, 0x20, 2, .ro, 0, 0xFFFFFFFF⟩]

/-- Whether a row covers a page offset. -/
def Row.covers (r : Row) (o : Nat) : Bool :=
  decide (r.off ≤ o) && decide ((o - r.off) % r.stride = 0) && decide ((o - r.off) / r.stride < r.count)

/-- The rows of the page at a page number (BAR offset / 0x1000) and its island (14 R392); none where the index
lists no page. -/
def pageRows (pg : Nat) : Option (List Row × Nat) :=
  if pg == 0x0 then some (rowsDev, 0) else if pg == 0x1 then some (rowsCfg, 258)
  else if pg == 0x2 then some (rowsEvt0, 258) else if pg == 0x3 then some (rowsEvt1, 258)
  else if pg == 0x4 then some (rowsPci, 259)
  else if pg == 0x8 then some (rowsLhs, 0) else if pg == 0x9 then some (rowsPwr, 0)
  else if pg == 0xA then some (rowsClk, 0) else if pg == 0xB then some (rowsRst, 0)
  else if pg == 0xC then some (rowsSaf0, 0) else if pg == 0xD then some (rowsSaf1, 0)
  else if pg == 0xE then some (rowsSaf2, 0) else if pg == 0xF then some (rowsSaf3, 0)
  else if 0x10 ≤ pg && pg < 0x18 then some (rowsPort, 217 + (pg - 0x10))
  else if 0x18 ≤ pg && pg < 0x20 then some (rowsPort, 225 + (pg - 0x18))
  else if pg == 0x20 then some (rowsCls, 251)
  else if 0x30 ≤ pg && pg < 0x39 then some (rowsCph, 233 + (pg - 0x30))
  else if pg == 0x40 then some (rowsAsx, 253)
  else if 0x44 ≤ pg && pg < 0x4D then some (rowsCph, 242 + (pg - 0x44))
  else if pg == 0x50 then some (rowsQmg, 252)
  else if pg == 0x60 then some (rowsHbm, 254) else if pg == 0x61 then some (rowsHbm, 255)
  else if pg == 0x70 then some (rowsSns, 256) else if pg == 0x78 then some (rowsTim, 256)
  else if pg == 0x80 then some (rowsVlt, 0) else if pg == 0x88 then some (rowsDrb, 257)
  else if pg == 0x90 then some (rowsHrb, 258) else if pg == 0x98 then some (rowsBoot, 258)
  else if 0xA0 ≤ pg && pg < 0xA8 then some (rowsRgrp, 259)
  else if 0xB0 ≤ pg && pg < 0xF0 then some (rowsRing, 259)
  else if 0x100 ≤ pg && pg < 0x280 && pg % 16 == 0 then some (rowsKln, 193 + (pg - 0x100) / 16)
  else if 0x100 ≤ pg && pg < 0x280 && 1 ≤ pg % 16 && pg % 16 ≤ 8 then
    some (rowsEng, 1 + 8 * ((pg - 0x100) / 16) + (pg % 16 - 1))
  else none

/-- Block code and instance of a page (14 R392). -/
def pageCode (pg : Nat) : Nat × Nat :=
  if pg == 0x0 then (0x01, 0) else if pg == 0x1 then (0x02, 0)
  else if pg == 0x2 then (0x03, 0) else if pg == 0x3 then (0x03, 1)
  else if pg == 0x4 then (0x04, 0) else if pg == 0x8 then (0x05, 0)
  else if pg == 0x9 then (0x06, 0) else if pg == 0xA then (0x07, 0) else if pg == 0xB then (0x08, 0)
  else if 0xC ≤ pg && pg < 0x10 then (0x09, pg - 0xC)
  else if 0x10 ≤ pg && pg < 0x18 then (0x10, pg - 0x10) else if 0x18 ≤ pg && pg < 0x20 then (0x11, pg - 0x18)
  else if pg == 0x20 then (0x12, 0) else if 0x30 ≤ pg && pg < 0x39 then (0x13, pg - 0x30)
  else if pg == 0x40 then (0x15, 0) else if 0x44 ≤ pg && pg < 0x4D then (0x14, pg - 0x44)
  else if pg == 0x50 then (0x16, 0) else if pg == 0x60 then (0x17, 0) else if pg == 0x61 then (0x17, 1)
  else if pg == 0x70 then (0x18, 0) else if pg == 0x78 then (0x19, 0) else if pg == 0x80 then (0x1A, 0)
  else if pg == 0x88 then (0x1B, 0) else if pg == 0x90 then (0x1C, 0) else if pg == 0x98 then (0x1D, 0)
  else if 0xA0 ≤ pg && pg < 0xA8 then (0x04, 0x10 + (pg - 0xA0))
  else if 0xB0 ≤ pg && pg < 0xF0 then (0x04, 0x40 + (pg - 0xB0))
  else if pg % 16 == 0 then (0x20, (pg - 0x100) / 16)
  else (0x21, 8 * ((pg - 0x100) / 16) + (pg % 16 - 1))

/-- The row of a page offset, an RWS register's _LIVE mirror excepted. -/
def findRow (rows : List Row) (o : Nat) : Option Row := rows.find? (·.covers o)

/-- The staged windows (14 R393): their BAR ranges below the mirrors, and the writable bits of each word. -/
def stagedMask (off : Nat) : Option Word :=
  if 0x1000000 ≤ off && off < 0x1080000 then
    let w := off % 64 / 4
    some (if w == 0 then 0x1FFFF else if w == 1 then 0xFFFF3FFF else if w == 2 then 0xFFFFFFFF
      else if w == 3 then 0xFFFFFFFF else if w == 4 || w == 5 then 0xFFFFFFFF else if w == 6 then 7 else 0)
  else if 0x1080000 ≤ off && off < 0x1100000 then
    let w := off % 64 / 4
    some (if w == 0 then 0x1FFFF else if w == 1 then 0x1FFFFF else if w == 2 || w == 3 then 0xFFFFFFFF
      else if w == 4 then 7 else 0)
  else if 0x1100000 ≤ off && off < 0x1140000 then
    let w := off % 16 / 4
    some (if w == 0 then 0x1FFF7 else if w == 1 then 0xFFFFFFFF else if w == 2 then 7 else 0)
  else if 0x1140000 ≤ off && off < 0x1144000 then
    let w := off % 32 / 4
    some (if w == 0 then 0x1FFF7 else if w == 1 || w == 3 then 0xFFFFFFFF else if w == 2 || w == 4 then 7 else 0)
  else none

/-- The reset value of the register at a BAR offset: its row's, with the values that depend on the instance or
the part (00 R2, R3, 03 R82, 05, 11). -/
def resetOf (h48 : Bool) (off : Nat) : Word :=
  if 0x1000000 ≤ off then 0
  else
    let pg := off / 0x1000
    let o := off % 0x1000
    match pageRows pg with
    | none => 0
    | some (rows, _) =>
      if pg == 0 && o == 0x100 then (if h48 then 0x02B03200 else 0x01B03200)
      else if pg == 0x50 && !h48 && o == 0x118 then 64
      else if pg == 0x50 && !h48 && o == 0x11C then 12
      else if pg == 0x50 && !h48 && o == 0x120 then 4
      else if (0x30 ≤ pg && pg < 0x39 || 0x44 ≤ pg && pg < 0x4D) && o == 0x100 then
        let n := (pageCode pg).2
        if n == 8 then 0x1F else BitVec.ofNat 32 n
      else if pg == 0x70 && 0x400 ≤ o && o < 0x480 then
        let i := (o - 0x400) / 4
        if i < 8 then BitVec.ofNat 32 (0xF01 + 4 * i)
        else if i < 16 then BitVec.ofNat 32 (0xF03 + 4 * (i - 8)) else 0
      else match findRow rows o with
        | some r => r.reset
        | none => 0

end Sys2Proof.Machine
end

