-- ==== Sys2Proof/Machine/Ops.lean ====
section
/-! DEFINITION. The named operations over tables, bit fields, memory, registers, generations, islands, events and
faults that every meaning uses. -/
namespace Sys2Proof.Machine

/-! Tables. -/

/-- The value of a key, or the default. -/
def tget {α : Type} (t : Tbl α) (k : Nat) (d : α) : α :=
  match t with
  | [] => d
  | (k', v) :: r => if k' == k then v else tget r k d

/-- Binds a key. -/
def tput {α : Type} (t : Tbl α) (k : Nat) (v : α) : Tbl α :=
  (k, v) :: t.filter (fun e => e.1 != k)

/-- Removes a key. -/
def tdel {α : Type} (t : Tbl α) (k : Nat) : Tbl α := t.filter (fun e => e.1 != k)

/-- Adds an element to a list without repeats. -/
def ins (l : List Nat) (n : Nat) : List Nat := if l.contains n then l else l ++ [n]

/-- Replaces an element of a list. -/
def setAt {α : Type} (l : List α) (i : Nat) (v : α) : List α := l.set i v

/-! Bit fields (00 R5). -/

/-- The field of n bits at lo. -/
def fld (w : Word) (lo n : Nat) : Nat := (w.toNat / 2 ^ lo) % 2 ^ n

/-- Bit i. -/
def bit (w : Word) (i : Nat) : Bool := (w.toNat / 2 ^ i) % 2 == 1

/-- Bit i of a number. -/
def nbit (n i : Nat) : Bool := (n / 2 ^ i) % 2 == 1

/-- Writes the field of n bits at lo. -/
def setFld (w : Word) (lo n v : Nat) : Word :=
  BitVec.ofNat 32 (w.toNat - ((w.toNat / 2 ^ lo) % 2 ^ n) * 2 ^ lo + (v % 2 ^ n) * 2 ^ lo)

/-- Sets or clears bit i of a number. -/
def setNBit (n i : Nat) (b : Bool) : Nat :=
  n - ((n / 2 ^ i) % 2) * 2 ^ i + (if b then 2 ^ i else 0)

/-- A truth value as 0 or 1. -/
def b2n (b : Bool) : Nat := if b then 1 else 0

def w32 (n : Nat) : Word := BitVec.ofNat 32 n
def by8 (n : Nat) : Byte := BitVec.ofNat 8 n

/-- n bytes of a number, most significant first (00 R6, network byte order). -/
def beBytes : Nat → Nat → List Byte
  | 0, _ => []
  | k + 1, v => by8 (v / 256 ^ k) :: beBytes k v

/-- n bytes of a number, least significant first (00 R6). -/
def leBytes : Nat → Nat → List Byte
  | 0, _ => []
  | k + 1, v => by8 v :: leBytes k (v / 256)

/-- The number that bytes spell, most significant first. -/
def beNat (l : List Byte) : Nat := l.foldl (fun a b => a * 256 + b.toNat) 0

/-- The number that bytes spell, least significant first. -/
def leNat : List Byte → Nat
  | [] => 0
  | b :: t => b.toNat + 256 * leNat t

/-- The n bytes at offset o. -/
def cut (l : List Byte) (o n : Nat) : List Byte := (l.drop o).take n

/-- A two's-complement reading of n bits. -/
def sgn (n v : Nat) : Int := if v % 2 ^ n < 2 ^ (n - 1) then (v % 2 ^ n : Nat) else (v % 2 ^ n : Nat) - (2 ^ n : Nat)

/-- Ceiling of a quotient. -/
def cdiv (a b : Nat) : Nat := (a + b - 1) / b

/-! Memory: one list of cells, addresses strictly rising, no zero byte listed (log entry 5). The address spaces of
the device stand side by side at multiples of 2^40 (log entry 6). -/

/-- The byte at an address. -/
def memRead : List Host.Cell → Nat → Byte
  | [], _ => 0
  | (b, v) :: t, a => if a == b then v else memRead t a

/-- Writes a byte and keeps the canonical form. -/
def memWrite : List Host.Cell → Nat → Byte → List Host.Cell
  | [], a, v => if v == 0 then [] else [(a, v)]
  | (b, w) :: t, a, v =>
    if a < b then (if v == 0 then (b, w) :: t else (a, v) :: (b, w) :: t)
    else if a == b then (if v == 0 then t else (a, v) :: t)
    else (b, w) :: memWrite t a v

/-- The canonical form: addresses strictly rising above lo, no zero byte. -/
def memWfFrom : Option Nat → List Host.Cell → Bool
  | _, [] => true
  | lo, (a, v) :: t =>
    (match lo with | none => true | some l => decide (l < a)) && (v != 0) && memWfFrom (some a) t

/-- The memory's canonical form holds. -/
def Memory.wf (m : List Host.Cell) : Bool := memWfFrom none m

/-- Erases the addresses from lo up to hi. -/
def memErase (m : List Host.Cell) (lo hi : Nat) : List Host.Cell :=
  m.filter (fun c => decide (c.1 < lo) || decide (hi ≤ c.1))

/-- Bytes of memory from an address. -/
def memBytes (m : List Host.Cell) (a : Nat) : Nat → List Byte
  | 0 => []
  | n + 1 => memRead m a :: memBytes m (a + 1) n

/-- Writes bytes from an address upward. -/
def memPut (m : List Host.Cell) (a : Nat) : List Byte → List Host.Cell
  | [] => m
  | b :: t => memPut (memWrite m a b) (a + 1) t

def spIram (e : Nat) : Nat := 1 * 2 ^ 40 + e * 2 ^ 20
def spDram (e : Nat) : Nat := 2 * 2 ^ 40 + e * 2 ^ 20
def spShmem (k : Nat) : Nat := 3 * 2 ^ 40 + k * 2 ^ 24
def spBacking : Nat := 4 * 2 ^ 40
def spPatch (k : Nat) : Nat := 5 * 2 ^ 40 + k * 2 ^ 20
def spHarbour (h : Nat) : Nat := 6 * 2 ^ 40 + h * 2 ^ 24
def spNor : Nat := 7 * 2 ^ 40
def spMailbox : Nat := 8 * 2 ^ 40

/-! Register pages (14 R392). -/

def pDev : Nat := 0x0
def pCfg : Nat := 0x1000
def pPci : Nat := 0x4000
def pLhs : Nat := 0x8000
def pPwr : Nat := 0x9000
def pClk : Nat := 0xA000
def pRst : Nat := 0xB000
def pSaf : Nat := 0xC000
def pHpt (g : Nat) : Nat := 0x10000 + 0x1000 * g
def pSpt (g : Nat) : Nat := 0x18000 + 0x1000 * g
def pCls : Nat := 0x20000
def pE (n : Nat) : Nat := 0x30000 + 0x1000 * n
def pD (n : Nat) : Nat := 0x44000 + 0x1000 * n
def pAsx : Nat := 0x40000
def pQmg : Nat := 0x50000
def pHbm (n : Nat) : Nat := 0x60000 + 0x1000 * n
def pSns : Nat := 0x70000
def pTim : Nat := 0x78000
def pVlt : Nat := 0x80000
def pDrb : Nat := 0x88000
def pHrb : Nat := 0x90000
def pBoot : Nat := 0x98000
def pRgrp (q : Nat) : Nat := 0xA0000 + 0x1000 * q
def pRing (r : Nat) : Nat := 0xB0000 + 0x1000 * r
def pKln (k : Nat) : Nat := 0x100000 + 0x10000 * k
def pEng (n : Nat) : Nat := 0x101000 + 0x10000 * (n / 8) + 0x1000 * (n % 8)
/-- ASX group registers. -/
def aGrp (g : Nat) : Nat := pAsx + 0x200 + 0x40 * g
/-- SNS group registers. -/
def sGrp (g : Nat) : Nat := pSns + 0x200 + 0x40 * g
/-- Port group page of a side. -/
def pPort (strait : Bool) (g : Nat) : Nat := if strait then pSpt g else pHpt g
/-- Lane unit page of a direction (0 encrypt, 1 decrypt). -/
def pLane (d n : Nat) : Nat := if d == 0 then pE n else pD n

def dirN : Dir → Nat | .enc => 0 | .dec => 1
def sideB : Side → Bool | .home => false | .strait => true

/-- BAR offset of a page. -/
def pageOff : Page → Nat
  | .dev => pDev | .cfg => pCfg | .evt i => 0x2000 + 0x1000 * i.val | .pci => pPci | .lhs => pLhs | .pwr => pPwr
  | .clk => pClk | .rst => pRst | .saf i => pSaf + 0x1000 * i.val | .hpt g => pHpt g.val | .spt g => pSpt g.val
  | .cls => pCls | .cphE n => pE n.val | .asx => pAsx | .cphD n => pD n.val | .qmg => pQmg | .hbm n => pHbm n.val
  | .sns => pSns | .tim => pTim | .vlt => pVlt | .drb => pDrb | .hrb => pHrb | .boot => pBoot
  | .ringGroup q => pRgrp q.val | .ring r => pRing r.val | .kln k => pKln k.val | .eng n => pEng n.val

/-! Plain updates of the state. -/

def State.withDev (s : State) (d : Dev) : State := { s with dev := d }
def State.withRegs (s : State) (r : Tbl Word) : State := { s with regs := r }
def State.withGen (s : State) (g : Gen) : State := { s with gen := g }
def State.withMem (s : State) (m : List Host.Cell) : State := { s with mem := m }
def State.withSaf (s : State) (x : Safety) : State := { s with saf := x }
def State.withPci (s : State) (x : Pci) : State := { s with pci := x }
def State.withVault (s : State) (x : Vault) : State := { s with vault := x }
def State.withKiln (s : State) (x : Kilns) : State := { s with kiln := x }
def State.withBoot (s : State) (x : Boot) : State := { s with boot := x }

/-- Records what leaves the device. -/
def State.emit (s : State) (o : Out) : State := { s with out := s.out ++ [o] }

/-- Draws the number of a fresh free value (log entry 3). -/
def State.drawn (s : State) : State := { s with free := s.free + 1 }

/-- Draws n free values. -/
def State.drawnN (s : State) (n : Nat) : State := { s with free := s.free + n }

/-! Registers. -/

/-- The stored value of a register. -/
def State.reg (s : State) (off : Nat) : Word := tget s.regs off (resetOf s.dev.h48 off)

def State.setReg (s : State) (off : Nat) (v : Word) : State := { s with regs := tput s.regs off v }

/-- Writes a field of a register. -/
def State.setRegFld (s : State) (off lo n v : Nat) : State := s.setReg off (setFld (s.reg off) lo n v)

/-- The live value of an RWS field or staged window word (00 R8). -/
def State.lv (s : State) (off : Nat) : Word := tget s.gen.live off (resetOf s.dev.h48 off)

/-- The value of a staged word in the copy being staged or switched in. -/
def State.gv (s : State) (off : Nat) : Word := tget s.gen.green off (resetOf s.dev.h48 off)

/-- The value a frame with a generation bit uses (13 R371): the new copy or the live one. -/
def State.cv (s : State) (new : Bool) (off : Nat) : Word := if new then s.gv off else s.lv off

/-- Adds to a 32-bit counter. ASX counters saturate (04 R116); the manual gives no rule for the overflow of the
others, whose value is then free (log entry 7). -/
def State.bumpBy (s : State) (off n : Nat) : State :=
  let v := (s.reg off).toNat + n
  if v < 2 ^ 32 then s.setReg off (w32 v)
  else if off / 0x1000 == 0x40 then s.setReg off 0xFFFFFFFF
  else (s.setReg off (Config.freeWord s.free)).drawn

def State.bump (s : State) (off : Nat) : State := s.bumpBy off 1

/-- Adds one to a counter that wraps. -/
def State.bumpWrap (s : State) (off : Nat) : State := s.setReg off (s.reg off + 1)

/-- A 64-bit counter (02 R54). -/
def State.cnt64 (s : State) (off : Nat) : Nat := tget s.cnt off 0

def State.cntAdd (s : State) (off n : Nat) : State :=
  { s with cnt := tput s.cnt off ((tget s.cnt off 0 + n) % 2 ^ 64) }

/-- Channel counter n of channel c (02 R54). -/
def ccOff (c n : Nat) : Nat := 0x1180000 + 128 * c + 8 * n

/-- Port counter n of a port p (12 R349). -/
def pcOff (strait : Bool) (p n : Nat) : Nat := 0x1520000 + 256 * (32 * b2n strait + p) + 8 * n

def State.chanCnt (s : State) (c n : Nat) : State := s.cntAdd (ccOff c n) 1
def State.portCnt (s : State) (strait : Bool) (p n : Nat) : State := s.cntAdd (pcOff strait p n) 1

/-! Records of the larger tables. -/

def State.chan (s : State) (c : Nat) : Chan := tget s.chans c {}
def State.setChan (s : State) (c : Nat) (x : Chan) : State := { s with chans := tput s.chans c x }
def State.path (s : State) (g : Nat) : Path := tget s.paths g {}
def State.setPath (s : State) (g : Nat) (x : Path) : State := { s with paths := tput s.paths g x }
def State.peer (s : State) (g : Nat) : Peer := tget s.peers g {}
def State.setPeer (s : State) (g : Nat) (x : Peer) : State := { s with peers := tput s.peers g x }
def State.port (s : State) (strait : Bool) (p : Nat) : Port := tget s.ports (32 * b2n strait + p) {}
def State.setPort (s : State) (strait : Bool) (p : Nat) (x : Port) : State :=
  { s with ports := tput s.ports (32 * b2n strait + p) x }
def State.laneU (s : State) (d n : Nat) : Lane := tget s.lane (16 * d + n) {}
def State.setLaneU (s : State) (d n : Nat) (x : Lane) : State := { s with lane := tput s.lane (16 * d + n) x }
def State.slot (s : State) (d c k : Nat) : KeySlot := tget s.slots (16384 * d + 2 * c + k) {}
def State.setSlot (s : State) (d c k : Nat) (x : KeySlot) : State :=
  { s with slots := tput s.slots (16384 * d + 2 * c + k) x }
def State.pslot (s : State) (d g k : Nat) : KeySlot := tget s.portSlots (16 * d + 2 * g + k) {}
def State.setPslot (s : State) (d g k : Nat) (x : KeySlot) : State :=
  { s with portSlots := tput s.portSlots (16 * d + 2 * g + k) x }
def State.stream (s : State) (d c l : Nat) : Stream := tget s.streams (16384 * d + 2 * c + l) {}
def State.setStream (s : State) (d c l : Nat) (x : Stream) : State :=
  { s with streams := tput s.streams (16384 * d + 2 * c + l) x }
def State.sense (s : State) (g : Nat) : Sense := tget s.senses g {}
def State.setSense (s : State) (g : Nat) (x : Sense) : State := { s with senses := tput s.senses g x }

/-! Islands (15 R412, R414; log entry 8 for their state at the release of RESET_N). -/

/-- The island's state before anything has switched it. -/
def islReset (h48 : Bool) (i : Nat) : Isl :=
  { ps := if (217 ≤ i && i ≤ 232) || (233 ≤ i && i ≤ 240) || (242 ≤ i && i ≤ 249) || (i == 255 && !h48) || 259 < i then 0 else 1 }

def State.island (s : State) (i : Nat) : Isl := tget s.isl i (islReset s.dev.h48 i)
def State.setIsland (s : State) (i : Nat) (x : Isl) : State := { s with isl := tput s.isl i x }
/-- PSTATE of an island (14 R386). -/
def State.pst (s : State) (i : Nat) : Nat := (s.island i).ps
def State.setPst (s : State) (i ps : Nat) : State := s.setIsland i { s.island i with ps := ps }
/-- The island is off for register access (14 R391). -/
def State.islOff (s : State) (i : Nat) : Bool := s.pst i == 0

/-! Events (14 R387, R394 to R401). -/

/-- The event space: base, width, instances, first page offset (14 R394); kilns apart (R395). -/
def evTable : List (Nat × Nat × Nat × Nat) :=
  [(0, 8, 1, pDev), (8, 4, 1, pCfg), (12, 16, 1, pPci), (28, 8, 1, pLhs), (36, 8, 1, pPwr), (44, 8, 1, pClk),
   (52, 8, 1, pRst), (60, 16, 1, pSaf), (76, 6, 8, 0x10000), (124, 6, 8, 0x18000), (172, 8, 1, pCls),
   (180, 6, 9, 0x30000), (234, 6, 9, 0x44000), (288, 16, 1, pAsx), (304, 8, 1, pQmg), (312, 4, 2, 0x60000),
   (320, 8, 1, pSns), (328, 4, 1, pTim), (332, 4, 1, pVlt), (336, 4, 1, pDrb), (340, 4, 1, pHrb), (344, 8, 1, pBoot)]

/-- Global number of a page's event or fault bit (14 R394, R395, 16 R430). -/
def evNum (pb b : Nat) : Option Nat :=
  if 0x100000 ≤ pb then
    let k := (pb - 0x100000) / 0x10000
    if pb % 0x10000 == 0 then (if b < 8 then some (352 + 12 * k + b) else none)
    else (if b < 4 then some (352 + 12 * k + 8 + b) else none)
  else
    match evTable.find? (fun (_, _, n, p) => decide (p ≤ pb) && decide (pb < p + 0x1000 * n)) with
    | some (base, w, _, p) => if b < w then some (base + w * ((pb - p) / 0x1000) + b) else none
    | none => none

/-- The pages and bit behind a global number. -/
def evSource (n : Nat) : List (Nat × Nat) :=
  if 352 ≤ n then
    if n < 640 then
      let k := (n - 352) / 12
      let b := (n - 352) % 12
      if b < 8 then [(pKln k, b)] else (List.range 8).map (fun e => (pEng (8 * k + e), b - 8))
    else []
  else
    match evTable.find? (fun (base, w, i, _) => decide (base ≤ n) && decide (n < base + w * i)) with
    | some (base, w, _, p) => [(p + 0x1000 * ((n - base) / w), (n - base) % w)]
    | none => []

/-- EVT_PEND of a page: EVT_RAW & EVT_EN. -/
def State.evtPend (s : State) (pb : Nat) : Word := s.reg (pb + 0x10) &&& s.reg (pb + 0x14)

/-- Global event n is pending. -/
def State.evPending (s : State) (n : Nat) : Bool :=
  (evSource n).any (fun (p, b) => bit (s.evtPend p) b)

/-- Global fault n is set in its page (16 R430). -/
def State.ftSet (s : State) (n : Nat) : Bool :=
  (evSource n).any (fun (p, b) => bit (s.reg (p + 0x20)) b)

/-- HOST_ROUTE[n] (14 R396). -/
def State.route (s : State) (n : Nat) : Word := tget s.pci.routes n 0

/-- The cause of vector v (14 R397). -/
def State.cause (s : State) (v : Nat) : Bool :=
  s.pci.routes.any (fun (n, w) => bit w 8 && (fld w 0 8 == v) && s.evPending n)

/-- Vector v becomes due. -/
def State.makeDue (s : State) (v : Nat) : State := s.withPci { s.pci with due := ins s.pci.due v }

/-- Vectors routed from event n whose cause rose between two states become due. -/
def State.dueFrom (old s : State) (n : Nat) : State :=
  let w := s.route n
  let v := fld w 0 8
  if bit w 8 && s.cause v && !old.cause v then s.makeDue v else s

/-- Vector of ring r signals when VEC_EN is 1 (14 R400, R401). -/
def State.ringVec (s : State) (r : Nat) : State :=
  let c := s.reg (pRing r + 0x108)
  if bit c 24 then s.makeDue (fld c 16 8) else s

/-- Ring r has EN and runs. -/
def State.ringOn (s : State) (r : Nat) : Bool :=
  bit (s.reg (pRing r + 0x108)) 8 && !bit (s.reg (pRing r + 0x114)) 1

/-- Writes, or counts, the event record of event n (14 R401). -/
def State.evRecord (s : State) (n : Nat) (raw : Word) : State :=
  let w := s.route n
  let r := fld w 9 6
  let c := s.reg (pRing r + 0x108)
  if !(bit w 15 && s.ringOn r && (fld c 4 2 == 2)) || s.pci.d3hot then s
  else
    let rep := tget s.pci.evRepeat n 0
    let early := match s.pci.evLast.find? (fun e => e.1 == n) with
      | some (_, t) => decide (s.dev.mono < t + 1000)
      | none => false
    let size := 2 ^ fld c 0 4
    let head := (s.reg (pRing r + 0x10C)).toNat
    let tail := (s.reg (pRing r + 0x110)).toNat
    let more := { s.pci with evRepeat := tput s.pci.evRepeat n (min (rep + 1) 0xFFFF) }
    if early then s.withPci more
    else if (tail + 65536 - head) % 65536 == size then (s.withPci more).bump (pRing r + 0x118)
    else
      let base := (s.reg (pRing r + 0x100)).toNat + 2 ^ 32 * (s.reg (pRing r + 0x104)).toNat
      let words := [w32 s.dev.mono, w32 (s.dev.mono / 2 ^ 32), w32 (n + 65536 * rep), s.gen.liveNo, raw, 0, 0,
        w32 (1 - (tail / size) % 2)]
      let s1 := s.emit (.hostWrite (BitVec.ofNat 64 (base + 32 * (tail % size))) words)
      let s2 := s1.withPci { s1.pci with evRepeat := tput s1.pci.evRepeat n 0, evLast := tput s1.pci.evLast n s.dev.mono }
      let s3 := ((s2.setReg (pRing r + 0x110) (w32 ((tail + 1) % 65536))).bump (pRing r + 0x11C)).cntAdd
        (pRgrp (r / 8) + 0x104) 32
      if head == tail then s3.ringVec r else s3

/-- Raises an event: EVT_RAW, the vectors due and the records (14 R387). -/
def State.raise (s : State) (pb b : Nat) : State :=
  let raw := s.reg (pb + 0x10) ||| w32 (2 ^ b)
  let s1 := s.setReg (pb + 0x10) raw
  match evNum pb b with
  | none => s1
  | some n => (State.dueFrom s s1 n).evRecord n raw

/-! Faults (14 R388, 16 R430, R431). -/

/-- Reaction class of a global fault (16 R431): 0 none, 1 CONTAIN, 2 SEAL, 3 by source or policy. -/
def ftClass (n : Nat) : Nat :=
  if n == 8 then 1                                   -- CFG_FT_GEN_COPY
  else if n == 12 then 1                             -- PCI_FT_RAM_UE
  else if n == 28 then 2 else if n == 29 then 1      -- LHS_FT_RET_UE, LHS_FT_OSC
  else if n == 36 then 1                             -- PWR_FT_SWITCH
  else if n == 44 || n == 45 then 3                  -- CLK_FT_MON, CLK_FT_PLL_LOCK
  else if n == 52 then 2                             -- RST_FT_EMBER_SLOW
  else if n == 62 then 3                             -- SAF_FT_TAMPER
  else if 60 ≤ n && n ≤ 65 then 2                    -- the other SAF faults
  else if 76 ≤ n && n < 172 then (if (n - 76) % 6 < 2 then 1 else 0)
  else if 180 ≤ n && n < 234 then
    (let b := (n - 180) % 6; if b == 2 then 2 else if b < 5 then 1 else 0)
  else if 234 ≤ n && n < 288 then
    (let b := (n - 234) % 6; if b == 2 then 2 else if b == 1 then 0 else if b < 5 then 1 else 0)
  else if n == 288 || n == 289 then 1                -- ASX
  else if n == 304 || n == 305 then 1                -- QMG
  else if 312 ≤ n && n < 320 then (if (n - 312) % 4 < 2 then 1 else 0)
  else if n == 320 then 1                            -- SNS_FT_TS_CHECK
  else if n == 332 then 2 else if n == 333 then 3    -- VLT
  else if n == 336 || n == 337 then 1 else if n == 338 then 2   -- DRB
  else if n == 340 || n == 341 then 1                -- HRB
  else if n == 344 then 2                            -- BOOT_FT_RETAINED
  else if 352 ≤ n && n < 640 then
    (let b := (n - 352) % 12; if b < 3 then 1 else if 8 ≤ b then 1 else 0)
  else 0

/-- Sets a FAULT_RAW bit; a fault that becomes pending raises SAF_EV_FAULT (14 R388). -/
def State.faultBit (s : State) (pb b : Nat) : State :=
  let old := s.reg (pb + 0x20)
  let s1 := s.setReg (pb + 0x20) (old ||| w32 (2 ^ b))
  if bit (s.reg (pb + 0x24)) b && !bit old b then s1.raise pSaf 0 else s1

/-! Agreement interlocks (13 R376). -/

/-- The interlock bit of a register: ENG interrupts, code region, data region, KLN queue, REQ_TAIL. -/
def heldClass (off : Nat) : Nat :=
  if off < 0x100000 then 4 else if off < 0x1000000 then (if off % 0x10000 < 0x1000 then 3 else 0)
  else if off % 64 < 0x10 then 1 else 2

/-- The value last written to a register: one that waits for agreement, or the one in force. -/
def State.written (s : State) (off : Nat) (inForce : Word) : Word := tget s.gen.held off inForce

/-- Keeps a written value that is not in force. -/
def State.hold (s : State) (off : Nat) (v : Word) : State := s.withGen { s.gen with held := tput s.gen.held off v }

/-- Drops the waiting values from one BAR offset up to another. -/
def State.unhold (s : State) (lo hi : Nat) : State :=
  s.withGen { s.gen with held := s.gen.held.filter (fun e => decide (e.1 < lo) || decide (hi ≤ e.1)) }

/-- A write left its set in disagreement. -/
def State.disagree (s : State) (off : Nat) : State :=
  ((s.setRegFld (pCfg + 0x124) (heldClass off) 1 1).setReg (pCfg + 0x128) (w32 off)).raise pCfg 2

/-- A write made its set agree: the bit clears when no other set of its kind waits. -/
def State.agreed (s : State) (b : Nat) : State :=
  if s.gen.held.any (fun e => heldClass e.1 == b) then s else s.setRegFld (pCfg + 0x124) b 1 0

/-- Changes the device state and raises DEV_EV_STATE (01 R28). -/
def State.setDState (s : State) (d : DState) : State :=
  if s.dev.dstate = d then s else (s.withDev { s.dev with dstate := d }).raise pDev 0

/-! Configuration fields used in many places. -/

/-- Word i of the transmit entry of channel c (02 R38), in the live or the new copy. -/
def State.txw (s : State) (new : Bool) (c i : Nat) : Word := s.cv new (0x1000000 + 64 * c + 4 * i)
/-- Word i of the receive entry. -/
def State.rxw (s : State) (new : Bool) (c i : Nat) : Word := s.cv new (0x1080000 + 64 * c + 4 * i)

def State.txEn (s : State) (c : Nat) : Bool := bit (s.txw false c 0) 0
def State.rxEn (s : State) (c : Nat) : Bool := bit (s.rxw false c 0) 0
/-- The channel is enabled in the live generation. -/
def State.chEn (s : State) (c : Nat) : Bool := s.txEn c && s.rxEn c
def State.cls (s : State) (c : Nat) : Nat := fld (s.txw false c 0) 1 2
def State.fmt (s : State) (c : Nat) : Nat := fld (s.txw false c 0) 3 2
def State.spg (s : State) (c : Nat) : Nat := fld (s.txw false c 0) 5 3
def State.sport (s : State) (c : Nat) : Nat := fld (s.txw false c 0) 8 2
/-- Asxon format: FORMAT 0 and not Stream. -/
def State.asxon (s : State) (c : Nat) : Bool := s.cls c != 2 && s.fmt c == 0
def State.assured (s : State) (c : Nat) : Bool := s.cls c == 0 && s.fmt c == 0
def State.bestEff (s : State) (c : Nat) : Bool := s.cls c == 1 && s.fmt c == 0
def State.isStream (s : State) (c : Nat) : Bool := s.cls c == 2
/-- 802.1AE format. -/
def State.macsec (s : State) (c : Nat) : Bool := s.cls c != 2 && (s.fmt c == 1 || s.fmt c == 2)
/-- Adds a number to an ascending list without repeats. -/
def insAsc (n : Nat) : List Nat → List Nat
  | [] => [n]
  | m :: t => if n < m then n :: m :: t else if n == m then m :: t else m :: insAsc n t

/-- Channels with an entry word listed in a copy, ascending: an unlisted entry is all zero. -/
def chansOf (t : Tbl Word) : List Nat :=
  t.foldl (fun acc e => if 0x1000000 ≤ e.1 && e.1 < 0x1100000 then insAsc ((e.1 - 0x1000000) / 64 % 8192) acc
    else acc) []

/-- The working/protect pair of a group (04 R110): index, working group, protect group. -/
def State.pairOf (s : State) (g : Nat) : Option (Nat × Nat × Nat) :=
  (List.range 4).findSome? (fun p =>
    let w := s.lv (pAsx + 0x140 + 4 * p)
    if bit w 0 && (fld w 1 3 == g || fld w 4 3 == g) then some (p, fld w 1 3, fld w 4 3) else none)

/-- The group under which a group's peer is kept: the working group of its pair, or itself. -/
def State.home_ (s : State) (g : Nat) : Nat := match s.pairOf g with | some (_, w, _) => w | none => g

/-- The groups that serve the peer of working group g. -/
def State.groupsOf (s : State) (g : Nat) : List Nat :=
  match s.pairOf g with | some (_, w, p) => [w, p] | none => [g]

/-- The group a peer's transmit path uses (04 R111). -/
def State.txGroup (s : State) (g : Nat) : Nat :=
  match s.pairOf g with
  | some (_, w, p) => if (s.peer w).onProtect then p else w
  | none => g

/-- Enabled channels in the live generation. -/
def State.enabledChans (s : State) : List Nat := (chansOf s.gen.live).filter s.chEn

/-- Enabled channels of the peer of group g that a predicate picks. -/
def State.peerChans (s : State) (g : Nat) (p : Nat → Bool) : List Nat :=
  s.enabledChans.filter (fun c => s.spg c == g && p c)

/-- The mode of a group (12 R330). -/
def State.mode (s : State) (strait : Bool) (g : Nat) : Nat := fld (s.lv (pPort strait g + 0x100)) 0 4
/-- How many ports a mode has. -/
def modePorts (m : Nat) : Nat :=
  if m == 0 then 0 else if m == 1 then 1 else if m == 2 then 2 else if m < 7 then 4 else if m < 12 then 1 else 0
/-- OTN modes. -/
def modeOtn (m : Nat) : Bool := decide (7 ≤ m) && decide (m ≤ 11)
/-- Rate of a port of a mode in Mb/s. -/
def modeRate (m : Nat) : Nat :=
  if m == 1 then 400000 else if m == 2 then 200000 else if m == 3 then 100000 else if m == 4 then 50000
  else if m == 5 then 25000 else if m == 6 then 10000 else if m == 7 then 100000 else 100000 * (m - 7)
/-- Port p exists in the live generation. -/
def State.portExists (s : State) (strait : Bool) (p : Nat) : Bool :=
  decide (p % 4 < modePorts (s.mode strait (p / 4)))

/-- Assigned unit of a direction for a group, with ASSIGN's fields (03 R56, R82). -/
def State.unitOf (s : State) (d g : Nat) (lane1 : Bool) : Option Nat :=
  (List.range 9).find? (fun n =>
    let a := s.reg (pLane d n + 0x100)
    fld a 0 4 == g && bit a 6 == lane1 && !bit a 5 && !(s.laneU d n).resetting)

/-- The warm spare of a direction. -/
def State.spare (s : State) (d : Nat) : Option Nat :=
  (List.range 9).find? (fun n =>
    let a := s.reg (pLane d n + 0x100)
    bit a 4 && !bit a 5 && fld a 0 4 == 15 && !(s.laneU d n).resetting)

/-- A harbour pair is in service (13 R352). -/
def State.hcUp (s : State) (h : Nat) : Bool :=
  match s.harbours.find? (fun e => e.1 == h) with
  | some (_, x) => x.inService
  | none => true

/-- The patch load of this boot failed: no kiln has a patch, so no exchange and no sensing batch runs (13 R362). -/
def State.patchFailed (s : State) : Bool := bit (s.reg (pBoot + 0x104)) 3

/-- Peers that hold keys: JOINED, STRANDED or LANDFALL. -/
def Sub.keyed : Sub → Bool | .joined => true | .stranded => true | .landfall => true | _ => false

/-- DEV.STATUS.PEER_KEYED (01 R28): both groups of a pair report the peer. -/
def State.peerKeyed (s : State) : Nat :=
  (List.range 8).foldl (fun a g => if (s.peer (s.home_ g)).sub.keyed then a + 2 ^ g else a) 0

def State.peerStranded (s : State) : Nat :=
  (List.range 8).foldl (fun a g => if (s.peer (s.home_ g)).sub = .stranded then a + 2 ^ g else a) 0

def dstateCode : DState → Nat
  | .cold => 0 | .boot => 1 | .staged => 2 | .protect => 3 | .sealed => 4 | .zeroized => 5

/-- The vault's policy bits (06 R179). -/
def State.policy (s : State) (i : Nat) : Bool := bit s.vault.policy i

/-- SEALED: no transmitter starts a frame (16 R435). -/
def State.isSealed (s : State) : Bool := decide (s.dev.dstate = .sealed)

/-- SEAL_N is pulled low (17 R443): while RESET_N is asserted, in SEALED and ZEROIZED, and in Lighthouse-only. -/
def State.sealN (s : State) : Bool :=
  s.dev.resetN || s.dev.lhOnly || decide (s.dev.dstate = .sealed) || decide (s.dev.dstate = .zeroized)

/-- A transition between STAGED and PROTECTED follows the peers (01 R25). -/
def State.tally (s : State) : State :=
  if s.dev.dstate = .staged && s.peerKeyed != 0 then s.setDState .protect
  else if s.dev.dstate = .protect && s.peerKeyed == 0 then s.setDState .staged
  else s

/-! Host writes (14 R381, R385, R390, R391). -/

/-- The function answers no memory request: before the release of RESET_N, or in D3hot. -/
def State.hostGone (s : State) : Bool := decide (s.dev.dstate = .cold) || s.pci.d3hot

/-- The island of the page at a BAR offset. -/
def islandAt (off : Nat) : Nat := match pageRows (off / 0x1000) with | some (_, i) => i | none => 0

/-- LOCK of the page at a BAR offset. -/
def State.locked (s : State) (off : Nat) : Bool := bit (s.reg (off / 0x1000 * 0x1000 + 0x34)) 0

/-- A host write to an off island's page: ignored and counted (14 R391). -/
def State.offWrite (s : State) : State := (s.bump (pPci + 0x118)).raise pPci 3

/-- A host write that a LOCKED page or an island that is off bars: counted in one counter only; one to the HBM1 page of
OZS3200-H24-I is ignored (00 R2). -/
def State.barred (s : State) (off : Nat) : Option State :=
  if !s.dev.h48 && off / 0x1000 == 0x61 then some s
  else if s.locked off then some ((s.bump (pPci + 0x114)).raise pPci 2)
  else if s.islOff (islandAt off) then some s.offWrite
  else none

/-- A host write of a register at a BAR offset, where nothing bars it. -/
def gateO (off : Nat) (s : State) (go : State → Host.Outcome State Fault Refusal) : Host.Outcome State Fault Refusal :=
  if s.hostGone then .next s
  else match s.barred off with
    | some t => .next t
    | none => go s

/-- A write by an agent: the host's is barred as above. -/
def gateA (a : Agent) (off : Nat) (s : State) (go : State → Host.Outcome State Fault Refusal) :
    Host.Outcome State Fault Refusal :=
  match a with
  | .host => gateO off s go
  | _ => go s

end Sys2Proof.Machine
end

