-- ==== Sys2Proof/Machine/Context.lean ====
section
/-! DEFINITION. Engine contexts: memory as an engine addresses it, registers, results in flight, save areas, and the serialising
micro-routines (07 R185 to R191, R197, R199; 09 R255 to R261, R277 to R280). -/
namespace Sys2Proof.Machine

/-! Memory words. -/

def State.mget (s : State) (a n : Nat) : List Byte := memBytes s.mem a n
def State.mput (s : State) (a : Nat) (l : List Byte) : State := s.withMem (memPut s.mem a l)
def State.mword (s : State) (a : Nat) : Word := w32 (leNat (memBytes s.mem a 4))
def State.mputW (s : State) (a : Nat) (w : Word) : State := s.mput a (leBytes 4 w.toNat)

/-- Word i of a little-endian byte string. -/
def wordAt (l : List Byte) (i : Nat) : Word := w32 (leNat (cut l (4 * i) 4))

/-- Size of the engine backing partition in bytes (05 R128). -/
def State.backing (s : State) : Nat := fld (s.lv (pQmg + 0x124)) 0 8 * 2 ^ 28

/-- The memory behind an address of engine n (07 R185); the kiln register space is none of it. -/
def State.engAddr (s : State) (n a : Nat) : Option Nat :=
  if a < 0x8000 then some (spIram n + a)
  else if 0x10000 ≤ a && a < 0x20000 then some (spDram n + (a - 0x10000))
  else if 0x100000 ≤ a && a < 0x200000 then some (spShmem (n / 8) + (a - 0x100000))
  else if 0x40000000 ≤ a && a < 0x80000000 && a - 0x40000000 < s.backing then some (spBacking + (a - 0x40000000))
  else none

/-! Engines and contexts. -/

/-- A FREE context. -/
def Ctx.initial : Ctx := { regs := Regs.zero }
/-- An engine after reset: halted, no context, banks clear. -/
def Engine.initial : Engine := { mcCtx := Ctx.initial }

def State.eng (s : State) (n : Nat) : Engine := tget s.engines n Engine.initial
def State.setEng (s : State) (n : Nat) (e : Engine) : State := { s with engines := tput s.engines n e }
def Engine.ctx (e : Engine) (c : Nat) : Ctx := tget e.ctxs c Ctx.initial
def Engine.setCtx (e : Engine) (c : Nat) (x : Ctx) : Engine := { e with ctxs := tput e.ctxs c x }
def State.ctx (s : State) (n c : Nat) : Ctx := (s.eng n).ctx c
def State.setCtx (s : State) (n c : Nat) (x : Ctx) : State := s.setEng n ((s.eng n).setCtx c x)

/-- A free choice among the elements of a list (log entry 9). -/
def State.pick (s : State) (l : List Nat) : Option Nat × State :=
  match l with
  | [] => (none, s)
  | _ => (l[Config.freeNat s.free % l.length]?, s.drawn)

/-! Results (07 R197, R199). -/

/-- Writes a register. -/
def Ctx.write (x : Ctx) (d : Dst) (v : Val) : Ctx :=
  match d, v with
  | .s r, .w a => { x with regs := { x.regs with s := x.regs.s.set r a } }
  | .v r, .v a => { x with regs := { x.regs with v := x.regs.v.set r a } }
  | .v2 r, .v2 a b => { x with regs := { x.regs with v := (x.regs.v.set r a).set (r + 1) b } }
  | .f r, .w a => { x with f := x.f.set r a }
  | .acc r, .a l => { x with regs := { x.regs with acc := x.regs.acc.set r l } }
  | _, _ => x

/-- Sets sticky bits: ESTAT in the low three, FPSTAT.FLAGS above; an enabled exception traps (08 R240, 09 R270, R274). -/
def Ctx.flag (x : Ctx) (fl : Nat) : Ctx :=
  let ex := fl / 8 % 32
  { x with regs := { x.regs with estat := x.regs.estat ||| w32 (fl % 8) }, fpstat := x.fpstat ||| w32 (8 * ex), fpTrap := if ex &&& fld x.fpstat 8 5 != 0 then x.fpTrap ||| ex else x.fpTrap }

/-- A result is written. -/
def Ctx.land (x : Ctx) (p : Pend) : Ctx :=
  (match p.dst with | some d => x.write d p.val | none => x).flag p.flags

/-- Every result in flight is written (07 R198, R213). -/
def Ctx.settle (x : Ctx) : Ctx :=
  let y := (x.pend ++ x.longs).foldl Ctx.land x
  { y with pend := [], longs := [] }

/-! Registers of a context. -/

def Ctx.rs (x : Ctx) (r : Nat) : Word := x.regs.s.getD r 0
def Ctx.rv (x : Ctx) (r : Nat) : Vec := x.regs.v.getD r 0
def Ctx.rf (x : Ctx) (r : Nat) : Word := x.f.getD r 0
def Ctx.racc (x : Ctx) (r : Nat) : List Int := x.regs.acc.getD r []

/-! What an engine runs. -/

/-- What engine n runs: the machine-check handler on bank 7, or the running context, whose s24 to s31 are the shadow
copies in a level-1 handler (07 R212, R215). -/
def State.cur (s : State) (n : Nat) : Ctx :=
  let e := s.eng n
  if e.mc then e.mcCtx
  else match e.run with
    | some c => if e.shadowIn then { e.ctx c with regs := { (e.ctx c).regs with s := (e.ctx c).regs.s.take 24 ++ e.shadow } } else e.ctx c
    | none => Ctx.initial

/-- Writes it back. -/
def State.setCur (s : State) (n : Nat) (x : Ctx) : State :=
  let e := s.eng n
  if e.mc then s.setEng n { e with mcCtx := x }
  else match e.run with
    | some c =>
      if e.shadowIn then
        s.setEng n { e.setCtx c { x with regs := { x.regs with s := x.regs.s.take 24 ++ (e.ctx c).regs.s.drop 24 } } with shadow := x.regs.s.drop 24 }
      else s.setEng n (e.setCtx c x)
    | none => s

/-- Writes bytes to the memory behind an address of an engine's map. -/
def State.putEng (s : State) (n a : Nat) (l : List Byte) : State :=
  match s.engAddr n a with
  | some m => s.mput m l
  | none => s

/-- Bytes of the memory behind an address of an engine's map. -/
def State.getEng (s : State) (n a len : Nat) : List Byte :=
  match s.engAddr n a with
  | some m => s.mget m len
  | none => List.replicate len 0

/-! Save areas (07 R190, R191). -/

/-- Word 0x004 of the save area of a context: its valid bits; 0 while it has none. -/
def State.flagsOf (s : State) (n : Nat) (x : Ctx) : Word :=
  match s.engAddr n x.save with
  | some a => if x.save == 0 then 0 else s.mword (a + 4)
  | none => 0

/-- Valid bits of the save area of context c. -/
def State.areaFlags (s : State) (n c : Nat) : Word := s.flagsOf n (s.ctx n c)

/-- The micro-save slot as a save area holds it (09 R279): PENDING is bit 12, SERIAL bit 13. -/
def Ctx.slotBytes (x : Ctx) : List Byte :=
  match x.micro with
  | some m => leBytes 8 (m.pc % 4096 + 4096 + 8192 * b2n m.run.isSome) ++ List.replicate 8 0 ++ m.temps.flatMap (fun t => leBytes 8 t.toNat)
  | none => List.replicate 48 0

/-- The slot read back: a routine whose slot differs from what was saved resumes with an undefined result. -/
def Ctx.slotFrom (x : Ctx) (l : List Byte) : Option Micro :=
  let w := leNat (l.take 8)
  let temps := (List.range 4).map (fun i => BitVec.ofNat 64 (leNat (cut l (16 + 8 * i) 8)))
  if !nbit w 12 then none
  else match x.micro with
    | some m => if l == x.slotBytes then some m else some { m with pc := w % 4096, temps := temps, known := false }
    | none => some { pc := w % 4096, temps := temps, pend := { dst := none, val := .w 0 } }

/-- The lower half from offset 0x008 (07 R190). -/
def Ctx.lowerImage (x : Ctx) : List Byte :=
  leBytes 4 x.pc.toNat ++
  leBytes 4 (x.regs.estat.toNat % 8 + 8 * b2n x.regs.cy + 16 * (x.regs.vprog.toNat % 32)) ++
  x.slotBytes ++
  x.regs.loops.flatMap (fun l => leBytes 4 l.count.toNat) ++
  x.regs.loops.flatMap (fun l => leBytes 4 l.start.toNat ++ leBytes 4 l.stop.toNat) ++
  List.replicate 16 0 ++ x.regs.s.flatMap (fun w => leBytes 4 w.toNat)

/-- The upper half: offsets 0x100 to 0x2FF. -/
def Regs.upperImage (r : Regs) : List Byte :=
  r.v.flatMap (fun v => leBytes 16 v.toNat) ++
  r.acc.flatMap (fun a => a.flatMap (fun l => leBytes 8 ((l % (2 ^ 64 : Int)).toNat)))

/-- Writes a half of the running state to the save area at a, with its valid bit. -/
def State.saveHalf (s : State) (n c area : Nat) (upper : Bool) : State :=
  match s.engAddr n area with
  | none => s
  | some a =>
    let x := s.ctx n c
    let fl := setFld (s.mword (a + 4)) 0 6 c
    if upper then
      ((s.mputW (a + 4) (setFld fl 9 1 1)).mput (a + 0x100) x.regs.upperImage).mputW (a + 0x344) x.regs.vq
    else (s.mputW (a + 4) (setFld fl 8 1 1)).mput (a + 8) x.lowerImage

/-- The loop levels from the image: counts and addresses; which levels are active stays with the context. -/
def loadLoops (img : List Byte) (old : List LoopLv) : List LoopLv :=
  old.mapIdx (fun i l => { l with count := wordAt img (14 + i), start := wordAt img (18 + 2 * i), stop := wordAt img (19 + 2 * i) })

/-- The registers after reading the lower half, whose image starts at 0x008. -/
def Ctx.withLower (x : Ctx) (img : List Byte) (withPc : Bool) : Ctx :=
  let w := wordAt img 1
  { x with pc := if withPc then wordAt img 0 else x.pc, micro := x.slotFrom (cut img 8 48), regs := { x.regs with estat := w32 (fld w 0 3), cy := bit w 3, vprog := w32 (fld w 4 5), loops := loadLoops img x.regs.loops, s := (List.range 32).map (fun i => wordAt img (30 + i)) } }

/-- The registers after reading the upper half. -/
def Regs.withUpper (r : Regs) (img : List Byte) (vq : Word) : Regs :=
  { r with vq := vq, v := (List.range 16).map (fun i => BitVec.ofNat 128 (leNat (cut img (16 * i) 16))), acc := (List.range 4).map (fun i => (List.range 8).map (fun j => sgn 40 (leNat (cut img (256 + 64 * i + 8 * j) 8)))) }

/-- The bytes of a half: from 0x008 for the lower one, and the upper one with vq at its end. -/
def Ctx.halfBytes (x : Ctx) (upper : Bool) : List Byte :=
  if upper then x.regs.upperImage ++ leBytes 4 x.regs.vq.toNat else x.lowerImage

/-- The context after reading the bytes of a half. -/
def Ctx.withHalf (x : Ctx) (upper : Bool) (img : List Byte) (withPc : Bool) : Ctx :=
  if upper then { x with regs := x.regs.withUpper (img.take 512) (wordAt img 128) } else x.withLower img withPc

/-- The bytes of a half in the save area; zeros when its valid bit is 0 (07 R191). -/
def State.areaBytes (s : State) (n : Nat) (x : Ctx) (upper : Bool) : List Byte :=
  let a := (s.engAddr n x.save).getD 0
  if upper then (if bit (s.flagsOf n x) 9 then s.mget (a + 0x100) 512 ++ s.mget (a + 0x344) 4 else List.replicate 516 0)
  else if bit (s.flagsOf n x) 8 then s.mget (a + 8) 248 else List.replicate 248 0

/-- Reads a half from the save area. -/
def State.loadHalf (s : State) (n c : Nat) (upper withPc : Bool) : State :=
  s.setCtx n c ((s.ctx n c).withHalf upper (s.areaBytes n (s.ctx n c) upper) withPc)

/-! Modular arithmetic of NTT layers (09 R255 to R257). -/

/-- An integer modulo 2^n. -/
def wrapN (n : Nat) (i : Int) : Nat := (i % (2 ^ n : Int)).toNat

def vqQ (v : Word) : Nat := fld v 0 16
def vqInv (v : Word) : Nat := fld v 16 16
/-- vq is valid. -/
def vqOk (v : Word) : Bool :=
  vqQ v % 2 == 1 && decide (3 ≤ vqQ v) && decide (vqQ v < 2 ^ 15) && vqQ v * vqInv v % 65536 == 1

/-- The Montgomery product of two signed halfwords, modulo 2^16. -/
def mont (vq : Word) (a b : Int) : Nat :=
  let t := a * b
  let u := sgn 16 (wrapN 16 (t * vqInv vq))
  wrapN 16 ((t - u * vqQ vq) / 65536)

/-- Barrett's reduction of a signed halfword, modulo 2^16. -/
def barrett (vq : Word) (a : Int) : Nat :=
  let q := vqQ vq
  let m : Int := ((2 ^ 26 + q / 2) / q : Nat)
  wrapN 16 (a - q * ((m * a + 2 ^ 25) / 2 ^ 26))

/-! NTT layers (09 R259 to R261). -/

/-- A sum as a signed halfword, and whether it wrapped. -/
def sum16 (i : Int) : Int × Bool := (sgn 16 (wrapN 16 i), decide (i < -32768) || decide (32767 < i))

/-- Distance of a butterfly's coefficients in layer L, and the first of them for butterfly jb. -/
def nttLen (inverse : Bool) (L : Nat) : Nat := if inverse then 2 * 2 ^ L else 128 / 2 ^ L
def nttAt (len jb : Nat) : Nat := 2 * len * (jb / len) + jb % len

/-- One butterfly of the forward transform, on coefficients and the wrap seen so far. -/
def nttFly (vq : Word) (zeta : List Int) (L : Nat) (p : List Int × Bool) (jb : Nat) : List Int × Bool :=
  let len := nttLen false L
  let g := jb / len
  let j := nttAt len jb
  let t := sgn 16 (mont vq (zeta.getD (2 ^ L + g) 0) (p.1.getD (j + len) 0))
  let lo := sum16 (p.1.getD j 0 - t)
  let hi := sum16 (p.1.getD j 0 + t)
  ((p.1.set (j + len) lo.1).set j hi.1, p.2 || lo.2 || hi.2)

/-- One butterfly of the inverse transform. -/
def inttFly (vq : Word) (zeta : List Int) (L : Nat) (p : List Int × Bool) (jb : Nat) : List Int × Bool :=
  let len := nttLen true L
  let g := jb / len
  let j := nttAt len jb
  let t := p.1.getD j 0
  let sum := sum16 (t + p.1.getD (j + len) 0)
  let dif := sum16 (p.1.getD (j + len) 0 - t)
  let a := sgn 16 (barrett vq sum.1)
  let b := sgn 16 (mont vq (zeta.getD (2 ^ (7 - L) - 1 - g) 0) dif.1)
  ((p.1.set j a).set (j + len) b, p.2 || sum.2 || dif.2)

/-- n signed halfwords of an engine's memory. -/
def State.halves (s : State) (n a k : Nat) : List Int := (List.range k).map (fun i => sgn 16 (leNat (s.getEng n (a + 2 * i) 2)))

/-! Serialising micro-routines (08 R245, 09 R277 to R280). -/

/-- Steps of a routine: a layer changes four vectors at a time, of 16 butterflies; a save or restore moves eight bytes at a time, from
the lowest offset up, and ends with the valid bit. The order and the size of a save's or restore's steps are the model's: DESIGN
CHOICE, the manual says only that the half changes progressively (log entry 92). -/
def Routine.steps : Routine → Nat
  | .ntt _ _ _ => 4
  | .half upper _ => if upper then 66 else 32

/-- Offset in the save area of the eight bytes that step i of a half moves. -/
def halfAt (upper : Bool) (i : Nat) : Nat := if upper then (if i < 64 then 0x100 + 8 * i else 0x344) else 8 + 8 * i

/-- Step i of a save or restore of a half of context c, whose bytes are img. -/
def State.halfStep (s : State) (n c : Nat) (upper save : Bool) (img : List Byte) (i : Nat) : State :=
  let x := s.ctx n c
  if !save then s.setCtx n c (x.withHalf upper (img.take (8 * (i + 1)) ++ (x.halfBytes upper).drop (8 * (i + 1))) false)
  else match s.engAddr n x.save with
    | none => s
    | some a =>
      if i + 1 < (Routine.half upper save).steps then s.mput (a + halfAt upper i) (cut img (8 * i) 8)
      else s.mputW (a + 4) (setFld (setFld (s.mword (a + 4)) 0 6 c) (if upper then 9 else 8) 1 1)

/-- The coefficients as bytes. -/
def coefBytes (l : List Int) : List Byte := l.flatMap (fun c => leBytes 2 (wrapN 16 c))

/-- Step i of an NTT layer: butterflies 64h + 16i to 64h + 16i + 15, on the coefficients as they stand; with bytes listed in img,
the coefficients of the step take those. -/
def State.nttStep (s : State) (n : Nat) (inverse : Bool) (sn k : Nat) (r : Run) : State × Bool :=
  let x := s.cur n
  let a := (x.rs sn).toNat
  let js := (List.range 16).map (· + (64 * (k % 2) + 16 * r.step))
  let old := s.halves n a 256
  if r.img.isEmpty then
    let p := js.foldl ((if inverse then inttFly else nttFly) x.regs.vq (s.halves n 0x1FF00 128) (k / 2)) (old, r.ov)
    (s.putEng n a (coefBytes p.1), p.2)
  else
    let len := nttLen inverse (k / 2)
    let new := fun i => sgn 16 (leNat (cut r.img (2 * i) 2))
    let l := js.foldl (fun (l : List Int) jb => (l.set (nttAt len jb) (new (nttAt len jb))).set (nttAt len jb + len) (new (nttAt len jb + len))) old
    (s.putEng n a (coefBytes l), r.ov)

/-- The next step of a routine on engine n. -/
def State.routineStep (s : State) (n : Nat) (r : Run) : State × Run :=
  match r.kind with
  | .ntt inverse sn k =>
    let (s1, ov) := s.nttStep n inverse sn k r
    (s1, { r with step := r.step + 1, ov := ov })
  | .half upper save =>
    (match (s.eng n).run with | some c => s.halfStep n c upper save r.img r.step | none => s, { r with step := r.step + 1 })

/-- The next k steps. -/
def State.routineSteps (s : State) (n : Nat) (r : Run) : Nat → State × Run
  | 0 => (s, r)
  | k + 1 => (s.routineStep n r).1.routineSteps n (s.routineStep n r).2 k

/-- The running routine of what engine n runs completes (08 R245). -/
def State.finishRoutine (s : State) (n : Nat) : State :=
  match (s.cur n).routine with
  | none => s
  | some r =>
    let (s1, r1) := s.routineSteps n r (r.kind.steps - r.step)
    s1.setCur n ({ s1.cur n with routine := none }.flag (b2n r1.ov))

/-- What a save writes, or what a restore reads, for the context x that owns the half. -/
def State.routineBytes (s : State) (n : Nat) (x : Ctx) : Routine → List Byte
  | .ntt _ _ _ => []
  | .half upper true => x.halfBytes upper
  | .half upper false => s.areaBytes n x upper

/-- The operands of a routine of context x as they stand (09 R280). -/
def State.routineInputs (s : State) (n : Nat) (x : Ctx) (r : Routine) : List Byte :=
  match r with
  | .ntt _ sn _ => leBytes 4 (x.rs sn).toNat ++ leBytes 4 x.regs.vq.toNat ++ s.getEng n (x.rs sn).toNat 512 ++ s.getEng n 0x1FF00 256
  | r => s.routineBytes n x r

/-- A number of steps that an interrupt or a parity error finds done: free among those left (log entry 92). -/
def State.someSteps (s : State) (n : Nat) (r : Run) : State × Run :=
  s.drawn.routineSteps n r (Config.freeNat s.free % (r.kind.steps - r.step + 1))

/-- A suspended routine of context x goes on with its operands as they stand; where they have changed, or the micro-save slot has,
what it still produces is free (09 R279, R280). -/
def State.resumeMicro (s : State) (n : Nat) (x : Ctx) : Ctx × State :=
  match x.micro with
  | none => (x, s)
  | some m =>
    let y := { x with micro := none }
    match m.run with
    | none =>
      if m.known && m.pend.src.all (fun e => x.rv e.1 == e.2) then ({ y with longs := x.longs ++ [m.pend] }, s)
      else
        let p := { m.pend with val := .v2 (BitVec.ofNat 128 (Config.freeNat s.free)) (BitVec.ofNat 128 (Config.freeNat (s.free + 1))) }
        ({ y with longs := x.longs ++ [p] }, s.drawnN 2)
    | some r =>
      if m.known && s.routineInputs n y r.kind == m.seen then ({ y with routine := some { r with img := s.routineBytes n y r.kind } }, s)
      else
        let img := (List.range 516).map (fun i => Config.freeByte (s.free + i))
        ({ y with routine := some { r with img := img, ov := r.ov || Config.freeBool s.free } }, s.drawnN 516)

end Sys2Proof.Machine
end

