-- ==== Sys2Proof/Machine/Front.lean ====
section
/-! DEFINITION. What stands beside an engine's pipeline: branch prediction, the lines of the instruction cache, performance counters
(07 R184, R208, R209, R218). None of it changes a value that a bundle reads. -/
namespace Sys2Proof.Machine

def State.front (s : State) (n : Nat) : Front := tget s.fronts n {}
def State.setFront (s : State) (n : Nat) (f : Front) : State := { s with fronts := tput s.fronts n f }

/-! Prediction (07 R208). The manual gives the tables and their widths; the index and tag functions, what a misprediction allocates
and the counters' values after a clear (0) are the model's: DESIGN CHOICE (log entry 93). -/

/-- The part of the history that tagged table t is indexed with. -/
def Front.histOf (f : Front) (t : Nat) : Nat := f.hist % 2 ^ [6, 14, 30, 62].getD t 0

/-- The entry of tagged table t for a branch, and its tag. -/
def Front.slotOf (f : Front) (t pc : Nat) : Nat × Nat :=
  (512 * t + Config.predIndex t pc (f.histOf t) % 512, Config.predTag t pc (f.histOf t) % 1024)

/-- The tagged table with the longest history that matches a branch. -/
def Front.matching (f : Front) (pc : Nat) : Option Nat :=
  [3, 2, 1, 0].find? (fun t => f.tagged.any (fun e => e.1 == (f.slotOf t pc).1 && e.2.1 == (f.slotOf t pc).2))

/-- The entry of the base table for a branch. -/
def baseOf (pc : Nat) : Nat := Config.predIndex 4 pc 0 % 2048

/-- The predicted direction: taken from the middle of a counter's range up. -/
def Front.predict (f : Front) (pc : Nat) : Bool :=
  match f.matching pc with
  | some t => decide (4 ≤ (tget f.tagged (f.slotOf t pc).1 (0, 0)).2)
  | none => decide (2 ≤ tget f.base (baseOf pc) 0)

/-- A saturating counter moves toward an outcome. -/
def moved (top k : Nat) (taken : Bool) : Nat := if taken then min (k + 1) top else k - 1

/-- A branch resolves: the counter that predicted it moves, a misprediction may allocate an entry, and the history takes the
outcome. -/
def Front.update (f : Front) (pc : Nat) (taken : Bool) : Front :=
  let f1 := match f.matching pc with
    | some t =>
      let old := tget f.tagged (f.slotOf t pc).1 (0, 0)
      { f with tagged := tput f.tagged (f.slotOf t pc).1 (old.1, moved 7 old.2 taken) }
    | none => { f with base := tput f.base (baseOf pc) (moved 3 (tget f.base (baseOf pc) 0) taken) }
  let new := Config.predAlloc pc f.hist % 5
  let f2 := if f.predict pc != taken && new < 4 then { f1 with tagged := tput f1.tagged (f.slotOf new pc).1 ((f.slotOf new pc).2, if taken then 4 else 3) } else f1
  { f2 with hist := (2 * f.hist + b2n taken) % 2 ^ 62 }

/-- PFLUSH clears every table and the history (07 R209). -/
def Front.flush (f : Front) : Front := { f with base := [], tagged := [], hist := 0 }

def State.predFlush (s : State) (n : Nat) : State := s.setFront n (s.front n).flush

/-! The instruction cache (07 R184): 64 sets of four 64-byte lines. -/

/-- The line of an address is in the cache; a full set gives up a line, and which one is free. -/
def Front.fetch (f : Front) (a : Nat) : Front :=
  let b := a / 64 * 64
  let peers := f.icache.filter (fun l => l / 64 % 64 == b / 64 % 64)
  if a < 0x100000 || f.icache.contains b then f
  else if peers.length < 4 then { f with icache := f.icache ++ [b] }
  else { f with icache := f.icache.filter (· != peers.getD (Config.victimLine f.draws % 4) 0) ++ [b], draws := f.draws + 1 }

/-- The instruction cache is invalid. -/
def State.icacheFlush (s : State) (n : Nat) : State := s.setFront n { s.front n with icache := [] }

/-! Performance counters (07 R218): bundles completed, unaligned accesses and lazy-FP micro-traps are counted; the other events are
matters of timing, so a counter that has selected one holds a free value (log entry 94). -/

/-- The event that counter i selects. -/
def State.perfSel (s : State) (n i : Nat) : Nat := fld (s.reg (pEng n + 0x13C)) (8 * i) 8

/-- The running context is sealed: nothing is counted. -/
def State.sealedNow (s : State) (n : Nat) : Bool :=
  match (s.eng n).run with
  | some c => (s.ctx n c).sealed_
  | none => false

/-- k events are counted on engine n. -/
def State.perfAdd (s : State) (n ev k : Nat) : State :=
  if s.sealedNow n then s
  else s.setFront n { s.front n with perf := (s.front n).perf.mapIdx (fun i v => if s.perfSel n i == ev then (v + k) % 2 ^ 64 else v) }

/-- An event that the model counts, or None. -/
def perfKnown (ev : Nat) : Bool := ev == 0 || ev == 2 || ev == 0x0A || ev == 0x0B

/-- A write of PERF_SEL has taken place. -/
def State.perfOpened (s : State) (n : Nat) : State :=
  s.setFront n { s.front n with perfOpen := (List.range 4).filter (fun i => (s.front n).perfOpen.contains i || !perfKnown (s.perfSel n i)) }

/-- PERF_CNT[i]. -/
def State.perfCount (s : State) (n i : Nat) : Nat :=
  if (s.front n).perfOpen.contains i then Config.freeNat s.free % 2 ^ 64 else (s.front n).perf.getD i 0

end Sys2Proof.Machine
end

