-- ==== Sys2Proof/Machine/Jobs.lean ====
section
/-! DEFINITION. Contexts and jobs of an engine: banks, save areas and spills, the end of a context, completion records, dispatch and
machine checks (07 R187 to R192, R214, R215, R219; 10 R288 to R297, R309). -/
namespace Sys2Proof.Machine

/-! Which context runs. -/

/-- The context occupies a bank: RESIDENT, RUNNING, or FAULTED and not sealed. -/
def Ctx.hasBank (x : Ctx) : Bool := x.st == 2 || x.st == 3 || (x.st == 4 && !x.sealed_)

/-- Free banks among 0 to 6 (07 R187). -/
def Engine.freeBanks (e : Engine) : List Nat :=
  (List.range 7).filter (fun b => !(e.ctxs.any (fun c => c.2.hasBank && c.2.bank == b)))

/-- FREE context numbers. -/
def Engine.freeCtxs (e : Engine) : List Nat := (List.range 64).filter (fun c => (e.ctx c).st == 0)

/-- The engine's island is on. -/
def State.awake (s : State) (n : Nat) : Bool := s.pst (1 + n) == 1

/-- The engine is halted. -/
def State.engHalted (s : State) (n : Nat) : Bool := bit (s.reg (pEng n + 0x104)) 0 || (s.eng n).halted

/-- The repeat cache is invalidated (09 R266). -/
def Engine.noRep (e : Engine) : Engine := { e with rep := [], repBody := none }

/-- The engine leaves its running context: handlers of either level end, the bar on prediction and the repeat cache go
(07 R209, 09 R266). -/
def Engine.offCore (e : Engine) : Engine :=
  { e with run := none, shadowIn := false, level2 := false, level2From := none, pbar := 0, bundle := {}, rep := [], repBody := none }

/-- Context c enters RUNNING (07 R188, R205). -/
def Engine.enter (e : Engine) (c : Nat) : Engine :=
  let x := e.ctx c
  { e.setCtx c { x with st := 3, parked := false, detNow := x.det } with run := some c, lru := e.lru.filter (· != c) ++ [c], pbar := 0, rep := [], repBody := none, bundle := {} }

/-- Context c runs on engine n; a routine of its that was suspended goes on (09 R279). -/
def State.enter (s : State) (n c : Nat) : State :=
  let (x, s1) := s.resumeMicro n (s.ctx n c)
  s1.setEng n (((s1.eng n).setCtx c x).enter c)

/-- Every result in flight of context c is written (07 R198): into what the engine runs, where c runs. -/
def State.settleCtx (s : State) (n c : Nat) : State :=
  if (s.eng n).run == some c && !(s.eng n).mc then s.setCur n (s.cur n).settle else s.setCtx n c (s.ctx n c).settle

/-- Asserts an interrupt line of an engine. -/
def State.raiseLine (s : State) (n i : Nat) : State :=
  let e := s.eng n
  s.setEng n { e with lines := ins e.lines i }

/-- An event routed by the fields of FW_ROUTE at a bit is pending: line l of that receiver is asserted (14 R398). -/
def State.routedLine (s : State) (lo w l : Nat) : Bool :=
  s.pci.fwRoutes.any (fun e => bit e.2 (lo + w) && fld e.2 lo w == l && s.evPending e.1)

/-- Interrupt line i of engine n is asserted: lines 8 to 13 follow the routed events (07 R211, 14 R398). -/
def State.lineUp (s : State) (n i : Nat) : Bool :=
  if 8 ≤ i && i < 14 then s.routedLine 12 3 (i - 8) else (s.eng n).lines.contains i

/-- Harbour line l of pair h (14 R398). -/
def State.hcLine (s : State) (h l : Nat) : Bool := s.routedLine (6 * h) 5 l

/-- Runnable contexts that do not run. -/
def Engine.ready (e : Engine) : List Nat := (List.range 64).filter (fun c => (e.ctx c).st == 2 && !(e.ctx c).parked)

/-- Runs one of the contexts of a list on an awake engine that runs none; the choice among several is free. -/
def State.runOf (s : State) (n : Nat) (l : List Nat) : State :=
  if (s.eng n).run.isSome || (s.eng n).mc || s.engHalted n || !s.awake n then s
  else
    match s.pick l with
    | (some c, s1) => s1.enter n c
    | (none, s1) => s1

/-- Runs the next runnable context. -/
def State.runNext (s : State) (n : Nat) : State := s.runOf n (s.eng n).ready

/-- Runs another runnable context than c, or c again where there is none (10 R298). -/
def State.runOther (s : State) (n c : Nat) : State :=
  let others := (s.eng n).ready.filter (· != c)
  s.runOf n (if others.isEmpty then [c] else others)

/-! Save areas (07 R189 to R191). -/

/-- The save area of a context: its own, or the head of the free list, which then holds no valid half. -/
def State.takeArea (s : State) (n c : Nat) : Option (Nat × State) :=
  let x := s.ctx n c
  if x.save != 0 then some (x.save, s)
  else
    let head := (s.reg (pEng n + 0x110)).toNat
    if head == 0 then none
    else
      let next := match s.engAddr n head with | some a => s.mword a | none => 0
      let s0 := match s.engAddr n head with | some a => s.mputW (a + 4) (w32 c) | none => s
      let s1 := (s0.setReg (pEng n + 0x110) next).setCtx n c { x with save := head }
      some (head, if next == 0 then s1.raise (pEng n) 3 else s1)

/-- Returns a context's save area to the head of the free list. -/
def State.freeArea (s : State) (n c : Nat) : State :=
  let x := s.ctx n c
  if x.save == 0 then s
  else
    let s1 := match s.engAddr n x.save with
      | some a => s.mputW a (s.reg (pEng n + 0x110))
      | none => s
    (s1.setReg (pEng n + 0x110) (w32 x.save)).setCtx n c { x with save := 0 }

/-! The end of a context. -/

/-- Stops the DMA channels of a context (10 R309). -/
def State.stopDma (s : State) (n c : Nat) : State :=
  let k := n / 8
  (List.range 8).foldl (fun s ch =>
    let d := tget s.kiln.dma (8 * k + ch) {}
    let r := pKln k + 0x208 + 0x20 * ch
    if d.used && d.owner == n % 8 && d.ctx == c && fld (s.reg r) 0 2 == 1 then
      s.setReg r (setFld (setFld (s.reg r) 0 2 3) 2 2 2)
    else s) s

/-- Releases and clears a hash session (10 R301). -/
def State.dropHash (s : State) (k h : Nat) : State :=
  let base := pKln k + 0x400 + 0x80 * h
  let s1 := s.withKiln { s.kiln with hash := tput s.kiln.hash (4 * k + h) {} }
  s1.withRegs (s1.regs.filter (fun e => !(decide (base ≤ e.1) && decide (e.1 < base + 0x80))))

/-- Releases the hash sessions of a context. -/
def State.dropSessions (s : State) (n c : Nat) : State :=
  (List.range 4).foldl (fun s h =>
    if (tget s.kiln.hash (4 * (n / 8) + h) {}).owner == some (n % 8, c) then s.dropHash (n / 8) h else s) s

/-- Clears an engine's key-port block. -/
def State.dropKp (s : State) (n : Nat) : State :=
  let base := pKln (n / 8) + 0x600 + 0x20 * (n % 8)
  let s1 := s.withKiln { s.kiln with kp := tput s.kiln.kp n {} }
  s1.withRegs (s1.regs.filter (fun e => !(decide (base ≤ e.1) && decide (e.1 < base + 0x20))))

/-- Zeroes the D-RAM regions of a context. -/
def State.dropRegions (s : State) (n c : Nat) : State :=
  let x := s.ctx n c
  (List.range 4).foldl (fun s r =>
    let lo := max (x.dataBase.getD r 0).toNat 0x10000
    let hi := min (x.dataLimit.getD r 0).toNat 0x20000
    if lo < hi then s.withMem (memErase s.mem (spDram n + (lo - 0x10000)) (spDram n + (hi - 0x10000))) else s) s

/-- Clears the bank, regions, sessions and key-port block of a context (06 R169, 10 R309). -/
def State.scrubCtx (s : State) (n c : Nat) : State :=
  let s1 := (((s.stopDma n c).dropSessions n c).dropKp n).dropRegions n c
  let x := s1.ctx n c
  let e := s1.eng n
  let e1 := if x.hasBank then { e with bankS := (List.range 32).foldl (fun t r => tput t (32 * x.bank + r) 0) e.bankS } else e
  s1.setEng n (e1.setCtx c { x with regs := Regs.zero, pend := [], longs := [], micro := none, routine := none, rpt := none })

/-- What a context entry keeps when the context becomes FREE: the fields that firmware writes (07 R219). -/
def Ctx.emptied (x : Ctx) : Ctx :=
  { Ctx.initial with det := x.det, pin := x.pin, codeBase := x.codeBase, codeLimit := x.codeLimit, dataBase := x.dataBase, dataLimit := x.dataLimit }

/-- A context becomes FREE: its save area, its sessions and its hold on the FP file go (07 R190, R193, 10 R301). -/
def State.freeCtx (s : State) (n c : Nat) (scrub : Bool) : State :=
  let s1 := (if scrub || (s.ctx n c).sealed_ then s.scrubCtx n c else s.dropSessions n c).freeArea n c
  let e := s1.eng n
  let e1 := if e.run == some c then e.offCore else e
  s1.setEng n { e1.setCtx c (e.ctx c).emptied with fpOwner := if e.fpOwner == some c then none else e.fpOwner, lru := e.lru.filter (· != c) }

/-! Completion records (10 R292, R294). -/

/-- The memory behind a kiln address that a ring lies at. -/
def State.ringAddr (s : State) (k a : Nat) : Option Nat :=
  if 0x100000 ≤ a then s.engAddr (8 * k) a else none

/-- Writes a completion record and raises its event. -/
def State.complete (s : State) (k q : Nat) (id : Word) (status engine ctx : Nat) (result : Word) (cycles : Word) : State :=
  let b := pKln k + 0x140 + 0x20 * q
  let size := 2 ^ fld (s.reg (b + 8)) 0 4
  let tail := (s.reg (b + 0x18)).toNat
  let rec_ := leBytes 4 id.toNat ++ [by8 status, by8 engine, by8 ctx, 0] ++ leBytes 4 cycles.toNat ++
    leBytes 4 result.toNat
  let s1 := match s.ringAddr k ((s.reg (b + 4)).toNat + 16 * tail) with
    | some a => s.mput a rec_
    | none => s
  let s2 := (s1.setReg (b + 0x18) (w32 ((tail + 1) % size))).withKiln
    { s1.kiln with recs := tput s1.kiln.recs (4 * k + q) (tget s1.kiln.recs (4 * k + q) 0 + 1) }
  let s3 := if status == 0x10 then s2.raise (pKln k) 7 else s2
  if status == 0 then (s3.bump (pKln k + 0x11C)).raise (pKln k) 0
  else (s3.bump (pKln k + 0x120)).raise (pKln k) 1

/-- Completes the job of a context, if it has one; the cycle count is free (log entry 10). -/
def State.endJob (s : State) (n c status : Nat) (result : Word) : State :=
  let mine := fun (j : Job) => j.kiln == n / 8 && j.engine == n % 8 && j.ctx == c
  match s.kiln.jobs.find? mine with
  | none => s
  | some j =>
    let s1 := s.withKiln { s.kiln with jobs := s.kiln.jobs.filter (fun j => !mine j) }
    s1.drawn.complete j.kiln j.queue j.id status (n % 8) c (if j.sealed_ then 0 else result) (Config.freeWord s1.free)

/-- A context ends: its job completes and it becomes FREE; the engine runs the next one. -/
def State.endCtx (s : State) (n c status : Nat) (scrub : Bool) : State :=
  (((s.endJob n c status 0).freeCtx n c scrub)).runNext n

/-- Every context of an engine ends with a status. -/
def State.endAll (s : State) (n status : Nat) : State :=
  (List.range 64).foldl (fun s c =>
    if (s.ctx n c).st == 0 then s else (s.endJob n c status 0).freeCtx n c true) s

/-- An engine halts on a double machine check (07 R215, R220): its jobs complete with STATUS 0x12. -/
def State.haltEngine (s : State) (n : Nat) : State :=
  let s1 := s.endAll n 0x12
  (s1.setEng n { (s1.eng n).offCore with halted := true, mc := false, retry := none }).raise (pEng n) 2

/-- Registers of no stated value, from free value k on. -/
def freeRegs (k : Nat) : Regs :=
  { s := (List.range 32).map (fun i => Config.freeWord (k + i)), v := (List.range 16).map (fun i => BitVec.ofNat 128 (Config.freeNat (k + 32 + i))), acc := (List.range 4).map (fun i => (List.range 8).map (fun j => sgn 40 (Config.freeNat (k + 48 + 8 * i + j)))), vq := Config.freeWord (k + 80), cy := Config.freeBool (k + 81), estat := w32 (Config.freeNat (k + 82) % 8), vprog := w32 (Config.freeNat (k + 83) % 32), loops := List.replicate 4 {} }

/-- A machine check (07 R215): on bank 7 at MC_VEC, or a halt. What is in flight completes first, a serialising routine too. The
manual does not state what bank 7 holds at the handler's first bundle. -/
def State.machineCheck (s : State) (n cause : Nat) (addr : Word) (victim : Option Nat) : State :=
  let e := s.eng n
  let ctx := victim.getD (e.run.getD 0)
  let vec := s.reg (pEng n + 0x11C)
  let pc := if e.mc then e.mcCtx.pc else match e.run with | some c => (e.ctx c).pc | none => 0
  let dbl := e.mc || vec == 0
  let s1 := ((s.setReg (pEng n + 0x120) (w32 (cause % 256 + 256 * (ctx % 64) + 16384 * b2n dbl))).setReg
    (pEng n + 0x124) addr).setReg (pEng n + 0x128) (w32 pc.toNat)
  if dbl then ((s1.faultBit (pEng n) 0).raise (pEng n) 1).haltEngine n
  else
    let s2 := s1.finishRoutine n
    let s3 := s2.setCur n (s2.cur n).settle
    let e3 := match victim with
      | some c => (s3.eng n).setCtx c { s3.ctx n c with poisoned := true }
      | none => s3.eng n
    let bank7 : Ctx := { Ctx.initial with regs := freeRegs s3.free, f := (List.range 16).map (fun i => Config.freeWord (s3.free + 200 + i)), pc := vec }
    ((s3.drawnN 256).setEng n { e3.noRep with mc := true, mcCtx := bank7, bundle := {} }).raise (pEng n) 1

/-! Faults (07 R214). -/

/-- A context is FAULTED. Its job completes with the code unless the fault is restartable (10 R294, R295); the state of a sealed
context is cleared (06 R169). FP traps not yet taken are kept: they come after resumption (09 R274). -/
def State.faultCtx (s : State) (n c code : Nat) (addr pc : Word) (precise restart : Bool) : State :=
  let s0 := if (s.ctx n c).sealed_ then (s.settleCtx n c).scrubCtx n c else s.settleCtx n c
  let e := s0.eng n
  let x := e.ctx c
  let y : Ctx := { x with st := 4, bank := if x.hasBank then x.bank else 8, fault := code + 256 * b2n precise, faultPc := pc, faultAddr := addr, restart := restart, rpt := none, brkAt := none, poisoned := false, fpTrap := x.fpTrap ||| x.heldTrap, heldTrap := 0 }
  let e1 := if e.run == some c then e.offCore else e
  let s1 := (s0.setEng n (e1.setCtx c y)).raise (pEng n) 0
  let s2 := if restart then s1 else (s1.dropSessions n c).endJob n c code 0
  s2.runNext n

/-- The codes that are restartable (07 R214). -/
def restartable (code : Nat) : Bool := code == 2 || code == 3 || code == 4 || code == 6 || code == 7

/-! Spilling (07 R188 to R190). -/

/-- The victim: the least recently run RESIDENT context, neither pinned nor sealed. A context that has never run is taken only after
every one that has: DESIGN CHOICE, the manual does not rank it (log entry 84). -/
def Engine.victim (e : Engine) : Option Nat :=
  match e.lru.find? (fun c => (e.ctx c).st == 2 && !(e.ctx c).pin && !(e.ctx c).sealed_) with
  | some c => some c
  | none => (List.range 64).find? (fun c => (e.ctx c).st == 2 && !(e.ctx c).pin && !(e.ctx c).sealed_)

/-- Spills a context: none when no save area is free. Pending results reach their registers first. -/
def State.spill (s : State) (n c : Nat) : Option State :=
  match s.takeArea n c with
  | none => none
  | some (area, s1) =>
    let s1 := s1.setCtx n c (s1.ctx n c).settle
    let s2 := (s1.saveHalf n c area false).saveHalf n c area true
    some ((s2.setCtx n c { s2.ctx n c with st := 1, regs := { Regs.zero with loops := (s2.ctx n c).regs.loops, loopNext := (s2.ctx n c).regs.loopNext } }).bump (pEng n + 0x114))

/-- Bank b is claimed: what it held while no context occupied it is gone. -/
def State.claim (s : State) (n b : Nat) : State :=
  s.setEng n { s.eng n with bankS := (s.eng n).bankS.filter (fun e => e.1 / 32 != b) }

/-- A free bank of an engine, with a victim spilled when none is free (07 R188): none when every resident context is
pinned or sealed; the flag is false when a save area was missing and the machine check was taken, after which what wanted the bank
is tried again (R190). -/
def State.makeBank (s : State) (n : Nat) (what : Retry) : Option (Bool × Nat × State) :=
  match (s.eng n).freeBanks with
  | [] =>
    match (s.eng n).victim with
    | none => none
    | some v =>
      let b := ((s.eng n).ctx v).bank
      match s.spill n v with
      | some s1 => some (true, b, s1.claim n b)
      | none => some (false, b, (s.setEng n { s.eng n with retry := some what }).machineCheck n 1 0 none)
  | l => match s.pick l with
    | (some b, s1) => some (true, b, s1.claim n b)
    | (none, s1) => some (false, 0, s1)

/-- A SPILLED context is filled into a bank and becomes RESIDENT (07 R188, R189); any other stays as it is. -/
def State.bring (s : State) (n c : Nat) : State :=
  if (s.ctx n c).st != 1 then s
  else
    match s.makeBank n (.fill c) with
    | none => s
    | some (false, _, s1) => s1
    | some (true, b, s1) =>
      let s2 := (s1.loadHalf n c false true).loadHalf n c true true
      (s2.setCtx n c { s2.ctx n c with st := 2, bank := b }).bump (pEng n + 0x118)

/-- The same, and the engine runs it if it runs none. -/
def State.fill (s : State) (n c : Nat) : State := if (s.ctx n c).st != 1 then s else (s.bring n c).runNext n

/-! Dispatch (10 R289 to R293). -/

/-- A region that R219 accepts: base at most limit, multiples of 64. -/
def regionOk (b l : Word) : Bool := decide (b.toNat ≤ l.toNat) && b.toNat % 64 == 0 && l.toNat % 64 == 0

/-- A job entry that breaks R289 (10 R293). -/
def jobBreach (q : Nat) (e : List Byte) : Bool :=
  let f := wordAt e 1
  let g := wordAt e 14
  let t := wordAt e 15
  let sld := bit f 0
  (sld && q < 2) || (sld && !bit f 1) || (sld && fld t 0 16 == 0) ||
  fld f 4 4 != 0 || fld g 5 2 != 0 || fld g 26 6 != 0 || fld t 16 16 != 0 ||
  !regionOk (wordAt e 3) (wordAt e 4) ||
  (List.range 4).any (fun r => !regionOk (wordAt e (5 + 2 * r)) (wordAt e (6 + 2 * r)))

/-- Jobs taken from a queue and not completed. -/
def State.taken (s : State) (k q : Nat) : Nat := (s.kiln.jobs.filter (fun j => j.kiln == k && j.queue == q)).length

/-- The engine that a job goes to (10 R290): its number, or none. -/
def State.engineFor (s : State) (k mask : Nat) (sld : Bool) : Option Nat :=
  let es := ((List.range 8).filter (fun e => (mask == 0 || nbit mask e) && !s.engHalted (8 * k + e))).map (8 * k + ·)
  let ok := fun n => !(s.eng n).freeCtxs.isEmpty
  let bank := fun n => !(s.eng n).freeBanks.isEmpty
  match es.find? (fun n => s.awake n && ok n && bank n) with
  | some n => some n
  | none =>
    match if sld then none else es.find? (fun n => s.awake n && ok n && (s.eng n).victim.isSome) with
    | some n => some n
    | none => es.find? (fun n => !s.awake n && ok n && (bank n || (!sld && (s.eng n).victim.isSome)))

/-- Sets up the context of a job (10 R290). -/
def jobCtx (e : List Byte) (bank : Nat) (sld : Bool) : Ctx :=
  let f := wordAt e 1
  { Ctx.initial with st := 2, bank := bank, det := bit f 1, sealed_ := sld, pin := bit f 2, regs := { Regs.zero with s := ((Regs.zero.s.set 1 (wordAt e 13)).set 2 (wordAt e 0)).set 31 (wordAt e 6) }, pc := wordAt e 2, codeBase := wordAt e 3, codeLimit := wordAt e 4, dataBase := (List.range 4).map (fun r => wordAt e (5 + 2 * r)), dataLimit := (List.range 4).map (fun r => wordAt e (6 + 2 * r)) }

/-- Takes the head job of queue q of kiln k: none when the queue gives nothing to do. -/
def State.takeJob (s : State) (k q : Nat) : Option State :=
  let b := pKln k + 0x140 + 0x20 * q
  let size := 2 ^ fld (s.reg (b + 8)) 0 4
  let head := (s.reg (b + 0x0C)).toNat
  if !bit (s.reg (b + 8)) 8 || head == (s.reg (b + 0x10)).toNat ||
      size ≤ s.taken k q + tget s.kiln.recs (4 * k + q) 0 || (s.isSealed && 2 ≤ q) then none
  else
    match s.ringAddr k ((s.reg b).toNat + 64 * head) with
    | none => none
    | some a =>
      let e := s.mget a 64
      let f := wordAt e 1
      let s1 := s.setReg (b + 0x0C) (w32 ((head + 1) % size))
      if jobBreach q e then some (s1.complete k q (wordAt e 0) 0x13 0 0 0 0)
      else
        let sld := bit f 0
        match s.engineFor k (fld f 8 8) sld with
        | none => none
        | some n =>
          match s1.makeBank n .job with
          | none => none
          | some (false, _, s2) => some (s2.setReg (b + 0x0C) (w32 head))
          | some (true, bank, s2) =>
            match s2.pick (s2.eng n).freeCtxs with
            | (none, s3) => some (s3.setReg (b + 0x0C) (w32 head))
            | (some c, s3) =>
              let job : Job := { kiln := k, queue := q, id := wordAt e 0, engine := n % 8, ctx := c, sealed_ := sld, pair := fld f 16 16, grant := wordAt e 14, timeout := fld (wordAt e 15) 0 16 }
              let s4 := (s3.withKiln { s3.kiln with jobs := s3.kiln.jobs ++ [job] }).setCtx n c (jobCtx e bank sld)
              let s4 := s4.unhold (0x1400000 + 0x1000 * n + 64 * c) (0x1400000 + 0x1000 * n + 64 * c + 64)
              let s5 := if s4.pst (1 + n) == 0 then s4.setPst (1 + n) 2 else s4
              some (s5.runNext n)

/-- The kiln may dispatch (10 R291). -/
def State.mayDispatch (s : State) (k : Nat) : Bool :=
  fld (s.reg (pKln k + 0x104)) 0 2 == 3 && s.kiln.patched.contains k && !s.kiln.parity.contains k && !s.islOff (193 + k)

/-- The dispatcher's next job: queue 3 first (10 R291). -/
def State.dispatch (s : State) (k : Nat) : State :=
  if s.mayDispatch k then (([3, 2, 1, 0].findSome? (fun q => s.takeJob k q))).getD s else s

/-- Every job taken or still posted in the kiln's rings completes with a status, and dispatch stops (15 R417, 16
R431). -/
def State.leaveService (s : State) (k status : Nat) : State :=
  let s0 := s.setReg (pKln k + 0x104) (setFld (s.reg (pKln k + 0x104)) 0 2 0)
  let s1 := (List.range 8).foldl (fun s e => s.endAll (8 * k + e) status) s0
  (List.range 4).foldl (fun s q =>
    let b := pKln k + 0x140 + 0x20 * q
    let size := 2 ^ fld (s.reg (b + 8)) 0 4
    let head := (s.reg (b + 0x0C)).toNat
    let tail := (s.reg (b + 0x10)).toNat
    let n := (tail + size - head % size) % size
    (List.range n).foldl (fun s i =>
      let h := (head + i) % size
      let id := match s.ringAddr k ((s.reg b).toNat + 64 * h) with | some a => s.mword a | none => 0
      (s.setReg (b + 0x0C) (w32 ((h + 1) % size))).complete k q id status 0 0 0 0) s) s1

/-- Ends and clears every sealed context that runs (16 R435, 06 R169). -/
def State.endSealed (s : State) (status : Nat) : State :=
  s.engines.foldl (fun s e =>
    (List.range 64).foldl (fun s c => if (s.ctx e.1 c).sealed_ && (s.ctx e.1 c).st != 0 then s.endCtx e.1 c status true else s) s) s

end Sys2Proof.Machine
end

