-- ==== Sys2Proof/Machine/Crypto.lean ====
section
/-! DEFINITION. The algorithms the manual names by their standards, computed: AES-256 and GCM (FIPS 197,
SP 800-38D), SHA-2 (FIPS 180-4), SHA-3 and SHAKE (FIPS 202), HMAC (FIPS 198-1), HKDF (RFC 5869), and the CRCs the
manual defines (02 R46, 04 R86). -/
namespace Sys2Proof.Machine.Crypto

/-! Number helpers. -/

/-- Rotate right within w bits. -/
def rotr (w x n : Nat) : Nat := (x / 2 ^ n) ||| (x * 2 ^ (w - n)) % 2 ^ w

/-- The largest r below 2^n with r^e at most x. -/
def iroot (e x : Nat) : Nat → Nat → Nat
  | 0, r => r
  | n + 1, r => if (r + 2 ^ n) ^ e ≤ x then iroot e x n (r + 2 ^ n) else iroot e x n r

def isPrime (n : Nat) : Bool := decide (2 ≤ n) && (List.range n).all (fun d => d < 2 || n % d != 0)

/-- The first 80 primes. -/
def primes : List Nat := (List.range 410).filter isPrime

/-! SHA-2. -/

/-- Parameters: word bits, rounds, the six rotations of the sums and the two of each sigma with its shift. -/
structure Sha2 where
  w : Nat
  rounds : Nat
  bs : List Nat
  ss : List Nat
  deriving DecidableEq, Repr

def p256 : Sha2 := ⟨32, 64, [2, 13, 22, 6, 11, 25], [7, 18, 3, 17, 19, 10]⟩
def p512 : Sha2 := ⟨64, 80, [28, 34, 39, 14, 18, 41], [1, 8, 7, 19, 61, 6]⟩

def Sha2.big (p : Sha2) (i x : Nat) : Nat :=
  rotr p.w x (p.bs.getD i 0) ^^^ rotr p.w x (p.bs.getD (i + 1) 0) ^^^ rotr p.w x (p.bs.getD (i + 2) 0)

def Sha2.small (p : Sha2) (i x : Nat) : Nat :=
  rotr p.w x (p.ss.getD i 0) ^^^ rotr p.w x (p.ss.getD (i + 1) 0) ^^^ (x / 2 ^ p.ss.getD (i + 2) 0)

/-- The round constants: the fractional bits of the cube roots of the first primes. -/
def Sha2.ks (p : Sha2) : List Nat :=
  (primes.take p.rounds).map (fun q => iroot 3 (q * 2 ^ (3 * p.w)) (p.w + 4) 0 % 2 ^ p.w)

def ks256 : List Nat := p256.ks
def ks512 : List Nat := p512.ks

/-- The fractional bits of the square roots of eight primes. -/
def sqrtIv (w : Nat) (ps : List Nat) : List Nat :=
  ps.map (fun q => iroot 2 (q * 2 ^ (2 * w)) (w + 5) 0 % 2 ^ w)

def iv256 : List Nat := sqrtIv 32 (primes.take 8)
def iv384 : List Nat := sqrtIv 64 ((primes.drop 8).take 8)

/-- The message schedule, newest word first. -/
def Sha2.sched (p : Sha2) : Nat → List Nat → List Nat
  | 0, l => l
  | n + 1, l =>
    p.sched n ((p.small 3 (l.getD 1 0) + l.getD 6 0 + p.small 0 (l.getD 14 0) + l.getD 15 0) % 2 ^ p.w :: l)

/-- One compression round over the eight working variables. -/
def Sha2.round (p : Sha2) (v : List Nat) (kw : Nat × Nat) : List Nat :=
  match v with
  | [a, b, c, d, e, f, g, h] =>
    let m := 2 ^ p.w
    let t1 := (h + p.big 3 e + ((e &&& f) ^^^ ((m - 1 - e) &&& g)) + kw.1 + kw.2) % m
    let t2 := (p.big 0 a + ((a &&& b) ^^^ (a &&& c) ^^^ (b &&& c))) % m
    [(t1 + t2) % m, a, b, c, (d + t1) % m, e, f, g]
  | _ => v

/-- The words of a block. -/
def wordsOf (wb : Nat) : Nat → List Byte → List Nat
  | 0, _ => []
  | n + 1, l => beNat (l.take wb) :: wordsOf wb n (l.drop wb)

def Sha2.block (p : Sha2) (ks : List Nat) (h : List Nat) (blk : List Byte) : List Nat :=
  let w := (p.sched (p.rounds - 16) (wordsOf (p.w / 8) 16 blk).reverse).reverse
  let v := (List.zip ks w).foldl p.round h
  (List.zip h v).map (fun (a, b) => (a + b) % 2 ^ p.w)

/-- Padding: 0x80, zeros, and the bit length in 2w bits. -/
def Sha2.pad (p : Sha2) (m : List Byte) : List Byte :=
  let bsz := 2 * p.w
  let z := (bsz - (m.length + 1 + p.w / 4) % bsz) % bsz
  m ++ [0x80] ++ List.replicate z 0 ++ beBytes (p.w / 4) (8 * m.length)

def Sha2.run (p : Sha2) (ks : List Nat) : Nat → List Nat → List Byte → List Nat
  | 0, h, _ => h
  | n + 1, h, m => p.run ks n (p.block ks h (m.take (2 * p.w))) (m.drop (2 * p.w))

def sha256 (m : List Byte) : List Byte :=
  let q := p256.pad m
  (p256.run ks256 (q.length / 64) iv256 q).flatMap (beBytes 4)

def sha384 (m : List Byte) : List Byte :=
  let q := p512.pad m
  ((p512.run ks512 (q.length / 128) iv384 q).take 6).flatMap (beBytes 8)

/-! SHA-3. Lanes are indexed x + 5y. -/

def lane (a : List Nat) (x y : Nat) : Nat := a.getD (x % 5 + 5 * (y % 5)) 0

/-- Rotate left within 64 bits. -/
def rotl64 (x n : Nat) : Nat := (x * 2 ^ (n % 64)) % 2 ^ 64 ||| x / 2 ^ (64 - n % 64)

/-- The bit of the round-constant LFSR at step t. -/
def lfsr : Nat → Nat → Nat
  | 0, r => r
  | t + 1, r => let d := 2 * r; lfsr t (if 256 ≤ d then d ^^^ 0x171 else d)

def roundConst (i : Nat) : Nat :=
  (List.range 7).foldl (fun a j => if lfsr (j + 7 * i) 1 % 2 == 1 then a + 2 ^ (2 ^ j - 1) else a) 0

/-- Walk of rho and pi from lane (1, 0): the lanes reached and their rotations. -/
def rhoPi (a : List Nat) : Nat → Nat → Nat → Nat → List (Nat × Nat) → List (Nat × Nat)
  | 0, _, _, _, acc => acc
  | n + 1, x, y, t, acc =>
    let x' := y
    let y' := (2 * x + 3 * y) % 5
    rhoPi a n x' y' (t + 1) ((x' + 5 * y', rotl64 (lane a x y) ((t + 1) * (t + 2) / 2)) :: acc)

def keccakRound (a : List Nat) (i : Nat) : List Nat :=
  let c := (List.range 5).map (fun x => lane a x 0 ^^^ lane a x 1 ^^^ lane a x 2 ^^^ lane a x 3 ^^^ lane a x 4)
  let d := (List.range 5).map (fun x => c.getD ((x + 4) % 5) 0 ^^^ rotl64 (c.getD ((x + 1) % 5) 0) 1)
  let a1 := (List.range 25).map (fun k => a.getD k 0 ^^^ d.getD (k % 5) 0)
  let m := (0, a1.getD 0 0) :: rhoPi a1 24 1 0 0 []
  let b := (List.range 25).map (fun k => tget m k 0)
  let a2 := (List.range 25).map (fun k =>
    let x := k % 5
    let y := k / 5
    lane b x y ^^^ ((2 ^ 64 - 1 - lane b (x + 1) y) &&& lane b (x + 2) y))
  match a2 with
  | h :: t => (h ^^^ roundConst i) :: t
  | [] => []

def keccakF (a : List Nat) : List Nat := (List.range 24).foldl keccakRound a

/-- Xors a block of bytes into the state. -/
def absorbBlk (a : List Nat) (blk : List Byte) : List Nat :=
  keccakF ((List.range 25).map (fun k => a.getD k 0 ^^^ leNat (cut blk (8 * k) 8)))

def absorb (rate : Nat) : Nat → List Nat → List Byte → List Nat
  | 0, a, _ => a
  | n + 1, a, m => absorb rate n (absorbBlk a (m.take rate)) (m.drop rate)

/-- Padding with the domain suffix, to a multiple of the rate. -/
def keccakPad (rate sfx : Nat) (m : List Byte) : List Byte :=
  let z := rate - m.length % rate
  if z == 1 then m ++ [by8 (sfx + 0x80)] else m ++ [by8 sfx] ++ List.replicate (z - 2) 0 ++ [0x80]

def squeeze (rate : Nat) : Nat → List Nat → List Byte
  | 0, _ => []
  | n + 1, a => (a.flatMap (leBytes 8)).take rate ++ squeeze rate n (keccakF a)

/-- The sponge: n output bytes. -/
def sponge (rate sfx : Nat) (m : List Byte) (n : Nat) : List Byte :=
  let q := keccakPad rate sfx m
  (squeeze rate (cdiv n rate) (absorb rate (q.length / rate) (List.replicate 25 0) q)).take n

def sha3 (bits : Nat) (m : List Byte) : List Byte := sponge (200 - bits / 4) 6 m (bits / 8)
def shake128 (m : List Byte) (n : Nat) : List Byte := sponge 168 0x1F m n
def shake256 (m : List Byte) (n : Nat) : List Byte := sponge 136 0x1F m n

/-! HMAC and HKDF; `h384` selects SHA-384, otherwise SHA-256. -/

def sha2 (h384 : Bool) (m : List Byte) : List Byte := if h384 then sha384 m else sha256 m

def hmac (h384 : Bool) (key m : List Byte) : List Byte :=
  let bsz := if h384 then 128 else 64
  let k0 := if bsz < key.length then sha2 h384 key else key
  let k := k0 ++ List.replicate (bsz - k0.length) 0
  sha2 h384 (k.map (· ^^^ 0x5C) ++ sha2 h384 (k.map (· ^^^ 0x36) ++ m))

def hkdfGo (h384 : Bool) (prk info : List Byte) : Nat → Nat → List Byte → List Byte
  | 0, _, _ => []
  | n + 1, i, prev =>
    let t := hmac h384 prk (prev ++ info ++ [by8 i])
    t ++ hkdfGo h384 prk info n (i + 1) t

def hkdfExpand (h384 : Bool) (prk info : List Byte) (n : Nat) : List Byte :=
  (hkdfGo h384 prk info (cdiv n (if h384 then 48 else 32)) 1 []).take n

/-- HKDF-Extract with SHA-384. -/
def hkdfExtract (salt ikm : List Byte) : List Byte := hmac true salt ikm

/-! AES-256. -/

/-- Multiplication by x in GF(2^8). -/
def xtime (a : Nat) : Nat := let d := 2 * a; if 256 ≤ d then d ^^^ 0x11B else d

def gmul : Nat → Nat → Nat → Nat
  | 0, _, _ => 0
  | n + 1, a, b => (if b % 2 == 1 then a else 0) ^^^ gmul n (xtime a) (b / 2)

/-- Inverse in GF(2^8) as the 254th power. -/
def ginv (a : Nat) : Nat :=
  let m := gmul 8
  let a2 := m a a
  let a4 := m a2 a2
  let a8 := m a4 a4
  let a16 := m a8 a8
  let a32 := m a16 a16
  let a64 := m a32 a32
  let a128 := m a64 a64
  m a128 (m a64 (m a32 (m a16 (m a8 (m a4 a2)))))

def rotl8 (x n : Nat) : Nat := (x * 2 ^ n) % 256 ||| x / 2 ^ (8 - n)

def sboxCalc (a : Nat) : Nat :=
  let b := ginv a
  b ^^^ rotl8 b 1 ^^^ rotl8 b 2 ^^^ rotl8 b 3 ^^^ rotl8 b 4 ^^^ 0x63

def sbox : List Nat := (List.range 256).map sboxCalc
def sub (a : Nat) : Nat := sbox.getD a 0

/-- Key expansion: words newest first, i counting words made. -/
def expandKey : Nat → Nat → Nat → List (List Nat) → List (List Nat)
  | 0, _, _, ws => ws
  | n + 1, i, rc, ws =>
    let prev := ws.getD 0 []
    let old := ws.getD 7 []
    let t := if i % 8 == 0 then
        (match prev with | [a, b, c, d] => [sub b ^^^ rc, sub c, sub d, sub a] | _ => prev)
      else if i % 8 == 4 then prev.map sub else prev
    let w := List.zipWith (· ^^^ ·) old t
    expandKey n (i + 1) (if i % 8 == 0 then xtime rc else rc) (w :: ws)

def quads : Nat → List Nat → List (List Nat)
  | 0, _ => []
  | n + 1, l => l.take 4 :: quads n (l.drop 4)

/-- The 15 round keys of 16 bytes. -/
def roundKeys (key : List Byte) : List (List Nat) :=
  let ws := (expandKey 52 8 1 (quads 8 (key.map BitVec.toNat)).reverse).reverse
  (List.range 15).map (fun r => ((ws.drop (4 * r)).take 4).flatten)

def shiftRows (s : List Nat) : List Nat :=
  (List.range 16).map (fun i => s.getD ((i + 4 * (i % 4)) % 16) 0)

def mixCol (c : List Nat) : List Nat :=
  match c with
  | [a, b, e, d] =>
    let t := a ^^^ b ^^^ e ^^^ d
    [a ^^^ t ^^^ xtime (a ^^^ b), b ^^^ t ^^^ xtime (b ^^^ e), e ^^^ t ^^^ xtime (e ^^^ d), d ^^^ t ^^^ xtime (d ^^^ a)]
  | _ => c

def addKey (s k : List Nat) : List Nat := List.zipWith (· ^^^ ·) s k

def aesRounds : List (List Nat) → List Nat → List Nat
  | [], s => s
  | [k], s => addKey (shiftRows (s.map sub)) k
  | k :: ks, s => aesRounds ks (addKey ((quads 4 (shiftRows (s.map sub))).flatMap mixCol) k)

/-- One block under prepared round keys. -/
def aesBlock (rk : List (List Nat)) (b : List Nat) : List Nat :=
  match rk with
  | k :: ks => aesRounds ks (addKey b k)
  | [] => b

/-- AES-256 of one block of bytes. -/
def aes256 (key blk : List Byte) : List Byte :=
  (aesBlock (roundKeys key) (blk.map BitVec.toNat)).map by8

/-! GCM. -/

/-- Multiplication in GF(2^128) with GCM's bit order: z accumulates v for each 1 bit of x from the top. -/
def gfMul : Nat → Nat → Nat → Nat → Nat
  | 0, _, _, z => z
  | n + 1, x, v, z =>
    let z' := if x / 2 ^ n % 2 == 1 then z ^^^ v else z
    gfMul n x (if v % 2 == 1 then v / 2 ^^^ (0xE1 * 2 ^ 120) else v / 2) z'

def padBlk (l : List Byte) : List Byte := l ++ List.replicate ((16 - l.length % 16) % 16) 0

def ghash (h : Nat) : Nat → Nat → List Byte → Nat
  | 0, y, _ => y
  | n + 1, y, l => ghash h n (gfMul 128 (y ^^^ beNat (l.take 16)) h 0) (l.drop 16)

/-- Counter-mode keystream from a counter block. -/
def ctrStream (rk : List (List Nat)) (iv : List Nat) : Nat → Nat → List Nat
  | 0, _ => []
  | n + 1, c => aesBlock rk (iv ++ (beBytes 4 c).map BitVec.toNat) ++ ctrStream rk iv n (c + 1)

def gctr (rk : List (List Nat)) (iv : List Nat) (m : List Byte) : List Byte :=
  List.zipWith (fun (a : Byte) k => a ^^^ by8 k) m (ctrStream rk iv (cdiv m.length 16) 2)

def gcmTag (rk : List (List Nat)) (iv : List Nat) (aad ct : List Byte) : List Byte :=
  let h := beNat ((aesBlock rk (List.replicate 16 0)).map by8)
  let d := padBlk aad ++ padBlk ct ++ beBytes 8 (8 * aad.length) ++ beBytes 8 (8 * ct.length)
  let g := ghash h (d.length / 16) 0 d
  let e := beNat ((aesBlock rk (iv ++ [0, 0, 0, 1])).map by8)
  beBytes 16 (g ^^^ e)

/-- AES-256-GCM encryption with a 96-bit IV: ciphertext and tag. -/
def gcmSeal (key iv aad pt : List Byte) : List Byte × List Byte :=
  let rk := roundKeys key
  let ivn := iv.map BitVec.toNat
  let ct := gctr rk ivn pt
  (ct, gcmTag rk ivn aad ct)

/-- AES-256-GCM decryption: the plaintext, and whether the tag verifies. -/
def gcmOpen (key iv aad ct tag : List Byte) : List Byte × Bool :=
  let rk := roundKeys key
  let ivn := iv.map BitVec.toNat
  (gctr rk ivn ct, gcmTag rk ivn aad ct == tag)

/-- The key check value: bits [127:96] of AES_K(0^128) (03 R67). -/
def kcv (key : List Byte) : Word := w32 (beNat ((aes256 key (List.replicate 16 0)).take 4))

/-! CRCs. -/

def crc32cBits : Nat → Nat → Nat
  | 0, c => c
  | n + 1, c => crc32cBits n (if c % 2 == 1 then c / 2 ^^^ 0x82F63B78 else c / 2)

/-- CRC-32C with a seed (02 R46). -/
def crc32c (seed : Nat) (bytes : List Byte) : Nat :=
  (bytes.foldl (fun c b => crc32cBits 8 (c ^^^ b.toNat)) (seed ^^^ 0xFFFFFFFF)) ^^^ 0xFFFFFFFF

def crc16Bits : Nat → Nat → Nat
  | 0, c => c
  | n + 1, c => let d := 2 * c; crc16Bits n (if 65536 ≤ d then (d ^^^ 0x11021) else d)

/-- CRC-16 of 04 R86. -/
def crc16 (bytes : List Byte) : Nat := bytes.foldl (fun c b => crc16Bits 8 (c ^^^ (b.toNat * 256))) 0xFFFF

end Sys2Proof.Machine.Crypto
end

