-- ==== Sys2Proof/Machine/Link.lean ====
section
/-! DEFINITION. What leaves on a port: strait and home frames with their counters, the Asxon header and port frames
under the port key (04 R85 to R92, 12 R342). -/
namespace Sys2Proof.Machine

open Crypto

/-- CRC-32 of IEEE 802.3. -/
def crc32Bits : Nat → Nat → Nat
  | 0, c => c
  | n + 1, c => crc32Bits n (if c % 2 == 1 then c / 2 ^^^ 0xEDB88320 else c / 2)

/-- The FCS of a frame, as sent. -/
def fcs (bytes : List Byte) : List Byte :=
  leBytes 4 ((bytes.foldl (fun c b => crc32Bits 8 (c ^^^ b.toNat)) 0xFFFFFFFF) ^^^ 0xFFFFFFFF)

/-- Transmitters work: not in COLD, SEALED, Lighthouse-only or an Ember reset (16 R435, 15 R406, R423). -/
def State.txOpen (s : State) : Bool :=
  decide (s.dev.dstate ≠ .sealed) && decide (s.dev.dstate ≠ .cold) && !s.dev.lhOnly && s.dev.ember.isNone

/-- A port exists and is up (12 R343). -/
def State.portUp (s : State) (strait : Bool) (p : Nat) : Bool :=
  s.portExists strait p && ((s.port strait p).step == 6)

/-- The frames that a port takes carry the new generation's bit (13 R371). -/
def State.newGen (s : State) (strait : Bool) (p : Nat) : Bool :=
  s.gen.phase == 3 && s.gen.passed.contains (32 * b2n strait + p)

/-- Sends a whole frame on a port and counts it (12 R349). -/
def State.sendFrame (s : State) (strait : Bool) (p : Nat) (bytes : List Byte) : State :=
  ((s.portCnt strait p 7).cntAdd (pcOff strait p 8) (bytes.length + 4)).emit (.frame strait p bytes false)

/-- Ends a frame with an error block and an inverted FCS, and counts it in TX_STOMPED (12 R335). -/
def State.stompFrame (s : State) (strait : Bool) (p : Nat) (bytes : List Byte) : State :=
  (s.portCnt strait p 9).emit (.frame strait p bytes true)

/-- A MAC address held in a LO and HI register (04 R116). -/
def macOf (lo hi : Word) : List Byte := beBytes 2 (hi.toNat % 65536) ++ beBytes 4 lo.toNat

/-- The 34 authenticated bytes 0 to 33 of an Asxon frame (04 R85): MACs and header up to RSV2. -/
def asxHead (macs : List Byte) (etype type flags chan epoch pn piggy : Nat) : List Byte :=
  macs ++ beBytes 2 etype ++ [by8 (16 + type), by8 flags] ++ beBytes 2 (chan % 8192) ++ beBytes 2 epoch ++
    beBytes 8 pn ++ beBytes 4 piggy ++ [0, 0]

/-- The header check over bytes 12 to 33 (04 R86). -/
def hchk (head : List Byte) : List Byte := beBytes 2 (crc16 (cut head 12 22))

/-- IV of 96 bits: SALT xor (top 32 bits, number) (03 R64). -/
def ivOf (salt : List Byte) (top n : Nat) : List Byte :=
  List.zipWith (· ^^^ ·) salt (beBytes 4 top ++ beBytes 8 n)

/-- HDLC-like octet stuffing of GCC0 (12 R342). -/
def stuff (l : List Byte) : List Byte :=
  l.flatMap (fun b => if b == 0x7E || b == 0x7D then [0x7D, b ^^^ 0x20] else [b])

/-- The lowest-numbered port of a strait group whose link is up (04 R90). -/
def State.lowPort (s : State) (g : Nat) : Option Nat :=
  ((List.range 4).map (fun n => 4 * g + n)).find? (s.portUp true)

/-- Puts a port frame on a port: framed in GCC0 where the group is in an OTN mode. -/
def State.putPort (s : State) (p : Nat) (bytes : List Byte) : State :=
  if modeOtn (s.mode true (p / 4)) then
    s.emit (.otn true (p / 4) "GCC0" ([0x7E] ++ stuff (bytes ++ fcs bytes) ++ [0x7E]))
  else s.sendFrame true p bytes

/-- The strait MACs of a group, destination first (04 R90). -/
def State.grpMacs (s : State) (g : Nat) : List Byte :=
  macOf (s.lv (aGrp g + 0x10)) (s.lv (aGrp g + 0x14)) ++ macOf (s.lv (aGrp g + 0x08)) (s.lv (aGrp g + 0x0C))

/-- A port frame of the peer of working group w, on port p: under the port key, or in clear at EPOCH 0 with 16 zero
bytes for the tag (04 R88, R89). Nothing is sent where no transmitter may, or before 250 ms (04 R115). A frame at EPOCH 0
carries PN 0 and FLAGS 0: DESIGN CHOICE, the manual does not say (log entry 76). -/
def State.portFrameOn (s : State) (w p type : Nat) (clear : Bool) (body : List Byte) : State :=
  if !(s.txOpen && s.portUp true p) || s.dev.startHold then s
  else
    let pad := body ++ List.replicate (8 - body.length) 0
    let et := (s.lv (pAsx + 0x100)).toNat
    let macs := s.grpMacs (p / 4)
    if clear then
      let head := asxHead macs et type 0 0 0 0 0
      s.putPort p (head ++ hchk head ++ pad ++ List.replicate 16 0)
    else
      let pe := s.peer w
      let k := s.pslot 0 w (pe.portEpoch % 2)
      if pe.portEpoch == 0 || !k.valid || k.epoch != pe.portEpoch then s
      else
        let head := asxHead macs et type 0 0 pe.portEpoch pe.portPn 0
        let (ct, tag) := gcmSeal k.key (ivOf k.salt 0 pe.portPn) head pad
        (s.setPeer w { pe with portPn := pe.portPn + 1 }).putPort p (head ++ hchk head ++ ct ++ tag)

/-- A port frame of a peer on the lowest-numbered port that is up of its transmit group. -/
def State.portFrame (s : State) (w type : Nat) (clear : Bool) (body : List Byte) : State :=
  match s.lowPort (s.txGroup w) with
  | some p => s.portFrameOn w p type clear body
  | none => s

/-- The body of a control frame (04 R92). -/
def ctlBody (msg : Nat) (m : List Byte) : List Byte := [by8 msg, 0] ++ beBytes 2 m.length ++ m

/-- A control message to a peer: handshake messages go at EPOCH 0 only while no port key is installed (06 R154). -/
def State.control (s : State) (w msg : Nat) (m : List Byte) : State :=
  s.portFrame w 3 ((s.peer w).portEpoch == 0) (ctlBody msg m)

/-- One ack/credit record of 16 bytes (04 R91). -/
def ackBytes (r : AckRec) : List Byte :=
  [by8 r.rtype, 0] ++ beBytes 2 (r.chan % 8192) ++ beBytes 8 r.a ++
    (if r.rtype == 1 then beBytes 4 r.b else beBytes 2 r.b ++ [0, 0])

/-- Sends the waiting records of a peer, at most 64, in one ack/credit frame (04 R91, R101). -/
def State.flushAcks (s : State) (w : Nat) : State :=
  let pe := s.peer w
  match pe.acks with
  | [] => s
  | _ =>
    let now := pe.acks.take 64
    let s1 := s.setPeer w { pe with acks := pe.acks.drop 64 }
    s1.portFrame w 2 false (beBytes 2 now.length ++ [0, 0] ++ now.flatMap ackBytes)

/-- Adds a record for the peer of working group w; 64 waiting records leave at once (04 R101). -/
def State.pushAck (s : State) (w : Nat) (r : AckRec) : State :=
  let pe := s.peer w
  let s1 := s.setPeer w { pe with acks := pe.acks ++ [r] }
  if 64 ≤ pe.acks.length + 1 then s1.flushAcks w else s1

/-- Counts a protocol error of a group and raises ASX_EV_PROTO (04 R118). -/
def State.protoErr (s : State) (g : Nat) : State := (s.bump (aGrp g + 0x20)).raise pAsx 7

end Sys2Proof.Machine
end

