-- ==== Sys2Proof/Machine/Hbm.lean ====
section
/-! DEFINITION. The HBM stacks: stripes with their parity, pseudo-channels and their retirement, retention rings with their
waypoints, and home hold cells (04 R97 to R99, 05 R124, R130 to R133). -/
namespace Sys2Proof.Machine

open Crypto

/-! Stripes (05 R130). -/

/-- Bytes of data in a stripe: fifteen chunks of 256. -/
def stripeData : Nat := 3840

/-- Writes bytes at address a of a partition whose data stand at d and whose parity chunks stand at q, one after the other:
each parity chunk stays the XOR of the fifteen data chunks of its stripe. -/
def stripePut (m : List Host.Cell) (d q a : Nat) : List Byte → List Host.Cell
  | [] => m
  | b :: t =>
    let par := q + a / stripeData * 256 + a % 256
    stripePut (memWrite (memWrite m par (memRead m par ^^^ memRead m (d + a) ^^^ b)) (d + a) b) d q (a + 1) t

/-- Byte a of a partition, rebuilt from the other fourteen data chunks of its stripe and the parity chunk (R131). -/
def rebuiltByte (m : List Host.Cell) (d q a : Nat) : Byte :=
  (List.range 15).foldl (fun x j =>
    let o := a / stripeData * stripeData + 256 * j + a % 256
    if o == a then x else x ^^^ memRead m (d + o)) (memRead m (q + a / stripeData * 256 + a % 256))

/-- Stripe groups of the part (R129): four, or two on OZS3200-H24-I. -/
def State.stripeGroups (s : State) : Nat := if s.dev.h48 then 4 else 2

/-- Stack and pseudo-channel of pseudo-channel i of the group in which stripe t lies. -/
def State.pcAt (s : State) (t i : Nat) : Nat × Nat := (t % s.stripeGroups / 2, 16 * (t % s.stripeGroups % 2) + i)

/-- Pseudo-channel, within its group, of the parity chunk of stripe t. -/
def parityPc (t : Nat) : Nat := t % 16

/-- Pseudo-channel, within its group, of data chunk j of stripe t: the other fifteen in ascending order. -/
def dataPc (t j : Nat) : Nat := if j < parityPc t then j else j + 1

/-- The pseudo-channel is retired (R132). -/
def State.pcGone (s : State) (p : Nat × Nat) : Bool := bit (s.reg (pHbm p.1 + 0x100)) p.2

/-- Data chunk k of a partition lies here. -/
def State.chunkAt (s : State) (k : Nat) : Nat × Nat := s.pcAt (k / 15) (dataPc (k / 15) (k % 15))

/-- Data chunk k cannot be read in place: its pseudo-channel is retired, or it is among those with an error. -/
def State.chunkBad (s : State) (errs : List Nat) (k : Nat) : Bool := errs.contains k || s.pcGone (s.chunkAt k)

/-- It cannot be rebuilt either (R133): another chunk of its stripe cannot be read. -/
def State.chunkLost (s : State) (errs : List Nat) (k : Nat) : Bool :=
  s.chunkBad errs k && ((List.range 15).any (fun j => j != k % 15 && s.chunkBad errs (15 * (k / 15) + j)) ||
    s.pcGone (s.pcAt (k / 15) (parityPc (k / 15))))

/-! Retirement (05 R132, R133). -/

/-- Frames of a channel are lost in the reorder partition (R131): their marks clear, and RX_HAND is again at the lowest of them
(R127). -/
def Chan.dropHeld (x : Chan) (lost : RxFrame → Bool) : Chan :=
  let pns := (x.held.filter lost).map (·.pn)
  { x with held := x.held.filter (fun f => !lost f), marks := x.marks.filter (fun n => !pns.contains n), rxHand := pns.foldl min x.rxHand, nacked := x.nacked.filter (fun e => !pns.contains e.1) }

/-- The frames of the reorder partition that a retired pseudo-channel takes with it (R132). Where the partition keeps a frame is not
given, so which frames they are is a free choice (log entry 73). -/
def State.loseReorder (s : State) : State :=
  let lost := fun (c : Nat) (f : RxFrame) => nbit (Config.freeNat s.free) (c + 8192 * f.pn)
  if s.chans.any (fun e => e.2.held.any (lost e.1)) then { s.drawn with chans := s.chans.map (fun e => (e.1, e.2.dropHeld (lost e.1))) }
  else s

/-- Retires a pseudo-channel of a stack. -/
def State.retirePc (s : State) (h pc : Nat) : State :=
  let r := s.reg (pHbm h + 0x100)
  if bit r pc then s
  else
    let degraded := (List.range 16).any (fun i => bit r (16 * (pc / 16) + i))
    let s1 := (s.setReg (pHbm h + 0x100) (setFld r pc 1 1)).raise (pHbm h) 1
    (if degraded then s1.faultBit (pHbm h) 0 else s1).loseReorder

/-- An uncorrectable error of a pseudo-channel: RETIRE_UE of them within 1 s retire it. -/
def State.pcError (s : State) (h pc : Nat) : State :=
  let key := 32 * h + pc
  let l := (tget s.dev.hbmUes key []).filter (fun t => decide (s.dev.mono < t + 10 ^ 9)) ++ [s.dev.mono]
  let s1 := (s.withDev { s.dev with hbmUes := tput s.dev.hbmUes key l }).bump (pHbm h + 0x110)
  if fld (s.reg (pHbm h + 0x104)) 0 8 ≤ l.length then s1.retirePc h pc else s1

/-- Reads data chunks of a partition: one that cannot be read in place is rebuilt and counted, and uncorrectable errors count
toward the retirement of their pseudo-channels (R131, R132). -/
def State.readChunks (s : State) (errs l : List Nat) : State :=
  let s1 := (l.filter (s.chunkBad errs)).foldl (fun s k => s.bump (pHbm (s.chunkAt k).1 + 0x114)) s
  (l.filter errs.contains).foldl (fun s k => s.pcError (s.chunkAt k).1 (s.chunkAt k).2) s1

/-- The stack of the first of these chunks that cannot be rebuilt. -/
def State.lostAt (s : State) (errs l : List Nat) : Option Nat := (l.find? (s.chunkLost errs)).map (fun k => (s.chunkAt k).1)

/-! Retention rings (04 R97 to R99). Where the rings lie in the retention partition is not given: each is a run of stripes
of its own (log entry 73). -/

def spRing (c : Nat) : Nat := 2 ^ 60 + c * 2 ^ 37
def spRingPar (c : Nat) : Nat := 2 ^ 61 + c * 2 ^ 33
def spWays (c : Nat) : Nat := 2 ^ 62 + c * 2 ^ 28

/-- First stripe of the ring of channel c. -/
def ringStripe (c : Nat) : Nat := c * 2 ^ 25

/-- The n bytes at offset o of channel c's ring, past its end on from its start. -/
def State.ringGet (s : State) (c o n : Nat) : List Byte :=
  let r := (s.chan c).ring
  let first := min n (r - o)
  memBytes s.mem (spRing c + o) first ++ memBytes s.mem (spRing c) (n - first)

/-- Writes bytes at offset o of channel c's ring, with their parity. -/
def State.ringPut (s : State) (c o : Nat) (b : List Byte) : State :=
  let first := (s.chan c).ring - o
  s.withMem (stripePut (stripePut s.mem (spRing c) (spRingPar c) o (b.take first)) (spRing c) (spRingPar c) 0 (b.drop first))

/-- The first 20 bytes of a record's inline header. -/
def Ret.head20 (r : Ret) : List Byte :=
  [by8 (b2n r.void + 2 * b2n (r.pn % 64 == 0)), 0] ++ leBytes 2 r.len ++ leBytes 8 r.pn ++ leBytes 2 r.epoch ++
    leBytes 2 r.units ++ leBytes 4 (r.tsent / 1000)

/-- The inline header: RCRC is CRC-32C with seed 0, inverted where an injection says so (16 R440). -/
def Ret.header (r : Ret) (bad : Bool) : List Byte :=
  let c := crc32c 0 r.head20
  r.head20 ++ leBytes 4 (if bad then c ^^^ 0xFFFFFFFF else c)

/-- Bytes of a record: its header and the stored bytes. -/
def Ret.size (r : Ret) : Nat := 24 + r.len

/-- A waypoint. -/
def waypoint (pn off : Nat) : List Byte :=
  let b := leBytes 8 pn ++ leBytes 5 off ++ [0]
  b ++ leBytes 2 (crc16 b)

/-- Address of the waypoint of a PN in the array of channel c: 133 entries per MiB of its share. -/
def State.wayAddr (s : State) (c pn : Nat) : Nat := spWays c + 16 * (pn / 64 % (133 * ((s.chan c).ring / 2 ^ 20)))

/-- Appends a record with its stored bytes to the ring of channel c, and its waypoint. -/
def State.putRet (s : State) (c : Nat) (r : Ret) (frame : List Byte) (bad : Bool) : State :=
  let x := s.chan c
  let ring := if x.ret.isEmpty then fld (s.txw false c 2) 0 16 * 2 ^ 20 else x.ring
  let q := { r with off := x.head, len := frame.length }
  let s1 := s.setChan c { x with ret := x.ret ++ [q], ring := ring, head := (x.head + q.size) % ring }
  let s2 := s1.ringPut c q.off (q.header bad ++ frame)
  if q.pn % 64 == 0 then s2.withMem (memPut s2.mem (s2.wayAddr c q.pn) (waypoint q.pn q.off)) else s2

/-- Walks forward through the inline headers from offset o, at most k of them, to the header that holds the PN. A header whose
RCRC fails ends the walk. -/
def State.walkRet (s : State) (c pn : Nat) : Nat → Nat → Option Nat
  | 0, _ => none
  | k + 1, o =>
    let h := s.ringGet c o 24
    if crc32c 0 (h.take 20) != leNat (h.drop 20) then none
    else if leNat (cut h 4 8) == pn then some o
    else s.walkRet c pn k ((o + 24 + leNat (cut h 2 2)) % (s.chan c).ring)

/-- Where a fetch of a PN begins: at its waypoint, or, where that lies before the oldest record, at the tail (log entry 73);
none when WCRC fails. -/
def State.walkFrom (s : State) (c pn : Nat) : Option Nat :=
  let x := s.chan c
  let base := pn - pn % 64
  match x.ret with
  | [] => none
  | r :: _ =>
    if base < r.pn then some x.tail
    else
      let w := memBytes s.mem (s.wayAddr c base) 16
      if crc16 (w.take 14) == leNat (w.drop 14) && leNat (w.take 8) == base then some (leNat (cut w 8 5)) else none

/-- The fetch of PN p (R98): the ring offset of its record. -/
def State.fetchRet (s : State) (c pn : Nat) : Option Nat :=
  match s.walkFrom c pn with
  | some o => s.walkRet c pn 64 o
  | none => none

/-- The chunks that a record of channel c touches. -/
def State.ringChunks (s : State) (c : Nat) (r : Ret) : List Nat :=
  (List.range (cdiv (r.off % 256 + r.size) 256)).map (fun i => 15 * ringStripe c + (r.off / 256 + i) % ((s.chan c).ring / 256))

/-! Home hold (05 R124). Which cells a frame takes is not given: the lowest free ones (log entry 73). -/

def spHold : Nat := 13 * 2 ^ 40
def spHoldPar : Nat := 14 * 2 ^ 40

/-- The lowest n numbers that are not in a list. -/
def freeCells (used : List Nat) (n : Nat) : List Nat := ((List.range (used.length + n)).filter (fun i => !used.contains i)).take n

/-- Writes a frame into cells of home hold, with their parity. -/
def holdPut (m : List Host.Cell) : List Nat → List Byte → List Host.Cell
  | [], _ => m
  | k :: t, b => holdPut (stripePut m spHold spHoldPar (256 * k) (b.take 256)) t (b.drop 256)

/-- The bytes of cells of home hold. -/
def holdGet (m : List Host.Cell) (cells : List Nat) : List Byte := cells.flatMap (fun k => memBytes m (spHold + 256 * k) 256)

end Sys2Proof.Machine
end

