-- ==== Sys2Proof/Machine/Chan.lean ====
section
/-! DEFINITION. Channels: occupancy and watermarks, back-pressure, acknowledgement records, closing and flushing
(01 R31, R32, 04 R99 to R106, 05 R119 to R138). -/
namespace Sys2Proof.Machine

/-- Cells of a home frame, whose length counts its FCS (05 R122). -/
def cellsOf (f : List Byte) : Nat := cdiv (f.length + 4) 256

/-- Q_OCC: cells queued, those of frames not yet retained included (04 R117). -/
def Chan.qOcc (c : Chan) : Nat :=
  c.q.foldl (fun a f => a + cellsOf f.bytes) 0 + c.flight.foldl (fun a f => if f.retained then a else a + cellsOf f.bytes) 0

/-- RET_OCC: ring bytes in use in 256-byte units. -/
def Chan.retOcc (c : Chan) : Nat := cdiv (c.ret.foldl (fun a r => a + r.size) 0) 256

/-- REORDER_OCC: units of the frames held. -/
def Chan.reorderOcc (c : Chan) : Nat := c.held.foldl (fun a f => a + f.units) 0

/-- OCC (05 R134). -/
def Chan.occ (c : Chan) : Nat := c.qOcc + c.retOcc + c.resv

/-- Transmit-pool cells a channel uses: queue, frames not released, reservations. -/
def Chan.cells (c : Chan) : Nat :=
  c.q.foldl (fun a f => a + cellsOf f.bytes) 0 + c.flight.foldl (fun a f => a + cellsOf f.bytes) 0 + c.resv

/-- Cells of a queue in home hold. -/
def Chan.holdCells (c : Chan) : Nat := c.q.foldl (fun a f => if f.onChip then a else a + cellsOf f.bytes) 0

/-- Receive-queue cells. -/
def Chan.rxCells (c : Chan) : Nat :=
  c.rq.foldl (fun a f => a + cellsOf f.bytes) 0 + c.waitKey.foldl (fun a f => a + cellsOf f.bytes) 0

/-- RX_CELLS of the live split (05 R123). -/
def State.rxPart (s : State) : Nat := fld (s.lv (pQmg + 0x100)) 0 18
/-- RX_ONCHIP in cells. -/
def State.rxOnchip (s : State) : Nat := 16 * fld (s.lv (pQmg + 0x100)) 18 14
/-- The transmit pool of a generation in cells (05 R119, R124). -/
def State.poolOf (s : State) (new : Bool) : Nat :=
  (262144 - fld (s.cv new (pQmg + 0x100)) 0 18) + fld (s.cv new (pQmg + 0x120)) 0 8 * 2 ^ 20 * 15 / 16
/-- The transmit pool of the live generation. -/
def State.poolSize (s : State) : Nat := s.poolOf false
/-- POOL_OCC. -/
def State.poolOcc (s : State) : Nat := s.chans.foldl (fun a e => a + e.2.cells) 0
/-- HOLD_OCC. -/
def State.holdOcc (s : State) : Nat := s.chans.foldl (fun a e => a + e.2.holdCells) 0
/-- Receive-part cells in use. -/
def State.rxUsed (s : State) : Nat := s.chans.foldl (fun a e => a + e.2.rxCells) 0
/-- Cells reserved in home hold by frames still arriving. -/
def State.holdResv (s : State) : Nat :=
  s.ports.foldl (fun a e => match e.2.arr with | some r => if r.onChip then a else a + r.resv | none => a) 0
/-- Free cells of the transmit part on chip, in a generation. -/
def State.txFreeOf (s : State) (new : Bool) : Nat :=
  (262144 - fld (s.cv new (pQmg + 0x100)) 0 18) - (s.poolOcc - s.holdOcc - s.holdResv)
/-- The same in the live generation. -/
def State.txFree (s : State) : Nat := s.txFreeOf false
/-- POOL_HELD. -/
def State.poolHeld (s : State) : Bool := bit (s.reg (pQmg + 0x13C)) 0

/-! Back-pressure (05 R134 to R138, 16 R435). -/

/-- The channel asserts flow control. -/
def State.pressed (s : State) (c : Nat) : Bool :=
  let x := s.chan c
  decide (x.st = .held) || x.beHeld || (s.poolHeld && decide (0 < x.holdCells))

/-- What a home port's XOFF should be: PAUSE and the PFC priorities. -/
def State.xoffWant (s : State) (p : Nat) : Bool × Nat :=
  let en := s.lv (pQmg + 0x200 + 4 * p)
  if s.isSealed then
    if !(s.portExists false p && !modeOtn (s.mode false (p / 4))) then (false, 0)
    else if bit en 0 then (true, 0) else if bit en 1 then (false, 255) else (false, 0)
  else
    let cs := (s.chans.map (·.1)).filter (fun c => nbit (s.chan c).srcMask p && s.pressed c)
    (bit en 0 && cs.any (fun c => !bit (s.txw false c 0) 12),
     if bit en 1 then cs.foldl (fun a c => let w := s.txw false c 0
       if bit w 12 then setNBit a (fld w 13 3) true else a) 0 else 0)

/-- Sends one PAUSE or PFC frame on a home port that is up (05 R138). -/
def State.sendPause (s : State) (p : Nat) (pfc : Bool) (enables : Nat) (times : List Nat) : State :=
  if s.portUp false p then
    ((s.bump (pQmg + 0x280 + 4 * p)).portCnt false p 10).emit (.pause p pfc enables times)
  else s

/-- QUANTA for the priorities of a mask, 0 for the others. -/
def pfcTimes (mask quanta : Nat) : List Nat := (List.range 8).map (fun i => if nbit mask i then quanta else 0)

/-- Sends one PFC frame: it carries every priority in XOFF, and those whose XOFF ends with quanta 0. -/
def State.sendPfc (s : State) (p on gone quanta : Nat) : State := s.sendPause p true (on ||| gone) (pfcTimes on quanta)

/-- Brings a port's XOFF up to date: entering sends the quanta, ending sends quanta 0. -/
def State.xoffPort (s : State) (p : Nat) : State :=
  let (pa, pf) := s.xoffWant p
  let x := s.port false p
  let quanta := fld (s.lv (pQmg + 0x114)) 0 16
  let s1 := s.setPort false p { x with xoffPause := pa, xoffPfc := pf }
  let s2 := if pa && !x.xoffPause then s1.sendPause p false 0 [quanta]
    else if !pa && x.xoffPause then s1.sendPause p false 0 [0] else s1
  if pf != x.xoffPfc then s2.sendPfc p pf (x.xoffPfc &&& (255 - pf)) quanta else s2

/-- Brings every home port's XOFF up to date. -/
def State.xoffAll (s : State) : State := (List.range 32).foldl State.xoffPort s

/-- Pool watermarks (05 R136). -/
def State.poolMark (s : State) : State :=
  let w := s.lv (pQmg + 0x108)
  let pool := s.poolSize
  let used := s.poolOcc
  if !s.poolHeld && decide (pool * fld w 0 8 / 256 ≤ used) then
    (s.setReg (pQmg + 0x13C) 1).raise pQmg 1
  else if s.poolHeld && decide (used < pool * fld w 8 8 / 256) then s.setReg (pQmg + 0x13C) 0
  else s

/-- Channel watermarks (05 R134): HELD and ACTIVE of an Assured channel, the queue marks of a Best-effort one. -/
def State.chanMark (s : State) (c : Nat) : State :=
  let x := s.chan c
  if s.assured c then
    let share := fld (s.txw false c 2) 0 16
    if x.st = .active && decide (16 * fld (s.txw false c 2) 16 8 * share ≤ x.occ) then
      (s.setChan c { x with st := .held }).raise pQmg 0
    else if x.st = .held && decide (x.occ < 16 * fld (s.txw false c 2) 24 8 * share) then
      s.setChan c { x with st := .active }
    else s
  else if s.cls c == 1 then
    let lim := fld (s.lv (pQmg + 0x10C)) 0 16
    if !x.beHeld && decide (3 * lim ≤ 4 * x.qOcc) then s.setChan c { x with beHeld := true }
    else if x.beHeld && decide (2 * x.qOcc < lim) then s.setChan c { x with beHeld := false }
    else s
  else s

/-- Everything that follows a change of a channel's occupancy. -/
def State.settle (s : State) (c : Nat) : State := ((s.chanMark c).poolMark).xoffAll

/-! Acknowledgements (04 R100, R101). -/

/-- CLIMIT the receiver advertises. -/
def State.climitOf (s : State) (c : Nat) : Nat :=
  ((s.chan c).released + 4096 * fld (s.rxw false c 1) 0 16) % 2 ^ 32

/-- Queues an ACK record with the current cumulative ack and CLIMIT. -/
def State.sendAck (s : State) (c : Nat) : State :=
  let x := s.chan c
  let n := x.rxNext - 1
  let l := s.climitOf c
  (s.setChan c { x with ackSent := n, ackLimit := l, ackFrames := 0 }).pushAck
    (s.home_ (s.spg c)) { rtype := 1, chan := c, a := n, b := l }

/-- u32(b - a) < 2^31: a is not beyond b (04 R100). -/
def notBeyond (a b : Nat) : Bool := decide ((b + 2 ^ 32 - a % 2 ^ 32) % 2 ^ 32 < 2 ^ 31)

/-- Credit units of a strait frame (04 R99). -/
def unitsOf (straitLen : Nat) : Nat := cdiv straitLen 256

/-! Reports and closing. -/

/-- Sets GAP on a channel and raises ASX_EV_GAP (04 R113). -/
def State.setGap (s : State) (c : Nat) : State :=
  let x := s.chan c
  if x.gap then s
  else ((s.setChan c { x with gap := true }).bump (aGrp (s.home_ (s.spg c)) + 0x3C)).raise pAsx 5

/-- Discards the frames held for reorder and counts them in LF_FLUSHED; received marks of frames not in the receive
queue clear, and RX_HAND is again the lowest PN neither received nor void (04 R113). -/
def lowestMissing (marks : List Nat) (voids : List (Nat × Nat)) : Nat → Nat → Nat
  | 0, n => n
  | k + 1, n => if marks.contains n || voids.any (fun v => v.1 == n) then lowestMissing marks voids k (n + 1) else n

def State.flushHeld (s : State) (c : Nat) : State :=
  let x := s.chan c
  let marks := x.marks.filter (fun p => x.rq.any (fun f => f.pn == p))
  let hand := lowestMissing marks x.voids (marks.length + x.voids.length + 1) x.rxNext
  (s.setChan c { x with held := [], marks := marks, rxHand := hand, nacked := [] }).bumpBy
    (aGrp (s.home_ (s.spg c)) + 0x38) x.held.length

/-- Invalidates both slots of a channel in both directions: its epoch keys go at closure (06 R146). -/
def State.dropKeys (s : State) (c : Nat) : State :=
  ({ s with slots := s.slots.filter (fun e => e.1 % 16384 / 2 != c) } : State).withVault
    { s.vault with heldWrites := s.vault.heldWrites.filter (fun w => w.chan != c) }

/-- Sends a CLOSE record for the channel to its peer, while that peer is JOINED (02 R43, 04 R91). -/
def State.sendClose (s : State) (c reason : Nat) : State :=
  let w := s.home_ (s.spg c)
  if s.asxon c && (s.peer w).sub = .joined then
    s.pushAck w { rtype := 4, chan := c, a := (s.chan c).txNext - 1, b := reason }
  else s

/-- Sensing state of a group: 0 OFF, 1 LEARNING, 2 ARMED, 3 SUSPENDED (11 R324). -/
def State.senseMode (s : State) (g : Nat) : Nat := fld (s.reg (sGrp g + 0x08)) 0 2
def State.setSenseMode (s : State) (g m : Nat) : State := s.setRegFld (sGrp g + 0x08) 0 2 m

/-- A group stops probing: OFF (11 R324). -/
def State.senseOff (s : State) (g : Nat) : State := s.setReg (sGrp g + 0x08) 0

/-- A peer goes UNKEYED: its port key is discarded (04 R112). -/
def State.goUnkeyed (s : State) (w : Nat) : State :=
  let pe := s.peer w
  let s1 := s.setPeer w { pe with sub := .unkeyed, portEpoch := 0, portNew := false, portPn := 0, rw := [], acks := [], resync := false, doneSent := false, doneGot := false }
  ((s.groupsOf w).foldl State.senseOff { s1 with portSlots := s1.portSlots.filter (fun e => e.1 % 16 / 2 != w) }).tally

/-- No enabled Asxon or Stream channel of the peer holds a key (01 R29). -/
def State.noChanKeys (s : State) (w : Nat) : Bool :=
  (s.peerChans w (fun c => s.asxon c || s.isStream c)).all (fun c =>
    let x := s.chan c
    x.st = .closed || (x.st = .idle && x.curEpoch == 0 && !(s.slot 0 c 0).valid && !(s.slot 0 c 1).valid))

/-- STRANDED goes UNKEYED when no channel holds a key. -/
def State.strandCheck (s : State) (w : Nat) : State :=
  if (s.peer w).sub = .stranded && s.noChanKeys w then s.goUnkeyed w else s

/-- A channel goes CLOSED (01 R31, R32): queued and retained frames, and those that wait for a replay, are discarded and counted
once each, held frames are flushed, its keys go, the writes held for its slots among them (06 R146), and its back-pressure
ends. With the last key of a STRANDED peer the peer goes UNKEYED (R29). A channel already CLOSED is left. -/
def State.closeChan (s : State) (c : Nat) : State :=
  let x := s.chan c
  if x.st = .closed then s
  else
    let n := x.q.length + (x.flight.filter (·.replay)).length + (x.ret.filter (fun r => !r.void)).length
    let s1 := (s.cntAdd (ccOff c 8) n).flushHeld c
    let y := s1.chan c
    (((s1.setChan c { y with st := .closed, q := [], ret := [], tail := y.head, flight := [], waitKey := [], beHeld := false, resync := false, unconfirmed := false, curEpoch := 0, rxEpoch := 0, esw := false, nextSent := 0, readyWait := 0, ratchetHeld := false }).dropKeys c).settle c).strandCheck (s.home_ (s.spg c))

/-- Closes a channel that runs and reports it to the peer with a reason. -/
def State.closeReport (s : State) (c reason : Nat) : State :=
  if (s.chan c).st = .closed then s else (s.sendClose c reason).closeChan c

/-- A channel with a confirmed current key enters ACTIVE from IDLE when its conditions hold (01 R31, 04 R94, R101):
enabled, a current epoch key and, for Asxon and Stream, its peer JOINED. -/
def State.activate (s : State) (c : Nat) : State :=
  let x := s.chan c
  let w := s.home_ (s.spg c)
  if x.st = .idle && s.chEn c && x.curEpoch != 0 && (s.slot 0 c x.cur).valid &&
      (s.macsec c || (s.peer w).sub = .joined) then
    let pn := if s.macsec c then (s.slot 0 c x.cur).pn0 else 1
    let s1 := s.setChan c { x with st := .active, txNext := pn, acked := 0, csent := 0, climit := 0, guard := 1, ackFrames := 0, ackChange := s.dev.mono, ret := [], head := 0, tail := 0 }
    if s1.assured c then s1.sendAck c else s1
  else s

/-- A channel goes CLOSED → IDLE when a new key is installed for it (01 R31); its gap report ends (04 R117). -/
def State.reopen (s : State) (c : Nat) : State :=
  let x := s.chan c
  if x.st = .closed then s.setChan c { x with st := .idle, txNext := 0, gap := false, rxNext := 1, rxHand := 1, released := 0, highest := 0, marks := [], voids := [], nacked := [], beHi := 0, beSeen := [] }
  else s.setChan c { x with gap := false }

/-- The round trip of a group in ns (04 R103). -/
def State.roundTrip (s : State) (g : Nat) : Nat :=
  let r := (s.reg (aGrp g + 0x18)).toNat
  if r == 0 then 1000000 else r

end Sys2Proof.Machine
end

