-- ==== Sys2Proof/Machine/Tx.lean ====
section
/-! DEFINITION. The transmit side of the datapath: admission, acceptance, encryption, cut-through, retention, replay and
retransmission (03 R58 to R78, 04 R94 to R105, 05 R119 to R127, R134, R135). -/
namespace Sys2Proof.Machine

open Crypto

/-- Home frame length L, FCS included. -/
def lenOf (bytes : List Byte) : Nat := bytes.length + 4

/-- MAX_LEN of a channel in a copy; 0 means 10,240 (02 R38). -/
def State.maxLen (s : State) (new : Bool) (c : Nat) : Nat :=
  let m := fld (s.txw new c 1) 0 14
  if m == 0 then 10240 else m

/-- The strait port that carries a channel: SPORT of the group that carries its transmit path (02 R36, R50). -/
def State.txPort (s : State) (c : Nat) : Nat := 4 * s.txGroup (s.spg c) + s.sport c

/-! Frame formats. -/

/-- An Asxon data frame without its FCS (03 R58, R59, R64). -/
def State.asxFrame (s : State) (c : Nat) (k : KeySlot) (pn flags piggy : Nat) (home : List Byte) : List Byte :=
  let head := asxHead (home.take 12) (s.lv (pAsx + 0x100)).toNat 1 flags c k.epoch pn piggy
  let (ct, tag) := gcmSeal k.key (ivOf k.salt 0 pn) head (home.drop 12)
  head ++ hchk head ++ ct ++ tag

/-- Bytes of a confidentiality offset code. -/
def confBytes (code : Nat) : Nat := if code == 1 then 30 else if code == 2 then 50 else 0

/-- An SCI as sent: most significant byte first (02 R38). -/
def sciBytes (lo hi : Word) : List Byte := beBytes 4 hi.toNat ++ beBytes 4 lo.toNat

/-- An 802.1AE frame without its FCS (03 R60, R64). -/
def State.macsecFrame (s : State) (c : Nat) (k : KeySlot) (pn fmt conf : Nat) (home : List Byte) : List Byte :=
  let sd := home.drop 12
  let tci := 0x0C + (if fmt == 1 then 0x20 else 0) + k.epoch % 4
  let sl := if sd.length < 48 then sd.length else 0
  let tag := [0x88, 0xE5, by8 tci, by8 sl] ++ beBytes 4 (pn % 2 ^ 32) ++
    (if fmt == 1 then sciBytes (s.txw false c 4) (s.txw false c 5) else [])
  let off := confBytes conf
  let aad := home.take 12 ++ tag ++ sd.take off
  let (ct, icv) := gcmSeal k.key (ivOf k.salt k.ssci.toNat pn) aad (sd.drop off)
  aad ++ ct ++ icv

/-! Conditions for sending. -/

/-- A channel that runs may put a retransmission on its strait port (04 R103, R113): its peer JOINED or LANDFALL, a path up, and
the peer's STATE record here where one is awaited; for an 802.1AE channel its strait port is up. -/
def State.resendAllowed (s : State) (c : Nat) : Bool :=
  let x := s.chan c
  let sub := (s.peer (s.home_ (s.spg c))).sub
  s.txOpen && s.portUp true (s.txPort c) && (x.st = .active || x.st = .held) &&
  (s.macsec c || ((sub = .joined || sub = .landfall) && (s.path (s.txGroup (s.spg c))).up && !x.resync && !s.dev.startHold))

/-- Sending allowed (04 R105, R108): for an Asxon channel its peer is JOINED. -/
def State.sendAllowed (s : State) (c : Nat) : Bool :=
  s.resendAllowed c && (s.macsec c || (s.peer (s.home_ (s.spg c))).sub = .joined)

/-- The lane unit that serves a channel's frames in a direction. -/
def State.unitFor (s : State) (d c : Nat) : Option Nat := s.unitOf d (s.spg c) false

/-- A frame of u units has credit (04 R100). -/
def State.hasCredit (s : State) (c u : Nat) : Bool :=
  let x := s.chan c
  !s.assured c || notBeyond (x.csent + u) x.climit

/-- Its retention record fits the free space of the ring (05 R135). -/
def State.ringFits (s : State) (c straitLen : Nat) : Bool :=
  !s.assured c || decide (((s.chan c).ret.foldl (fun a r => a + r.size) 0) + straitLen + 20 ≤
    fld (s.txw false c 2) 0 16 * 2 ^ 20)

/-- PIGGYBACK of a data frame (04 R102). -/
def State.piggy (s : State) (c : Nat) : Nat :=
  if s.assured c then ((s.chan c).rxNext - 1) % 2 ^ 20 * 4096 + s.climitOf c % 4096 else 0

/-- A frame of the channel with these home bytes may be sent now: no replay waits before it, and it has credit, ring space, a lane
unit and a key. -/
def State.mayEncrypt (s : State) (c : Nat) (bytes : List Byte) : Bool :=
  let k := s.slot 0 c (s.chan c).cur
  s.sendAllowed c && !(s.chan c).flight.any (·.replay) && (s.unitFor 0 c).isSome && k.valid && !k.bad && (s.chan c).curEpoch != 0 &&
  (s.macsec c || decide (k.count < 2 ^ 30)) &&
  s.hasCredit c (unitsOf (lenOf bytes + 40)) && s.ringFits c (lenOf bytes + 40)

/-! The strait transmitter's round (05 R140). Its order within a round, what a frame costs and what becomes of the deficit of a
channel with no eligible frame are the model's choice (log entry 71). -/

/-- Strait length of a home frame of L bytes in a format (03 R58, R60). -/
def straitLen (fmt L : Nat) : Nat := if fmt == 0 then L + 40 else if fmt == 1 then L + 32 else L + 24

/-- The lowest PN marked for retransmission. -/
def Chan.marked (x : Chan) : Option Ret := x.ret.find? (fun r => r.rtx && !r.void)

/-- Strait length of the frame that channel c has eligible, retransmissions before new frames (R103, R105, R135). -/
def State.nextLen (s : State) (c : Nat) : Option Nat :=
  let x := s.chan c
  match x.marked with
  | some r => if s.resendAllowed c then some (r.len + 4) else none
  | none =>
    match x.q with
    | [] => none
    | f :: _ => if f.onChip && s.mayEncrypt c f.bytes then some (straitLen f.fmt (lenOf f.bytes)) else none

/-- The channels with an eligible frame on strait port p, ascending. -/
def State.eligible (s : State) (p : Nat) : List (Nat × Nat) :=
  (((s.chans.map (·.1)).filter (fun c => s.txPort c == p)).foldl (fun a c => insAsc c a) []).filterMap
    (fun c => (s.nextLen c).map (fun n => (c, n)))

/-- What a round adds to the deficit of a channel; a weight of 0 acts as 1 (02 R38). -/
def State.quantum (s : State) (c : Nat) : Nat := 256 * max 1 (fld (s.txw false c 1) 16 16)

/-- Deficit-weighted round robin: the channel served last goes on while its deficit lasts; else the next channels get their
quantum in turn until one's deficit covers its frame. Gives the channel and the port with its new deficits. -/
def State.pick_ (s : State) (p : Nat) (l : List (Nat × Nat)) : Option (Nat × Port) :=
  let po := s.port true p
  let d := fun c => tget po.deficits c 0
  match l.find? (fun e => e.1 == po.turn && decide (e.2 ≤ d e.1)) with
  | some (c, n) => some (c, { po with deficits := l.map (fun e => (e.1, if e.1 == c then d c - n else d e.1)) })
  | none =>
    let order := l.filter (fun e => decide (po.turn < e.1)) ++ l.filter (fun e => decide (e.1 ≤ po.turn))
    let visits := fun (e : Nat × Nat) => max 1 (cdiv (e.2 - d e.1) (s.quantum e.1))
    match order.foldl (fun (m : Option (Nat × Nat)) e => match m with
        | none => some e
        | some b => if visits e < visits b then some e else some b) none with
    | none => none
    | some b =>
      let v := visits b
      let before := (order.takeWhile (fun e => e.1 != b.1)).map (·.1)
      some (b.1, { po with turn := b.1, deficits := l.map (fun e => (e.1,
        if e.1 == b.1 then d b.1 + v * s.quantum b.1 - b.2
        else d e.1 + (if before.contains e.1 then v else v - 1) * s.quantum e.1)) })

/-- The round of strait port p picks channel c, whose eligible frame has n bytes: the port afterwards. -/
def State.turnOf (s : State) (p c n : Nat) : Option Port :=
  let l := s.eligible p
  let l1 := if l.any (fun e => e.1 == c) then l else l.takeWhile (fun e => decide (e.1 < c)) ++ [(c, n)] ++ l.dropWhile (fun e => decide (e.1 < c))
  match s.pick_ p l1 with
  | some (k, po) => if k == c then some po else none
  | none => none

/-! The lane units (03 R73 to R76). -/

/-- ASSIGN of a unit. -/
def State.assignOf (s : State) (d n : Nat) : Word := s.reg (pLane d n + 0x100)

/-- The unit is out of service with a role that waits for another unit (03 R75, R76). -/
def State.roleWaits (s : State) (d n : Nat) : Bool :=
  let a := s.assignOf d n
  fld a 0 4 != 15 && (bit a 5 || (s.laneU d n).resetting)

/-- The unit whose waiting role has the lowest group. -/
def State.lowestWaiting (s : State) (d : Nat) : Option Nat :=
  ((List.range 9).filter (s.roleWaits d)).foldl (fun (m : Option Nat) n => match m with
    | none => some n
    | some k => if fld (s.assignOf d n) 0 4 < fld (s.assignOf d k) 0 4 then some n else some k) none

/-- The unit that carries the role of a lane of a group, in service or not. -/
def State.roleAt (s : State) (d g : Nat) (lane1 : Bool) : Option Nat :=
  (List.range 9).find? (fun n => let a := s.assignOf d n; fld a 0 4 == g && bit a 6 == lane1)

/-- The unit that carries the role of lane 0 of a group. -/
def State.roleOf (s : State) (d g : Nat) : Option Nat := s.roleAt d g false

/-- The unit whose group is left without one when unit n squelches (03 R76): n, where no unit is warm; where another role waits
for the spare already, the one of the higher group. -/
def State.leftOut (s : State) (d n : Nat) : Option Nat :=
  if fld (s.assignOf d n) 0 4 == 15 || s.roleWaits d n then none
  else if (s.spare d).isNone then some n
  else match s.lowestWaiting d with
    | none => none
    | some k => if fld (s.assignOf d n) 0 4 < fld (s.assignOf d k) 0 4 then some k else some n

/-- Every unreleased frame of a group is marked for replay (03 R73), and one that is being sent in cut-through is ended. -/
def State.markReplay (s : State) (g : Nat) : State :=
  let s1 := (List.range 32).foldl (fun s p => match (s.port false p).arr with
    | some a => if s.spg a.chan == g && a.cutPn.isSome && !a.cutEnded then
        (s.setPort false p { s.port false p with arr := some { a with cutEnded := true } }).stompFrame true (s.txPort a.chan) (a.cutFrame.take (a.bytes.length - 4))
      else s
    | none => s) s
  { s1 with chans := s1.chans.map (fun e => if s1.spg e.1 == g then (e.1, { e.2 with flight := e.2.flight.map (fun f => { f with replay := true }) }) else e) }

/-- Squelch of a unit (03 R73): FAILED, the count and the event, and on an encrypt unit the frames marked for replay. A group left
without a unit is reported on the page of the unit that carried it; the manual does not say on whose page (log entry 26). -/
def State.squelch (s : State) (d n : Nat) (fail : Bool) : State :=
  let pg := pLane d n
  let s1 := (s.bump (pg + 0x110)).raise pg 0
  let s2 := if fail then s1.setReg (pg + 0x100) (setFld (s1.reg (pg + 0x100)) 5 1 1) else s1
  let s3 := s2.setReg (pg + 0x100) (setFld (s2.reg (pg + 0x100)) 4 1 0)
  let s4 := if d == 0 && fld (s.assignOf d n) 0 4 != 15 then s3.markReplay (fld (s.assignOf d n) 0 4) else s3
  match s.leftOut d n with
  | some k => s4.raise (pLane d k) 2
  | none => s4

/-- What a word comparison captures, while MM_INFO.VALID is 0 (03 R73, R82). -/
def State.capture (s : State) (d n c pn word : Nat) : State :=
  let pg := pLane d n
  if bit (s.reg (pg + 0x130)) 13 then s
  else ((s.setReg (pg + 0x130) (w32 (c % 8192 + 8192 + 65536 * (word % 1024)))).setReg (pg + 0x134)
    (w32 pn)).setReg (pg + 0x138) (w32 (pn / 2 ^ 32))

/-- The first and last words of a frame that are all ciphertext, when ciphertext stands at bytes a to b. -/
def cipherWords (a b : Nat) : Option (Nat × Nat) := if 32 * (cdiv a 32 + 1) ≤ b then some (cdiv a 32, b / 32 - 1) else none

/-- Where the ciphertext of a frame starts, by the FORMAT and CONF_OFF of its generation (03 R57). -/
def cipherAt (fmt conf : Nat) : Nat := if fmt == 0 then 36 else 20 + (if fmt == 1 then 8 else 0) + confBytes conf

/-- What the leak guard of a unit finds, an injected disagreement or echo match included (16 R440). The echo check looks at
words that are all ciphertext, on encrypt units only (03 R72). -/
def State.lgAt (s : State) (d n : Nat) (ct : Option (Nat × Nat)) (lg : LgOutcome) : LgOutcome :=
  if s.saf.injected.contains (pLane d n, 0) then .mismatch 0
  else match ct, lg with
    | some (a, b), .echo w => if s.saf.injected.contains (pLane d n, 1) then .echo a else if a ≤ w && w ≤ b then .echo w else .agree
    | some (a, _), o => if s.saf.injected.contains (pLane d n, 1) then .echo a else o
    | none, .echo _ => .agree
    | none, o => o

/-- Counts a corrected error that shows while a frame passes (03 R67, R84, 05 R127). -/
def State.corrected (s : State) (d n : Nat) (lg : LgOutcome) : State :=
  match lg with
  | .keyCe => (s.bump (pLane d n + 0x11C)).raise (pLane d n) 5
  | .bufCe => s.bump (pQmg + 0x14C)
  | _ => s

/-- Squelch by a twin disagreement or an echo match: its fault bit, capture and, for echoes, ECHO_CNT. -/
def State.squelchCmp (s : State) (d n c pn word : Nat) (echo : Bool) : State :=
  let pg := pLane d n
  let b := if echo then 1 else 0
  let s0 := s.withSaf { s.saf with injected := s.saf.injected.filter (· != (pg, b)) }
  let s1 := (s0.faultBit pg b).capture d n c pn word
  (if echo then s1.bump (pg + 0x118) else s1).squelch d n true

/-- Counts a frame through the leak guard of a unit. -/
def State.laneFrame (s : State) (d n : Nat) : State :=
  s.setLaneU d n { s.laneU d n with frames := (s.laneU d n).frames + 1 }

/-! Sending. -/

/-- Puts a strait data frame on the port that carries the channel. -/
def State.emitData (s : State) (c : Nat) (frame : List Byte) : State := s.sendFrame true (s.txPort c) frame

/-- Appends a record of a running channel to its retention ring (04 R97); an injected error inverts its check field (16 R440). -/
def State.retain (s : State) (c : Nat) (r : Ret) (frame : List Byte) : State :=
  if (s.chan c).st = .closed then s
  else
    let bad := !r.void && s.saf.injected.contains (pAsx, 0)
    let s1 := s.putRet c r frame bad
    if bad then s1.withSaf { s1.saf with injected := s1.saf.injected.filter (· != (pAsx, 0)) } else s1

/-- A void PN of an Assured channel (04 R96). -/
def State.voidPn (s : State) (c pn epoch units : Nat) : State :=
  if s.assured c then
    let w := s.home_ (s.spg c)
    ((s.retain c { pn := pn, epoch := epoch, units := units, void := true, tsent := s.dev.mono } []).bump
      (aGrp w + 0x28)).pushAck w { rtype := 3, chan := c, a := pn, b := units }
  else s

/-- Takes the next PN for a frame: its strait frame, PN and epoch, and the state with the PN, the credit and the marks
of the key slot taken. -/
def State.assign (s : State) (c : Nat) (bytes : List Byte) (fmt conf : Nat) (rest : List (List Byte)) :
    List Byte × Nat × Nat × State :=
  let x := s.chan c
  let k := s.slot 0 c x.cur
  let u := unitsOf (lenOf bytes + 40)
  let pn := x.txNext
  let x1 := { x with txNext := pn + 1, csent := (x.csent + u) % 2 ^ 32, esw := false }
  let s1 := (s.setChan c x1).setSlot 0 c x.cur { k with used := true, count := min (k.count + 1) 0xFFFFFFFF, firstAt := match k.firstAt with | none => some s.dev.mono | t => t }
  if fmt == 0 then
    let lib := match rest with
      | [] => true
      | f :: _ => !s1.hasCredit c (unitsOf (lenOf f + 40)) ||
          !s.ringFits c (lenOf bytes + 40 + 20 + lenOf f + 40)
    let flags := (if x.esw then 0x80 else 0) + (if lib then 0x20 else 0) + (if s.assured c then 0x10 else 0)
    (s.asxFrame c k pn flags (s.piggy c) bytes, pn, k.epoch, s1)
  else (s.macsecFrame c k pn fmt conf bytes, pn, k.epoch, s1)

/-- A channel whose next PN would be 2^64 closes by policy (04 R94); an 802.1AE one at 2^64 - 1 (06 R173). -/
def State.pnLimit (s : State) (c : Nat) : State :=
  let n := (s.chan c).txNext
  if (s.chan c).st != .closed && (2 ^ 64 ≤ n || (s.macsec c && 2 ^ 64 - 1 ≤ n)) then s.closeReport c 2 else s

/-- A frame that passed the leak guard: in the holding buffer until it is released, retained where it is Assured, transmitted. -/
def State.passed (s : State) (c unit : Nat) (f : Flight) (units : Nat) : State :=
  let x := s.chan c
  let s1 := s.setChan c { x with flight := x.flight ++ [f] }
  let s2 := if f.retained then s1.retain c { pn := f.pn, epoch := f.epoch, units := units, tsent := s.dev.mono } f.frame else s1
  (s2.laneFrame 0 unit).emitData c f.frame

/-- A frame whose word w failed comparison: ended on the strait port, and marked for replay (03 R73). -/
def State.cutShort (s : State) (c unit : Nat) (f : Flight) (w : Nat) (echo : Bool) : State :=
  let x := s.chan c
  let s1 := s.setChan c { x with flight := x.flight ++ [{ f with retained := false, replay := true }] }
  (s1.stompFrame true (s1.txPort c) (f.frame.take (32 * w))).squelchCmp 0 unit c f.pn w echo

/-- A frame that got its PN goes through the lane unit under the FORMAT, CONF_OFF and CLASS of its generation (03 R57, R73, R75). -/
def State.through (s : State) (c unit pn epoch units : Nat) (h : QFrame) (frame : List Byte) (lg : LgOutcome) : State :=
  let f : Flight := { pn := pn, epoch := epoch, bytes := h.bytes, frame := frame, retained := h.cls == 0 && h.fmt == 0 }
  match s.lgAt 0 unit (cipherWords (cipherAt h.fmt h.conf) (frame.length - 16)) lg with
  | .mismatch w => s.cutShort c unit f w false
  | .echo w => s.cutShort c unit f w true
  | o => (s.corrected 0 unit o).passed c unit f units

/-- An uncorrectable holding-buffer error in transmit frame i of the queue (05 R127): an Assured channel closes, and its closure
discards and counts the frame with the others (R145); of any other channel the frame is discarded. -/
def State.txUe (s : State) (c i : Nat) : State :=
  let s1 := (s.faultBit pQmg 0).bump (pQmg + 0x148)
  if s.assured c then s1.closeReport c 3
  else (s1.setChan c { s1.chan c with q := (s1.chan c).q.eraseIdx i }).settle c

/-- Replays the frames of a group that wait on a spare, in their order, with their PNs (03 R75); one whose retention record is
not complete is retained then. -/
def State.replayChan (s : State) (unit c : Nat) : State :=
  let x := s.chan c
  if !s.sendAllowed c then s
  else
    let s1 := s.setChan c { x with flight := x.flight.map (fun f => if f.replay then { f with replay := false, retained := s.assured c } else f) }
    (x.flight.filter (·.replay)).foldl (fun s f =>
      let s2 := if f.retained || !s.assured c then s
        else s.retain c { pn := f.pn, epoch := f.epoch, units := unitsOf (lenOf f.bytes + 40), tsent := s.dev.mono } f.frame
      (s2.laneFrame 0 unit).emitData c f.frame) s1

/-- SEND_DATA_FRAME from the queue (04 R105), where the port's round picks the channel (05 R140) and no retransmission of it
waits. Frames marked for replay that an Ember reset left waiting go first. -/
def State.sendQueued (s : State) (c : Nat) (lg : LgOutcome) (ue : Bool) : State :=
  let x := s.chan c
  if x.flight.any (·.replay) && (s.unitFor 0 c).isSome then s.replayChan ((s.unitFor 0 c).getD 0) c
  else match x.q with
  | [] => s
  | f :: rest =>
    if x.marked.isSome || !f.onChip || !s.mayEncrypt c f.bytes then s
    else
      match s.unitFor 0 c, s.turnOf (s.txPort c) c (straitLen f.fmt (lenOf f.bytes)) with
      | some n, some po =>
        if ue then s.txUe c 0
        else
          let s0 := (s.setPort true (s.txPort c) po).setChan c { x with q := rest }
          let (frame, pn, epoch, s1) := s0.assign c f.bytes f.fmt f.conf (rest.map (·.bytes))
          (((s1.through c n pn epoch (unitsOf (lenOf f.bytes + 40)) f frame lg).pnLimit c).settle c)
      | _, _ => s

/-- SEND_DATA_FRAME in cut-through (03 R77): the frame arriving on home port p, in on-chip cells (05 R124), takes its PN. It is sent
under the fields of its generation (03 R57). -/
def State.sendCut (s : State) (c p : Nat) (lg : LgOutcome) : State :=
  let x := s.chan c
  let po := s.port false p
  match po.arr with
  | none => s
  | some a =>
    let w0 := s.txw a.newGen c 0
    let fmt := fld w0 3 2
    let conf := fld w0 10 2
    if a.chan != c || a.resv == 0 || !a.onChip || a.cutPn.isSome || !x.q.isEmpty || x.marked.isSome || !s.mayEncrypt c a.bytes ||
        modeRate (s.mode false (p / 4)) < modeRate (s.mode true (s.txPort c / 4)) then s
    else
      match s.unitFor 0 c, s.turnOf (s.txPort c) c (straitLen fmt (lenOf a.bytes)) with
      | some n, some pt =>
        let (frame, pn, epoch, s1) := (s.setPort true (s.txPort c) pt).assign c a.bytes fmt conf []
        let a1 := { a with cutPn := some pn, cutEpoch := epoch, cutFrame := frame, cutUnits := unitsOf (lenOf a.bytes + 40) }
        let cut := fun (w : Nat) (echo : Bool) =>
          ((s1.setPort false p { po with arr := some { a1 with cutEnded := true } }).stompFrame true (s1.txPort c)
            (frame.take (32 * w))).squelchCmp 0 n c pn w echo
        match s.lgAt 0 n (cipherWords (cipherAt fmt conf) (frame.length - 16)) lg with
        | .mismatch w => cut w false
        | .echo w => cut w true
        | o => ((s1.setPort false p { po with arr := some a1 }).corrected 0 n o).laneFrame 0 n
      | _, _ => s

/-- Ends a cut-through frame that turns out bad: STOMP_CNT, the truncated frame, a void PN (03 R78). Of a frame beyond MAX_LEN every
word goes before the one that holds the first home byte beyond it, which travels 24, 16 or 8 bytes further on. -/
def State.stompCut (s : State) (c : Nat) (a : Arriving) : State :=
  match a.cutPn with
  | none => s
  | some pn =>
    let m := s.maxLen a.newGen c
    let fmt := fld (s.txw a.newGen c 0) 3 2
    let keep := if m < lenOf a.bytes then 32 * ((m + (straitLen fmt 0 - 16)) / 32) else a.cutFrame.length - 16
    let s1 := if a.cutEnded then s else s.stompFrame true (s.txPort c) (a.cutFrame.take keep)
    let s2 := match s1.roleOf 0 (s.spg c) with
      | some n => s1.bump (pE n + 0x114)
      | none => s1
    s2.voidPn c pn a.cutEpoch a.cutUnits

/-- Gives back the reservation of the frame arriving on a home port and forgets the frame. -/
def State.dropArr (s : State) (p : Nat) : State :=
  let po := s.port false p
  match po.arr with
  | none => s
  | some a =>
    let x := s.chan a.chan
    (s.setChan a.chan { x with resv := x.resv - a.resv }).setPort false p { po with arr := none }

/-- Counts a refusal for lack of space (05 R121). Where conditions 2 and 3 of R119 both fail, condition 2 is taken as the cause and
QMG.REFUSED_POOL does not count: the manual does not say (log entry 74). -/
def State.refuseFull (s : State) (c : Nat) : State :=
  let s1 := s.chanCnt c 3
  if bit (s1.reg (pQmg + 0x10)) 2 then s1 else s1.raise pQmg 2

/-- ADMISSION_DECISION (05 R119, R124). -/
def State.admitFrame (s : State) (p : Nat) : State :=
  let po := s.port false p
  match po.arr with
  | none => s
  | some a =>
    if a.decided then s
    else
      let c := a.chan
      let x := s.chan c
      let g := a.newGen
      let w0 := s.txw g c 0
      let r := cdiv (s.maxLen g c + 60) 256
      let assured := fld w0 1 2 == 0 && fld w0 3 2 == 0
      let space := if assured then decide (x.occ + r ≤ 4096 * fld (s.txw g c 2) 0 16)
        else decide (x.qOcc + x.resv + r ≤ fld (s.cv g (pQmg + 0x10C)) 0 16)
      let pool := decide (s.poolOcc + r ≤ s.poolOf g)
      let refuse := fun (s : State) (why : Nat) => s.setPort false p { po with arr := some { a with decided := true, refused := why } }
      if s.isSealed || !(x.st = .active || x.st = .held) || bit w0 16 then refuse s 2
      else if !space then refuse s 3
      else if !pool then refuse (s.bump (pQmg + 0x140)) 3
      else
        let onq := x.q.foldl (fun n f => if f.onChip then n + cellsOf f.bytes else n) 0
        let on := decide (onq < fld (s.cv g (pQmg + 0x104)) 0 16) && x.q.all (·.onChip) && decide (r ≤ s.txFreeOf g)
        let s1 := s.setPort false p { po with arr := some { a with decided := true, resv := r, onChip := on } }
        (s1.setChan c { x with resv := x.resv + r }).settle c

/-- The cells of home hold that a frame takes. -/
def State.holdAlloc (s : State) (n : Nat) : List Nat :=
  freeCells (s.chans.flatMap (fun e => e.2.q.flatMap (·.hold))) n

/-- FRAME_ACCEPTANCE (05 R120, 02 R55): the frame is counted once and accepted or given back. -/
def State.accept (s : State) (p : Nat) : State :=
  let po := s.port false p
  match po.arr with
  | none => s
  | some a =>
    if !a.decided then s
    else
      let c := a.chan
      let s0 := s.dropArr p
      let x := s0.chan c
      let w0 := s.txw a.newGen c 0
      let bad := fun (s : State) => (s.stompCut c a).settle c
      if !a.fcsOk then bad s0
      else if s.maxLen a.newGen c < lenOf a.bytes then bad (s0.chanCnt c 7)
      else if a.refused == 2 || s.isSealed || !(x.st = .active || x.st = .held) || bit w0 16 then bad (s0.chanCnt c 2)
      else if a.refused == 3 then bad (s0.refuseFull c)
      else
        let s1 := (s0.chanCnt c 0).cntAdd (ccOff c 1) (lenOf a.bytes)
        let y := { x with srcMask := setNBit x.srcMask p true }
        match a.cutPn with
        | some pn =>
          let asr := fld w0 1 2 == 0 && fld w0 3 2 == 0
          let fl : Flight := { pn := pn, epoch := a.cutEpoch, bytes := a.bytes, frame := a.cutFrame, retained := asr && !a.cutEnded, replay := a.cutEnded }
          let s2 := s1.setChan c { y with flight := y.flight ++ [fl] }
          if a.cutEnded then s2.settle c
          else
            let s3 := if asr then s2.retain c { pn := pn, epoch := a.cutEpoch, units := a.cutUnits, tsent := s.dev.mono } a.cutFrame else s2
            (((s3.emitData c a.cutFrame).pnLimit c).settle c)
        | none =>
          let cells := if a.onChip then [] else s1.holdAlloc (cellsOf a.bytes)
          let s2 := if a.onChip then s1 else s1.withMem (holdPut s1.mem cells a.bytes)
          (s2.setChan c { y with q := y.q ++ [{ bytes := a.bytes, cls := fld w0 1 2, fmt := fld w0 3 2, conf := fld w0 10 2, onChip := a.onChip, hold := cells }] }).settle c

/-- HOME_HOLD_FETCH (05 R124, R127, R131): the next frame in home hold comes back on chip when the on-chip part of the queue
is below half of ONCHIP_Q. One with a chunk that cannot be rebuilt is lost as by R127 (log entry 73). -/
def State.fetch (s : State) (c : Nat) (rd : FetchRead) : State :=
  let errs := fun (l : List Nat) => match rd with | .rebuilt ns => ns.filterMap (fun i => l[i]?) | _ => []
  let x := s.chan c
  let onq := x.q.foldl (fun n f => if f.onChip then n + cellsOf f.bytes else n) 0
  match x.q.findIdx? (fun f => !f.onChip) with
  | none => s
  | some i =>
    match x.q[i]? with
    | none => s
    | some f =>
      if fld (s.lv (pQmg + 0x104)) 0 16 ≤ 2 * onq || s.txFree < cellsOf f.bytes then s
      else
        match s.lostAt (errs f.hold) f.hold with
        | some h => (s.faultBit (pHbm h) 1).txUe c i
        | none =>
          let s1 := s.readChunks (errs f.hold) f.hold
          let g := { f with onChip := true, hold := [], bytes := (holdGet s1.mem f.hold).take f.bytes.length }
          match rd with
          | .bufUe => s1.txUe c i
          | .bufCe => ((s1.bump (pQmg + 0x14C)).setChan c { x with q := x.q.set i g }).settle c
          | _ => (s1.setChan c { x with q := x.q.set i g }).settle c

/-- HOLDING_BUFFER_RELEASE (01 R16, 05 R125): the oldest frame whose retention is complete and whose last word passed
the leak guard leaves the holding buffer. -/
def State.releaseTx (s : State) (c : Nat) : State :=
  let x := s.chan c
  match x.flight with
  | [] => s
  | f :: rest => if f.replay || (s.assured c && !f.retained) then s else (s.setChan c { x with flight := rest }).settle c

/-! Retention (04 R99, R103, R104). -/

/-- A retained frame as retransmitted: RTX set and HCHK computed anew. -/
def rtxFrame (f : List Byte) : List Byte :=
  let head := (f.take 34).set 15 ((f.getD 15 0) ||| 0x40)
  head ++ hchk head ++ f.drop 36

/-- A record that fails its check on both reads: the channel closes with REASON 3 (04 R99). -/
def State.retFail (s : State) (c : Nat) : State := (s.faultBit pAsx 0).closeReport c 3

/-- A record read whole: TSENT is updated, in its header too, and the frame leaves with RTX set. -/
def State.sendRet (s : State) (c : Nat) (r : Ret) (o : Nat) : State :=
  let x := s.chan c
  let q := { r with rtx := false, tsent := s.dev.mono, resent := true }
  let s1 := s.setChan c { x with ret := x.ret.map (fun y => if y.pn == r.pn then q else y) }
  ((s1.ringPut c o (q.header false)).chanCnt c 9).emitData c (rtxFrame (s.ringGet c ((o + 24) % x.ring) r.len))

/-- Retransmits record r of a channel (04 R98, R99, R103, 05 R131 to R133): fetched by its waypoint, every check field checked,
and its chunks rebuilt where they cannot be read in place. -/
def State.resend (s : State) (c : Nat) (r : Ret) (rd : RetRead) : State :=
  let l := s.ringChunks c r
  let errs := match rd with | .rebuilt ns => ns.filterMap (fun i => l[i]?) | _ => []
  match s.lostAt errs l with
  | some h => (s.faultBit (pHbm h) 1).retFail c
  | none =>
    let s1 := s.readChunks errs l
    match (if rd = .bad then none else s.fetchRet c r.pn) with
    | some o => s1.sendRet c r o
    | none => s1.retFail c

/-- RETRANSMIT: the lowest marked record, ahead of new frames, where the port's round picks the channel. -/
def State.retransmit (s : State) (c : Nat) (rd : RetRead) : State :=
  if !s.resendAllowed c then s
  else match (s.chan c).marked with
    | some r => match s.turnOf (s.txPort c) c (r.len + 4) with
      | some po => (s.setPort true (s.txPort c) po).resend c r rd
      | none => s
    | none => s

/-- TAIL_TIMER (04 R104): the oldest unacknowledged frame again, and the guard doubled up to eight times. -/
def State.tail (s : State) (c : Nat) (rd : RetRead) : State :=
  if !s.resendAllowed c || !s.assured c then s
  else match (s.chan c).ret with
    | [] => s
    | r :: _ =>
      let x := s.chan c
      let s1 := s.setChan c { x with guard := min 8 (2 * x.guard) }
      if r.void then s1.pushAck (s.home_ (s.spg c)) { rtype := 3, chan := c, a := r.pn, b := r.units }
      else s1.resend c r rd

/-- ACK record or hint (04 R105): releases retention up to n; takes a newer CLIMIT. -/
def State.ackTo (s : State) (c n l : Nat) : State :=
  let x := s.chan c
  let x1 := if notBeyond l x.climit then x else { x with climit := l }
  if x.acked < n then
    let rest := x1.ret.filter (fun r => n < r.pn)
    (s.setChan c { x1 with acked := n, ret := rest, tail := (match rest with | r :: _ => r.off | [] => x1.head), guard := 1 }).settle c
  else s.setChan c x1

/-- Marks retained PNs for retransmission, but those retransmitted within a time, void ones as VOID records (04 R103, R96). -/
def State.markRange (s : State) (c lo hi : Nat) (within : Nat) : State :=
  let x := s.chan c
  let hit := fun (r : Ret) => decide (lo ≤ r.pn) && decide (r.pn ≤ hi)
  let fresh := fun (r : Ret) => !r.resent || decide (r.tsent + within ≤ s.dev.mono)
  let s1 := s.setChan c { x with ret := x.ret.map (fun r => if hit r && !r.void && fresh r then { r with rtx := true } else r) }
  (x.ret.filter (fun r => hit r && r.void)).foldl (fun s r =>
    s.pushAck (s.home_ (s.spg c)) { rtype := 3, chan := c, a := r.pn, b := r.units }) s1

/-! The commands. -/

/-- ADMISSION_DECISION (05 R119). -/
def execAdmissionDecision (p : Fin 32) (s : State) : Host.Outcome State Fault Refusal := .next (s.admitFrame p.val)

/-- FRAME_ACCEPTANCE (05 R120). -/
def execFrameAcceptance (p : Fin 32) (s : State) : Host.Outcome State Fault Refusal := .next (s.accept p.val)

/-- HOLDING_BUFFER_RELEASE (05 R125). -/
def execHoldingBufferRelease (c : Fin 8192) (s : State) : Host.Outcome State Fault Refusal := .next (s.releaseTx c.val)

end Sys2Proof.Machine
end

