-- ==== Sys2Proof/Machine/Peers.lean ====
section
/-! DEFINITION. Peers and paths: path state, stranding, landfall and resynchronisation, working/protect switchover, ack
timers (01 R29, R30, 04 R101, R103, R109 to R114). -/
namespace Sys2Proof.Machine

/-! Paths (04 R109). -/

/-- The path ports of a group: those of the enabled channels that name it, or its lowest one. -/
def State.pathPorts (s : State) (g : Nat) : List Nat :=
  let ps := (s.peerChans g (fun _ => true)).foldl (fun a c => insAsc (4 * g + s.sport c) a) []
  if ps.isEmpty then (if s.portExists true (4 * g) then [4 * g] else []) else ps

/-- A port key of the peer of working group w is installed. -/
def State.portKeyed (s : State) (w : Nat) : Bool := (s.peer w).portEpoch != 0

/-- PATH_DOWN_US has not passed since the port key was installed. -/
def State.newlyKeyed (s : State) (pa : Path) : Bool :=
  match pa.keyedAt with
  | some t => decide (s.dev.mono < t + 1000 * fld (s.lv (pAsx + 0x10C)) 0 16)
  | none => false

/-- The conditions for the path of group g to be up. -/
def State.pathCond (s : State) (g : Nat) : Bool :=
  let ps := s.pathPorts g
  let pa := s.path g
  !ps.isEmpty && ps.all (fun p => s.portUp true p) &&
  (!s.portKeyed (s.home_ g) || s.newlyKeyed pa ||
    ps.all (fun p => nbit pa.heard (p % 4) && nbit pa.rxOk (p % 4)))

/-- Some path to the peer of working group w is up. -/
def State.anyPath (s : State) (w : Nat) : Bool := (s.groupsOf w).any (fun g => (s.path g).up)

/-- Changes a peer's sub-state; entering JOINED raises its event, and the device state follows (01 R25, R29). -/
def State.setSub (s : State) (w : Nat) (sub : Sub) : State :=
  let s1 := s.setPeer w { s.peer w with sub := sub }
  (if sub = .joined then (s.peerChans w (fun _ => true)).foldl State.activate (s1.raise pAsx 2) else s1).tally

/-- The exchanges of a peer end without ABORT, those that wait after ABORT busy among them; a channel's falls due again when the
peer is JOINED (01 R30, 06 R156, R168). -/
def State.dropExchanges (s : State) (w : Nat) : State :=
  let v := s.vault
  let gone := v.xchs.filter (fun x => x.g == w)
  let cs := gone.filterMap (·.chan) ++ (v.busy.filter (fun b => b.1 == w)).filterMap (·.2)
  cs.foldl (fun s c => s.setChan c { s.chan c with rekeyHeld := true })
    (s.withVault { v with xchs := v.xchs.filter (fun x => x.g != w), busy := v.busy.filter (fun b => b.1 != w), prks := v.prks.filter (fun p => p.done || p.g != w) })

/-- A group's path is down: SUSPENDED (11 R324). -/
def State.senseSuspend (s : State) (g : Nat) : State :=
  let m := s.senseMode g
  if m == 1 || m == 2 then (s.setSense g { s.sense g with wasArmed := m == 2 }).setSenseMode g 3 else s

/-- What follows the loss of a path: with the last one the exchanges end, and a KEYING peer goes UNKEYED (01 R29, R30,
06 R156). -/
def State.pathGone (s : State) (w : Nat) : State :=
  if s.anyPath w then s
  else
    let s1 := s.dropExchanges w
    if (s.peer w).sub = .keying then s1.goUnkeyed w else s1

/-- The path of group g goes down when a condition lapses. -/
def State.pathCheck (s : State) (g : Nat) : State :=
  if (s.path g).up && !s.pathCond g then
    (((s.setPath g { s.path g with up := false }).raise pAsx 4).senseSuspend g).pathGone (s.home_ g)
  else s

/-- A verified frame has arrived on strait port p. -/
def State.hear (s : State) (p : Nat) : State :=
  let g := p / 4
  s.setPath g { s.path g with heard := setNBit (s.path g).heard (p % 4) true }

/-! Resynchronisation (04 R93, R113). -/

/-- The channels that the exchange with a peer covers. -/
def State.covered (s : State) (w : Nat) : List Nat := s.peerChans w s.asxon

/-- A STATE record of 24 bytes. -/
def stateRec (closed : Bool) (c rx tx epoch : Nat) : List Byte :=
  [by8 (b2n closed), 0] ++ beBytes 2 c ++ beBytes 8 rx ++ beBytes 8 tx ++ beBytes 2 epoch ++ [0, 0]

/-- The STATE record of a channel here. What the record of an IDLE or CLOSED channel holds beside its flag the manual does not
say; the fields as they stand go out, RX_NEXT 1 where nothing was received: DESIGN CHOICE (log entry 78). -/
def State.chanRec (s : State) (c : Nat) : List Byte :=
  let x := s.chan c
  stateRec (x.st = .idle || x.st = .closed) c x.rxNext x.txNext x.curEpoch

/-- Sends STATE records, up to 64 per landfall frame. -/
def State.sendRecs (s : State) (w : Nat) (recs : List (List Byte)) : Nat → State
  | 0 => s
  | k + 1 =>
    match recs with
    | [] => s
    | _ =>
      let now := recs.take 64
      (s.portFrame w 5 false ([1, 0] ++ beBytes 2 now.length ++ now.flatten)).sendRecs w (recs.drop 64) k

def State.sendStates (s : State) (w : Nat) (cs : List Nat) : State :=
  s.sendRecs w (cs.map s.chanRec) (cs.length / 64 + 1)

/-- Sends DONE. -/
def State.sendDone (s : State) (w : Nat) (answer : Bool) : State :=
  let n := ((s.covered w).filter (fun c => (s.chan c).gotState)).length
  s.portFrame w 5 false ([2, by8 (b2n answer), 0, 0] ++ beBytes 4 n)

/-- The exchange is complete when DONE was sent and received: a LANDFALL peer goes JOINED (04 R113, R114). -/
def State.resyncCheck (s : State) (w : Nat) : State :=
  let pe := s.peer w
  if !pe.resync then s
  else
    let s1 := if !pe.doneSent && (s.covered w).all (fun c => (s.chan c).gotState) then
        (s.setPeer w { pe with doneSent := true }).sendDone w false
      else s
    let pe1 := s1.peer w
    if pe1.doneSent && pe1.doneGot then
      let s2 := s1.setPeer w { pe1 with resync := false }
      if pe1.sub = .landfall then (s2.bump (aGrp w + 0x30)).setSub w .joined else s2
    else s1

/-- Starts the resynchronisation exchange with a peer. -/
def State.startResync (s : State) (w : Nat) : State :=
  let cs := s.covered w
  let s1 := cs.foldl (fun s c => s.setChan c { s.chan c with resync := true, unconfirmed := true, gotState := false }) s
  let s2 := s1.setPeer w { s1.peer w with resync := true, doneSent := false, doneGot := false }
  (s2.sendStates w cs).resyncCheck w

/-- The peer's STATE record for channel c (04 R113 step 2). -/
def State.onState (s : State) (w g : Nat) (r : List Byte) : State :=
  let c := beNat (cut r 2 2) % 8192
  let closed := nbit (beNat (r.take 1)) 0
  let rx := beNat (cut r 4 8)
  if !(s.covered w).contains c then
    (s.protoErr g).sendRecs w [stateRec true c 0 0 0] 1
  else
    let x := s.chan c
    let s1 := s.setChan c { x with unconfirmed := false, gotState := true, resync := false }
    if closed || x.st = .closed || x.st = .idle then
      if x.st = .idle then s1 else s1.closeReport c 2
    else if s.cls c != 0 then s1
    else if rx < x.acked + 1 || x.txNext < rx then (s1.closeChan c).setGap c
    else ((s1.ackTo c (rx - 1) x.climit).markRange c rx (2 ^ 64) 0).flushHeld c

/-- DONE from the peer (04 R113 steps 3 and 4). -/
def State.onDone (s : State) (w : Nat) (answer : Bool) : State :=
  let pe := s.peer w
  if pe.resync then
    let s1 := (s.covered w).foldl (fun s c => s.setChan c { s.chan c with unconfirmed := false }) s
    (s1.setPeer w { s1.peer w with doneGot := true }).resyncCheck w
  else if answer then s
  else s.sendDone w true

/-- A STATE frame: a JOINED peer answers with an exchange of its own (04 R113). -/
def State.onStates (s : State) (w g : Nat) (body : List Byte) (n : Nat) : State :=
  let sub := (s.peer w).sub
  let s0 := if !(s.peer w).resync && sub = .joined then s.startResync w else s
  ((List.range n).foldl (fun s i => s.onState w g (cut body (4 + 24 * i) 24)) s0).resyncCheck w

/-! Switchover (04 R110, R111). -/

/-- The pair p: enabled, working group, protect group, REVERT. -/
def State.wpPair (s : State) (p : Nat) : Option (Nat × Nat × Bool) :=
  let w := s.lv (pAsx + 0x140 + 4 * p)
  if bit w 0 then some (fld w 1 3, fld w 4 3, bit w 7) else none

/-- Where a cause other than revert sends a pair's transmit path: true for the protect group. -/
def State.switchCause (s : State) (w g : Nat) : Option Bool :=
  let pe := s.peer w
  let upW := (s.path w).up
  let upP := (s.path g).up
  if pe.onProtect then
    if !upP && upW then some false else if pe.force == 2 && upW then some false else none
  else if !upW && upP then some true else if pe.force == 1 && upP then some true else none

/-- Starts connecting a pair's lane units to the other group; during a connection the cause waits. -/
def State.beginSwitch (s : State) (w : Nat) (target : Bool) : State :=
  let pe := s.peer w
  if pe.connecting.isSome then s.setPeer w { pe with switchNext := true }
  else if pe.onProtect == target then s
  else s.setPeer w { pe with connecting := some target }

/-- WTR_RUNNING (04 R111, R116): revert counts. -/
def State.wtrRunning (s : State) (p : Nat) : Bool :=
  match s.wpPair p with
  | some (w, _, rev) => let pe := s.peer w; rev && pe.force == 0 && pe.onProtect && (s.path w).up
  | none => false

/-! The commands. -/

/-- ACK_TIMER (04 R101): n or CLIMIT has changed since the channel's last ACK record. -/
def execAckTimer (c : Fin 8192) (s : State) : Host.Outcome State Fault Refusal :=
  let x := s.chan c.val
  if s.assured c.val && (x.st = .active || x.st = .held) && (x.ackSent + 1 != x.rxNext || x.ackLimit != s.climitOf c.val)
  then .next (s.sendAck c.val) else .next s

/-- ACK_REFRESH (04 R101): every channel of the group whose n or CLIMIT changed within SPAN_MS repeats its record. -/
def execAckRefresh (g : Fin 8) (s : State) : Host.Outcome State Fault Refusal :=
  let w := s.home_ g.val
  let span := fld (s.lv (pAsx + 0x11C)) 16 8 * 1000000
  .next ((s.peerChans w s.assured).foldl (fun s c =>
    let x := s.chan c
    if (x.st = .active || x.st = .held) && decide (s.dev.mono ≤ x.ackChange + span) then s.sendAck c else s) s)

/-- ACK_FRAME_FLUSH (04 R101): the waiting records leave. -/
def execAckFrameFlush (g : Fin 8) (s : State) : Host.Outcome State Fault Refusal := .next (s.flushAcks (s.home_ g.val))

/-- NACK_RETRY (04 R103): a PN still missing is NACKed again, with an ACK record (R101). -/
def execNackRetry (c : Fin 8192) (pn : Nat) (s : State) : Host.Outcome State Fault Refusal :=
  let x := s.chan c.val
  if s.assured c.val && x.nacked.any (fun e => e.1 == pn) && decide (x.rxHand ≤ pn) && !x.marks.contains pn &&
      !x.voids.any (fun v => v.1 == pn) && (x.st = .active || x.st = .held) then
    let s1 := (s.setChan c.val { x with nacked := x.nacked.map (fun e => if e.1 == pn then (pn, s.dev.mono) else e) }).chanCnt c.val 15
    .next ((s1.pushAck (s.home_ (s.spg c.val)) { rtype := 2, chan := c.val, a := pn, b := 1 }).sendAck c.val)
  else .next s

/-- KEEPALIVE_TIMER (04 R92, R109): a KEEPALIVE leaves on a path port under the port key. -/
def execKeepaliveTimer (p : Fin 32) (s : State) : Host.Outcome State Fault Refusal :=
  let g := p.val / 4
  let w := s.home_ g
  if s.portKeyed w && (s.pathPorts g).contains p.val then
    let sub := match (s.peer w).sub with | .unkeyed => 0 | .keying => 1 | .joined => 2 | .stranded => 3 | .landfall => 4
    .next (s.portFrameOn w p.val 3 false (ctlBody 1 [by8 ((s.path g).heard % 16), by8 sub, 0, 0]))
  else .next s

/-- PATH_DOWN_TIMEOUT (04 R109): no verified frame on the port for PATH_DOWN_US; the time after the installation of
the port key in which the links alone count is over too. -/
def execPathDownTimeout (p : Fin 32) (s : State) : Host.Outcome State Fault Refusal :=
  let g := p.val / 4
  .next ((s.setPath g { s.path g with heard := setNBit (s.path g).heard (p.val % 4) false, keyedAt := none }).pathCheck g)

/-- STRAND_TIMEOUT (04 R112): no path to a JOINED or LANDFALL peer has been up for STRAND_MS. -/
def execStrandTimeout (g : Fin 8) (s : State) : Host.Outcome State Fault Refusal :=
  let w := s.home_ g.val
  let pe := s.peer w
  if (pe.sub = .joined || pe.sub = .landfall) && !s.anyPath w then
    let s1 := (s.dropExchanges w).setPeer w { pe with sub := .stranded, strandAt := s.dev.mono, resync := false, doneSent := false, doneGot := false }
    .next ((((s1.bump (aGrp w + 0x2C)).raise pAsx 0).strandCheck w).tally)
  else .next s

/-- RESYNC_RESEND (04 R113): unconfirmed STATE records again, and DONE until the peer's arrives. -/
def execResyncResend (g : Fin 8) (s : State) : Host.Outcome State Fault Refusal :=
  let w := s.home_ g.val
  let pe := s.peer w
  if pe.resync then
    let s1 := s.sendStates w ((s.covered w).filter (fun c => (s.chan c).unconfirmed))
    .next (if pe.doneSent && !pe.doneGot then s1.sendDone w false else s1)
  else .next s

/-- A cause of a switch shows: applied at once, or once the connection under way is complete (04 R111). -/
def State.applyCause (s : State) (w g : Nat) : State :=
  if (s.peer w).connecting.isSome then s.setPeer w { s.peer w with switchNext := true }
  else match s.switchCause w g with
    | some t => s.beginSwitch w t
    | none => s

/-- WP_SWITCH (04 R111). -/
def execWpSwitch (p : Fin 4) (s : State) : Host.Outcome State Fault Refusal :=
  match s.wpPair p.val with
  | some (w, g, _) => .next (s.applyCause w g)
  | none => .next s

/-- WP_SWITCH_CONNECTED (04 R111): the switch is counted and resynchronisation starts on the new path; a cause that
waited is applied. -/
def execWpSwitchConnected (p : Fin 4) (s : State) : Host.Outcome State Fault Refusal :=
  match s.wpPair p.val with
  | some (w, g, _) =>
    match (s.peer w).connecting with
    | some t =>
      let pe := s.peer w
      let s1 := ((s.setPeer w { pe with onProtect := t, connecting := none, switchNext := false }).bump (aGrp w + 0x34)).raise pAsx 3
      let s2 := if pe.sub.keyed then s1.startResync w else s1
      match (if pe.switchNext then s2.switchCause w g else none) with
      | some t2 => .next (s2.beginSwitch w t2)
      | none => .next s2
    | none => .next s
  | none => .next s

/-- A force command (04 R111): it stays in effect until cleared or replaced. -/
def State.setForce (s : State) (p f : Nat) : State :=
  match s.wpPair p with
  | some (w, g, _) => (s.setPeer w { s.peer w with force := f }).applyCause w g
  | none => s

/-- FORCE_TO_PROTECT (04 R111). -/
def execForceToProtect (p : Fin 4) (s : State) : Host.Outcome State Fault Refusal := gateO (pAsx + 0x124) s fun s => .next (s.setForce p.val 1)

/-- FORCE_TO_WORKING (04 R111). -/
def execForceToWorking (p : Fin 4) (s : State) : Host.Outcome State Fault Refusal := gateO (pAsx + 0x124) s fun s => .next (s.setForce p.val 2)

/-- CLEAR_FORCE (04 R111): ends the force without switching. -/
def execClearForce (p : Fin 4) (s : State) : Host.Outcome State Fault Refusal := gateO (pAsx + 0x124) s fun s =>
  match s.wpPair p.val with
  | some (w, _, _) => .next (s.setPeer w { s.peer w with force := 0 })
  | none => .next s

/-- WAIT_TO_RESTORE_EXPIRY (04 R111): with revert counting, the pair switches back. -/
def execWaitToRestoreExpiry (p : Fin 4) (s : State) : Host.Outcome State Fault Refusal :=
  match s.wpPair p.val with
  | some (w, _, _) => .next (if s.wtrRunning p.val then s.beginSwitch w false else s)
  | none => .next s

end Sys2Proof.Machine
end

