-- ==== Sys2Proof/Machine/Rx.lean ====
section
/-! DEFINITION. The receive side of the datapath: decryption, the duplicate window, reorder, release at home egress, the
Best-effort and 802.1AE replay windows, and the records of ack/credit frames (03 R61, R69, R73, R79; 04 R91, R103 to R107;
05 R127, R141; 12 R337, R338). -/
namespace Sys2Proof.Machine

open Crypto

/-! Decryption. -/

/-- The authenticated header of a received Asxon frame: bytes 0 to 33 with the retransmission bit taken as 0. -/
def asxAad (f : List Byte) : List Byte := (f.take 34).set 15 ((f.getD 15 0) &&& 0xBF)

/-- Opens an Asxon data frame under a slot: the home frame without FCS, and whether the tag verifies (03 R59). -/
def openAsx (k : KeySlot) (f : List Byte) : List Byte × Bool :=
  let pn := beNat (cut f 20 8)
  let ct := cut f 36 (f.length - 52)
  let (pt, ok) := gcmOpen k.key (ivOf k.salt 0 pn) (asxAad f) ct (f.drop (f.length - 16))
  (f.take 12 ++ pt, ok)

/-- Plaintext of a frame leaves home egress without waiting for its tag: cut-through decrypt and egress free (03 R79). -/
def State.begins (s : State) (c : Nat) : Bool :=
  let h := fld (s.rxw false c 0) 8 5
  let po := s.port false h
  !bit (s.rxw false c 0) 13 && s.portUp false h && po.leaving.isNone && !po.paused &&
  !nbit po.pfcPaused (fld (s.rxw false c 0) 14 3) && (s.chan c).rq.isEmpty && s.txOpen

/-- Plaintext of a frame from strait port p begins at home egress as it is produced: egress no faster than the strait port. -/
def State.beginsEarly (s : State) (c p : Nat) : Bool :=
  s.begins c && decide (modeRate (s.mode false (fld (s.rxw false c 0) 8 5 / 4)) ≤ modeRate (s.mode true (p / 4)))

/-- A failed tag in unit n (03 R79): RX_AUTH_FAIL, and the frame ended at home egress when its plaintext had begun there. -/
def State.tagFail (s : State) (c n : Nat) (inOrder : Bool) (home : List Byte) : State :=
  let s1 := s.chanCnt c 14
  if inOrder && s1.begins c then (s1.stompFrame false (fld (s.rxw false c 0) 8 5) home).bump (pD n + 0x114) else s1

/-- A frame with no key for its epoch (03 R69), counted on the page of decrypt unit n. -/
def State.noKey (s : State) (c : Nat) (unit : Option Nat) : State :=
  let s1 := s.chanCnt c 14
  match unit with
  | some n => (s1.bump (pD n + 0x128)).raise (pD n) 3
  | none => s1

/-- The receive part has room for a frame. -/
def State.rxFree (s : State) (bytes : List Byte) : Bool := decide (s.rxUsed + cellsOf bytes ≤ s.rxPart)

/-- The receive queue of a channel has room for a frame (05 R141). -/
def State.rxRoom (s : State) (c : Nat) (bytes : List Byte) : Bool :=
  decide ((s.chan c).rq.foldl (fun a f => a + cellsOf f.bytes) 0 + cellsOf bytes ≤ s.rxOnchip) && s.rxFree bytes

/-- Keeps a frame as ciphertext until its slot is rewritten or a spare takes its group (03 R67, R75); with no free cell
it is discarded as with no key. -/
def State.waitAs (s : State) (c p pn epoch : Nat) (frame : List Byte) : State :=
  if s.rxFree frame then
    let x := s.chan c
    s.setChan c { x with waitKey := x.waitKey ++ [{ pn := pn, epoch := epoch, units := unitsOf (frame.length + 4), bytes := frame, port := p }] }
  else s.noKey c (s.roleOf 1 (s.spg c))

/-- The same for an Asxon frame. -/
def State.waitFrame (s : State) (c p : Nat) (frame : List Byte) : State :=
  s.waitAs c p (beNat (cut frame 20 8)) (beNat (cut frame 18 2)) frame

/-- Decrypt unit n squelches on word k of a frame (03 R73, R75): the frame ends at home egress where its plaintext had begun there,
and waits as ciphertext for the spare. -/
def State.rxSquelch (s : State) (c n p pn epoch : Nat) (frame home : List Byte) (word : Nat) : State :=
  let s1 := if s.beginsEarly c p then s.stompFrame false (fld (s.rxw false c 0) 8 5) (home.take (32 * word)) else s
  (s1.squelchCmp 1 n c pn word false).waitAs c p pn epoch frame

/-! Reorder and release of an Assured channel (04 R106, 05 R141). -/

/-- A held or arriving ciphertext frame as it enters the receive queue. -/
def State.clearOf (s : State) (c : Nat) (f : RxFrame) : RxFrame :=
  { f with bytes := (openAsx (s.slot 1 c (f.epoch % 2)) f.bytes).1 }

/-- A frame takes its place in a receive queue in PN order (05 R127). -/
def insPn (f : RxFrame) (q : List RxFrame) : List RxFrame :=
  q.takeWhile (fun g => decide (g.pn < f.pn)) ++ [f] ++ q.dropWhile (fun g => decide (g.pn < f.pn))

/-- The frame of the reorder partition with the lowest PN among those handed in order. -/
def Chan.nextHanded (x : Chan) : Option RxFrame :=
  (x.held.filter (·.handed)).foldl (fun (m : Option RxFrame) f => match m with
    | none => some f
    | some g => if f.pn < g.pn then some f else some g) none

/-- Runs of missing PNs from lo up to hi, given the known ones in ascending order. -/
def missingRuns (lo hi : Nat) : List Nat → List (Nat × Nat)
  | [] => if lo < hi then [(lo, hi - lo)] else []
  | k :: t => if k < lo then missingRuns lo hi t
    else if hi ≤ k then (if lo < hi then [(lo, hi - lo)] else [])
    else (if lo < k then [(lo, k - lo)] else []) ++ missingRuns (k + 1) hi t

/-- Cuts a run into NACK records of at most 65,535 PNs. -/
def nackRecs (lo n : Nat) : Nat → List (Nat × Nat)
  | 0 => []
  | k + 1 => if n == 0 then [] else if n ≤ 65535 then [(lo, n)] else (lo, 65535) :: nackRecs (lo + 65535) (n - 65535) k

/-- NACKs the missing PNs below hi that were not NACKed yet (04 R103). -/
def State.nackGap (s : State) (c hi : Nat) : State :=
  let x := s.chan c
  let known := (x.marks ++ x.voids.map (·.1) ++ x.nacked.map (·.1)).foldl (fun a n => insAsc n a) []
  let runs := (missingRuns x.rxHand hi known).flatMap (fun r => nackRecs r.1 r.2 (r.2 / 65535 + 1))
  if runs.isEmpty then s
  else
    let fresh := runs.flatMap (fun r => (List.range r.2).map (fun i => (r.1 + i, s.dev.mono)))
    let s1 := s.setChan c { x with nacked := x.nacked.filter (fun e => x.rxHand ≤ e.1) ++ fresh }
    (runs.foldl (fun s r => (s.chanCnt c 15).pushAck (s.home_ (s.spg c))
      { rtype := 2, chan := c, a := r.1, b := r.2 }) s1).sendAck c

/-- A held frame is lost in the reorder partition (05 R131): its PN is missing again, and NACKed. -/
def State.loseHeld (s : State) (c pn : Nat) : State :=
  let x := s.chan c
  if x.held.any (fun f => f.pn == pn) then (s.setChan c (x.dropHeld (fun f => f.pn == pn))).nackGap c (pn + 1) else s

/-- An uncorrectable error shows as a frame is read from the reorder partition; where it lay is a free choice (log entry 73). -/
def State.reorderUe (s : State) (c pn : Nat) : State :=
  let i := Config.freeNat s.free
  let h := if s.dev.h48 then i % 2 else 0
  ((s.drawn.faultBit (pHbm h) 1).pcError h (i / 2 % 32)).loseHeld c pn

/-- Moves frames handed into the reorder partition to the queue, in PN order, while it has room. The frame at the channel's head
goes ahead of a full queue that waits for it (log entry 85). -/
def State.refill (s : State) (c : Nat) : Nat → State
  | 0 => s
  | k + 1 =>
    let x := s.chan c
    match x.nextHanded with
    | none => s
    | some f =>
      let g := s.clearOf c f
      if s.rxRoom c g.bytes || (!x.rq.isEmpty && x.rq.all (fun r => decide (f.pn < r.pn))) then
        (s.setChan c { x with held := x.held.filter (fun h => h.pn != f.pn), rq := insPn g x.rq }).refill c k
      else s

/-- The same where the first frame read may have an uncorrectable error. -/
def State.refillRead (s : State) (c : Nat) (ue : Bool) : State :=
  match (s.chan c).nextHanded with
  | none => s
  | some f => (if ue then s.reorderUe c f.pn else s).refill c ((s.chan c).held.length + 1)

/-- RX_HAND moves past every consecutive PN that is received or void; consecutive held frames are handed in turn. -/
def State.handOn (s : State) (c : Nat) (ue : Bool) : State :=
  let x := s.chan c
  let hand := lowestMissing x.marks x.voids (x.marks.length + x.voids.length + 1) x.rxHand
  let y := { x with rxHand := hand, held := x.held.map (fun f => if f.pn < hand then { f with handed := true } else f) }
  (s.setChan c y).refillRead c ue

/-- RX_NEXT skips void PNs and adds their units to RELEASED (04 R106). -/
def skipVoids : Nat → Chan → Chan
  | 0, x => x
  | k + 1, x =>
    match x.voids.find? (fun v => v.1 == x.rxNext) with
    | some (_, u) => skipVoids k { x with rxNext := x.rxNext + 1, released := (x.released + u) % 2 ^ 32 }
    | none => x

/-- The epoch after e: 0xFFFF is followed by 2 (06 R160); the first is 1. -/
def nextEpoch (e : Nat) : Nat := if e == 0xFFFF then 2 else e + 1

/-- Notes a frame verified under an epoch, and the newest epoch received (03 R83, 04 R95). -/
def State.noteEpoch (s : State) (c epoch pn : Nat) : State :=
  let x := s.chan c
  let cur := s.slot 1 c x.rxCur
  let s1 := s.setSlot 1 c (epoch % 2) { s.slot 1 c (epoch % 2) with used := true }
  if cur.used && epoch == cur.epoch then s1.setChan c { x with rxEpPn := min x.rxEpPn pn }
  else if cur.used && epoch != nextEpoch cur.epoch then s1
  else s1.setChan c { x with rxCur := epoch % 2, rxEpPn := pn }

/-- The first value after `held` whose remainder modulo m is `bits`. -/
def nextWith (held bits m : Nat) : Nat := held + (bits + m - held % m) % m

/-- The credit half of the piggyback hint (04 R102). -/
def State.hintCredit (s : State) (c low : Nat) : State :=
  let y := s.chan c
  let d := (low + 4096 - y.climit % 4096) % 4096
  if d < 2 ^ 11 then s.setChan c { y with climit := (y.climit + d) % 2 ^ 32 } else s

/-- The piggyback hint (04 R102). -/
def State.hint (s : State) (c piggy : Nat) : State :=
  let x := s.chan c
  let n := nextWith x.acked (piggy / 4096) (2 ^ 20)
  (if n < x.acked + 2 ^ 19 && n < x.txNext then s.ackTo c n x.climit else s).hintCredit c (piggy % 4096)

/-- Units of frames received and not released. -/
def Chan.inFlight (x : Chan) : Nat :=
  x.rq.foldl (fun a f => a + f.units) 0 + x.held.foldl (fun a f => a + f.units) 0

/-- An Assured data frame that has a key and passed unit n (04 R106, 03 R79). -/
def State.rxAssured (s : State) (c g p n : Nat) (frame : List Byte) (k : KeySlot) (ue : Bool) : State :=
  let x := s.chan c
  let pn := beNat (cut frame 20 8)
  let u := unitsOf (frame.length + 4)
  let flags := beNat (cut frame 15 1)
  if pn != x.rxHand && 4096 * fld (s.rxw false c 1) 0 16 < x.inFlight + u then s.protoErr g
  else
    let (home, ok) := openAsx k frame
    if !ok then (s.laneFrame 1 n).tagFail c n (pn == x.rxHand) home
    else
      let s1 := ((s.laneFrame 1 n).hear p).noteEpoch c k.epoch pn
      let f : RxFrame := { pn := pn, epoch := k.epoch, units := u, bytes := frame, lib := nbit flags 5, port := p }
      let y := s1.chan c
      let y1 := { y with marks := y.marks ++ [pn], highest := max y.highest pn, nacked := y.nacked.filter (fun e => e.1 != pn) }
      let s2 := if pn == x.rxHand && s1.rxRoom c home && !(y.held.any (·.handed)) then
          s1.setChan c { y1 with rq := insPn { f with bytes := home } y1.rq }
        else s1.setChan c { y1 with held := y1.held ++ [f] }
      let s3 := if pn == x.rxHand then s2.handOn c ue else s2.nackGap c pn
      if nbit flags 4 && !nbit flags 6 then s3.hint c (beNat (cut frame 28 4)) else s3

/-- A Best-effort data frame with a key and a unit (04 R107). -/
def State.rxBest (s : State) (c p n : Nat) (frame : List Byte) (k : KeySlot) : State :=
  let x := s.chan c
  let pn := beNat (cut frame 20 8)
  let win := 2 ^ fld (s.rxw false c 1) 16 5
  if pn + win ≤ x.beHi then s.chanCnt c 13
  else if x.beSeen.contains pn then s.chanCnt c 12
  else
    let (home, ok) := openAsx k frame
    if !ok then (s.laneFrame 1 n).tagFail c n true home
    else
      let s1 := ((s.laneFrame 1 n).hear p).noteEpoch c k.epoch pn
      let y := s1.chan c
      let hi := max y.beHi pn
      let y1 := { y with beHi := hi, beSeen := (pn :: y.beSeen).filter (fun q => hi < q + win), rxNext := hi + 1 }
      if s1.rxRoom c home then
        s1.setChan c { y1 with rq := y1.rq ++ [{ pn := pn, epoch := k.epoch, units := 0, bytes := home, port := p }] }
      else (s1.setChan c y1).bump (pQmg + 0x150)

/-- CLASS of a channel in a copy of the tables (03 R57). -/
def State.clsOf (s : State) (new : Bool) (c : Nat) : Nat := fld (s.txw new c 0) 1 2

/-- An Asxon data frame that passed the checks of R87 (03 R57, R69, R73, 04 R106, R107). Where the group has no unit, the frame waits
for one, which selects its key. -/
def State.rxData (s : State) (c g p : Nat) (frame : List Byte) (lg : LgOutcome) : State :=
  let x := s.chan c
  let pn := beNat (cut frame 20 8)
  let epoch := beNat (cut frame 18 2)
  let k := s.slot 1 c (epoch % 2)
  let assured := s.clsOf (s.newGen true p) c == 0
  if assured && (pn < x.rxHand || x.marks.contains pn || x.voids.any (fun v => v.1 == pn)) then s.chanCnt c 12
  else
    match s.unitFor 1 c with
    | none => s.waitFrame c p frame
    | some n =>
      if epoch == 0 || !k.valid || k.epoch != epoch then s.noKey c (some n)
      else if k.bad then s.waitFrame c p frame
      else
        match s.lgAt 1 n none lg with
        | .mismatch w => s.rxSquelch c n p pn epoch frame (openAsx k frame).1 w
        | o =>
          let s1 := s.corrected 1 n o
          if assured then s1.rxAssured c g p n frame k (o == .heldUe) else s1.rxBest c p n frame k

/-! 802.1AE (03 R60, R61, 02 R53). -/

/-- XPN recovery: the high bits of the reference, one more when its bit 31 is set and the PN's is not. -/
def xpn (ref low : Nat) : Nat :=
  let hi := ref / 2 ^ 32
  (if nbit ref 31 && !nbit low 31 then hi + 1 else hi) * 2 ^ 32 + low

/-- The parts of an 802.1AE frame under a slot: the length of its clear and authenticated bytes, and the home frame with whether the
ICV verifies. -/
def openMacsec (k : KeySlot) (pn conf : Nat) (frame : List Byte) : List Byte × Bool :=
  let hdr := if nbit (beNat (cut frame 14 1)) 5 then 28 else 20
  let off := hdr + min (confBytes conf) (frame.length - 16 - hdr)
  let (pt, ok) := gcmOpen k.key (ivOf k.salt k.ssci.toNat pn) (frame.take off)
    (cut frame off (frame.length - 16 - off)) (frame.drop (frame.length - 16))
  (frame.take 12 ++ cut frame hdr (off - hdr) ++ pt, ok)

/-- An 802.1AE frame of channel c that passed unit n under slot k. A frame below the replay window, or seen before, is counted as that
before its ICV is judged: DESIGN CHOICE, the manual does not say which counts (log entry 75). -/
def State.rxSecure (s : State) (c p n pn an : Nat) (frame : List Byte) (k : KeySlot) : State :=
  let x := s.chan c
  let win := 2 ^ fld (s.rxw false c 1) 16 5
  let s0 := s.laneFrame 1 n
  if pn < max k.pn0 (k.hi + 1 - win) then s0.chanCnt c 13
  else if k.seen.contains pn then s0.chanCnt c 12
  else
    let (home, ok) := openMacsec k pn (fld (s.txw (s.newGen true p) c 0) 10 2) frame
    if !ok then s0.tagFail c n true home
    else
      let hi := max k.hi pn
      let y := { x with rxNext := hi + 1, rxCur := an % 2 }
      let s1 := s0.setSlot 1 c (an % 2) { k with hi := hi, seen := (pn :: k.seen).filter (fun q => hi < q + win), used := true }
      if s1.rxRoom c home then
        s1.setChan c { y with rq := y.rq ++ [{ pn := pn, epoch := an, units := 0, bytes := home, port := p }] }
      else (s1.setChan c y).bump (pQmg + 0x150)

/-- The channel of an 802.1AE frame on strait group g, by its SCI (02 R53). -/
def State.sciChan (s : State) (g : Nat) (frame : List Byte) : Option Nat :=
  let sci := if nbit (beNat (cut frame 14 1)) 5 then cut frame 20 8 else cut frame 6 6 ++ [0, 1]
  (s.enabledChans.filter (fun c => s.macsec c && s.spg c == g)).find?
    (fun c => sciBytes (s.rxw false c 2) (s.rxw false c 3) == sci)

/-- PN of an 802.1AE frame of a channel under a slot: the lowest PN the replay window accepts is the reference (03 R61). -/
def State.secPn (s : State) (c : Nat) (k : KeySlot) (frame : List Byte) : Nat :=
  xpn (max k.pn0 (k.hi + 1 - 2 ^ fld (s.rxw false c 1) 16 5)) (beNat (cut frame 16 4))

/-- An 802.1AE frame on strait group g. -/
def State.rxMacsec (s : State) (g p : Nat) (frame : List Byte) (lg : LgOutcome) : State :=
  let tci := beNat (cut frame 14 1)
  match s.sciChan g frame with
  | none => s.bump (pCls + 0x2E0 + 4 * g)
  | some c =>
    let an := tci % 4
    let k := s.slot 1 c (an % 2)
    let pn := s.secPn c k frame
    match s.unitFor 1 c with
    | none => s.waitAs c p pn an frame
    | some n =>
      if nbit tci 7 || !nbit tci 3 || !nbit tci 2 then s.chanCnt c 14
      else if !k.valid || k.epoch != an || frame.length < (if nbit tci 5 then 44 else 36) then s.noKey c (some n)
      else if k.bad then s.waitAs c p pn an frame
      else
        match s.lgAt 1 n none lg with
        | .mismatch w => s.rxSquelch c n p pn an frame (openMacsec k pn (fld (s.txw (s.newGen true p) c 0) 10 2) frame).1 w
        | o => (s.corrected 1 n o).rxSecure c p n pn an frame k

/-- Frames that waited go on as if they had just arrived (03 R67, R75). -/
def State.unwait (s : State) (c : Nat) (pick : RxFrame → Bool) : State :=
  let x := s.chan c
  let now := x.waitKey.filter pick
  now.foldl (fun s f => if s.macsec c then s.rxMacsec (f.port / 4) f.port f.bytes .agree else s.rxData c (f.port / 4) f.port f.bytes .agree)
    (s.setChan c { x with waitKey := x.waitKey.filter (fun f => !pick f) })

/-! Records of ack/credit frames (04 R91, R105, R106). -/

/-- An ACK record. -/
def State.onAck (s : State) (c g n l : Nat) : State :=
  let x := s.chan c
  if x.txNext ≤ n then s.protoErr g else s.ackTo c n l

/-- A NACK record. -/
def State.onNack (s : State) (c g p count : Nat) : State :=
  let x := s.chan c
  let lo := max p (x.acked + 1)
  let hi := min (p + count - 1) (x.txNext - 1)
  let s1 := if p ≤ x.acked || x.txNext ≤ p + count - 1 then s.protoErr g else s
  if x.txNext == 0 then s1 else s1.markRange c lo hi (s.roundTrip g)

/-- A VOID record. -/
def State.onVoid (s : State) (c g p u : Nat) : State :=
  let x := s.chan c
  if x.voids.any (fun v => v.1 == p) then s
  else if p < x.rxHand || x.marks.contains p then s.protoErr g
  else
    let s1 := (s.setChan c { x with voids := x.voids ++ [(p, u)] }).handOn c false
    let y := s1.chan c
    let z := skipVoids (y.voids.length + 1) y
    s1.setChan c (if z.rxNext == y.rxNext then z else { z with ackChange := s.dev.mono })

/-- A CLOSE record with the last PN assigned. -/
def State.onClose (s : State) (c m : Nat) : State :=
  let x := s.chan c
  if x.st = .closed then s
  else
    let s1 := s.closeChan c
    if s.cls c == 0 && x.rxNext ≤ m then s1.setGap c else s1

/-- One record of 16 bytes, received on group g. -/
def State.onRecord (s : State) (g : Nat) (r : List Byte) : State :=
  let t := beNat (r.take 1)
  let c := beNat (cut r 2 2) % 8192
  let a := beNat (cut r 4 8)
  let b := beNat (cut r 12 4)
  let mine := s.chEn c && s.asxon c && s.spg c == s.home_ g
  if t == 1 && mine && s.cls c == 0 then s.onAck c g a b
  else if t == 2 && mine && s.cls c == 0 then s.onNack c g a (b / 65536)
  else if t == 3 && mine && s.cls c == 0 then s.onVoid c g a (b / 65536)
  else if t == 4 && mine && s.cls c ≤ 1 then s.onClose c a
  else s.protoErr g

/-! Home egress (12 R337, R338, 04 R106). -/

/-- Priority of a clear frame: PCP of its outermost tag, or 0. -/
def State.clearPri (s : State) (f : List Byte) : Nat :=
  let t := w32 (beNat (cut f 12 2))
  if t == s.lv (pCls + 0x12C) || t == s.lv (pCls + 0x130) then beNat (cut f 14 1) / 32 else 0

/-- The head of a channel's receive queue is ready: for an Assured channel, its PN is RX_NEXT. -/
def State.rxReady (s : State) (c : Nat) : Bool :=
  match (s.chan c).rq with
  | [] => false
  | f :: _ => s.cls c != 0 || s.fmt c != 0 || f.pn == (s.chan c).rxNext

/-- The queues that may send on home port p: channel numbers, and 8,192 for the clear-frame queue. -/
def State.egressReady (s : State) (p : Nat) : List Nat :=
  let po := s.port false p
  if po.paused || !s.portUp false p || !s.txOpen then []
  else
    let cs := ((s.chans.map (·.1)).filter (fun c => fld (s.rxw false c 0) 8 5 == p && s.rxReady c &&
      !nbit po.pfcPaused (fld (s.rxw false c 0) 14 3))).foldl (fun a c => insAsc c a) []
    match po.clearQ with
    | [] => cs
    | f :: _ => if nbit po.pfcPaused (s.clearPri f) then cs else cs ++ [8192]

/-- The channels of a home port take what their receive queues have room for from the reorder partition (05 R141). -/
def State.refillPort (s : State) (p : Nat) : State :=
  ((s.chans.map (·.1)).filter (fun c => fld (s.rxw false c 0) 8 5 == p)).foldl (fun s c => s.refill c ((s.chan c).held.length + 1)) s

/-- HOME_EGRESS_SELECT (12 R338): round robin, one frame per turn. -/
def State.select (s : State) (p : Nat) : State :=
  let po := s.port false p
  if po.leaving.isSome then s
  else
    let cs := s.egressReady p
    match (match cs.find? (fun c => po.rr < c + 1) with | some c => some c | none => cs.head?) with
    | none => s
    | some c =>
      let pn := match (s.chan c).rq with | f :: _ => f.pn | [] => 0
      s.setPort false p { po with rr := (c + 1) % 8193, leaving := some (c, pn) }

/-- An uncorrectable error in a received frame (05 R127): discarded unreleased, its mark cleared and its PN NACKed. -/
def State.rxUe (s : State) (c p : Nat) (f : RxFrame) : State :=
  let s1 := ((s.faultBit pQmg 0).bump (pQmg + 0x148)).stompFrame false p f.bytes
  let x := s1.chan c
  let rest := x.rq.filter (fun q => q.pn != f.pn)
  if s1.cls c == 0 && s1.fmt c == 0 then
    (s1.setChan c { x with rq := rest, marks := x.marks.filter (· != f.pn), rxHand := f.pn, nacked := x.nacked.filter (fun e => e.1 != f.pn) }).nackGap c (f.pn + 1)
  else s1.setChan c { x with rq := rest }

/-- A frame's last byte leaves home egress (04 R106): counted, released, acknowledged where due (R101). -/
def State.released (s : State) (c p : Nat) (f : RxFrame) (out : List Byte) (ue : Bool) : State :=
  let s1 := ((s.chanCnt c 10).cntAdd (ccOff c 11) (lenOf f.bytes)).sendFrame false p out
  let x := s1.chan c
  let rest := x.rq.filter (fun q => q.pn != f.pn)
  if s1.cls c == 0 && s1.fmt c == 0 then
    let y := skipVoids (x.voids.length + 1) { x with rq := rest, rxNext := f.pn + 1, released := (x.released + f.units) % 2 ^ 32, ackFrames := x.ackFrames + 1, ackChange := s.dev.mono }
    let s2 := (s1.setChan c { y with marks := y.marks.filter (fun n => y.rxNext ≤ n) }).refillRead c ue
    if f.lib || fld (s.lv (pAsx + 0x104)) 16 8 ≤ y.ackFrames then s2.sendAck c else s2
  else s1.setChan c { x with rq := rest }

/-- What reading a frame's cells at home egress shows (05 R127). -/
def State.egressRead (s : State) (c p : Nat) (f : RxFrame) (out : List Byte) : EgressRead → State
  | .clean => s.released c p f out false
  | .bufCe => (s.bump (pQmg + 0x14C)).released c p f out false
  | .bufUe => s.rxUe c p f
  | .heldUe => s.released c p f out true

end Sys2Proof.Machine
end

