-- ==== Sys2Proof/Machine/Keys.lean ====
section
/-! DEFINITION. Keys: the hybrid exchange, key derivation, epochs and their NEXT and READY records, promotion, ratchet,
rekey and expiry, held key writes (06 R150 to R168, 03 R66 to R70, 01 R22). A step that derives a key holds its jobs
whole (log entry 11). -/
namespace Sys2Proof.Machine

open Crypto

/-- Exactly n bytes: cut, or padded with zeros. -/
def fit (n : Nat) (l : List Byte) : List Byte := (l ++ List.replicate n 0).take n

/-! Derivation (06 R158, R159). -/

def infoHead (label : List Byte) (dir scope c : Nat) : List Byte := label ++ [by8 dir, by8 scope] ++ beBytes 2 (c % 8192)

/-- Chain key of a PRK. -/
def chainKey (prk : List Byte) (dir scope c : Nat) (xid : DWord) : List Byte :=
  hkdfExpand true prk (infoHead [0x4F, 0x5A, 0x43, 0x4B] dir scope c ++ beBytes 8 xid.toNat) 48

/-- The 92 bytes that a chain key gives for an epoch: key, salt, next chain key. -/
def epochOkm (ck : List Byte) (dir scope c e : Nat) : List Byte :=
  hkdfExpand true ck (infoHead [0x4F, 0x5A, 0x45, 0x4B] dir scope c ++ beBytes 2 e) 92

/-- DIR of an info string: 1 for the initiator's transmit direction. d is 0 transmit, 1 receive at this device. -/
def infoDir (init : Bool) (d : Nat) : Nat := if init == (d == 0) then 1 else 2

/-- Key of a chain in the vault: 2 × channel + direction, ports after the channels. -/
def chainIx (port : Bool) (n d : Nat) : Nat := (if port then 16384 else 0) + 2 * n + d

def State.setChain (s : State) (ix e dir : Nat) (ck : List Byte) : State :=
  s.withVault { s.vault with chains := tput s.vault.chains ix (e, dir, ck) }

/-! Writing a key slot (03 R66, R67, R70, 01 R22). -/

/-- A frame of the channel that is still arriving is being sent in cut-through under the epoch (03 R70). -/
def State.cutUnder (s : State) (c epoch : Nat) : Bool :=
  s.ports.any (fun e => match e.2.arr with
    | some a => a.chan == c && a.cutPn.isSome && a.cutEpoch == epoch
    | none => false)

/-- The slot that an epoch lives in holds a key whose use holds a write. -/
def State.slotHeld (s : State) (enc : Bool) (c epoch : Nat) : Bool :=
  let x := s.chan c
  let k := s.slot (b2n (!enc)) c (epoch % 2)
  if !k.valid then false
  else if enc then (x.curEpoch != 0 && x.cur == epoch % 2) || x.flight.any (fun f => f.epoch == k.epoch) || s.cutUnder c k.epoch
  else if s.assured c then
    k.used && (x.rxCur == epoch % 2 || decide (x.rxNext < x.rxEpPn) ||
      (x.rq ++ x.held ++ x.waitKey).any (fun f => f.epoch == k.epoch))
  else (x.rq ++ x.waitKey).any (fun f => f.epoch == k.epoch)

/-- An injected key-cache error shows in the next slot written (16 R440, 03 R67). -/
def State.keyInj (s : State) (d c k : Nat) : State :=
  (List.range 9).foldl (fun s n => [3, 4].foldl (fun s b =>
    if s.saf.injected.contains (pLane d n, b) then
      let s1 := s.withSaf { s.saf with injected := s.saf.injected.filter (· != (pLane d n, b)) }
      ((s1.faultBit (pLane d n) b).bump (pLane d n + (if b == 3 then 0x120 else 0x124))).setSlot d c k { s.slot d c k with bad := true }
    else s) s) s

/-- Writes a key into its slot in the nine units of its direction. -/
def State.putKey (s : State) (w : HeldWrite) : State :=
  let d := b2n (!w.enc)
  let key := w.data.take 32
  let k : KeySlot := { valid := true, epoch := w.epoch, key := key, salt := cut w.data 32 12, ssci := if w.sa then w32 (leNat (cut w.data 44 4)) else 0, kcv := kcv key, confirmed := w.sa && w.use, ratchet := w.ratchet, pn0 := if w.sa then leNat (cut w.data 48 8) else 0, at_ := w.at_ }
  let s1 := (s.setSlot d w.chan (w.epoch % 2) k).keyInj d w.chan (w.epoch % 2)
  if w.enc then
    let s2 := if w.ratchet then s1 else s1.reopen w.chan
    if w.sa then s2 else s2.setChan w.chan { s2.chan w.chan with nextSent := w.epoch, nextXid := w.xid }
  else s1

/-- Writes a key, or holds the write; a write that waited for the same slot is replaced. -/
def State.writeKey (s : State) (w : HeldWrite) : State :=
  let v := s.vault
  let rest := v.heldWrites.filter (fun h => !(h.enc == w.enc && h.chan == w.chan && h.epoch % 2 == w.epoch % 2))
  if s.slotHeld w.enc w.chan w.epoch then s.withVault { v with heldWrites := rest ++ [w] }
  else (s.withVault { v with heldWrites := rest }).putKey w

/-! NEXT and READY (06 R153, R161). -/

/-- Key messages may go to the peer: not while it is STRANDED or LANDFALL (06 R167). -/
def State.keysFlow (s : State) (w : Nat) : Bool :=
  s.hcUp 1 && (match (s.peer w).sub with | .joined => true | .keying => true | _ => false)

/-- The NEXT record of a channel whose new epoch is written and unanswered. -/
def State.nextRec (s : State) (c : Nat) : List Byte :=
  let x := s.chan c
  let k := s.slot 0 c (x.nextSent % 2)
  beBytes 2 c ++ beBytes 2 x.nextSent ++ [by8 (b2n (!k.ratchet)), 0, 0, 0] ++ beBytes 8 (if k.ratchet then 0 else x.nextXid.toNat)

/-- Sends records, at most n in a message. -/
def State.sendKeyRecs (s : State) (w msg n : Nat) (recs : List (List Byte)) : Nat → State
  | 0 => s
  | k + 1 =>
    match recs with
    | [] => s
    | _ =>
      let now := recs.take n
      (s.control w msg (beBytes 2 now.length ++ now.flatten)).sendKeyRecs w msg n (recs.drop n) k

/-- A running exchange with a peer covers the channel. -/
def State.covering (s : State) (w c : Nat) : Bool :=
  s.vault.xchs.any (fun y => y.g == w && (y.chan.isNone || y.chan == some c) && y.phase != 3)

/-- Sends NEXT records for those channels of a list that have an unanswered one; none of a ratchet key while an exchange covers its
channel. -/
def State.sendNexts (s : State) (w : Nat) (cs : List Nat) : State :=
  let go := cs.filter (fun c => (s.chan c).nextSent != 0 && !((s.slot 0 c ((s.chan c).nextSent % 2)).ratchet && s.covering w c))
  if s.keysFlow w then s.sendKeyRecs w 0x14 128 (go.map s.nextRec) (go.length / 128 + 1) else s

/-- READY for a channel's decrypt slot. -/
def State.sendReady (s : State) (w c epoch : Nat) : State :=
  let k := s.slot 1 c (epoch % 2)
  if s.keysFlow w then s.control w 0x15 (beBytes 2 1 ++ beBytes 2 c ++ beBytes 2 epoch ++ beBytes 4 k.kcv.toNat) else s

/-- What follows a completed write: NEXT for an encrypt slot, READY for a decrypt slot that a NEXT asked for. -/
def State.afterPut (s : State) (w : HeldWrite) : State :=
  let p := s.home_ (s.spg w.chan)
  if w.sa then s
  else if w.enc then s.sendNexts p [w.chan]
  else
    let x := s.chan w.chan
    if x.readyWait == w.epoch && !s.slotHeld false w.chan w.epoch || x.readyWait == w.epoch && (s.slot 1 w.chan (w.epoch % 2)).epoch == w.epoch then
      (s.setChan w.chan { x with readyWait := 0 }).sendReady p w.chan w.epoch
    else s

/-- Removes an answered NEXT record from its exchange's PRK. -/
def State.answered (s : State) (xid : DWord) (n : Nat) : State :=
  s.withVault { s.vault with prks := s.vault.prks.map (fun p => if p.xid == xid then { p with waiting := p.waiting.filter (· != n) } else p), xchs := s.vault.xchs.filter (fun x => !(x.xid == xid && x.phase == 3)) }

/-- Derives the next transmit epoch of a channel from a chain key, writes it and keeps the next chain key. -/
def State.deriveTx (s : State) (c dir : Nat) (ck : List Byte) (ratchet : Bool) (xid : DWord) (at_ : Nat) : State :=
  let e := nextEpoch (s.chan c).curEpoch
  let okm := epochOkm ck dir 2 c e
  (s.setChain (chainIx false c 0) (nextEpoch e) dir (cut okm 44 48)).writeKey
    { enc := true, chan := c, epoch := e, data := okm.take 44, ratchet := ratchet, xid := xid, at_ := at_ }

/-- The same for a receive epoch named by a NEXT record. -/
def State.deriveRx (s : State) (c e dir : Nat) (ck : List Byte) (ratchet : Bool) (xid : DWord) : State :=
  let okm := epochOkm ck dir 2 c e
  let w : HeldWrite := { enc := false, chan := c, epoch := e, data := okm.take 44, ratchet := ratchet, xid := xid, at_ := s.dev.mono }
  let s1 := s.setChain (chainIx false c 1) (nextEpoch e) dir (cut okm 44 48)
  let s2 := (s1.setChan c { s1.chan c with rxEpoch := e, readyWait := e }).writeKey w
  if s2.vault.heldWrites.contains w then s2 else s2.afterPut w

/-- One NEXT record (06 R161). -/
def State.onNext (s : State) (w g : Nat) (r : List Byte) : State :=
  let hd := beNat (r.take 2)
  let c := hd % 8192
  let e := beNat (cut r 2 2)
  let origin := beNat (cut r 4 1)
  let xid := BitVec.ofNat 64 (beNat (cut r 8 8))
  let x := s.chan c
  let k := s.slot 1 c (e % 2)
  let again := e == x.rxEpoch && e != 0 && !(k.valid && k.epoch == e && k.used)
  if nbit hd 15 || !(s.chEn c && (s.asxon c || s.isStream c) && s.spg c == w) || !(e == nextEpoch x.rxEpoch || again) then
    s.protoErr g
  else if origin == 1 then
    match s.vault.prks.find? (fun p => p.xid == xid && p.g == w) with
    | some p =>
      if !p.chans.contains c then s.protoErr g
      else
        let dir := infoDir p.init 1
        (s.deriveRx c e dir (chainKey p.key dir 2 c xid) false xid).answered xid (2 * c + 1)
    | none => s.protoErr g
  else if again then
    if k.valid && k.epoch == e then s.sendReady w c e else s
  else
    match tget s.vault.chains (chainIx false c 1) (0, 0, []) with
    | (served, dir, ck) => if served == e && !ck.isEmpty then s.deriveRx c e dir ck true 0 else s.protoErr g

/-- One READY record (06 R161). -/
def State.onReady (s : State) (w : Nat) (r : List Byte) : State :=
  let hd := beNat (r.take 2)
  let c := hd % 8192
  let e := beNat (cut r 2 2)
  let x := s.chan c
  let k := s.slot 0 c (e % 2)
  if !nbit hd 15 && s.home_ (s.spg c) == w && x.nextSent == e && e != 0 && k.valid && k.epoch == e &&
      k.kcv == w32 (beNat (cut r 4 4)) then
    ((s.setSlot 0 c (e % 2) { k with confirmed := true }).setChan c { x with nextSent := 0 }).answered x.nextXid (2 * c)
  else s

/-! The exchange (06 R150 to R157). -/

/-- Instance i of DRB serves (06 R176, R178): without entropy instance 2 goes on for 2^32 requests. -/
def State.drbServes (s : State) (i : Nat) : Bool :=
  let v := s.vault
  v.drbUp && !v.drbCast && !v.drbStall.contains i && (i != 2 || decide (v.drbReq.getD 2 0 < 2 ^ 32))

/-- The reseed of an instance falls due (06 R177, R178): without entropy instances 0 and 1 stall. -/
def State.reseed (s : State) (i : Nat) : State :=
  let v := s.vault
  if v.drbSrc && v.drbUp then
    (s.withVault { v with drbReq := setAt v.drbReq i 0, drbStall := v.drbStall.filter (· != i) }).bumpWrap (pDrb + 0x108)
  else if i == 2 || v.drbStall.contains i then s
  else (s.withVault { v with drbStall := ins v.drbStall i }).raise pDrb 1

/-- A request to an instance of DRB; 2^16 of them make its reseed due (06 R177). -/
def State.drbUse (s : State) (i : Nat) : State :=
  let n := s.vault.drbReq.getD i 0 + 1
  let s1 := s.withVault { s.vault with drbReq := setAt s.vault.drbReq i n }
  if 65536 ≤ n then s1.reseed i else s1

/-- Instance 0 of DRB serves. -/
def State.entropy (s : State) : Bool := s.drbServes 0

/-- Exchanges may start: transmitters open, identity keys loaded, entropy available, the kilns patched (13 R362). -/
def State.mayKey (s : State) : Bool :=
  s.txOpen && !s.patchFailed && s.hcUp 1 && decide (s.dev.dstate ≠ .zeroized) && s.entropy && !s.vault.idk.isEmpty

/-- Exchanges that run: one that is complete here and awaits only the answer to its FINISH does not (06 R151). -/
def State.running (s : State) : Nat := (s.vault.xchs.filter (fun x => x.phase != 3)).length

/-- A peer-scope exchange satisfies a held REKEY action of the peer (11 R328). -/
def State.rekeyMet (s : State) (w : Nat) : State :=
  if (s.peer w).rekeyHeld then s.setPeer w { s.peer w with rekeyHeld := false, rekeyBy := [] } else s

/-- Starts an exchange of a scope with a peer that is JOINED or KEYING. -/
def State.startXch (s : State) (w : Nat) (chan : Option Nat) : State :=
  let xs := s.vault.xchs
  if !s.mayKey || !s.keysFlow w || xs.any (fun x => x.g == w && (x.chan == chan || x.chan.isNone) && x.phase != 3) || 4096 ≤ s.running then s
  else
    let xid := BitVec.ofNat 64 (Config.freeNat s.free)
    let priv := s.free + 1
    let fresh := (s.peer w).portEpoch == 0
    let hello := beBytes 8 xid.toNat ++ [if chan.isSome then 2 else 1, by8 (b2n fresh)] ++ beBytes 2 (chan.getD 0) ++
      [0, 0, 0, 0] ++ fit 1633 (Config.xchPublic priv 0)
    let s1 := s.drawn.drawn.withVault { s.vault with xchs := xs.filter (fun x => !(x.g == w && x.chan == chan)) ++ [{ xid := xid, g := w, chan := chan, init := true, phase := 0, priv := priv, hello := hello, anchor := tget s.vault.anchors w [] }], retry := match chan with | some c => s.vault.retry.filter (· != c) | none => s.vault.retry }
    (if chan.isNone then s1.rekeyMet w else s1).drbUse 0 |>.control w 0x10 hello

/-- An enabled UNKEYED peer with a path up enters KEYING (01 R29). -/
def State.startKeying (s : State) (w : Nat) : State :=
  let pe := s.peer w
  if pe.sub = .unkeyed && bit (s.lv (aGrp w)) 0 && s.anyPath w && !pe.backing && s.mayKey && s.home_ w == w then
    (s.setSub w .keying).startXch w none
  else s

/-- Channel-scope exchanges that a JOINED peer's channels are due: CLOSED, or IDLE without a key (06 R150). -/
def State.keyScan (s : State) (w : Nat) : State :=
  if (s.peer w).sub = .joined then
    (s.peerChans w (fun c => s.asxon c || s.isStream c)).foldl (fun s c =>
      let x := s.chan c
      if (x.st = .closed || (x.st = .idle && x.curEpoch == 0)) && x.nextSent == 0 && !s.vault.retry.contains c &&
          !s.vault.heldWrites.any (fun h => h.enc && h.chan == c) then s.startXch w (some c) else s) s
  else s.startKeying w

/-- The same for every peer. -/
def State.keyScanAll (s : State) : State := (List.range 8).foldl State.keyScan s

/-- An exchange fails (06 R156). -/
def State.failXch (s : State) (x : Xch) (reason : Nat) : State :=
  let v := s.vault
  let s1 := s.withVault { v with xchs := v.xchs.filter (fun y => y.xid != x.xid || y.g != x.g), prks := v.prks.filter (fun p => p.done || p.xid != x.xid), retry := match x.chan with | some c => ins v.retry c | none => v.retry }
  let s2 := ((s1.bump (pVlt + 0x114)).setReg (pVlt + 0x128) (w32 (reason + 256 * x.g + 2048 * x.chan.getD 0))).raise pVlt 0
  let pe := s2.peer x.g
  if x.chan.isNone && pe.sub = .keying then
    (s2.setPeer x.g { pe with backoff := if pe.backoff == 0 then 1 else min 64 (2 * pe.backoff), backing := true }).goUnkeyed x.g
  else if x.chan.isNone then s2.setPeer x.g { pe with portNew := false } else s2

/-- Sends ABORT. -/
def State.abort (s : State) (w : Nat) (xid : DWord) (reason : Nat) : State :=
  s.control w 0x13 (beBytes 8 xid.toNat ++ [by8 reason, 0, 0, 0])

/-- Writes both new port slots (06 R162). -/
def State.putPort_ (s : State) (p : Prk) : State :=
  let w := p.g
  let pe := s.peer w
  let e := nextEpoch pe.portEpoch
  let s1 := [0, 1].foldl (fun s d =>
    let dir := infoDir p.init d
    let okm := epochOkm (chainKey p.key dir 1 0 p.xid) dir 1 0 e
    (s.setPslot d w (e % 2) { valid := true, epoch := e, key := okm.take 32, salt := cut okm 32 12, kcv := kcv (okm.take 32), at_ := s.dev.mono }).setChain
      (chainIx true w d) (nextEpoch e) dir (cut okm 44 48)) s
  s1.setPeer w { s1.peer w with rw := tdel (s1.peer w).rw (e % 2), portNew := true }

/-- The transmit port epoch moves to the newest port key. -/
def State.switchPort (s : State) (w : Nat) : State :=
  let pe := s.peer w
  if !pe.portNew then s
  else
    let s1 := s.setPeer w { pe with portEpoch := nextEpoch pe.portEpoch, portNew := false, portPn := 1 }
    if pe.portEpoch == 0 then (s.groupsOf w).foldl (fun s g => s.setPath g { s.path g with keyedAt := some s.dev.mono }) s1 else s1

/-- A KEYING peer whose first exchange is complete goes JOINED once its encrypt slots are written (06 R151). -/
def State.joinCheck (s : State) (w : Nat) : State :=
  if (s.peer w).sub = .keying && s.portKeyed w &&
      !s.vault.heldWrites.any (fun h => h.enc && (s.peerChans w (fun c => s.asxon c || s.isStream c)).contains h.chan) then s.setSub w .joined
  else s

/-- A completed exchange: counted, its channel keys derived and written, and the NEXT records sent (06 R151, R158). -/
def State.complete_ (s : State) (p : Prk) : State :=
  let w := p.g
  let cs := match p.chan with
    | some c => [c]
    | none => s.peerChans w (fun c => s.asxon c || s.isStream c)
  let p1 := { p with done := true, doneAt := s.dev.mono, chans := cs, waiting := cs.flatMap (fun c => [2 * c, 2 * c + 1]) }
  let v := s.vault
  let s1 := (s.withVault { v with prks := v.prks.filter (fun q => q.xid != p.xid) ++ [p1] }).bump (pVlt + 0x110)
  let dir := infoDir p.init 0
  let s2 := cs.foldl (fun s c =>
    s.deriveTx c dir (chainKey p.key dir 2 c p.xid) false p.xid s.dev.mono) s1
  let s3 := s2.sendNexts w (cs.filter (fun c => !s2.vault.heldWrites.any (fun h => h.enc && h.chan == c)))
  if p.chan.isNone then (s3.setPeer w { s3.peer w with backoff := 0 }).joinCheck w else s3

/-- PRK of an exchange from the transcript hash. -/
def xchPrk (x : Xch) (hello reply peerPub : List Byte) : List Byte :=
  hkdfExtract (sha384 (hello ++ reply)) (fit 64 (Config.xchSecret x.priv peerPub))

/-- The two signatures over m by the identity keys. -/
def State.signs (s : State) (m : List Byte) : List Byte :=
  fit 64 (Config.ecdsaSign s.vault.idk m s.free) ++ fit 3309 (Config.mldsaSign s.vault.idk m s.free)

/-- Both signatures verify against the anchor that stood when the exchange started (06 R149, R152). -/
def Xch.verifies (x : Xch) (m sigs : List Byte) : Bool :=
  let a := x.anchor
  !a.isEmpty && Config.ecdsaVerify (a.take 65) m (sigs.take 64) && Config.mldsaVerify (a.drop 65) m (sigs.drop 64)

/-- The public fields of a HELLO pass their checks (06 R152). -/
def helloOk (m : List Byte) : Bool := Config.pointOk (cut m 16 65) && Config.ekOk (cut m 81 1568)

/-- Answers a HELLO as responder. -/
def State.answerHello (s : State) (w : Nat) (chan : Option Nat) (xid : DWord) (m : List Byte) : State :=
  let x0 : Xch := { xid := xid, g := w, chan := chan, init := false, phase := 2, anchor := tget s.vault.anchors w [] }
  if 4096 ≤ s.running then s.abort w xid 3
  else if !helloOk m then (s.abort w xid 1).failXch x0 1
  else if !s.mayKey then s
  else
    let priv := s.free
    let s0 := s.drawn
    let head := beBytes 8 xid.toNat ++ [0, 0, 0, 0] ++ fit 1633 (Config.xchPublic priv 1)
    let reply := head ++ s0.signs (0x52 :: sha384 (m ++ head))
    let s1 := s0.drawn.withVault { s0.vault with xchs := s0.vault.xchs.filter (fun x => !(x.g == w && x.chan == chan)) ++ [{ x0 with priv := priv, hello := m, reply := reply }] }
    let s2 := if chan.isNone then s1.rekeyMet w else s1
    let s3 := if chan.isNone && (s2.peer w).sub = .unkeyed then s2.setSub w .keying else s2
    s3.control w 0x11 reply

/-- A fresh HELLO from a STRANDED peer (04 R115). Every channel of the peer is taken to mean those of every format that name its group,
802.1AE and Stream channels among them: DESIGN CHOICE, the manual does not say (log entry 77). -/
def State.peerRestart (s : State) (w : Nat) : State :=
  let s1 := (s.peerChans w (fun _ => true)).foldl (fun s c =>
    let x := s.chan c
    let lost := !x.held.isEmpty || (s.assured c && decide (x.rxNext < x.highest))
    let s2 := s.closeReport c 4
    if lost then s2.setGap c else s2) s
  (s1.raise pAsx 6).goUnkeyed w

/-- A received HELLO (06 R151, R154, R155, R157). A channel-scope HELLO that arrives while a peer-scope exchange with the peer runs is
ignored: DESIGN CHOICE, the manual does not say (log entry 81). -/
def State.onHello (s : State) (w g : Nat) (clear : Bool) (m : List Byte) : State :=
  let xid := BitVec.ofNat 64 (beNat (m.take 8))
  let scope := beNat (cut m 8 1)
  let fresh := nbit (beNat (cut m 9 1)) 0
  let c := beNat (cut m 10 2) % 8192
  let chan := if scope == 1 then none else some c
  let pe := s.peer w
  let en := bit (s.lv (aGrp w)) 0
  if m.length != 1649 || (scope != 1 && scope != 2) || !en then s.protoErr g
  else if clear && scope == 1 && pe.sub = .stranded && fresh then
    if !helloOk m then s.answerHello w none xid m
    else if bit (s.lv (aGrp w)) 1 then (s.peerRestart w).answerHello w none xid m else s.protoErr g
  else if clear && (scope != 1 || (pe.sub ≠ .unkeyed && pe.sub ≠ .keying)) then s.protoErr g
  else if !clear && pe.sub ≠ .joined && pe.sub ≠ .keying then s
  else if scope == 2 && !(s.chEn c && (s.asxon c || s.isStream c) && s.spg c == w) then s.protoErr g
  else
    match s.vault.xchs.find? (fun x => x.g == w && x.chan == chan && x.phase != 3) with
    | some x =>
      if x.init && x.phase == 0 then
        if x.xid.toNat < xid.toNat then s
        else
          let s1 := s.withVault { s.vault with xchs := s.vault.xchs.filter (fun y => !(y.g == w && y.chan == chan)) }
          if x.xid == xid then s1.startXch w chan else s1.answerHello w chan xid m
      else if x.xid == xid then s.control w 0x11 x.reply
      else s.answerHello w chan xid m
    | none =>
      if chan.isSome && s.vault.xchs.any (fun x => x.g == w && x.chan.isNone) then s else s.answerHello w chan xid m

/-- A received REPLY (06 R151 step 3). One of another length than R153 gives fails as its authentication would, and so does a FINISH:
DESIGN CHOICE, the manual does not say (log entry 80). -/
def State.onReply (s : State) (w : Nat) (m : List Byte) : State :=
  let xid := BitVec.ofNat 64 (beNat (m.take 8))
  match s.vault.xchs.find? (fun x => x.g == w && x.xid == xid && x.init && x.phase == 0) with
  | none => s
  | some x =>
    let mr := 0x52 :: sha384 (x.hello ++ m.take 1645)
    if m.length != 5018 || !Config.pointOk (cut m 12 65) || !Config.ctOk (cut m 77 1568) || !x.verifies mr (m.drop 1645) then
      (s.abort w xid 1).failXch x 1
    else
      let finish := beBytes 8 xid.toNat ++ s.signs (0x49 :: sha384 (x.hello ++ m))
      let p : Prk := { xid := xid, g := w, chan := x.chan, key := xchPrk x x.hello m (cut m 12 1633), init := true }
      let y := { x with phase := if x.chan.isSome then 3 else 1, sends := 1, reply := m, finish := finish }
      let s1 := s.drawn.withVault { s.vault with xchs := s.vault.xchs.map (fun z => if z.xid == xid && z.g == w then y else z), prks := s.vault.prks.filter (fun q => q.xid != xid) ++ [p] }
      let s2 := s1.control w 0x12 finish
      if x.chan.isSome then s2.complete_ p else s2.putPort_ p

/-- A received FINISH (06 R151 step 4). -/
def State.onFinish (s : State) (w : Nat) (m : List Byte) : State :=
  let xid := BitVec.ofNat 64 (beNat (m.take 8))
  match s.vault.xchs.find? (fun x => x.g == w && x.xid == xid && !x.init) with
  | none => s
  | some x =>
    if m.length != 3381 || !x.verifies (0x49 :: sha384 (x.hello ++ x.reply)) (m.drop 8) then (s.abort w xid 1).failXch x 1
    else
      let p : Prk := { xid := xid, g := w, chan := x.chan, key := xchPrk x x.hello x.reply (cut x.hello 16 1633), init := false }
      let s1 := s.withVault { s.vault with xchs := s.vault.xchs.filter (fun y => !(y.xid == xid && y.g == w)) }
      if x.chan.isSome then s1.complete_ p else ((s1.putPort_ p).switchPort w).complete_ p

/-- The initiator of a peer-scope exchange hears the first port frame under the new port epoch (06 R151 step 5, R162). -/
def State.portSwitch (s : State) (w : Nat) : State :=
  let pe := s.peer w
  if !pe.portNew then s
  else
    match s.vault.xchs.find? (fun x => x.g == w && x.chan.isNone && x.phase == 1) with
    | none => s.switchPort w
    | some x =>
      let s1 := (s.switchPort w).withVault { s.vault with xchs := s.vault.xchs.filter (fun y => !(y.xid == x.xid && y.g == w)) }
      match s1.vault.prks.find? (fun p => p.xid == x.xid && p.g == w) with
      | some p => s1.complete_ p
      | none => s1

/-- A received ABORT (06 R153, R157): reason 3 has the initiator try again after 100 ms. -/
def State.onAbort (s : State) (w : Nat) (m : List Byte) : State :=
  let xid := BitVec.ofNat 64 (beNat (m.take 8))
  let reason := beNat (cut m 8 1)
  match s.vault.xchs.find? (fun x => x.g == w && x.xid == xid) with
  | none => s
  | some x =>
    if reason == 3 && x.init && x.phase == 0 then
      s.withVault { s.vault with xchs := s.vault.xchs.filter (fun y => !(y.xid == xid && y.g == w)), busy := (w, x.chan) :: s.vault.busy.filter (· != (w, x.chan)) }
    else s.failXch x reason

/-- A handshake message (06 R153). -/
def State.onKeyMsg (s : State) (w g msg : Nat) (clear : Bool) (m : List Byte) : State :=
  let n := beNat (m.take 2)
  if !s.hcUp 1 then s
  else if 0x16 ≤ msg then s.protoErr g
  else if clear && (s.peer w).portEpoch != 0 && msg != 0x10 then s
  else if msg == 0x10 then s.onHello w g clear m
  else if msg == 0x11 then s.onReply w m
  else if msg == 0x12 then s.onFinish w m
  else if msg == 0x13 then s.onAbort w m
  else if clear || !s.keysFlow w then s.protoErr g
  else if msg == 0x14 && 1 ≤ n && n ≤ 128 && m.length == 2 + 16 * n then
    (List.range n).foldl (fun s i => s.onNext w g (cut m (2 + 16 * i) 16)) s
  else if msg == 0x15 && 1 ≤ n && n ≤ 256 && m.length == 2 + 8 * n then
    (List.range n).foldl (fun s i => s.onReady w (cut m (2 + 8 * i) 8)) s
  else s.protoErr g

/-! The commands. -/

/-- The channel may take part in a channel-scope exchange with a JOINED peer, now or once it is JOINED (06 R167). -/
def State.rekeyChan (s : State) (c : Nat) : State :=
  let w := s.home_ (s.spg c)
  if !(s.chEn c && (s.asxon c || s.isStream c)) then s
  else match (s.peer w).sub with
    | .joined => s.startXch w (some c)
    | .stranded | .landfall => s.setChan c { s.chan c with rekeyHeld := true }
    | _ => s

/-- A ratchet step (06 R163, R161): held while the peer is STRANDED or LANDFALL, none while an exchange covers the
channel or its NEXT is unanswered, or before a frame was sent under the current epoch. -/
def State.ratchet (s : State) (c : Nat) : State :=
  let w := s.home_ (s.spg c)
  let x := s.chan c
  let pe := s.peer w
  if !(s.chEn c && (s.asxon c || s.isStream c)) || x.curEpoch == 0 || (s.slot 0 c x.cur).firstAt.isNone then s
  else if pe.sub = .stranded || pe.sub = .landfall then s.setChan c { x with ratchetHeld := true }
  else if pe.sub ≠ .joined || x.nextSent != 0 || s.vault.heldWrites.any (fun h => h.enc && h.chan == c) ||
      s.covering w c then s
  else
    match tget s.vault.chains (chainIx false c 0) (0, 0, []) with
    | (served, dir, ck) =>
      if ck.isEmpty || served != nextEpoch x.curEpoch then s
      else ((s.setChan c { x with ratchetHeld := false }).deriveTx c dir ck true 0 (s.slot 0 c x.cur).at_).sendNexts w [c]

/-- PATH_UP (04 R109, R114, 01 R29): a path comes up; an UNKEYED peer starts keying, a STRANDED one makes landfall. -/
def execPathUp (g : Fin 8) (s : State) : Host.Outcome State Fault Refusal :=
  let w := s.home_ g.val
  if (s.path g.val).up || !s.pathCond g.val then .next s
  else
    let s1 := s.setPath g.val { s.path g.val with up := true }
    let s2 := (List.range 4).foldl (fun s n => s.setPort true (4 * g.val + n) { s.port true (4 * g.val + n) with done := 0 }) s1
    if (s2.peer w).sub = .stranded then .next (((s2.setSub w .landfall).raise pAsx 1).startResync w)
    else .next (s2.startKeying w)

/-- HARD_EXPIRY (06 R165, R166, 04 R112): the channel's age reaches HARD_EXP_MIN. -/
def execHardExpiry (c : Fin 8192) (s : State) : Host.Outcome State Fault Refusal :=
  let x := s.chan c.val
  let w := s.home_ (s.spg c.val)
  if x.st = .closed then .next s
  else
    let gap := (s.peer w).sub = .stranded && s.assured c.val && decide (x.rxNext < x.highest)
    let s1 := s.closeReport c.val 1
    .next ((if gap then s1.setGap c.val else s1).keyScan w)

/-- REKEY_DUE (06 R164, R156): a channel-scope rekey, which REKEY_S 0 turns off, or the retry of a failed one. -/
def execRekeyDue (c : Fin 8192) (s : State) : Host.Outcome State Fault Refusal :=
  .next (if fld (s.txw false c.val 3) 0 16 == 0 && !s.vault.retry.contains c.val then s else s.rekeyChan c.val)

/-- REFRESH_DUE (06 R164): the channel's age reaches 7/8 of HARD_EXP_MIN. -/
def execRefreshDue (c : Fin 8192) (s : State) : Host.Outcome State Fault Refusal := .next (s.rekeyChan c.val)

/-- RATCHET_DUE (06 R163). -/
def execRatchetDue (c : Fin 8192) (s : State) : Host.Outcome State Fault Refusal := .next (s.ratchet c.val)

/-- PORT_REKEY_DUE (06 R150): PORT_REKEY_S seconds have passed while the peer is JOINED. -/
def execPortRekeyDue (g : Fin 8) (s : State) : Host.Outcome State Fault Refusal :=
  let w := s.home_ g.val
  .next (if (s.peer w).sub = .joined then s.startXch w none else s)

/-- A held peer-scope rekey starts, if an exchange may start now; the groups whose sensing asked for it note the time
(11 R328). -/
def State.startHeldPeer (s : State) (w : Nat) : State :=
  if !(s.peer w).rekeyHeld then s
  else
    let s1 := s.startXch w none
    if s1.free == s.free then s
    else (s.peer w).rekeyBy.foldl (fun s g => s.setSense g { s.sense g with rekeyAt := some s.dev.mono }) s1

/-- HELD_KEYING_RESUME (06 R167): the peer is JOINED; held rekeys and refreshes start, held ratchet steps go. -/
def execHeldKeyingResume (g : Fin 8) (s : State) : Host.Outcome State Fault Refusal :=
  let w := s.home_ g.val
  if (s.peer w).sub = .joined then
    let s0 := s.startHeldPeer w
    .next (((s0.peerChans w (fun _ => true)).foldl (fun s c =>
      let x := s.chan c
      let s1 := if x.ratchetHeld then (s.setChan c { x with ratchetHeld := false }).ratchet c else s
      if x.rekeyHeld then (s1.setChan c { s1.chan c with rekeyHeld := false }).startXch w (some c) else s1) s0).keyScan w)
  else .next s

/-- EXCHANGE_RETRY (06 R156): the answer has not arrived; the sixth sending is the last. -/
def execExchangeRetry (xid : DWord) (s : State) : Host.Outcome State Fault Refusal :=
  match s.vault.xchs.find? (fun x => x.xid == xid && x.init) with
  | none => .next s
  | some x =>
    if 6 ≤ x.sends then .next ((s.abort x.g xid 5).failXch x 5)
    else
      let s1 := s.withVault { s.vault with xchs := s.vault.xchs.map (fun y => if y.xid == xid && y.g == x.g then { y with sends := y.sends + 1 } else y) }
      .next (if x.phase == 0 then s1.control x.g 0x10 x.hello else s1.control x.g 0x12 x.finish)

/-- KEYING_BACKOFF_EXPIRY (06 R156): the next HELLO may leave. -/
def execKeyingBackoffExpiry (g : Fin 8) (s : State) : Host.Outcome State Fault Refusal :=
  let w := s.home_ g.val
  .next ((s.setPeer w { s.peer w with backing := false }).startKeying w)

/-- BUSY_RETRY (06 R157): 100 ms after an ABORT busy the initiator tries again. -/
def execBusyRetry (g : Fin 8) (chan : Option (Fin 8192)) (s : State) : Host.Outcome State Fault Refusal :=
  let w := s.home_ g.val
  let key := (w, chan.map (·.val))
  if s.vault.busy.contains key && s.keysFlow w then
    .next ((s.withVault { s.vault with busy := s.vault.busy.filter (· != key) }).startXch w key.2)
  else .next s

/-- NEXT_REPEAT (06 R161): unanswered NEXT records of a peer go again. -/
def execNextRepeat (g : Fin 8) (s : State) : Host.Outcome State Fault Refusal :=
  let w := s.home_ g.val
  .next (s.sendNexts w (s.peerChans w (fun _ => true)))

/-- PRK_ERASE (06 R158): every NEXT record of the exchange is answered, or 10 s have passed since completion. -/
def execPrkErase (xid : DWord) (s : State) : Host.Outcome State Fault Refusal :=
  .next (s.withVault { s.vault with prks := s.vault.prks.filter (fun p => !(p.xid == xid && p.done && (p.waiting.isEmpty || decide (p.doneAt + 10000000000 ≤ s.dev.mono)))) })

/-- HELD_KEY_WRITE_COMPLETE (03 R70, 01 R22): a held write completes once its slot is free. -/
def execHeldKeyWriteComplete (d : Dir) (c : Fin 8192) (s : State) : Host.Outcome State Fault Refusal :=
  let enc := decide (d = .enc)
  match s.vault.heldWrites.find? (fun h => h.enc == enc && h.chan == c.val && !s.slotHeld enc c.val h.epoch) with
  | none => .next s
  | some h =>
    let s1 := s.withVault { s.vault with heldWrites := s.vault.heldWrites.filter (· != h) }
    .next (((s1.putKey h).afterPut h).joinCheck (s.home_ (s.spg c.val)))

/-- EPOCH_PROMOTION (03 R68, 04 R112): the next slot, valid and confirmed, becomes current; it holds the successor of the current epoch,
or of an 802.1AE channel the SA imported with USE. The mark of the slot it replaces ends. -/
def execEpochPromotion (c : Fin 8192) (s : State) : Host.Outcome State Fault Refusal :=
  let x := s.chan c.val
  let w := s.home_ (s.spg c.val)
  let sub := (s.peer w).sub
  let frozen := !s.macsec c.val && (sub = .stranded || sub = .landfall)
  let n := if x.curEpoch == 0 then (if (s.slot 0 c.val 0).valid && (s.slot 0 c.val 0).confirmed then 0 else 1) else 1 - x.cur
  let k := s.slot 0 c.val n
  let follows := s.macsec c.val || k.epoch == nextEpoch x.curEpoch
  if !k.valid || !k.confirmed || !follows || frozen || x.st = .closed then .next s
  else
    let y := { x with cur := n, curEpoch := if s.macsec c.val then k.epoch + 1 else k.epoch, esw := true, txNext := if s.macsec c.val && x.st ≠ .idle then k.pn0 else x.txNext }
    let s0 := s.setSlot 0 c.val (1 - n) { s.slot 0 c.val (1 - n) with confirmed := false }
    let s1 := s0.setChan c.val y
    .next ((if k.ratchet then s1.bump (pVlt + 0x120) else s1).activate c.val)

/-! Commands that can close a channel: its exchange is then due (06 R150). -/

/-- The exchange of channel c is due where a command has closed it. -/
def State.rescan (s t : State) (c : Nat) : State :=
  if (t.chan c).st = .closed && (s.chan c).st ≠ .closed then t.keyScan (t.home_ (t.spg c)) else t

/-- HOME_HOLD_FETCH (05 R124). -/
def execHomeHoldFetch (c : Fin 8192) (rd : FetchRead) (s : State) : Host.Outcome State Fault Refusal :=
  .next (s.rescan (s.fetch c.val rd) c.val)

/-- SEND_DATA_FRAME (04 R105): from the queue, or in cut-through from a home port. -/
def execSendDataFrame (c : Fin 8192) (cut : Option (Fin 32)) (lg : LgOutcome) (ue : Bool) (s : State) :
    Host.Outcome State Fault Refusal :=
  match cut with
  | none => .next (s.rescan (s.sendQueued c.val lg ue) c.val)
  | some p => .next (s.sendCut c.val p.val lg)

/-- RETRANSMIT (04 R103). -/
def execRetransmit (c : Fin 8192) (rd : RetRead) (s : State) : Host.Outcome State Fault Refusal :=
  .next (s.rescan (s.retransmit c.val rd) c.val)

/-- TAIL_TIMER (04 R104). -/
def execTailTimer (c : Fin 8192) (rd : RetRead) (s : State) : Host.Outcome State Fault Refusal :=
  .next (s.rescan (s.tail c.val rd) c.val)

/-- CLOSE_PEER (04 R115): every channel of the group's peer closes by policy. -/
def execClosePeer (g : Fin 8) (s : State) : Host.Outcome State Fault Refusal := gateO (pAsx + 0x128) s fun s =>
  let w := s.home_ g.val
  .next (((s.peerChans w (fun _ => true)).foldl (fun s c => s.closeReport c 2) s).keyScan w)

end Sys2Proof.Machine
end

