-- ==== Sys2Proof/Machine/Seal.lean ====
section
/-! DEFINITION. The Sealed state, the fault collector, tamper and zeroization (16 R430 to R440, 17 R459, R460,
06 R180). -/
namespace Sys2Proof.Machine

/-! Causes (16 R434, R439). -/

/-- A seal reason word. -/
def sealReason (kind detail : Nat) (inj : Bool) : Word := w32 (kind + 16 * b2n inj + 32 * (detail % 1024) + 0x8000)

/-- The bits of SEAL_KINDS that a cause sets: FAULT, ALARM, HOST, TAMPER, and VAULT_FAULT for 332 and 333. -/
def kindBits (kind detail : Nat) : Nat :=
  if kind == 1 then (if detail == 332 || detail == 333 then 17 else 1) else if kind == 2 then 2 else if kind == 3 then 4 else 8

/-- Cycles of LCLK, 320 ns each; how they lie against MONO is the model's choice (log entry 97). -/
def State.lclk (s : State) : Nat := s.dev.mono / 320

/-- Rank of a cause among several of one cycle: tamper, fault, alarm, host, and the lowest fault number first (16 R439). -/
def sealRank (kind detail : Nat) : Nat :=
  if kind == 4 then 0 else if kind == 1 then 1 + detail % 1024 else if kind == 2 then 2000 else 2001

/-- The rank of a reason word. -/
def reasonRank (r : Word) : Nat := sealRank (fld r 0 4) (fld r 5 10)

/-- DSTATE before a cause: of a cause in the cycle of the entry, what it was before the entry. -/
def State.dstateWas (s : State) : Nat :=
  match s.saf.entry with
  | some (n, d) => if s.dev.dstate = .sealed && n == s.lclk then d else dstateCode s.dev.dstate
  | none => dstateCode s.dev.dstate

/-- The last cause recorded, if it stands in this LCLK cycle for the same fault and differs in INJECTED alone: an injection and the
genuine fault, which count as one (16 R439). -/
def State.causeMet (s : State) (kind detail : Nat) (inj : Bool) : Bool :=
  let b := 0xE100 + 16 * ((fld (s.reg 0xE200) 0 4 + 15) % 16)
  s.reg b == sealReason kind detail (!inj) && ((s.reg (b + 4)).toNat + 2 ^ 32 * (s.reg (b + 8)).toNat) / 320 == s.lclk

/-- That cause is recorded as not injected. -/
def State.causeMerge (s : State) (kind detail : Nat) : State :=
  let b := 0xE100 + 16 * ((fld (s.reg 0xE200) 0 4 + 15) % 16)
  let plain := fun (s : State) (o : Nat) => if s.reg o == sealReason kind detail true then s.setReg o (sealReason kind detail false) else s
  plain (plain (plain s b) 0xC108) 0xC110

/-- A cause is latched: its history entry, SEAL_KINDS and SEAL_FIRST. -/
def State.latchCause (s : State) (kind detail : Nat) (inj erased : Bool) : State :=
  let r := sealReason kind detail inj
  let i := fld (s.reg 0xE200) 0 4
  let b := 0xE100 + 16 * i
  let s1 := ((((s.setReg b r).setReg (b + 4) (w32 s.dev.mono)).setReg (b + 8) (w32 (s.dev.mono / 2 ^ 32))).setReg
    (b + 12) (w32 (s.dstateWas + 8 * b2n erased))).setReg 0xE200 (w32 ((i + 1) % 16))
  let s2 := s1.setReg 0xC10C (s1.reg 0xC10C ||| w32 (kindBits kind detail))
  if bit (s2.reg 0xC110) 15 then s2 else s2.setReg 0xC110 r

/-- Erases every channel, port and chain key and every PRK (16 R436): peers go UNKEYED, channels CLOSED. -/
def State.sealErase (s : State) : State :=
  let v := s.vault
  let s1 := s.withVault { v with chains := [], prks := [], xchs := [], heldWrites := [], pairs := [] }
  let s2 := s1.enabledChans.foldl State.closeChan s1
  let s3 := (List.range 8).foldl State.goUnkeyed s2
  { s3 with slots := [], portSlots := [] }

/-- Every frame in progress ends with an error block and an inverted FCS (16 R434). -/
def State.cutFrames (s : State) : State :=
  (List.range 32).foldl (fun s p =>
    let po := s.port false p
    let s1 := match po.leaving with
      | some (c, _) =>
        let bytes := if c == 8192 then po.clearQ.headD [] else match (s.chan c).rq with
          | f :: _ => f.bytes
          | [] => []
        (s.stompFrame false p bytes).setPort false p { po with leaving := none }
      | none => s
    match (s1.port false p).arr with
    | some a =>
      if a.cutPn.isSome && !a.cutEnded then
        let s2 := s1.setPort false p { s1.port false p with arr := some { a with cutEnded := true, refused := 2 } }
        s2.stompFrame true (s2.txPort a.chan) (a.cutFrame.take (a.bytes.length - 4))
      else s1
    | none => s1) s

/-- A running Ember reset notes that the device was sealed in it. -/
def State.markEmber (s : State) : State :=
  match s.dev.ember with
  | some e => s.withDev { s.dev with ember := some { e with sealedIn := true } }
  | none => s

/-- A cause while the device is SEALED leaves SEAL_CUR, unless it comes in the LCLK cycle of the entry and ranks higher. -/
def State.addCause (s : State) (kind detail : Nat) (inj : Bool) : State :=
  if s.causeMet kind detail inj then s.causeMerge kind detail
  else
    let now := match s.saf.entry with | some (n, _) => n == s.lclk | none => false
    let s1 := s.latchCause kind detail inj false
    if now && decide (sealRank kind detail < reasonRank (s.reg 0xC108)) then s1.setReg 0xC108 (sealReason kind detail inj) else s1

/-- OTN ports keep their framing and send ODU-OCI, the strait ones with GCC0 filled with 0x7E (16 R435). -/
def State.sealOci (s : State) : State :=
  (List.range 8).foldl (fun s g => [false, true].foldl (fun s b =>
    if modeOtn (s.mode b g) && s.portUp b (4 * g) then s.emit (.otn b g "ODU-OCI" (if b then [0x7E] else [])) else s) s) s

/-- The device enters SEALED, or a cause adds to an entry (16 R434 to R436, R439, 01 R26). -/
def State.seal_ (s : State) (kind detail : Nat) (inj : Bool) : State :=
  match s.dev.dstate with
  | .cold => s
  | .zeroized => s.latchCause kind detail inj false
  | .sealed => s.addCause kind detail inj
  | _ =>
    let erase := s.policy 3
    let s0 := s.withSaf { s.saf with entry := some (s.lclk, dstateCode s.dev.dstate) }
    let s1 := (s0.latchCause kind detail inj erase).setReg 0xC108 (sealReason kind detail inj)
    let s2 := (s1.bump 0xC114).cutFrames
    let s3 := s2.withVault { s2.vault with pairs := [] }
    let s5 := ((s3.markEmber.setDState .sealed).raise pSaf 1).endSealed 0x11
    (if erase then s5.sealErase else s5).xoffAll.sealOci

/-- A SEAL-class fault (16 R430, R431): its line counts as a cause until it clears (R437). -/
def State.sealFault (s : State) (n : Nat) (inj : Bool) : State :=
  (s.withSaf { s.saf with active := ins s.saf.active n }).seal_ 1 n inj

/-- A fault line asserts: the fault bit, and SEALED for a SEAL-class fault. The injection that caused it, if any, is
spent (16 R440). -/
def State.fault (s : State) (pb b : Nat) : State :=
  let inj := s.saf.injected.contains (pb, b)
  let s1 := (s.faultBit pb b).withSaf { s.saf with injected := s.saf.injected.filter (· != (pb, b)) }
  match evNum pb b with
  | some n => if ftClass n == 2 then s1.sealFault n inj else s1
  | none => s1

/-! Zeroization (06 R180). -/

/-- STATUS of the vault (06 R182): READY, IDENT_PRESENT, ZDONE, the DUK slot and how many are free, ZREASON. -/
def State.vltStatus (s : State) : Word :=
  let v := s.vault
  let free := 4 - v.duk.length
  setFld (setFld (setFld (s.reg (pVlt + 0x100)) 1 1 (b2n (!v.idk.isEmpty))) 3 2 v.dukCur) 5 3 free

/-- IMK_ID and STATUS.READY of a vault with no keys (06 R182). -/
def noKeyRegs (r : Tbl Word) : Tbl Word :=
  tput (tput (tput r (pVlt + 0x108) 0) (pVlt + 0x10C) 0) (pVlt + 0x100) (setFld (tget r (pVlt + 0x100) 0) 0 1 0)

/-- The stores that zeroization clears, once no sealed context runs: the key store, the DRBG states and the plaintext in the holding buffer, and with them what the Lighthouse
counts of clear frames (02 R52). -/
def State.eraseStores (s : State) (retire : Bool) : State :=
  let v := s.vault
  let keep := !(retire || bit v.policy 5)
  let v3 : Vault := { duk := v.duk, dukCur := v.dukCur, dukRetired := if keep then v.dukRetired else ins v.dukRetired v.dukCur, policy := policyReset, sense := 0x111, drbFails := v.drbFails, drbSrc := v.drbSrc, drbDead := v.drbDead, drbCast := v.drbCast, drbStall := v.drbStall, draws := v.draws }
  let clean := s.chans.map (fun e => (e.1, { e.2 with q := [], flight := [], rq := [], waitKey := [] }))
  { s with vault := v3, regs := noKeyRegs s.regs, cnt := s.cnt.filter (fun e => e.1 != pCls + 0x110 && e.1 != pCls + 0x118), mem := memErase (memErase s.mem (spNor + 0x2010000) (spNor + 0x2020000)) spHold (spHoldPar + 2 ^ 40), slots := [], portSlots := [], chans := clean, ports := s.ports.map (fun e => (e.1, { e.2 with clearQ := [], leaving := none })) }

/-- The erasures of a zeroization, all at the trigger; the read-back follows. -/
def State.zeroizeStores (s : State) (retire : Bool) : State :=
  let s1 := (List.range 192).foldl State.dropKp (s.endSealed 0x11)
  ((List.range 96).foldl (fun s i => s.dropHash (i / 4) (i % 4)) s1).eraseStores retire

/-- Zeroization begins, for a reason 1 ball, 2 tamper, 3 command. -/
def State.zeroize_ (s : State) (reason : Nat) (retire : Bool) : State :=
  if s.dev.dstate = .cold then s
  else
    let s1 := s.cutFrames.zeroizeStores retire
    let s2 := s1.withDev { s1.dev with zeroing := match s1.dev.zeroing with | some r => some r | none => some reason }
    (s2.setDState .zeroized).xoffAll

/-- A tamper sensor trips (16 R431, R432, 17 R459). -/
def State.tamper (s : State) (sensor : Nat) (inj : Bool) : State :=
  if s.dev.dstate = .cold then s
  else
    let s1 := s.faultBit pSaf 2
    if s1.policy 2 then s1.zeroize_ 2 false
    else (s1.withSaf { s1.saf with active := ins s1.saf.active 62 }).seal_ 4 sensor inj

/-- ZEROIZE_N_ASSERT (17 R460). -/
def execZeroizeNAssert (s : State) : Host.Outcome State Fault Refusal :=
  if s.dev.dstate = .cold then .next (s.withDev { s.dev with zeroBall := true }) else .next (s.zeroize_ 1 false)

/-- TAMPER_CHECK (17 R459): the second mismatch in a row trips the channel; the next driven bit is free. -/
def execTamperCheck (n : Fin 4) (sns : Bool) (s : State) : Host.Outcome State Fault Refusal :=
  let d := s.dev
  let run := if d.tampDriven.getD n.val false == sns then 0 else d.tampRun.getD n.val 0 + 1
  let s1 := s.drawn.withDev { d with tampDriven := setAt d.tampDriven n.val (Config.freeBool s.free), tampRun := setAt d.tampRun n.val (if run == 2 then 0 else run) }
  .next (if run == 2 then s1.tamper n.val false else s1)

/-- TAMPER_TRIP (17 R459). -/
def execTamperTrip (sensor : Fin 7) (s : State) : Host.Outcome State Fault Refusal := .next (s.tamper sensor.val false)

/-- ZEROIZE_COMPLETE (06 R180): the vault has read back the erased stores. -/
def execZeroizeComplete (readBackZero : Bool) (s : State) : Host.Outcome State Fault Refusal :=
  match s.dev.zeroing with
  | none => .next s
  | some r =>
    let s1 := s.withDev { s.dev with zeroing := none }
    let s2 := if readBackZero then s1 else s1.faultBit pVlt 1
    .next ((s2.setReg (pVlt + 0x100) (setFld (setFld (s2.reg (pVlt + 0x100)) 2 1 1) 8 8 r)).raise pVlt 3)

/-- SEAL_CMD (16 R434). -/
def execSealCmd (v : Word) (s : State) : Host.Outcome State Fault Refusal := gateO (pSaf + 0x104) s fun s =>
  .next (if v == 0x5345414C then s.seal_ 3 0 false else s)

/-- The monitors of causes that have cleared show it: the rails are in range, and HCLK, DCLK and the system reference run again. -/
def State.monitorsBack (s : State) : State :=
  let s1 := if s.saf.active.contains 60 && !s.dev.lhOnly then s.setReg (pLhs + 0x10C) 0x1FFF else s
  if s.saf.active.contains 44 || s.saf.active.contains 45 then s1.setRegFld (pClk + 0x100) 0 3 7 else s1

/-- CAUSE_CLEAR (16 R437): no SEAL-class cause of this entry is asserted any more. -/
def execCauseClear (s : State) : Host.Outcome State Fault Refusal :=
  if s.saf.active.isEmpty then .next s else .next ((s.monitorsBack.withSaf { s.saf with active := [] }).raise pSaf 4)

/-- COLLECTOR_SELFTEST (16 R433). -/
def execCollectorSelftest (inputsOk driveA driveB : Bool) (s : State) : Host.Outcome State Fault Refusal :=
  let ok := inputsOk && !s.saf.injected.contains (pSaf, 3)
  let lineA := driveA && !s.saf.injected.contains (pSaf, 4)
  let s1 := s.withSaf { s.saf with collectorOk := ok, driveA := lineA, driveB := driveB }
  if ok && lineA && driveB then .next (s1.bumpWrap 0xC11C)
  else
    let s2 := if ok then s1 else s1.fault pSaf 3
    .next (if lineA && driveB then s2 else s2.fault pSaf 4)

/-- PROOF_ARM (16 R440). -/
def execProofArm (v : Word) (s : State) : Host.Outcome State Fault Refusal := gateO (pSaf + 0x118) s fun s =>
  .next (if v == 0x50524F46 then s.withSaf { s.saf with proofArmed := true } else s)

/-- PROOF_ARM_EXPIRY (16 R440): 1 s after the arming. -/
def execProofArmExpiry (s : State) : Host.Outcome State Fault Refusal :=
  .next (s.withSaf { s.saf with proofArmed := false })

end Sys2Proof.Machine
end

