-- ==== Sys2Proof/Machine/Lanes.lean ====
section
/-! DEFINITION. Cipher lane units: spares, warm units, self-tests, slot rewrites and the seal blocks of Stream channels
(03 R56, R62 to R69, R73 to R76, R82). -/
namespace Sys2Proof.Machine

open Crypto

/-- A unit takes over the role of another: frames marked for replay go again, and frames kept as ciphertext are
decrypted (03 R75). -/
def State.takeRole (s : State) (d n from_ : Nat) : State :=
  let a := s.assignOf d from_
  let old := s.assignOf d n
  let own := if from_ == n then a else if fld old 0 4 != 15 && (s.laneU d n).resetting then old else 15
  let s1 := (s.setReg (pLane d from_ + 0x100) (setFld (setFld a 0 4 (fld own 0 4)) 6 1 (fld own 6 1))).setReg
    (pLane d n + 0x100) (w32 (fld a 0 4 + 64 * fld a 6 1))
  let s2 := ((s1.setLaneU d n { s1.laneU d n with resetting := false }).bumpWrap (pLane d n + 0x104)).raise (pLane d n) 1
  (s2.chans.map (·.1)).foldl (fun s c =>
    if s.unitFor d c == some n then (if d == 0 then s.replayChan n c else s.unwait c (fun f => !(s.slot 1 c (f.epoch % 2)).bad))
    else s) s2

/-- SPARE_SWITCH_IN (03 R75, R76): the warm spare takes the failed unit's group, the lowest-numbered first. -/
def execSpareSwitchIn (d : Dir) (n : Fin 9) (s : State) : Host.Outcome State Fault Refusal :=
  match s.spare (dirN d), s.lowestWaiting (dirN d) with
  | some k, some m => if m == n.val then .next (s.takeRole (dirN d) k m) else .next s
  | _, _ => .next s

/-- UNIT_WARM (03 R56, R76): a repaired unit that passed its self-test takes the lowest-numbered waiting group at once,
or becomes the spare. -/
def execUnitWarm (d : Dir) (n : Fin 9) (s : State) : Host.Outcome State Fault Refusal :=
  let k := dirN d
  let a := s.assignOf k n.val
  if bit a 5 || !(s.laneU k n.val).loaded || !((s.laneU k n.val).resetting || fld a 0 4 == 15) then .next s
  else
    match s.lowestWaiting k with
    | some m => .next (s.takeRole k n.val m)
    | none => .next ((s.setReg (pLane k n.val + 0x100) 0x1F).setLaneU k n.val { s.laneU k n.val with resetting := false })

/-- Island of a lane unit. -/
def laneIsland (d n : Nat) : Nat := if d == 0 then 233 + n else 242 + n

/-- LEAK_GUARD_SELFTEST (03 R74): the 1 ms test of a powered unit; its word comes from DRB instance 2 (06 R177). -/
def execLeakGuardSelftest (d : Dir) (n : Fin 9) (detected : Bool) (s : State) : Host.Outcome State Fault Refusal :=
  let k := dirN d
  let pg := pLane k n.val
  if s.islOff (laneIsland k n.val) then .next s
  else
    let s0 := if s.drbServes 2 then s.drbUse 2 else s
    if detected && !s.saf.injected.contains (pg, 2) then .next (s0.bumpWrap (pg + 0x104))
    else
    let s1 := if bit (s0.reg 0xC120) 31 then s0 else s0.setReg 0xC120 (w32 (n.val + 16 * k + 2 ^ 31))
    .next (s1.fault pg 2)

/-- KEY_SLOT_REWRITE (03 R67): HC1 has rewritten a slot from the vault copy; a mismatch that persists squelches the unit
as a twin disagreement does, without capture. -/
def execKeySlotRewrite (d : Dir) (n : Fin 9) (c : Fin 8192) (slot : Fin 2) (kcvOk : Bool) (s : State) :
    Host.Outcome State Fault Refusal :=
  let k := dirN d
  let x := s.slot k c.val slot.val
  if !x.bad then .next s
  else
    let s1 := s.setSlot k c.val slot.val { x with bad := false }
    let s2 := if kcvOk then s1
      else (((s1.bump (pLane k n.val + 0x124)).fault (pLane k n.val) 4).faultBit (pLane k n.val) 0).squelch k n.val true
    .next (if k == 1 then s2.unwait c.val (fun f => f.epoch % 2 == slot.val) else s2)

/-- MM_CLEAR (03 R82). -/
def execMmClear (d : Dir) (n : Fin 9) (v : Word) (s : State) : Host.Outcome State Fault Refusal := gateO (pLane (dirN d) n.val + 0x13C) s fun s =>
  let o := pLane (dirN d) n.val + 0x130
  .next (if bit v 0 then s.setReg o (setFld (s.reg o) 13 1 0) else s)

/-! Stream mode (03 R62, R63, 12 R340, R341). -/

/-- STREAM_HPG of a channel (02 R38). -/
def State.streamHpg (s : State) (c : Nat) : Nat := fld (s.txw false c 6) 0 3

/-- Slices of the OPU payload that a seal lane covers (03 R62): one of an OTU4, all n of an OTUCn, and two in each lane of an OTUC4. -/
def laneSlices (mode lane : Nat) : Nat :=
  if mode == 11 then 2 else if lane == 1 then 0 else if mode == 7 then 1 else mode - 7

/-- Payload bytes of a lane in a seal block of channel c: 15,232 per frame and slice. -/
def State.laneBytes (s : State) (c lane : Nat) : Nat := 3899392 * laneSlices (s.mode true (s.spg c)) lane

/-- CLS.STREAM_MAP has the home group feed channel c (02 R40). -/
def State.streamFed (s : State) (c : Nat) : Bool :=
  let m := s.lv (pCls + 0x140 + 4 * s.streamHpg c)
  bit m 0 && fld m 1 13 == c

/-- AAD of a lane's seal block. -/
def blockAad (block epoch lane : Nat) : List Byte := beBytes 8 block ++ beBytes 2 epoch ++ [by8 lane]

/-- The key of an epoch of a channel, if its slot holds it. -/
def State.epochKey (s : State) (d c e : Nat) : Option KeySlot :=
  let k := s.slot d c (e % 2)
  if e != 0 && k.valid && k.epoch == e && !k.bad then some k else none

/-- A fresh block number from DRB instance 2 (03 R63, 06 R177). -/
def State.drawBlock (s : State) : Nat × State := (Config.freeNat s.free % 2 ^ 64, s.drawn.drbUse 2)

/-- Announces the block after number b under epoch e: a promoted epoch opens with a fresh random number, once DRB gives one
(06 R176, R178). -/
def State.announce (s : State) (c b e : Nat) : Nat × Nat × Bool × State :=
  let x := s.chan c
  if x.curEpoch != 0 && x.curEpoch != e && s.drbServes 2 then (s.drawBlock.1, x.curEpoch, true, s.drawBlock.2)
  else ((b + 1) % 2 ^ 64, e, false, s)

/-- The GCC1 and GCC2 bytes of a lane's block (03 R62): the seal field in the first slice, zeros after MFAS 6 and in the others. -/
def State.laneGcc (s : State) (c lane : Nat) (field : List Byte) : List Byte :=
  field ++ List.replicate (1024 * laneSlices (s.mode true (s.spg c)) lane - field.length) 0

/-- The seal field that a lane sends: the tag of its previous block or void, and the announcement. -/
def Stream.field (st : Stream) (nb ne : Nat) (opens : Bool) : List Byte :=
  (if st.prevVoid then List.replicate 16 0 else fit 16 st.prevTag) ++ beBytes 8 nb ++ beBytes 2 ne ++
    beBytes 2 (b2n opens + 2 * b2n st.prevVoid)

/-- Name of a seal lane in the record of what leaves. -/
def laneName (lane : Nat) : String := if lane == 0 then "LANE0" else "LANE1"

/-- A payload whose word w failed comparison: that word and every later one leave as zeros (03 R73). -/
def zeroFrom (w : Nat) (l : List Byte) : List Byte := l.take (32 * w) ++ List.replicate (l.length - 32 * w) 0

/-- The TTI of the SM overhead that a group sends (12 R340). -/
def State.ttiTx (s : State) (strait : Bool) (g : Nat) : List Byte :=
  (List.range 16).flatMap (fun i => leBytes 4 (s.lv (pPort strait g + 0x200 + 4 * i)).toNat)

/-- One more received multiframe's TTI: the third in a row with the same value is taken into TTI_RX (12 R340). -/
def State.ttiIn (s : State) (strait : Bool) (g : Nat) (l : List Byte) : State :=
  let po := s.port strait (4 * g)
  let n := if po.tti == l then min 3 (po.ttiRun + 1) else 1
  let s1 := s.setPort strait (4 * g) { po with tti := l, ttiRun := n }
  if n == 3 then (List.range 16).foldl (fun s i => s.setReg (pPort strait g + 0x240 + 4 * i) (wordAt l i)) s1 else s1

/-- The SM overhead of a received block: BIP-8 errors and BEI are counted, and the TTI of the first slice is read (12 R340). -/
def State.smIn (s : State) (strait : Bool) (g lane : Nat) (m : SmRead) : State :=
  let s1 := (s.cntAdd (pcOff strait (4 * g) 14) m.bip).cntAdd (pcOff strait (4 * g) 15) m.bei
  if lane == 0 then m.tti.foldl (fun s l => s.ttiIn strait g l) s1 else s1

/-- A block of a lane leaves on the strait, and the lane remembers its tag for the next field. -/
def State.putBlock (s : State) (c lane b e nb ne : Nat) (opens : Bool) (payload ohd tag : List Byte) (void : Bool) : State :=
  let st := s.stream 0 c lane
  (s.setStream 0 c lane { block := some nb, epoch := ne, opens := opens, cur := some b, curEpoch := e, prevTag := tag, prevVoid := void }).emit
    (.otn true (s.spg c) (laneName lane) (payload ++ s.laneGcc c lane (st.field nb ne opens) ++ ohd ++ s.ttiTx true (s.spg c)))

/-- Marks the use of an encrypt slot by a block. -/
def State.blockUse (s : State) (c e : Nat) (k : KeySlot) : State :=
  s.setSlot 0 c (e % 2) { k with used := true, count := min (k.count + 1) 0xFFFFFFFF, firstAt := match k.firstAt with | none => some s.dev.mono | t => t }

/-- Sends one lane of a seal block through unit n (03 R62, R63, R72, R73), and counts its payload (02 R54). -/
def State.sendBlock (s : State) (c lane n b e nb ne : Nat) (opens : Bool) (payload ohd : List Byte) (lg : LgOutcome) : State :=
  match s.epochKey 0 c e with
  | none => s
  | some k =>
    let (ct, tag) := gcmSeal k.key (ivOf k.salt lane b) (blockAad b e lane) payload
    let s1 := if lane == 0 then s.blockUse c e k else s
    let s2 := s1.cntAdd (ccOff c 1) payload.length
    let cut := fun (w : Nat) (echo : Bool) => (s2.putBlock c lane b e nb ne opens (zeroFrom w ct) ohd [] true).squelchCmp 0 n c b w echo
    match s2.lgAt 0 n (cipherWords 0 ct.length) lg with
    | .mismatch w => cut w false
    | .echo w => cut w true
    | o => (s2.corrected 0 n o).putBlock c lane b e nb ne opens ct ohd tag false

/-- One lane of a channel's next seal block. While no unit carries the lane its payload leaves as zeros and its tag is void; its field
goes on announcing: DESIGN CHOICE, the manual does not say (log entry 86). -/
def State.laneBlock (s : State) (c lane b e nb ne : Nat) (opens : Bool) (payload ohd : List Byte) (lg : LgOutcome) : State :=
  match s.unitOf 0 (s.spg c) (lane == 1) with
  | some n => s.sendBlock c lane n b e nb ne opens payload ohd lg
  | none => s.putBlock c lane b e nb ne opens (List.replicate payload.length 0) ohd [] true

/-- The number and epoch of the block that lane 0 sends next: as announced, or of a channel that starts, once DRB gives a number. -/
def State.firstBlock (s : State) (c : Nat) : Option (Nat × Nat × State) :=
  let st := s.stream 0 c 0
  match st.block with
  | some b => some (b, st.epoch, s)
  | none => if s.drbServes 2 then some (s.drawBlock.1, (s.chan c).curEpoch, s.drawBlock.2) else none

/-- A Stream channel sends seal blocks (02 R40, 03 R62, 12 R341). -/
def State.streamOn (s : State) (c : Nat) : Bool :=
  s.isStream c && (s.chan c).st = .active && s.txOpen && s.streamFed c && !(s.port false (4 * s.streamHpg c)).srcLost

/-- One lane of a channel's next seal block leaves; lane 1 follows lane 0. -/
def State.sendLane (s : State) (c lane : Nat) (block : LaneBlock) : State :=
  if lane == 0 then
    match s.firstBlock c with
    | none => s
    | some (b, e, s1) =>
      let (nb, ne, opens, s2) := s1.announce c b e
      s2.laneBlock c 0 b e nb ne opens block.payload block.ohd block.lg
  else
    let st := s.stream 0 c 0
    match st.cur, st.block with
    | some b, some nb => s.laneBlock c 1 b st.curEpoch nb st.epoch st.opens block.payload block.ohd block.lg
    | _, _ => s

/-- SEAL_BLOCK_TX (03 R62, R63, 12 R340): one lane of a channel's next seal block, with the overhead that passes unchanged and the SM
overhead that ends here. -/
def execSealBlockTx (c : Fin 8192) (lane : Fin 2) (block : LaneBlock) (s : State) : Host.Outcome State Fault Refusal :=
  let c := c.val
  if !s.streamOn c || block.payload.length != s.laneBytes c lane.val || block.payload.isEmpty then .next s
  else .next ((s.sendLane c lane.val block).smIn false (s.streamHpg c) lane.val block.sm)

/-- The tag of the previous block, checked against the one the field carries (03 R63). -/
def State.checkTag (s : State) (c lane unit : Nat) (tag : List Byte) (void : Bool) : State :=
  let st := s.stream 1 c lane
  if void || st.prevTag.isEmpty || st.prevTag == tag then s
  else
    let g := s.spg c
    (((s.bump (pD unit + 0x12C)).chanCnt c 14).raise (pD unit) 4).setSense g { s.sense g with authHit := true }

/-- One lane's payload leaves home egress, with GCC1 and GCC2 as 0 and the home page's TTI (03 R62, 12 R340). -/
def State.homeBlock (s : State) (c lane : Nat) (payload ohd : List Byte) : State :=
  s.emit (.otn false (s.streamHpg c) (laneName lane) (payload ++ s.laneGcc c lane [] ++ ohd ++ s.ttiTx false (s.streamHpg c)))

/-- The number and key of the block that lane l receives next, where its announcement was accepted. -/
def State.knownBlock (s : State) (c l : Nat) : Option (Nat × KeySlot) :=
  let st := s.stream 1 c l
  match st.block with
  | some b => (s.epochKey 1 c st.epoch).map (fun k => (b, k))
  | none => none

/-- Decrypts block b of lane l in unit n (03 R63, R73): the state with the payload out, and the tag to check. -/
def State.openBlock (s : State) (c l n b e : Nat) (k : KeySlot) (payload ohd : List Byte) (lg : LgOutcome) : State × List Byte :=
  let pt := (gcmOpen k.key (ivOf k.salt l b) (blockAad b e l) payload []).1
  let s1 := s.noteEpoch c e 0
  match s1.lgAt 1 n none lg with
  | .mismatch w => ((s1.homeBlock c l (zeroFrom w pt) ohd).squelchCmp 1 n c b w false, [])
  | o => (((s1.corrected 1 n o).cntAdd (ccOff c 11) payload.length).homeBlock c l pt ohd,
      gcmTag (roundKeys k.key) ((ivOf k.salt l b).map BitVec.toNat) (blockAad b e l) payload)

/-- One lane of a received seal block: its payload, its tag and its announcement. -/
def State.takeLane (s : State) (c l : Nat) (block : LaneBlock) (field : List Byte) : State :=
  let fl := beNat (cut field 26 2)
  let nb := beNat (cut field 16 8)
  let ne := beNat (cut field 24 2)
  let st := s.stream 1 c l
  let zeros := List.replicate block.payload.length 0
  let (s2, st2) := match s.unitOf 1 (s.spg c) (l == 1), s.knownBlock c l with
    | some n, some (b, k) =>
      let (s1, tag) := (s.checkTag c l n (field.take 16) (nbit fl 1)).openBlock c l n b st.epoch k block.payload block.ohd block.lg
      (s1, { st with cur := some b, curEpoch := st.epoch, prevTag := tag })
    | some n, none => (((s.checkTag c l n (field.take 16) (nbit fl 1)).bump (pD n + 0x140)).homeBlock c l zeros block.ohd, { st with cur := none, prevTag := [] })
    | none, _ => (s.homeBlock c l zeros block.ohd, { st with cur := st.block, curEpoch := st.epoch, prevTag := [] })
  let fits := match st2.cur with
    | some b => (nb == (b + 1) % 2 ^ 64 || nbit fl 0) && (ne == st2.curEpoch || (nbit fl 0 && ne == nextEpoch st2.curEpoch))
    | none => true
  let held := (s.epochKey 1 c ne).isSome
  let s3 := if fits && !held then s2.noKey c (s.roleAt 1 (s.spg c) (l == 1)) else s2
  s3.setStream 1 c l { st2 with block := if fits && held then some nb else none, epoch := ne }

/-- SEAL_BLOCK_RX (03 R62, R63, R69, 12 R340): one lane of a received seal block, its field, the overhead that passes unchanged and the SM
overhead that ends here. While no unit carries the lane its payload is zeros, its tag stays unchecked, and announcements are still taken
(log entry 86). -/
def execSealBlockRx (c : Fin 8192) (lane : Fin 2) (block : LaneBlock) (field : List Byte) (s : State) :
    Host.Outcome State Fault Refusal :=
  let c := c.val
  let l := lane.val
  if !s.isStream c || !s.rxEn c || !s.txOpen || (s.chan c).st = .closed || block.payload.length != s.laneBytes c l || block.payload.isEmpty then .next s
  else .next ((s.takeLane c l block field).smIn true (s.spg c) l block.sm)

end Sys2Proof.Machine
end

