-- ==== Sys2Proof/Machine/Time.lean ====
section
/-! DEFINITION. Time: the tick of an empty queue, MONO, ToD and 1PPS (11 R310 to R312). -/
namespace Sys2Proof.Machine

/-- The signed value of a register. -/
def sreg (w : Word) : Int := sgn 32 w.toNat

/-- One nanosecond of kiln k's TIMER: tenths of a cycle at 400, 800, 1,200 or 1,600 MHz (10 R286, 15 R407). Whether TIMER
advances while the kiln's PLL is stopped (15 R413) is not stated, so then its advance is free. -/
def State.kilnTick (s : State) (k : Nat) : State :=
  if s.islOff (193 + k) then s
  else if s.kiln.pllOff.contains k then
    (s.setReg (pKln k + 0x10C) (s.reg (pKln k + 0x10C) + w32 (b2n (Config.freeBool s.free)))).drawn
  else
    let sel := fld (s.reg (pClk + 0x1A0 + 4 * k)) 0 2
    let t := tget s.dev.kilnTimerFrac k 0 + 4 * (sel + 1)
    let s1 := s.setReg (pKln k + 0x10C) (s.reg (pKln k + 0x10C) + w32 (t / 10))
    s1.withDev { s1.dev with kilnTimerFrac := tput s1.dev.kilnTimerFrac k (t % 10) }

/-- ToD seconds wrap at 2^48 (11 R310). -/
def todWrap (t : Int) : Nat := (t % ((2 ^ 48 * 10 ^ 9 * 2 ^ 40 : Nat) : Int)).toNat

/-- What a nanosecond does: MONO and ToD run, and the kiln timers (log entry 1). -/
def State.tick (s : State) : State :=
  if s.dev.dstate = .cold then s
  else
    let d := s.dev
    let tod := todWrap ((d.tod : Int) + 2 ^ 40 + sreg (s.reg (pTim + 0x124)))
    let s1 := s.withDev { d with mono := (d.mono + 1) % 2 ^ 64, tod := tod }
    (List.range 24).foldl State.kilnTick s1

/-- ToD nanoseconds and seconds. -/
def State.todNs (s : State) : Nat := s.dev.tod / 2 ^ 40 % 10 ^ 9
def State.todSec (s : State) : Nat := s.dev.tod / 2 ^ 40 / 10 ^ 9

/-- Whether an agent is the ToD owner (11 R311): 0 the host driver, 1 HC0. -/
def State.todOwner (s : State) (a : Agent) : Bool :=
  match a with
  | .host => !bit (s.lv (pTim + 0x134)) 0
  | .harbour h => bit (s.lv (pTim + 0x134)) 0 && h.val == 0
  | .engine _ => false

/-- Sets ToD. -/
def State.setTod (s : State) (t : Nat) : State := s.withDev { s.dev with tod := t }

/-- TOD_STEP (11 R311): the owner's write adds its signed value to ToD and raises the event. -/
def execTodStep (a : Agent) (v : Word) (s : State) : Host.Outcome State Fault Refusal := gateA a (pTim + 0x114) s fun s =>
  if s.todOwner a then
    .next ((s.setTod (todWrap ((s.dev.tod : Int) + sreg v * 2 ^ 40))).raise pTim 2)
  else .next s

/-- ToD at a number of seconds and nanoseconds. -/
def todAt (sec ns : Nat) : Nat := todWrap (((sec * 10 ^ 9 + ns) * 2 ^ 40 : Nat) : Int)

/-- The seconds of TOD_LOAD_SEC. -/
def State.loadSec (s : State) : Nat := (s.reg (pTim + 0x118)).toNat + 2 ^ 32 * fld (s.reg (pTim + 0x11C)) 0 16

/-- TOD_LOAD_NS, whose GO loads seconds and nanoseconds at once. -/
def State.loadTod (s : State) (v : Word) : State :=
  let s1 := s.setReg (pTim + 0x120) (v &&& 0x3FFFFFFF)
  if bit v 31 then s1.setTod (todAt s1.loadSec (fld v 0 30)) else s1

/-- TOD_LOAD (11): the write of TOD_LOAD_NS. -/
def execTodLoad (a : Agent) (v : Word) (s : State) : Host.Outcome State Fault Refusal := gateA a (pTim + 0x120) s fun s =>
  .next (if s.todOwner a then s.loadTod v else s)

/-- RATE_WRITE (11 R311). -/
def execRateWrite (a : Agent) (v : Word) (s : State) : Host.Outcome State Fault Refusal := gateA a (pTim + 0x124) s fun s =>
  .next (if s.todOwner a then s.setReg (pTim + 0x124) v else s)

/-- PPS_OUT_EDGE (11 R312): with OUT_EN the ball rises; the row is sent when ToD nanoseconds pass 0, shifted. -/
def execPpsOutEdge (s : State) : Host.Outcome State Fault Refusal :=
  if bit (s.lv (pTim + 0x128)) 0 then
    .next ((s.withDev { s.dev with ppsOut := true }).emit (.pps true))
  else .next s

/-- PPS_OUT_PULSE_END (11 R312): OUT_WIDTH_MS later the pulse ends. -/
def execPpsOutPulseEnd (s : State) : Host.Outcome State Fault Refusal :=
  if s.dev.ppsOut then .next ((s.withDev { s.dev with ppsOut := false }).emit (.pps false)) else .next s

/-- PPS_IN_EDGE (11 R312, 17 R456): with IN_EN the edge is captured in ToD unless it follows a captured edge by less
than 0.5 s. -/
def execPpsInEdge (s : State) : Host.Outcome State Fault Refusal :=
  let early := match s.dev.ppsLast with
    | some t => decide (s.dev.mono < t + 500000000)
    | none => false
  if bit (s.lv (pTim + 0x128)) 1 && !early then
    let s1 := (s.setReg (pTim + 0x12C) (w32 (s.todNs + 2 ^ 31))).setReg (pTim + 0x130) (w32 s.todSec)
    .next ((s1.withDev { s1.dev with ppsLast := some s1.dev.mono }).raise pTim 0)
  else .next s

/-- PPS_MISS (11 R312): no edge for 1.1 s. -/
def execPpsMiss (s : State) : Host.Outcome State Fault Refusal :=
  if bit (s.lv (pTim + 0x128)) 1 then
    .next (s.raise pTim 1)
  else .next s

/-- PPS_IN_NS_READ (11 R312): returns the capture and clears VALID. -/
def execPpsInNsRead (s : State) : Host.Outcome State Fault Refusal :=
  let v := s.reg (pTim + 0x12C)
  .next ((s.setReg (pTim + 0x12C) (v &&& 0x7FFFFFFF)).emit (.read (v.setWidth 64)))

end Sys2Proof.Machine
end

