-- ==== Sys2Proof/Machine/Ports.lean ====
section
/-! DEFINITION. Home and strait ports: bring-up and link state, the classifier, frames at home ingress, PAUSE and PFC,
release at home egress, PTP timestamps and OTN sources (02 R45 to R55, 05 R137, R138, 12 R330 to R349). -/
namespace Sys2Proof.Machine

/-! Link state (12 R343 to R345). -/

/-- The first step after signal: auto-negotiation, link training or alignment. -/
def State.afterSignal (s : State) (strait : Bool) (p : Nat) : Nat :=
  let g := s.lv (pPort strait (p / 4) + 0x100)
  if bit g 5 then 2 else if bit g 6 then 3 else 4

/-- A frame that was arriving is cut short: an FCS error at its port, and never accepted (05 R120). -/
def State.cutArrival (s : State) (p : Nat) : State :=
  let po := s.port false p
  match po.arr with
  | none => s
  | some a => ((s.setPort false p { po with arr := some { a with fcsOk := false, decided := true } }).portCnt false p 2).accept p

/-- The frames that strait port p is sending in cut-through end there, and stay to be sent again (12 R345, 03 R73). -/
def State.cutSent (s : State) (p : Nat) : State :=
  (List.range 32).foldl (fun s h =>
    match (s.port false h).arr with
    | some a =>
      if a.cutPn.isSome && !a.cutEnded && s.txPort a.chan == p then
        (s.setPort false h { s.port false h with arr := some { a with cutEnded := true } }).stompFrame true p (a.cutFrame.take (a.bytes.length - 4))
      else s
    | none => s) s

/-- A port leaves step 6 (12 R344): the event, the count, the end of every pause, and the path at once. -/
def State.portDown (s : State) (strait : Bool) (p : Nat) : State :=
  let po := s.port strait p
  if po.step != 6 then s
  else
    let s1 := (s.setPort strait p { po with step := 1, paused := false, pfcPaused := 0, leaving := none }).portCnt strait p 16
    let s2 := s1.raise (pPort strait (p / 4)) 1
    if strait then ((s2.cutSent p).pathCheck (p / 4)).startKeying (s.home_ (p / 4)) else s2.cutArrival p

/-- An OTUCn port whose received PIDs are not 1 to n stays down (12 R331). -/
def State.pidBad (s : State) (strait : Bool) (g : Nat) : Bool :=
  decide (8 ≤ s.mode strait g) && bit (s.reg (pPort strait g + 0x180)) 12

/-- Stream channels that a home group feeds, or a strait group carries. -/
def State.streamsOf (s : State) (strait : Bool) (g : Nat) : List Nat :=
  s.enabledChans.filter (fun c => s.isStream c && (if strait then s.spg c == g else s.streamHpg c == g))

/-- An OTN group that is up and has no enabled Stream channel sends ODU-OCI from its reference (12 R341). -/
def State.sendOci (s : State) (strait : Bool) (g : Nat) : State :=
  if modeOtn (s.mode strait g) && s.portUp strait (4 * g) && (s.streamsOf strait g).isEmpty then s.emit (.otn strait g "ODU-OCI" []) else s

/-- LINK_BRINGUP_STEP (12 R343): a step completes, or fails. -/
def execLinkBringupStep (side : Side) (p : Fin 32) (success : Bool) (s : State) : Host.Outcome State Fault Refusal :=
  let b := sideB side
  let pg := pPort b (p.val / 4)
  let po := s.port b p.val
  let go := fun (x : Port) => s.setPort b p.val x
  if !s.portExists b p.val || s.pst (217 + 8 * b2n b + p.val / 4) != 1 then .next s
  else match po.step with
    | 0 => .next (if success then go { po with step := 1 } else s)
    | 1 => .next (if success then go { po with step := s.afterSignal b p.val } else s)
    | 2 => .next (if success then go { po with step := if bit (s.lv (pg + 0x100)) 6 then 3 else 4, anFail := false }
        else (go { po with step := 1, anFail := true }).raise pg 2)
    | 3 => .next (go { po with step := if success then 4 else 1, ltFail := !success })
    | 4 => .next (if success && !s.pidBad b (p.val / 4) then go { po with step := 5 } else s)
    | 5 => .next (if success then s else go { po with step := 4 })
    | _ => .next s

/-- ALIGNMENT_TIMEOUT (12 R343): 100 ms in step 4. -/
def execAlignmentTimeout (side : Side) (p : Fin 32) (s : State) : Host.Outcome State Fault Refusal :=
  let po := s.port (sideB side) p.val
  .next (if po.step == 4 then s.setPort (sideB side) p.val { po with step := 1 } else s)

/-- LINK_UP (12 R343): the hold has passed. -/
def execLinkUp (side : Side) (p : Fin 32) (s : State) : Host.Outcome State Fault Refusal :=
  let po := s.port (sideB side) p.val
  .next (if po.step == 5 && s.portExists (sideB side) p.val && !s.pidBad (sideB side) (p.val / 4) then
      ((s.setPort (sideB side) p.val { po with step := 6 }).raise (pPort (sideB side) (p.val / 4)) 0).sendOci (sideB side) (p.val / 4)
    else s)

/-- LINK_DOWN (12 R344). -/
def execLinkDown (side : Side) (p : Fin 32) (s : State) : Host.Outcome State Fault Refusal :=
  .next (s.portDown (sideB side) p.val)

/-- PORT_CNT_CLEAR (12 R349). -/
def execPortCntClear (side : Side) (g : Fin 8) (v : Word) (s : State) : Host.Outcome State Fault Refusal := gateO (pPort (sideB side) g.val + 0x10C) s fun s =>
  let base := fun n => pcOff (sideB side) (4 * g.val + n) 0
  .next { s with cnt := s.cnt.filter (fun e => !(List.range 4).any (fun n => bit v n && decide (base n ≤ e.1) && decide (e.1 < base n + 256))) }

/-! OTN sources (12 R341). -/

/-- The source of an OTN group is lost or back: the next transmitted seal field's tag is void, and a lost strait source
leaves the next received block without an announcement (03 R63). -/
def State.breakStreams (s : State) (strait : Bool) (g : Nat) : State :=
  (s.streamsOf strait g).foldl (fun s c => [0, 1].foldl (fun s l =>
    if strait then s.setStream 1 c l { s.stream 1 c l with block := none, prevTag := [] }
    else s.setStream 0 c l { s.stream 0 c l with prevVoid := true }) s) s

/-- OTN_SOURCE_LOST (12 R341): LOS, LOF, LOM or received ODU-AIS sends the transmitter to its reference with ODU-AIS. -/
def execOtnSourceLost (side : Side) (g : Fin 8) (defects : Word) (s : State) : Host.Outcome State Fault Refusal :=
  let b := sideB side
  let pg := pPort b g.val
  if !modeOtn (s.mode b g.val) then .next s
  else
    let s1 := (s.setReg (pg + 0x180) (defects &&& 0x1F3F)).raise pg 4
    if (defects &&& 0x17) == 0 then .next s1
    else
      let po := s1.port b (4 * g.val)
      .next ((((s1.setPort b (4 * g.val) { po with srcLost := true }).breakStreams b g.val).streamsOf b g.val).foldl
        (fun s c => s.emit (.otn (!b) (if b then s.streamHpg c else s.spg c) "ODU-AIS" []))
        ((s1.setPort b (4 * g.val) { po with srcLost := true }).breakStreams b g.val))

/-- OTN_SOURCE_RETURN (12 R341). -/
def execOtnSourceReturn (side : Side) (g : Fin 8) (s : State) : Host.Outcome State Fault Refusal :=
  let b := sideB side
  let po := s.port b (4 * g.val)
  if po.srcLost then
    .next (((s.setReg (pPort b g.val + 0x180) 0).setPort b (4 * g.val) { po with srcLost := false }).breakStreams b g.val)
  else .next s

/-! PTP (12 R346 to R348). -/

/-- Overwrites bytes at an offset. -/
def putAt (l : List Byte) (o : Nat) (new : List Byte) : List Byte := l.take o ++ new ++ l.drop (o + new.length)

/-- The parsed tags of a frame in a copy (02 R45): OP, OS, outer TCI, IP, inner TCI, and the offset of its EtherType. -/
def State.tags (s : State) (new : Bool) (f : List Byte) : Bool × Bool × Nat × Bool × Nat × Nat :=
  let ts := (s.cv new (pCls + 0x12C)).toNat
  let tc := (s.cv new (pCls + 0x130)).toNat
  let t1 := beNat (cut f 12 2)
  let os := t1 == ts
  let op := os || t1 == tc
  let ip := op && beNat (cut f 16 2) == tc
  (op, os, if op then beNat (cut f 14 2) else 0, ip, if ip then beNat (cut f 18 2) else 0, 12 + 4 * b2n op + 4 * b2n ip)

/-- EtherType after any parsed tags. -/
def State.etype (s : State) (new : Bool) (f : List Byte) : Nat := beNat (cut f (s.tags new f).2.2.2.2.2 2)

/-- Where a recognised PTP message starts, and its UDP checksum over IPv4 (12 R346). -/
def State.ptpAt (s : State) (new : Bool) (f : List Byte) : Option (Nat × Option Nat) :=
  let o := (s.tags new f).2.2.2.2.2
  let et := beNat (cut f o 2)
  let udp := fun (u : Nat) => let d := beNat (cut f (u + 2) 2); d == 319 || d == 320
  let r := if et == 0x88F7 then some (o + 2, none)
    else if et == 0x0800 && beNat (cut f (o + 2) 1) == 0x45 && beNat (cut f (o + 11) 1) == 17 && udp (o + 22) then
      some (o + 30, some (o + 28))
    else if et == 0x86DD && beNat (cut f (o + 8) 1) == 17 && udp (o + 42) then some (o + 50, none)
    else none
  match r with
  | some (a, c) => if beNat (cut f (a + 1) 1) % 16 == 2 then some (a, c) else none
  | none => none

/-- A recognised event message over Ethernet or UDP/IPv4. -/
def State.ptpEvent (s : State) (new : Bool) (f : List Byte) : Option (Nat × Option Nat) :=
  match s.ptpAt new f with
  | some (a, c) =>
    if beNat (cut f a 1) % 16 < 4 && (c.isSome || s.etype new f == 0x88F7) then some (a, c) else none
  | none => none

/-- Sets the UDP checksum of a message over IPv4 to 0. -/
def noSum (f : List Byte) (c : Option Nat) : List Byte := match c with | some o => putAt f o [0, 0] | none => f

/-- ToD in whole nanoseconds. -/
def State.todWhole (s : State) : Nat := s.dev.tod / 2 ^ 40

/-- PCFG of a port in a copy. -/
def State.pcfg (s : State) (new strait : Bool) (p : Nat) : Word := s.cv new (pPort strait (p / 4) + 0x110 + 4 * (p % 4))

/-- Transparent-clock correction at ingress: the ingress time goes into messageTypeSpecific. -/
def State.tcIn (s : State) (new : Bool) (p : Nat) (f : List Byte) : List Byte :=
  let w := s.pcfg new false p
  if bit w 3 && bit w 2 then
    match s.ptpEvent new f with
    | some (a, c) => noSum (putAt f (a + 16) (beBytes 4 s.todWhole)) c
    | none => f
  else f

/-- Transparent-clock correction at egress: correctionField grows by the time since. -/
def State.tcOut (s : State) (p : Nat) (f : List Byte) : List Byte :=
  let w := s.pcfg false false p
  if bit w 3 && bit w 2 then
    match s.ptpEvent false f with
    | some (a, c) =>
      let d := (s.todWhole + 2 ^ 32 - beNat (cut f (a + 16) 4)) % 2 ^ 32
      noSum (putAt (putAt f (a + 8) (beBytes 8 (beNat (cut f (a + 8) 8) + d * 2 ^ 16))) (a + 16) [0, 0, 0, 0]) c
    | none => f
  else f

/-- A received PTP message that the port diverts to HC0 with its receive timestamp (12 R347). -/
def State.trapPtp (s : State) (new strait : Bool) (p : Nat) (f : List Byte) : Option State :=
  let w := s.pcfg new strait p
  if bit w 4 && bit w 2 && (s.ptpAt new f).isSome then
    some (((s.portCnt strait p 6).emit (.ptp strait p f)).emit (.trapped p f s.dev.tod))
  else none

/-- PTP_TX_TIMESTAMP (12 R347): HC0 sends a PTP message with a two-step or one-step departure time. -/
def execPtpTxTimestamp (side : Side) (p : Fin 32) (m : PtpSend) (s : State) : Host.Outcome State Fault Refusal :=
  let b := sideB side
  let pg := pPort b (p.val / 4)
  if !(s.portUp b p.val && s.txOpen && s.hcUp 0) || modeOtn (s.mode b (p.val / 4)) then .next s
  else if m.oneStep then
    match s.ptpEvent false m.bytes with
    | some (a, c) =>
      if beNat (cut m.bytes a 1) % 16 == 0 then
        let t := beBytes 6 s.todSec ++ beBytes 4 s.todNs
        let f := putAt (putAt m.bytes (a + 34) t) (a + 8) (beBytes 8 (beNat (cut m.bytes (a + 8) 8) + s.dev.tod % 2 ^ 40 / 2 ^ 24))
        .next (s.sendFrame b p.val (noSum f c))
      else .next (s.sendFrame b p.val m.bytes)
    | none => .next (s.sendFrame b p.val m.bytes)
  else
    let s1 := s.sendFrame b p.val m.bytes
    let po := s1.port b p.val
    if 16 ≤ po.tsf.length then .next ((s1.setPort b p.val { po with tsfOver := true }).portCnt b p.val 17)
    else
      let e : Stamp := { seqId := m.seqId.toNat, msgType := m.msgType.toNat, domain := m.domain.toNat, tod := s.dev.tod }
      .next ((s1.setPort b p.val { po with tsf := po.tsf ++ [e] }).raise pg 3)

/-- The three words of a latched timestamp: NS, SEC_LO, SEC_HI (12 TSF registers). -/
def stampWords (e : Option Stamp) : Word × Word × Word :=
  match e with
  | none => (0, 0, 0)
  | some e =>
    let sec := e.tod / 2 ^ 40 / 10 ^ 9
    (w32 (e.tod / 2 ^ 40 % 10 ^ 9), w32 sec, w32 (sec / 2 ^ 32 % 65536 + 65536 * (e.tod / 2 ^ 24 % 65536)))

/-- Reading TSF.SEC_HI removes the oldest entry and clears OVERFLOW. -/
def State.popTsf (s : State) (strait : Bool) (p : Nat) : State :=
  let po := s.port strait p
  s.setPort strait p { po with tsf := po.tsf.drop 1, tsfOver := false }

/-- TSF_POP (12 R347). -/
def execTsfPop (side : Side) (p : Fin 32) (s : State) : Host.Outcome State Fault Refusal :=
  .next ((s.popTsf (sideB side) p.val).emit (.read ((stampWords (s.port (sideB side) p.val).tsfLatch).2.2.setWidth 64)))

/-! The classifier (02 R45 to R53). -/

/-- The 35-bit key of a frame from home port p. -/
def State.clsKey (s : State) (new : Bool) (p : Nat) (f : List Byte) : Nat :=
  let (op, os, ot, ip, it, _) := s.tags new f
  p * 2 ^ 30 + b2n op * 2 ^ 29 + b2n os * 2 ^ 28 + (ot % 4096) * 2 ^ 16 + b2n ip * 2 ^ 15 + (it % 4096) * 8 + ot / 8192

/-- Bucket of a key in hash table t (02 R46). -/
def State.bucket (s : State) (new : Bool) (key t : Nat) : Nat :=
  crc32c (s.cv new (pCls + 0x100 + 4 * t)).toNat (leBytes 5 key) % 2048
where crc32c := Crypto.crc32c

/-- Word w of exact-match entry i, and of TCAM entry j. -/
def State.emw (s : State) (new : Bool) (i w : Nat) : Word := s.cv new (0x1100000 + 16 * i + 4 * w)
def State.tcw (s : State) (new : Bool) (j w : Nat) : Word := s.cv new (0x1140000 + 32 * j + 4 * w)

/-- A valid exact-match entry holds the key. -/
def State.emHit (s : State) (new : Bool) (key i : Nat) : Bool :=
  bit (s.emw new i 0) 0 && ((s.emw new i 1).toNat + 2 ^ 32 * fld (s.emw new i 2) 0 3 == key)

/-- A valid TCAM entry matches the key. -/
def State.tcHit (s : State) (new : Bool) (key j : Nat) : Bool :=
  let m := (s.tcw new j 3).toNat + 2 ^ 32 * fld (s.tcw new j 4) 0 3
  let v := (s.tcw new j 1).toNat + 2 ^ 32 * fld (s.tcw new j 2) 0 3
  bit (s.tcw new j 0) 0 && ((key &&& m) == (v &&& m))

/-- The lookup (02 R48): ACTION and channel, and whether MISS gave them. -/
def State.classify (s : State) (new : Bool) (p : Nat) (f : List Byte) : Nat × Nat × Bool :=
  let key := s.clsKey new p f
  let ways := (List.range 4).map (fun w => 4 * s.bucket new key 0 + w) ++
    (List.range 4).map (fun w => 8192 + 4 * s.bucket new key 1 + w)
  match ways.find? (s.emHit new key) with
  | some i => (fld (s.emw new i 0) 1 2, fld (s.emw new i 0) 4 13, false)
  | none => match (List.range 512).find? (s.tcHit new key) with
    | some j => (fld (s.tcw new j 0) 1 2, fld (s.tcw new j 0) 4 13, false)
    | none => let m := s.cv new (pCls + 0x180 + 4 * p); (fld m 0 2, fld m 2 13, true)

/-- CLEAR_PASS (02 R50, 16 R435). -/
def State.clearPass (s : State) (new : Bool) (c : Nat) (f : List Byte) : State :=
  let et := s.etype new f
  if s.policy 0 && bit (s.txw new c 0) 0 && et != (s.cv new (pAsx + 0x100)).toNat && et != 0x88E5 && !s.isSealed then
    let s1 := (s.chanCnt c 5).cntAdd (pCls + 0x110) 1
    let p := 4 * s.txGroup (fld (s.txw new c 0) 5 3) + fld (s.txw new c 0) 8 2
    if s1.txOpen && s1.portUp true p then s1.sendFrame true p f else s1
  else (s.chanCnt c 6).cntAdd (pCls + 0x118) 1

/-! Home ingress (12 R335, R336, 02 R49, R55). -/

/-- A received MAC Control frame (12 R336, R337). -/
def State.macControl (s : State) (new : Bool) (p : Nat) (f : List Byte) : State :=
  let s1 := s.portCnt false p 5
  let po := s1.port false p
  let fc := fld (s.pcfg new false p) 0 2
  let op := beNat (cut f 14 2)
  if fc == 1 && op == 1 then s1.setPort false p { po with paused := beNat (cut f 16 2) != 0 }
  else if fc == 2 && op == 0x0101 then
    let en := beNat (cut f 16 2)
    s1.setPort false p { po with pfcPaused := (List.range 8).foldl (fun m i => if nbit en i then setNBit m i (beNat (cut f (18 + 2 * i) 2) != 0) else m) po.pfcPaused }
  else s1

/-- The frame that arrived before has had its last byte: its decision and acceptance fall due before the next frame. -/
def State.finishArr (s : State) (p : Nat) : State := if (s.port false p).arr.isSome then (s.admitFrame p).accept p else s

/-- A frame that passed the port's checks is classified and acted on; one with a bad FCS is counted at its port alone (02 R55). -/
def State.homeFrame (s : State) (new : Bool) (p : Nat) (h : HomeFrame) : State :=
  let (act, c, miss) := s.classify new p h.bytes
  let s1 := if miss && h.fcsOk then s.bump (pCls + 0x200 + 4 * p) else s
  if act == 1 then
    s1.setPort false p { s1.port false p with arr := some { bytes := s.tcIn new p h.bytes, fcsOk := h.fcsOk, chan := c, newGen := new } }
  else if !h.fcsOk then s1
  else if s.maxLen new c < lenOf h.bytes then s1.chanCnt c 7
  else if act == 2 then s1.clearPass new c h.bytes
  else s1.chanCnt c 4

/-- HOME_INGRESS_FRAME (12 R335): runt, oversize, FCS, MAC Control, then the classifier. -/
def execHomeIngressFrame (p : Fin 32) (h : HomeFrame) (s : State) : Host.Outcome State Fault Refusal :=
  let p := p.val
  let L := lenOf h.bytes
  if !s.portUp false p || modeOtn (s.mode false (p / 4)) || s.dev.lhOnly || s.dev.ember.isSome then .next s
  else
    let s0 := s.finishArr p
    let new := s0.newGen false p
    if L < 64 then .next (s0.portCnt false p 3)
    else if 10240 < L then .next ((s0.portCnt false p 4).homeFrame new p h)
    else if !h.fcsOk then .next ((s0.portCnt false p 2).homeFrame new p h)
    else if beNat (cut h.bytes 12 2) == 0x8808 then .next (s0.macControl new p h.bytes)
    else
      match s0.trapPtp new false p h.bytes with
      | some s1 => .next s1
      | none => .next (((s0.portCnt false p 0).cntAdd (pcOff false p 1) L).homeFrame new p h)

/-- PAUSE_EXPIRY (12 R336, R337). -/
def execPauseExpiry (p : Fin 32) (pri : Option (Fin 8)) (s : State) : Host.Outcome State Fault Refusal :=
  let po := s.port false p.val
  .next (s.setPort false p.val (match pri with
    | none => { po with paused := false }
    | some i => { po with pfcPaused := setNBit po.pfcPaused i.val false }))

/-- PAUSE_REPEAT (05 R138): half the quanta time has passed in XOFF. -/
def execPauseRepeat (p : Fin 32) (s : State) : Host.Outcome State Fault Refusal :=
  let x := s.port false p.val
  let q := fld (s.lv (pQmg + 0x114)) 0 16
  let s1 := if x.xoffPause then s.sendPause p.val false 0 [q] else s
  .next (if x.xoffPfc != 0 then s1.sendPfc p.val x.xoffPfc 0 q else s1)

/-- SRC_MASK_AGE (05 R137): no frame of the channel was accepted from the port for SRC_AGE_US. -/
def execSrcMaskAge (c : Fin 8192) (p : Fin 32) (s : State) : Host.Outcome State Fault Refusal :=
  let x := s.chan c.val
  .next ((s.setChan c.val { x with srcMask := setNBit x.srcMask p.val false }).xoffAll)

/-! Home egress (12 R338, 04 R106). -/

/-- HOME_EGRESS_SELECT (12 R338). -/
def execHomeEgressSelect (p : Fin 32) (s : State) : Host.Outcome State Fault Refusal := .next ((s.refillPort p.val).select p.val)

/-- FRAME_RELEASED (04 R106, 05 R125, R127): the selected frame's last byte leaves home egress. -/
def execFrameReleased (p : Fin 32) (rd : EgressRead) (s : State) : Host.Outcome State Fault Refusal :=
  let p := p.val
  let po := s.port false p
  match po.leaving with
  | none => .next s
  | some (c, pn) =>
    if !s.txOpen then .next s
    else
      let s1 := s.setPort false p { po with leaving := none }
      if c == 8192 then
        match po.clearQ with
        | [] => .next s1
        | f :: rest => .next ((s1.setPort false p { po with leaving := none, clearQ := rest }).sendFrame false p f)
      else
        match (s1.chan c).rq.find? (fun f => f.pn == pn) with
        | none => .next s1
        | some f => .next (s1.egressRead c p f (s1.tcOut p f.bytes) rd)

end Sys2Proof.Machine
end

