-- ==== Sys2Proof/Machine/Strait.lean ====
section
/-! DEFINITION. Frames at strait ingress: the checks of R87, port frames under the port key, control, landfall and probe
frames, clear frames (02 R52, R53, 04 R85 to R93, R109, 11 R314 to R316, 12 R335, R339, R342). -/
namespace Sys2Proof.Machine

open Crypto

/-! Probes (11 R314 to R316). -/

/-- A sensing timestamp (11 R310): MONO modulo 2^48 and a fraction of 16 bits, which is free. -/
def State.stamp (s : State) : Nat × State := (s.dev.mono % 2 ^ 48 * 65536 + Config.freeNat s.free % 65536, s.drawn)

/-- sdiff (11 R310) in units of 2^-16 ns. -/
def sdiff (a b : Nat) : Int := sgn 64 ((a + 2 ^ 64 - b % 2 ^ 64) % 2 ^ 64)

/-- The port probes (11 R314). -/
def State.probes (s : State) (p : Nat) : Bool :=
  let g := p / 4
  bit (s.lv (pSns + 0x100)) 16 && bit (s.lv (sGrp g)) 2 && s.portKeyed (s.home_ g) && (s.pathPorts g).contains p &&
  s.portUp true p && s.txOpen && !s.dev.startHold && !(s.port true p).stopped

/-- The 48 body bytes of a probe. -/
def probeBody (kind p seq t2 prev t3 : Nat) : List Byte :=
  [by8 kind, by8 (p % 4), 0, 0] ++ beBytes 8 seq ++ beBytes 8 t2 ++ beBytes 8 prev ++ beBytes 8 t3 ++ List.replicate 12 0

/-- A REQ that is lost: counted and forgotten. -/
def State.loseReq (s : State) (p seq : Nat) : State :=
  let po := s.port true p
  if po.reqs.any (fun e => e.1 == seq) then
    (s.setPort true p { po with reqs := po.reqs.filter (fun e => e.1 != seq), t2s := po.t2s.filter (fun e => e.1 != seq), lostNow := po.lostNow + 1 }).bump (sGrp (p / 4) + 0x2C)
  else s

/-- PROBE_REQ_TIMER (11 R314, R324): a REQ leaves; a group that starts to probe learns. -/
def execProbeReqTimer (p : Fin 32) (s : State) : Host.Outcome State Fault Refusal :=
  let p := p.val
  let g := p / 4
  if !s.probes p then .next s
  else
    let s0 := if s.senseMode g == 0 then (s.setSenseMode g 1).setSense g { s.sense g with learnEnd := s.dev.mono + fld (s.lv (pSns + 0x110)) 0 8 * 10 ^ 9, hits := [], skewHist := [] } else s
    let po := s0.port true p
    let s1 := if 1024 ≤ po.reqs.length then s0.loseReq p ((po.reqs.map (·.1)).headD 0) else s0
    let (t1, s2) := s1.stamp
    let x := s2.port true p
    let s3 := s2.setPort true p { x with reqs := x.reqs ++ [(x.seq, t1)], seq := (x.seq + 1) % 2 ^ 64 }
    .next (s3.portFrameOn (s.home_ g) p 4 false (probeBody 1 p x.seq 0 0 0))

/-- PROBE_LOST (11 R316). -/
def execProbeLost (p : Fin 32) (seq : Nat) (s : State) : Host.Outcome State Fault Refusal := .next (s.loseReq p.val seq)

/-- A received REQ is answered on the same port (11 R315). -/
def State.onReq (s : State) (w p seq t2 : Nat) : State :=
  let (t3, s1) := s.stamp
  let po := s1.port true p
  let (prev, pt3) := po.echoPrev.getD (0, 0)
  (s1.setPort true p { po with echoPrev := some (seq, t3) }).portFrameOn w p 4 false (probeBody 2 p seq t2 prev pt3)

/-- A probe is complete: its four timestamps join the newest 1,088 of the port. -/
def Port.completeProbe (po : Port) (seq t3 : Nat) : Port :=
  match po.reqs.find? (fun e => e.1 == seq), po.t2s.find? (fun e => e.1 == seq) with
  | some (_, t1), some (_, t2, t4) =>
    let bad := match po.probes with
      | (u1, u2, u3, u4) :: _ => sdiff t1 u1 < 0 || sdiff t2 u2 < 0 || sdiff t3 u3 < 0 || sdiff t4 u4 < 0
      | [] => false
    { po with reqs := po.reqs.filter (fun e => e.1 != seq), t2s := po.t2s.filter (fun e => e.1 != seq), probes := (po.probes.take 1087).cons (t1, t2, t3, t4), done := po.done + 1, doneNow := po.doneNow + 1, tsBad := po.tsBad || bad }
  | _, _ => po

/-- A received ECHO (11 R315, R316): SEQ_PREV 0 is the first ECHO of the peer's port. -/
def State.onEcho (s : State) (p seq t2 prev t3 t4 : Nat) : State :=
  let po := s.port true p
  let out := fun n => po.reqs.any (fun e => e.1 == n)
  if !out seq || !(prev == 0 || out prev) then s.bump (sGrp (p / 4) + 0x30)
  else
    let po1 := { po with t2s := po.t2s.filter (fun e => e.1 != seq) ++ [(seq, t2, t4)] }
    s.setPort true p (if prev == 0 then po1 else po1.completeProbe prev t3)

/-- A probe body. -/
def State.onProbe (s : State) (w p : Nat) (b : List Byte) : State :=
  let (t, s1) := s.stamp
  let kind := beNat (b.take 1)
  let seq := beNat (cut b 4 8)
  if kind == 1 then s1.onReq w p seq t
  else if kind == 2 then s1.onEcho p seq (beNat (cut b 12 8)) (beNat (cut b 20 8)) (beNat (cut b 28 8)) t
  else s.protoErr (p / 4)

/-! Port frames (04 R88 to R93). -/

/-- The records of an ack/credit frame. -/
def State.onAckFrame (s : State) (g : Nat) (b : List Byte) : State :=
  let n := beNat (b.take 2)
  if n == 0 || 64 < n || b.length < 4 + 16 * n then s.protoErr g
  else (List.range n).foldl (fun s i => s.onRecord g (cut b (4 + 16 * i) 16)) s

/-- A control message. -/
def State.onControl (s : State) (w g : Nat) (clear : Bool) (b : List Byte) : State :=
  let msg := beNat (b.take 1)
  let m := cut b 4 (beNat (cut b 2 2))
  if msg == 1 then (s.setPath g { s.path g with rxOk := beNat (m.take 1) % 16 }).pathCheck g
  else if 0x10 ≤ msg && msg < 0x20 then s.onKeyMsg w g msg clear m
  else s.protoErr g

/-- A landfall frame. -/
def State.onLandfall (s : State) (w g : Nat) (b : List Byte) : State :=
  let kind := beNat (b.take 1)
  let n := beNat (cut b 2 2)
  if kind == 1 && 1 ≤ n && n ≤ 64 && 4 + 24 * n ≤ b.length then s.onStates w g b n
  else if kind == 2 then s.onDone w (nbit (beNat (cut b 1 1)) 0)
  else s.protoErr g

/-- A verified port frame by its type. -/
def State.onPortBody (s : State) (w p type : Nat) (b : List Byte) : State :=
  let g := p / 4
  if type == 2 then s.onAckFrame g b
  else if type == 3 then s.onControl w g false b
  else if type == 4 then s.onProbe w p b
  else s.onLandfall w g b

/-- A port frame on strait port p (04 R88, R89, 06 R162). -/
def State.onPortFrame (s : State) (p : Nat) (f : List Byte) : State :=
  let g := p / 4
  let w := s.home_ g
  let type := beNat (cut f 14 1) % 16
  let epoch := beNat (cut f 18 2)
  let pn := beNat (cut f 20 8)
  let fail := s.bump (aGrp g + 0x24)
  if f.length < 52 then fail
  else if epoch == 0 then
    let b := cut f 36 (f.length - 52)
    let msg := beNat (b.take 1)
    if type == 3 && 0x10 ≤ msg && msg < 0x20 then s.onControl w g true b else fail
  else
    let k := s.pslot 1 w (epoch % 2)
    let pe := s.peer w
    let (hi, seen) := tget pe.rw (epoch % 2) (0, [])
    if !k.valid || k.epoch != epoch || pn + 65536 ≤ hi || seen.contains pn then fail
    else
      let (b, ok) := gcmOpen k.key (ivOf k.salt 0 pn) (f.take 34) (cut f 36 (f.length - 52)) (f.drop (f.length - 16))
      if !ok then fail
      else
        let hi1 := max hi pn
        let s1 := (s.setPeer w { pe with rw := tput pe.rw (epoch % 2) (hi1, (pn :: seen).filter (fun q => hi1 < q + 65536)) }).hear p
        let s2 := if pe.portNew && epoch == nextEpoch pe.portEpoch then s1.portSwitch w else s1
        s2.onPortBody w p type b

/-! The checks of R87. -/

/-- The channel of a data frame is enabled, Asxon, Assured or Best-effort, and served by this group. -/
def State.dataChan (s : State) (g c : Nat) : Bool :=
  s.chEn c && s.asxon c && decide (s.cls c ≤ 1) && (s.spg c == g || s.spg c == s.home_ g)

/-- A frame of the Asxon EtherType (04 R87). -/
def State.onAsxon (s : State) (p : Nat) (f : List Byte) (lg : LgOutcome) : State :=
  let g := p / 4
  let c := beNat (cut f 16 2) % 8192
  let vt := beNat (cut f 14 1)
  let hdrErr := s.bump (aGrp g + 0x1C)
  if vt / 16 != 1 || hchk (f.take 34) != cut f 34 2 || cut f 32 2 != [0, 0] then hdrErr
  else if vt % 16 == 0 || 5 < vt % 16 then hdrErr
  else if vt % 16 == 1 then
    if !s.dataChan g c then s.protoErr g
    else if f.length + 4 < 104 || 10280 < f.length + 4 then hdrErr
    else s.rxData c g p f lg
  else s.onPortFrame p f

/-- Home bytes that a strait frame with a bad FCS has at home egress already, of an Asxon data frame. -/
def State.cutAsxon (s : State) (p : Nat) (f : List Byte) : Option (Nat × List Byte) :=
  let c := beNat (cut f 16 2) % 8192
  let k := s.slot 1 c (beNat (cut f 18 2) % 2)
  if beNat (cut f 14 1) == 0x11 && hchk (f.take 34) == cut f 34 2 && s.dataChan (p / 4) c && k.valid && k.epoch == beNat (cut f 18 2) &&
      !k.bad && (s.unitFor 1 c).isSome && (s.clsOf (s.newGen true p) c != 0 || beNat (cut f 20 8) == (s.chan c).rxHand) && s.beginsEarly c p then
    some (c, (openAsx k f).1)
  else none

/-- The same of an 802.1AE frame. -/
def State.cutMacsec (s : State) (p : Nat) (f : List Byte) : Option (Nat × List Byte) :=
  let tci := beNat (cut f 14 1)
  match s.sciChan (p / 4) f with
  | none => none
  | some c =>
    let k := s.slot 1 c (tci % 2)
    let pn := s.secPn c k f
    if !nbit tci 7 && nbit tci 3 && nbit tci 2 && k.valid && k.epoch == tci % 4 && !k.bad && 44 ≤ f.length && (s.unitFor 1 c).isSome &&
        max k.pn0 (k.hi + 1 - 2 ^ fld (s.rxw false c 1) 16 5) ≤ pn && !k.seen.contains pn && s.beginsEarly c p then
      some (c, (openMacsec k pn (fld (s.txw (s.newGen true p) c 0) 10 2) f).1)
    else none

/-- A frame whose strait FCS fails: a cut-through decryption that had begun is ended at home egress (03 R79). -/
def State.undoCut (s : State) (p : Nat) (f : List Byte) : State :=
  let et := beNat (cut f 12 2)
  match (if et == (s.lv (pAsx + 0x100)).toNat then s.cutAsxon p f else if et == 0x88E5 then s.cutMacsec p f else none) with
  | some (c, home) => s.stompFrame false (fld (s.rxw false c 0) 8 5) home
  | none => s

/-- A clear frame from the strait (02 R52). -/
def State.onClear (s : State) (g : Nat) (f : List Byte) : State :=
  let w := s.lv (pCls + 0x280 + 4 * g)
  if bit w 0 && s.policy 0 then
    let h := fld w 1 5
    let po := s.port false h
    ((s.bump (pCls + 0x2A0 + 4 * g)).cntAdd (pCls + 0x110) 1).setPort false h { po with clearQ := po.clearQ ++ [f] }
  else (s.bump (pCls + 0x2C0 + 4 * g)).cntAdd (pCls + 0x118) 1

/-- A frame that its port passed on. -/
def State.straitFrame (s : State) (p : Nat) (f : List Byte) (lg : LgOutcome) : State :=
  let g := p / 4
  let et := beNat (cut f 12 2)
  if s.isSealed then s.bump (pSaf + 0x12C)
  else if et == (s.lv (pAsx + 0x100)).toNat then (s.onAsxon p f lg).keyScan (s.home_ g)
  else if et == 0x88E5 then s.rxMacsec g p f lg
  else s.onClear g f

/-- STRAIT_INGRESS_FRAME (12 R335, R342, 04 R87): a frame from its destination MAC up to its FCS. -/
def execStraitIngressFrame (p : Fin 32) (bytes : List Byte) (fcsOk : Bool) (lg : LgOutcome) (s : State) :
    Host.Outcome State Fault Refusal :=
  let p := p.val
  let L := lenOf bytes
  if !s.portUp true p || s.dev.lhOnly || s.dev.ember.isSome then .next s
  else if modeOtn (s.mode true (p / 4)) then
    .next (if fcsOk then s.straitFrame p bytes lg else s.portCnt true p 2)
  else if L < 64 then .next (s.portCnt true p 3)
  else if 10280 < L then .next (s.portCnt true p 4)
  else if !fcsOk then .next ((s.portCnt true p 2).undoCut p bytes)
  else if beNat (cut bytes 12 2) == 0x8808 then .next (s.portCnt true p 5)
  else
    match s.trapPtp (s.newGen true p) true p bytes with
    | some s1 => .next s1
    | none => .next (((s.portCnt true p 0).cntAdd (pcOff true p 1) L).straitFrame p bytes lg)

end Sys2Proof.Machine
end

