-- ==== Sys2Proof/Machine/KeyPort.lean ====
section
/-! DEFINITION. The key ports of the engines, the pairing table of the vault, and the random words of a pair (06 R169,
R170, 10 R304 to R306). -/
namespace Sys2Proof.Machine

/-- Base of engine n's key-port block. -/
def kpBase (n : Nat) : Nat := pKln (n / 8) + 0x600 + 0x20 * (n % 8)

def State.kp (s : State) (n : Nat) : Kp := tget s.kiln.kp n {}
def State.setKp (s : State) (n : Nat) (x : Kp) : State := s.withKiln { s.kiln with kp := tput s.kiln.kp n x }

/-- The job of context c of engine n, when that context is sealed. -/
def State.sealedJobOf (s : State) (n c : Nat) : Option Job :=
  if (s.ctx n c).sealed_ then s.kiln.jobs.find? (fun j => j.kiln == n / 8 && j.engine == n % 8 && j.ctx == c) else none

/-- The job of the running context of an engine, when that context is sealed. -/
def State.sealedJob (s : State) (n : Nat) : Option Job := (s.eng n).run.bind (s.sealedJobOf n)

/-- Fields of a descriptor. -/
structure KpDesc where
  kind : Nat
  scope : Nat
  dir : Nat
  chan : Nat
  epoch : Nat
  len : Nat
  g : Nat
  deriving DecidableEq, Repr

/-- The descriptor of engine n. -/
def State.kpDesc (s : State) (n : Nat) : KpDesc :=
  let a := s.reg (kpBase n)
  let b := s.reg (kpBase n + 4)
  { kind := fld a 0 8, scope := fld a 8 2, dir := fld a 10 2, chan := fld a 16 13, epoch := fld b 0 16, len := fld b 16 14, g := fld (s.reg (kpBase n + 8)) 0 3 }

/-- The scope, direction and epoch that each kind permits (10 R305). -/
def State.kpFields (s : State) (d : KpDesc) : Bool :=
  let k := d.kind
  let two := d.dir == 1 || d.dir == 2
  let fits := if d.scope == 2 then s.spg d.chan == d.g else if d.scope == 1 then d.chan == 0 else d.scope == 0 && d.chan == 0 && d.g == 0
  fits &&
  (if k == 1 then d.scope == 2 && two
   else if k == 2 then d.scope == 1 && two
   else if k == 3 || k == 0x10 then (d.scope == 1 || d.scope == 2) && two
   else if k == 4 || k == 0x11 then (d.scope == 1 || d.scope == 2) && d.dir == 0 && d.epoch == 0
   else if k == 5 then d.scope == 2 && two && decide (d.epoch < 4)
   else if k == 6 || k == 7 || k == 8 || k == 0x12 || k == 0x13 || k == 0x14 then d.scope == 0 && d.dir == 0 && d.epoch == 0
   else false)

/-- LEN fits the kind (10 R304). -/
def kpLen (d : KpDesc) : Bool :=
  let k := d.kind
  if k == 1 || k == 2 then d.len == 92
  else if k == 3 || k == 4 || k == 0x10 || k == 0x11 then d.len == 48
  else if k == 5 then d.len == 56
  else if k == 6 then d.len == 3076
  else if k == 7 || k == 0x14 then d.len == 3200
  else if k == 8 then decide (1 ≤ d.len) && decide (d.len ≤ 8192)
  else if k == 0x12 then d.len == 32
  else d.len == 3044

/-- A read kind matches the grant of its job (10 R305). -/
def granted (j : Job) (d : KpDesc) : Bool :=
  bit j.grant (d.kind - 0x10) &&
  (decide (0x12 ≤ d.kind) ||
   (fld j.grant 23 3 == d.g && fld j.grant 21 2 == d.dir &&
    (if bit j.grant 7 then d.scope == 1 else d.scope == 2 && fld j.grant 8 13 == d.chan)))

/-- The exchange or PRK of a descriptor's scope: its group and channel. -/
def KpDesc.peerScope (d : KpDesc) : Option Nat := if d.scope == 2 then some d.chan else none

/-- The bytes that a read kind returns, empty when the key is absent. -/
def State.kpKey (s : State) (d : KpDesc) : List Byte :=
  let v := s.vault
  let w := s.home_ d.g
  if d.kind == 0x10 then
    match tget v.chains (chainIx (d.scope == 1) (if d.scope == 1 then w else d.chan) (d.dir - 1)) (0, 0, []) with
    | (e, _, ck) => if e == d.epoch then ck else []
  else if d.kind == 0x11 then
    match v.prks.find? (fun p => p.g == w && p.chan == d.peerScope) with | some p => p.key | none => []
  else if d.kind == 0x12 then v.idk.take 32
  else if d.kind == 0x13 then v.idk.drop 32
  else v.imkPriv

/-- What two matching writes install (10 R304, 06 R159, R162, R173). -/
def State.kpInstall (s : State) (d : KpDesc) (data : List Byte) : State :=
  let v := s.vault
  let w := s.home_ d.g
  let chainOf := fun (s : State) (port : Bool) (e : Nat) (ck : List Byte) =>
    let ix := chainIx port (if port then w else d.chan) (d.dir - 1)
    s.setChain ix e (tget s.vault.chains ix (0, d.dir, [])).2.1 ck
  let write := fun (s : State) (h : HeldWrite) =>
    let s1 := s.writeKey h
    if s1.vault.heldWrites.contains h then s1 else s1.afterPut h
  if d.kind == 1 then
    let prk := v.prks.find? (fun p => p.done && p.chans.contains d.chan && p.waiting.contains (2 * d.chan + (d.dir - 1)))
    write (chainOf s false (nextEpoch d.epoch) (cut data 44 48))
      { enc := d.dir == 1, chan := d.chan, epoch := d.epoch, data := data.take 44, ratchet := prk.isNone, xid := (prk.map (·.xid)).getD 0, at_ := s.dev.mono }
  else if d.kind == 2 then
    let key := data.take 32
    (chainOf s true (nextEpoch d.epoch) (cut data 44 48)).setPslot (d.dir - 1) w (d.epoch % 2)
      { valid := true, epoch := d.epoch, key := key, salt := cut data 32 12, kcv := Crypto.kcv key, at_ := s.dev.mono }
  else if d.kind == 3 then chainOf s (d.scope == 1) d.epoch data
  else if d.kind == 4 then
    s.withVault { v with prks := v.prks.map (fun p => if p.g == w && p.chan == d.peerScope && !p.done then { p with key := data } else p) }
  else if d.kind == 5 then
    write s { enc := d.dir == 1, chan := d.chan, epoch := d.epoch, data := data, sa := true, at_ := s.dev.mono }
  else if d.kind == 6 then s.withVault { v with idk := data }
  else if d.kind == 7 then s.withVault { v with imkPriv := data }
  else s.withVault { v with published := v.published ++ [data] }

/-- The exchange that a key of a channel, or of a port, comes from: its own, the peer's, or one whose PRK is still held. -/
def State.keyXch (s : State) (w : Nat) (chan : Option Nat) : Option Xch :=
  match s.vault.xchs.find? (fun x => x.g == w && x.chan == chan), s.vault.xchs.find? (fun x => x.g == w && x.chan.isNone) with
  | some x, _ => some x
  | none, some x => some x
  | none, none => (s.vault.prks.find? (fun p => p.g == w && (p.chan == chan || p.chan.isNone))).map
      (fun p => { xid := p.xid, g := w, chan := p.chan, init := p.init, phase := 3 })

/-- The key of a descriptor in the list of disagreements. -/
def keyId (w : Nat) (d0 d1 : Word) : Nat × Nat × Nat := (w, d0.toNat, fld d1 0 16)

/-- A disagreement, or a second write that did not come (06 R170): the third for a key ends its exchange. -/
def State.mismatch (s : State) (d0 d1 : Word) (g : Nat) : State :=
  let s1 := (s.bump (pVlt + 0x118)).raise pVlt 1
  let w := s.home_ g
  let id := keyId w d0 d1
  let old := s1.vault.mism
  if (old.filter (· == id)).length < 2 then s1.withVault { s1.vault with mism := old ++ [id] }
  else
    let s2 := s1.withVault { s1.vault with mism := old.filter (· != id) }
    match s2.keyXch w (if fld d0 8 2 == 2 then some (fld d0 16 13) else none) with
    | none => s2
    | some x =>
      let s3 := (s2.abort w x.xid 4).failXch x 4
      s3.withVault { s3.vault with prks := s3.vault.prks.filter (fun p => !(p.xid == x.xid && p.g == w)) }

/-- A request is refused: KP_STAT, line 4 and the event. -/
def State.kpRefuse (s : State) (n reason : Nat) : State :=
  (((s.setReg (kpBase n + 0x14) (w32 (2 + 16 * reason))).setKp n {}).raiseLine n 4).raise (pKln (n / 8)) 6

/-- A submitted request of engine n (10 R304 to R306). -/
def State.kpGo (s : State) (n : Nat) : State :=
  match s.sealedJob n with
  | none => s.kpRefuse n 1
  | some j =>
    let d := s.kpDesc n
    let data := (s.kp n).data
    let ok := fun (s : State) => s.setReg (kpBase n + 0x14) 1
    if !s.kpFields d then s.kpRefuse n 7
    else if !kpLen d then s.kpRefuse n 3
    else if 0x10 ≤ d.kind then
      if !granted j d then s.kpRefuse n 2
      else
        let key := s.kpKey d
        if key.length != d.len then s.kpRefuse n 6 else ok (s.setKp n { data := [], back := key })
    else if data.length != d.len then s.kpRefuse n 3
    else
      let d0 := s.reg (kpBase n)
      let d1 := s.reg (kpBase n + 4)
      let d2 := s.reg (kpBase n + 8)
      let same := fun (p : Pairing) => p.tag == j.pair && p.desc0 == d0 && p.desc1 == d1 && p.desc2 == d2
      let v := s.vault
      match v.pairs.find? same with
      | none =>
        if 512 ≤ v.pairs.length then s.kpRefuse n 5
        else
          let e : Pairing := { id := v.pairNext, kiln := n / 8, tag := j.pair, desc0 := d0, desc1 := d1, desc2 := d2, data := data }
          ok ((s.setKp n {}).withVault { v with pairs := v.pairs ++ [e], pairNext := v.pairNext + 1 })
      | some p =>
        if p.kiln == n / 8 then s.kpRefuse n 4
        else
          let s1 := ok ((s.setKp n {}).withVault { v with pairs := v.pairs.filter (fun q => q.id != p.id) })
          if p.data != data then s1.mismatch d0 d1 d.g
          else
            let s2 := s1.withVault { s1.vault with mism := s1.vault.mism.filter (· != keyId (s1.home_ d.g) d0 d1) }
            if s2.isSealed then s2 else s2.kpInstall d data

/-- KP_GO (10 R304). -/
def execKpGo (n : Fin 192) (v : Word) (s : State) : Host.Outcome State Fault Refusal :=
  .next (if bit v 0 then s.kpGo n.val else s)

/-- PAIRING_TIMEOUT (06 R170): 2 ms without the second write. -/
def execPairingTimeout (i : Nat) (s : State) : Host.Outcome State Fault Refusal :=
  let v := s.vault
  match v.pairs.find? (fun p => p.id == i) with
  | none => .next s
  | some p =>
    .next ((s.withVault { v with pairs := v.pairs.filter (fun q => q.id != i) }).mismatch p.desc0 p.desc1 (fld p.desc2 0 3))

/-! Random words (10 R306, 06 R177). -/

/-- A word from DRB instance 1 for a reader of kiln k: word n of the stream of the reader's tag, or fresh bits. None while
the instance stalls. -/
def State.rndWord (s : State) (k : Nat) (tag : Nat) : Option Word × State :=
  if !s.drbServes 1 then (none, s)
  else
    let s0 := s.drbUse 1
    let fresh := (some (Config.freeWord s0.free), s0.drawn)
    if tag == 0 then fresh
    else
      match s0.kiln.rnds.find? (fun r => r.tag == tag) with
      | some r =>
        let i := tget r.pos k 0
        if r.at_ + 2000000 < s0.dev.mono || 256 ≤ i then fresh
        else (some (Config.freeWord (r.base + i)), s0.withKiln { s0.kiln with rnds := s0.kiln.rnds.map (fun q => if q.tag == tag then { q with pos := tput q.pos k (i + 1) } else q) })
      | none =>
        let r : Rnd := { tag := tag, at_ := s0.dev.mono, base := s0.free, pos := [(k, 1)] }
        (some (Config.freeWord s0.free), { s0.withKiln { s0.kiln with rnds := s0.kiln.rnds ++ [r] } with free := s0.free + 256 })

/-- The PAIR tag of a reader: of a sealed context's job, else none. -/
def State.tagOf (s : State) (a : Agent) : Nat :=
  match a with
  | .engine n => match s.sealedJob n.val with | some j => j.pair | none => 0
  | _ => 0

/-- RND_DATA_READ (10 R306). -/
def execRndDataRead (k : Fin 24) (a : Agent) (s : State) : Host.Outcome State Fault Refusal :=
  match s.rndWord k.val (s.tagOf a) with
  | (some w, s1) => .next (s1.emit (.read (w.setWidth 64)))
  | (none, s1) => .next s1

end Sys2Proof.Machine
end

