-- ==== Sys2Proof/Machine/Store.lean ====
section
/-! DEFINITION. The SPI NOR records, engine images and their loading (06 R147, 13 R355 to R358, 10 R307, R308). -/
namespace Sys2Proof.Machine

open Crypto

/-! Identity and anchor records (13 R356). -/

/-- KSTORE of a DUK (06 R147). -/
def kstore (duk : List Byte) : List Byte :=
  hkdfExpand true (hkdfExtract (List.replicate 48 0) duk) [0x4F, 0x5A, 0x4B, 0x53] 32

/-- Base of the identity records and of the anchor records. -/
def norIdent : Nat := spNor + 0x2000000
def norAnchor : Nat := spNor + 0x2010000

/-- The wrapping key of a DUK slot: none when the slot is blank or retired. -/
def State.wrapKey (s : State) (slot : Nat) : Option (List Byte) :=
  if s.vault.dukRetired.contains slot then none
  else (s.vault.duk.find? (fun e => e.1 == slot)).map (fun e => kstore e.2)

/-- SEQ and plaintext of the record copy at an address, when its header and tag are good. -/
def State.recAt (s : State) (a magic : Nat) : Option (Nat × List Byte) :=
  let h := s.mget a 28
  let len := leNat (cut h 12 4)
  if leNat (h.take 4) != magic || leNat (cut h 4 2) != 1 || 0x8000 < len + 44 then none
  else
    match s.wrapKey (leNat (cut h 6 1)) with
    | none => none
    | some k =>
      let (pt, ok) := gcmOpen k (cut h 16 12) h (s.mget (a + 28) len) (s.mget (a + 28 + len) 16)
      if ok then some (leNat (cut h 8 4), pt) else none

/-- The plaintext in force: the valid copy with the higher SEQ. -/
def State.loadRec (s : State) (a magic : Nat) : Option (List Byte) :=
  match s.recAt a magic, s.recAt (a + 0x8000) magic with
  | some (n, p), some (m, q) => if m ≤ n then some p else some q
  | some (_, p), none => some p
  | none, some (_, q) => some q
  | none, none => none

/-- Rewrites the copy that does not hold the higher valid SEQ. The IV is 12 free bytes. -/
def State.writeRec (s : State) (a magic : Nat) (pt : List Byte) : State :=
  match s.wrapKey s.vault.dukCur with
  | none => s
  | some k =>
    let n := (s.recAt a magic).map Prod.fst
    let m := (s.recAt (a + 0x8000) magic).map Prod.fst
    let (tgt, seq) := match n, m with
      | some n, some m => if m ≤ n then (a + 0x8000, n + 1) else (a, m + 1)
      | some n, none => (a + 0x8000, n + 1)
      | none, some m => (a, m + 1)
      | none, none => (a, 1)
    let iv := beBytes 12 (Config.freeNat s.free)
    let h := leBytes 4 magic ++ [1, 0, by8 s.vault.dukCur, 0] ++ leBytes 4 seq ++ leBytes 4 pt.length ++ iv
    let (ct, tag) := gcmSeal k iv h pt
    (s.drawn.drbUse 0).mput tgt (h ++ ct ++ tag)

/-- Stores the identity record (13 R356). -/
def State.saveIdent (s : State) : State :=
  s.writeRec norIdent 0x44495A4F (fit 3076 s.vault.idk ++ leBytes 4 s.vault.cert.length ++ s.vault.cert)

/-- The anchors of the eight groups, zeros for an empty one. -/
def State.anchorBytes (s : State) : List Byte :=
  (List.range 8).flatMap (fun g => fit 2017 (tget s.vault.anchors g []))

/-- Stores the anchor record with the lock. -/
def State.saveAnchors (s : State) : State :=
  s.writeRec norAnchor 0x4E415A4F ([by8 (b2n (bit s.vault.policy 1)), 0, 0, 0] ++ s.anchorBytes)

/-- HC1 loads the identity and the anchors into the vault; a record that fails is absent (06 R147, 13 R378). -/
def State.loadStores (s : State) : State :=
  let v := s.vault
  let id := s.loadRec norIdent 0x44495A4F
  let an := s.loadRec norAnchor 0x4E415A4F
  let v1 := match id with
    | some p => { v with idk := p.take 3076, cert := cut p 3080 (leNat (cut p 3076 4)) }
    | none => { v with idk := [], cert := [] }
  let v2 := match an with
    | some p =>
      let gs := (List.range 8).filter (fun g => (cut p (4 + 2017 * g) 2017).any (· != 0))
      { v1 with anchors := gs.map (fun g => (g, cut p (4 + 2017 * g) 2017)), policy := setFld v1.policy 1 1 (leNat (p.take 1)) }
    | none => { v1 with anchors := [] }
  let s1 := (s.withVault v2).setRegFld (pVlt + 0x100) 0 1 1
  (s1.setRegFld (pBoot + 0x104) 5 1 (b2n id.isNone)).setRegFld (pBoot + 0x104) 6 1 (b2n an.isNone)

/-! Signing keys (13 R358). -/

/-- The hash that a KEY_INDEX is checked against: none for a revoked or unprogrammed key. -/
def State.keyHash (s : State) (i : Nat) : Option (List Byte) :=
  if i < 3 then some (Config.romKeyHash i)
  else if 7 ≤ i || s.boot.intRevoked.contains (i - 3) then none
  else (s.boot.intKeys.find? (fun e => e.1 == i - 3)).map Prod.snd

/-- A file that ends with its public key and signature verifies under a KEY_INDEX. -/
def State.signedOk (s : State) (i : Nat) (f : List Byte) : Bool :=
  let body := f.take (f.length - 64)
  let pub := body.drop (body.length - 65)
  decide (129 ≤ f.length) && s.keyHash i == some (sha256 pub) &&
    Config.ecdsaVerify pub body (f.drop (f.length - 64))

/-! Engine images (10 R307, R308). -/

/-- Word and halfword of a file. -/
def le32At (f : List Byte) (o : Nat) : Nat := leNat (cut f o 4)
def le16At (f : List Byte) (o : Nat) : Nat := leNat (cut f o 2)

/-- Segment i of an image: kind, address, length, file offset. -/
def imgSeg (f : List Byte) (i : Nat) : Nat × Nat × Nat × Nat :=
  (leNat (cut f (0x20 + 16 * i) 1), le32At f (0x24 + 16 * i), le32At f (0x28 + 16 * i), le32At f (0x2C + 16 * i))

/-- A segment lies inside its memory. -/
def State.segOk (s : State) (g : Nat × Nat × Nat × Nat) : Bool :=
  let (kind, a, n, _) := g
  if kind == 0 then decide (a + n ≤ 0x8000)
  else if kind == 1 then decide (0x10000 ≤ a) && decide (a + n ≤ 0x20000)
  else if kind == 2 then decide (0x140000 ≤ a) && decide (a + n ≤ 0x200000)
  else if kind == 3 then decide (0x40000000 ≤ a) && decide (a - 0x40000000 + n ≤ s.backing)
  else false

/-- The image is loaded, not refused (10 R308, 13 R358). -/
def State.imgOk (s : State) (f : List Byte) (id floor : Nat) (dig : List Byte) : Bool :=
  let key := le16At f 0x16
  le32At f 0 == 0x49455A4F && le16At f 4 == 1 && le16At f 6 == 0xB0 && le32At f 8 == id &&
    decide (floor ≤ le32At f 0x0C) && (!nbit (le16At f 0x10) 0 || key == 2) && s.signedOk key f &&
    (sha256 f).take 8 == dig && (List.range (le16At f 0x12)).all (fun i => s.segOk (imgSeg f i))

/-- The engines an image goes to. -/
def Img.engines_ (im : Img) : List Nat :=
  (List.range 192).filter (fun n => nbit im.kilns (n / 8) && nbit im.engines (n % 8))

/-- An engine leaves halt: its caches and prefetch queue are invalid. -/
def State.release (s : State) (n : Nat) : State :=
  let s1 := (s.setRegFld (pEng n + 0x104) 0 1 0).icacheFlush n
  s1.setEng n { s1.eng n with dcache := [], bundle := {}, fixed := bit (s1.reg (pBoot + 0x114)) 0 }

/-- Copies the segments of an image that pass a filter on kind into an engine's map. -/
def State.putSegs (s : State) (im : Img) (n : Nat) (kinds : List Nat) : State :=
  (List.range (le16At im.bytes 0x12)).foldl (fun s i =>
    let (kind, a, len, off) := imgSeg im.bytes i
    if !kinds.contains kind then s
    else match s.engAddr n a with
      | some m => s.mput m (cut im.bytes off len)
      | none => s) s

/-- Loads an image into those of its engines that a predicate picks; kiln segments once per kiln. -/
def State.putImg (s : State) (im : Img) (pick : Nat → Bool) (kilnToo backingToo : Bool) : State :=
  let es := im.engines_.filter pick
  let s1 := es.foldl (fun s n => (s.putSegs im n [0, 1]).release n) s
  let ks := if kilnToo then (List.range 24).filter (fun k => nbit im.kilns k && pick (8 * k)) else []
  let s2 := ks.foldl (fun s k => s.putSegs im (8 * k) [2]) s1
  if backingToo then s2.putSegs im 0 [3] else s2

/-- Loads every retained image into the engines that a predicate picks (10 R308). -/
def State.putImgs (s : State) (pick : Nat → Bool) (kilnToo backingToo : Bool) : State :=
  s.boot.images.foldl (fun s im => s.putImg im pick kilnToo backingToo) s

/-- The engine store in SPI NOR. -/
def norStore : Nat := spNor + 0x1000000

/-- Reads the boot configuration record and takes the images that are not refused (13 R358, R362). A record that is not
valid names no image. -/
def State.readStore (s : State) : State :=
  let h := s.mget norStore 16
  let n := le16At h 6
  let key := le16At h 0x0C
  let rec_ := s.mget norStore (16 + 32 * n + 129)
  if le32At h 0 != 0x43425A4F || le16At h 4 != 1 || 64 < n || key < 2 || 6 < key || !s.signedOk key rec_ then
    (s.withBoot { s.boot with images := [] }).setRegFld (pBoot + 0x104) 8 8 0
  else
    let es := (List.range n).map (fun i => cut rec_ (16 + 32 * i) 32)
    let file := fun e => s.mget (norStore + le32At e 0) (le32At e 4)
    let ok := fun e => decide (le32At e 0 + le32At e 4 ≤ 0x1000000) && s.imgOk (file e) (le32At e 8) (le32At e 12) (cut e 24 8)
    let good := es.filter ok
    let s1 := s.withBoot { s.boot with images := good.map (fun e => { bytes := file e, kilns := le32At e 16 % 2 ^ 24, engines := leNat (cut e 20 1) }) }
    (s1.setRegFld (pBoot + 0x104) 8 8 good.length).setRegFld (pBoot + 0x104) 4 1 (b2n (good.length != es.length))

/-! Firmware images (13 R357, R360, R361). -/

/-- Base of a firmware slot in SPI NOR. -/
def norSlot (i : Nat) : Nat := spNor + 0x800000 * i

/-- A firmware image's sections: kind, ENC, length, file offset (13 R357). -/
def fwSec (f : List Byte) (i : Nat) : Nat × Nat × Nat × Nat :=
  let o := 0x20 + 48 * i
  (leNat (cut f o 1), leNat (cut f (o + 1) 1), le32At f (o + 8), le32At f (o + 12))

/-- Whether a slot's header keeps the format of R357, and the length of its image. -/
def State.fwFormat (s : State) (i : Nat) : Bool × Nat :=
  let f := s.mget (norSlot i) (0x20 + 48 * 8)
  let n := le16At f 0x10
  let secs := (List.range n).map (fwSec f)
  let count := fun k => (secs.filter (fun x => x.1 == k)).length
  let last := secs.foldl (fun a x => max a (x.2.2.1 + x.2.2.2)) (0x20 + 48 * n)
  let encOk := secs.all (fun x => (x.2.1 == 1) == (x.1 == 1 || x.1 == 2) && x.2.1 < 2 && x.1 < 4)
  (le32At f 0 == 0x57465A4F && le16At f 4 == 1 && le16At f 6 == 0xB0 && decide (1 ≤ le32At f 8) && decide (le32At f 8 ≤ 64) &&
    decide (2 ≤ n) && decide (n ≤ 8) && count 0 == 1 && count 1 == 1 && count 2 == 1 && decide (count 3 ≤ 1) && encOk &&
    decide (last + 129 ≤ 0x800000), last + 129)

/-- The image of a slot that may boot (13 R360): its header is valid, its version at least the floor, and its signature verifies. -/
def State.slotImage (s : State) (i : Nat) : Option (List Byte) :=
  if (s.fwFormat i).1 && decide (s.boot.fwFloor ≤ (s.mword (norSlot i + 8)).toNat) && s.signedOk 0 (s.mget (norSlot i) (s.fwFormat i).2) then
    some (s.mget (norSlot i) (s.fwFormat i).2)
  else none

/-- FW_VER and SEQ of an image. -/
def fwVer (f : List Byte) : Nat := le32At f 8
def fwSeq (f : List Byte) : Nat := le32At f 0x0C

/-- The slot that the ROM boots (13 R360): the candidate with the higher FW_VER, then the higher SEQ, then slot A. -/
def bootSlot (a b : Option (List Byte)) : Option (Nat × List Byte) :=
  match a, b with
  | some x, some y =>
    if decide (fwVer x < fwVer y) || (fwVer x == fwVer y && decide (fwSeq x < fwSeq y)) then some (1, y) else some (0, x)
  | some x, none => some (0, x)
  | none, some y => some (1, y)
  | none, none => none

/-- Number of the section of a kind in an image. -/
def fwFind (f : List Byte) (kind : Nat) : Option Nat := (List.range (le16At f 0x10)).find? (fun i => (fwSec f i).1 == kind)

/-- The patch section of an image, if it has one. -/
def fwPatch (f : List Byte) : Option (List Byte) := (fwFind f 3).map (fun i => cut f (fwSec f i).2.2.2 (fwSec f i).2.2.1)

/-- The firmware of pair h in an image, decrypted under the patch key (13 R357), with its load address: none where the tag fails. -/
def fwOpen (f : List Byte) (h : Nat) : Option (Nat × List Byte) :=
  match fwFind f (1 + h) with
  | none => none
  | some i =>
    let o := 0x20 + 48 * i
    let (_, _, n, off) := fwSec f i
    let (pt, ok) := gcmOpen Config.patchKey (cut f (o + 16) 12) (f.take 0x20 ++ cut f o 16) (cut f off n) (cut f (o + 28) 16)
    if ok then some (le32At f (o + 4), pt) else none

/-- The firmware of a pair goes into its SRAM, as far as it lies within the 2 MiB. -/
def State.putFw (s : State) (h : Nat) : Option (Nat × List Byte) → State
  | some (a, pt) => if a + pt.length ≤ 0x200000 then s.mput (spHarbour h + a) pt else s
  | none => s

/-! The microcode patch (09 R283, R285, 13 R362). -/

/-- Bytes of the match entries and of the micro-words of a patch image (09 R284). -/
def patchMatch (p : List Byte) : Nat := 4 * le16At p 0x0E
def patchWords (p : List Byte) : Nat := 16 * le16At p 0x0C

/-- The plaintext of a patch image, and whether its tag verifies. -/
def patchOpen (p : List Byte) : List Byte × Bool :=
  let n := patchMatch p + patchWords p
  Crypto.gcmOpen Config.patchKey (cut p 0x10 12) (p.take 0x20) (cut p 0x20 n) (cut p (0x20 + n) 16)

/-- The checks of a patch image (09 R285). -/
def State.patchOk (s : State) (p : List Byte) : Bool :=
  le32At p 0 == 0x50555A4F && le16At p 4 == 1 && le16At p 6 == 0xB0 && decide (s.boot.patchFloor ≤ le32At p 8) &&
    decide (1 ≤ le16At p 0x0C) && decide (le16At p 0x0C ≤ 256) && decide (le16At p 0x0E ≤ 32) &&
    p.length == 0x20 + patchMatch p + patchWords p + 145 && s.signedOk 1 p && (patchOpen p).2

/-- Parity bits of the four 28-bit quarters of a micro-word, which the hardware computes as it writes the word (09 R281, R284). That
they are even is the model's choice (log entry 88). -/
def wordParity (w : List Byte) : Byte :=
  by8 ((List.range 4).foldl (fun a q => a + 2 ^ q * ((List.range 28).foldl (fun x i => x + b2n (nbit (leNat w) (28 * q + i))) 0 % 2)) 0)

/-- Writes the match entries, the words and their parity into the patch RAM of a kiln (log entry 88). -/
def putPatch (m : List Host.Cell) (k : Nat) (p : List Byte) : List Host.Cell :=
  let b := (patchOpen p).1
  let w := b.drop (patchMatch p)
  let par := (List.range (le16At p 0x0C)).map (fun i => wordParity (cut w (16 * i) 14))
  memPut (memPut (memPut m (spPatch k) (b.take (patchMatch p))) (spPatch k + 0x1000) (w.take (patchWords p))) (spPatch k + 0x2000) par

/-- The patch word that the sequencer of a kiln fetches for a micro-address: of patch RAM above ROM, and for a ROM address that a
valid match entry holds (09 R283). None: the ROM word, which the manual does not give. -/
def State.patchWord (s : State) (k a : Nat) : Option Nat :=
  let word := fun (i : Nat) => leNat (memBytes s.mem (spPatch k + 0x1000 + 16 * i) 14)
  let entry := fun (i : Nat) => leNat (memBytes s.mem (spPatch k + 4 * i) 4)
  if 2048 ≤ a then some (word (a - 2048))
  else ((List.range 32).find? (fun i => nbit (entry i) 31 && entry i % 2048 == a)).map (fun i => word (entry i / 2 ^ 16 % 256))

/-- Loads the retained patch into a kiln and locks it; an absent patch counts as an empty one. Locked patch RAM ignores writes. -/
def State.patchKiln (s : State) (k : Nat) : State :=
  let s1 := match s.boot.patch with
    | some p => if s.kiln.patchLock.contains k then s else s.withMem (putPatch s.mem k p)
    | none => s
  s1.withKiln { s1.kiln with patched := ins s1.kiln.patched k, patchLock := ins s1.kiln.patchLock k }

/-- Loads the patch into a kiln again, unless the load of this boot failed (13 R362). -/
def State.repatch (s : State) (k : Nat) : State := if s.patchFailed then s else s.patchKiln k

/-- Clears a kiln's patch RAM, match table and lock. -/
def State.unpatch (s : State) (k : Nat) : State :=
  (s.withKiln { s.kiln with patched := s.kiln.patched.filter (· != k), patchLock := s.kiln.patchLock.filter (· != k) }).withMem
    (memErase s.mem (spPatch k) (spPatch (k + 1)))

end Sys2Proof.Machine
end

