-- ==== Sys2Proof/Machine/Mail.lean ====
section
/-! DEFINITION. The mailbox: slots, responses and what a reset of a channel's firmware does (13 R365 to R367), and the
harbour pairs' reset state (13 R351 to R353). -/
namespace Sys2Proof.Machine

/-- A harbour pair at the start of its firmware: TVEC, and the pc, at the ROM entry, whose address the manual does not
state and which stands at 0 (log entry 2). -/
def Harbour.initial : Harbour := { regs := Regs.zero, pc := 0 }

def State.hc (s : State) (h : Nat) : Harbour := tget s.harbours h Harbour.initial
def State.setHc (s : State) (h : Nat) (x : Harbour) : State := { s with harbours := tput s.harbours h x }

/-- A CSR of a pair (13 R353); the counters and read-only registers apart. -/
def csrReset (h n : Nat) : Word :=
  if n == 0 then 1 else if n == 10 then w32 h else if n == 12 then 1 else 0

def State.csr (s : State) (h n : Nat) : Word := tget (s.hc h).csr n (csrReset h n)
def State.setCsr (s : State) (h n : Nat) (v : Word) : State :=
  s.setHc h { s.hc h with csr := tput (s.hc h).csr n v }

/-- The cores of a pair run in lockstep: LS_STAT shows it, with the recoveries (13 R353). -/
def State.lockUp (s : State) (h : Nat) : State := s.setCsr h 11 (w32 (1 + 256 * ((s.hc h).recoveries % 256)))

/-- Boot stage (13 R359). -/
def State.stage (s : State) : Nat := fld (s.reg (pBoot + 0x100)) 0 4

/-- Changes the boot stage. -/
def State.setStage (s : State) (n : Nat) : State :=
  if s.stage == n then s else (s.setRegFld (pBoot + 0x100) 0 4 n).raise pBoot 0

/-- HRB registers of channel c. -/
def pCh (c : Nat) : Nat := pHrb + 0x100 + 0x20 * c

/-- The channel's firmware serves (13 R352, R359, R379). -/
def State.alive (s : State) (c : Nat) : Bool :=
  s.hcUp c && !(s.hc c).halted && s.dev.ember.isNone && !s.dev.lhOnly && decide (s.dev.dstate ≠ .cold) &&
    (s.stage == 5 || s.stage == 6 || (s.stage == 0xE && c == 0))

/-- Address of a request or response slot in the mailbox BAR. -/
def reqSlot (c i : Nat) : Nat := spMailbox + 0x800000 * c + 0x10000 * (i % 32)
def rspSlot (c i : Nat) : Nat := spMailbox + 0x800000 * c + 0x200000 + 0x10000 * (i % 32)

/-- REQ_HEAD moves on, past a request that the host has posted. -/
def State.headOn (s : State) (c : Nat) : State :=
  let tail := fld (s.reg (pCh c)) 0 6
  let head := fld (s.reg (pCh c + 4)) 0 6
  let next := w32 ((head + 1) % 64)
  (if tail == head then s.setReg (pCh c) next else s).setReg (pCh c + 4) next

/-- Writes a response into the slot of the request at the head, and advances REQ_HEAD. -/
def State.respond (s : State) (c code : Nat) (tag : Half) (status reason : Nat) (payload : List Byte) : State :=
  let head := fld (s.reg (pCh c + 4)) 0 6
  let bytes := [by8 code, by8 status] ++ leBytes 2 tag.toNat ++ leBytes 4 payload.length ++ [by8 reason] ++
    List.replicate 7 0 ++ payload
  (((s.mput (rspSlot c head) bytes).emit (.response c (head % 32) bytes)).headOn c).raise pHrb c

/-- A reset of a channel's firmware begins: the request at the head is the one being carried out. -/
def State.mailStop (s : State) (c : Nat) : State :=
  if s.alive c && fld (s.reg (pCh c)) 0 6 != fld (s.reg (pCh c + 4)) 0 6 then
    s.withBoot { s.boot with inSvc := ins s.boot.inSvc c }
  else s

/-- The firmware is back: the interrupted request is answered with REASON 0x84, or a ZEROIZE carried out again, and
MB_EPOCH counts the reset (13 R367). -/
def State.mailBack (s : State) (c : Nat) : State :=
  let s1 := s.setReg (pCh c + 8) (w32 (((s.reg (pCh c + 8)).toNat + 1) % 65536))
  if !s.boot.inSvc.contains c then s1
  else
    let s2 := s1.withBoot { s1.boot with inSvc := s1.boot.inSvc.filter (· != c) }
    let a := reqSlot c (fld (s.reg (pCh c + 4)) 0 6)
    let code := (memRead s.mem a).toNat
    if c == 1 && code == 0x48 then (s2.headOn 1).zeroize_ 3 false
    else s2.respond c code (BitVec.ofNat 16 (leNat (s.mget (a + 2) 2))) 1 0x84 []

end Sys2Proof.Machine
end

