-- ==== Sys2Proof/Machine/Reset.lean ====
section
/-! DEFINITION. Resets, boot, clocks and supplies: cold and Ember resets, unit resets, boot stages, clock monitors,
temperature, rails and lockstep recoveries (13 R352, R359 to R362, 14 R384, 15 R404 to R411, R421 to R426, R464, 16 R432,
R437, R438, 17 R443 to R445, R460). -/
namespace Sys2Proof.Machine

open Crypto

/-! Cold reset (15 R421, R422). -/

/-- The device in COLD: what no power holds is gone; eFuse, SPI NOR and what left the device stay. -/
def State.coldReset (s : State) (code : Nat) : State :=
  let v := s.vault
  let b := s.boot
  let r := State.reset
  { r with dev := { r.dev with h48 := s.dev.h48, dstate := .cold, resetN := true, perstN := s.dev.perstN }, regs := [(pRst + 0x10C, w32 code)], mem := s.mem.filter (fun c => decide (spNor ≤ c.1) && decide (c.1 < spMailbox)), vault := { r.vault with duk := v.duk, dukRetired := v.dukRetired, dukCur := v.dukCur, draws := v.draws }, boot := { fuses := b.fuses, intKeys := b.intKeys, intRevoked := b.intRevoked, fwFloor := b.fwFloor, patchFloor := b.patchFloor }, free := s.free, out := s.out, pending := s.pending }

/-- POWER_ON (15 R422): power-on, or RESET_N asserted. -/
def execPowerOn (k : ColdKind) (s : State) : Host.Outcome State Fault Refusal :=
  .next (s.coldReset (match k with | .powerOn => 1 | .resetN => 2))

/-- LIGHTHOUSE_POWER_LOSS (17 R445): a loss of power. -/
def execLighthousePowerLoss (s : State) : Host.Outcome State Fault Refusal := .next (s.coldReset 1)

/-- The clocks have locked and the rails are in range (15 R407, R422, 17 R444). -/
def State.clocksUp (s : State) : State :=
  (((s.setReg (pClk + 0x100) 0x3F).setReg (pClk + 0x104) 0xFFFFFF).setReg (pLhs + 0x10C) 0x1FFF)

/-- RESET_N_RELEASE (15 R422, 13 R359, 17 R460). -/
def execResetNRelease (s : State) : Host.Outcome State Fault Refusal :=
  if s.dev.dstate ≠ .cold then .next s
  else
    let drv := (List.range 4).map (fun i => Config.freeBool (s.free + i))
    let s1 := { s with free := s.free + 4 }
    let s2 := (s1.withDev { s1.dev with resetN := false, extest := none, startHold := true, tampDriven := drv }).clocksUp
    let s3 := s2.setDState .boot
    .next (if s3.dev.zeroBall then (s3.withDev { s3.dev with zeroBall := false }).zeroize_ 1 false else s3)

/-- ASXON_START_HOLD_END (04 R115). -/
def execAsxonStartHoldEnd (s : State) : Host.Outcome State Fault Refusal :=
  if s.dev.dstate = .cold then .next s
  else .next (s.withDev { s.dev with startHold := false }).keyScanAll

/-! Boot (13 R359 to R364). -/

/-- Lifecycle state of the fuses (13 R364). -/
def lifeOf (fuses : Nat) : Nat := if nbit fuses 1 then 3 else if nbit fuses 0 then 2 else 1

/-- The lifecycle in force. -/
def State.setLife (s : State) (l : Nat) : State := s.withDev { s.dev with lifecycle := l }

/-- Work of the ROM at a cold boot: lifecycle, debug gate, DRB start. -/
def State.romDone (s : State) : State :=
  let l := lifeOf s.boot.fuses
  let s1 := s.clocksUp.setLife l
  let s2 := (s1.setRegFld (pBoot + 0x100) 9 3 l).setReg (pBoot + 0x11C) (w32 (b2n (l != 2)))
  let s3 := s2.setReg (pBoot + 0x10C) (w32 (s2.boot.fwFloor + 256 * s2.boot.patchFloor))
  (((s3.withVault { s3.vault with drbSrc := true }).lockUp 0).lockUp 1).setStage 2

/-- Slot selection (13 R360): the whole image is hashed before a section executes. -/
def State.selectSlot (s : State) : State :=
  let a := s.slotImage 0
  let b := s.slotImage 1
  let s1 := (s.setRegFld (pBoot + 0x104) 0 1 (b2n a.isNone)).setRegFld (pBoot + 0x104) 1 1 (b2n b.isNone)
  match bootSlot a b with
  | some (n, f) =>
    let s2 := s1.withBoot { s1.boot with fw := f, fwDigest := sha256 f, patch := fwPatch f }
    ((s2.setRegFld (pBoot + 0x100) 8 1 n).setReg (pBoot + 0x108) (w32 (fwVer f))).setStage 3
  | none => (s1.setRegFld (pBoot + 0x104) 7 1 1).setStage 0xE

/-- The firmware of both pairs is decrypted into their SRAM, and its digests are latched (13 R359, R361). -/
def State.loadFw (s : State) : State :=
  let a := fwOpen s.boot.fw 0
  let b := fwOpen s.boot.fw 1
  let dig := fun (x : Option (Nat × List Byte)) => match x with | some y => sha256 y.2 | none => []
  let s1 := (s.putFw 0 a).putFw 1 b
  s1.withBoot { s1.boot with pairDigest := [dig a, dig b] }

/-- The import keys of a cold boot (06 R171): none before DRB serves (R176). -/
def State.makeImk (s : State) : State :=
  let pub := fit 1633 (Config.xchPublic s.free 2)
  let priv := (List.range 3200).map (fun i => Config.freeByte (s.free + i))
  let id := (sha256 pub).take 8
  let s1 := ({ s with free := s.free + 3200 } : State).drbUse 0
  if !s.drbServes 0 then s
  else ((s1.withVault { s1.vault with imkPub := pub, imkPriv := priv }).setReg (pVlt + 0x108) (wordAt id 0)).setReg
    (pVlt + 0x10C) (wordAt id 1)

/-- Every kiln is patched, unless the patch failed, and in service, but one with an error in ROM (09 R282); fixed-count mode goes
off, and the images are loaded (13 R359, R363). -/
def State.loadKilns (s : State) : State :=
  let s1 := (List.range 24).foldl State.repatch s
  let s2 := (List.range 24).foldl (fun s k => s.setReg (pKln k + 0x104) (if s.kiln.parity.contains k then 0 else 3)) (s1.setReg (pBoot + 0x114) 0)
  s2.putImgs (fun _ => true) true true

/-- Loads the patch of a cold boot (09 R285, 13 R362). -/
def State.loadPatch (s : State) : State :=
  match s.boot.patch with
  | none => (s.setRegFld (pBoot + 0x104) 2 1 1).loadKilns
  | some p =>
    if s.patchOk p then (s.setReg (pBoot + 0x110) (w32 (le32At p 8))).loadKilns
    else (((s.withBoot { s.boot with patch := none }).setRegFld (pBoot + 0x104) 3 1 1).raise pBoot 2).loadKilns

/-- Work of LOAD at a cold boot. -/
def State.loadDone (s : State) (o : BootOutcome) : State :=
  let s1 := (s.loadFw.loadStores.makeImk).readStore
  let s2 := (s1.loadPatch.setReg (pBoot + 0x118) o.bootMs).setStage 5
  (s2.raise pBoot 1).keyScanAll

/-- Work of LOAD at an Ember boot: everything from the retained copies (13 R361). -/
def State.emberLoad (s : State) : State := s.loadKilns

/-- The Ember reset running was entered from a state other than BOOT. -/
def State.warmBoot (s : State) : Bool :=
  match s.dev.ember with
  | some e => decide (e.from_ ≠ .boot)
  | none => false

/-- BOOT_STAGE_DONE (13 R359). -/
def execBootStageDone (o : BootOutcome) (s : State) : Host.Outcome State Fault Refusal :=
  if s.dev.dstate = .cold || s.dev.lhOnly then .next s
  else if s.warmBoot then
    if s.stage == 1 then .next (((s.lockUp 0).lockUp 1).setStage 4)
    else if s.stage == 4 then .next (((s.emberLoad.setReg (pBoot + 0x118) o.bootMs).setStage 6).raise pBoot 1)
    else .next s
  else if s.stage == 1 then .next (if o.stageFailed then s.setStage 0xF else s.romDone)
  else if s.stage == 2 then .next s.selectSlot
  else if s.stage == 3 then .next (s.setStage 4)
  else if s.stage == 4 then .next (s.loadDone o)
  else .next s

/-! The host interface (14 R384). -/

/-- Offsets of the PCI page and the ring pages. -/
def isPciOff (off : Nat) : Bool :=
  (decide (pPci ≤ off) && decide (off < pPci + 0x3000)) || (decide (pRgrp 0 ≤ off) && decide (off < pRing 64))

/-- Event and fault bits of a page's header. -/
def isHeader (off : Nat) : Bool := let o := off % 0x1000; decide (0x10 ≤ o) && decide (o ≤ 0x24) && decide (off < 0x1000000)

/-- Unit reset of the host interface: PCI pages, MSI-X, rings and HOST_ROUTE clear; event state and FW_ROUTE stay. -/
def State.hostReset (s : State) : State :=
  let s1 := s.withRegs (s.regs.filter (fun e => !isPciOff e.1 || isHeader e.1))
  let s2 := { s1 with cnt := s1.cnt.filter (fun e => !isPciOff e.1), latch := s1.latch.filter (fun e => !isPciOff e.1) }
  s2.withPci { fwRoutes := s2.pci.fwRoutes }

/-- PERST_N_ASSERT. -/
def execPerstNAssert (s : State) : Host.Outcome State Fault Refusal :=
  let s1 := s.withDev { s.dev with perstN := true }
  .next (if s.dev.dstate = .cold then s1 else s1.hostReset)

/-- PERST_N_RELEASE (15 R422): link training may start. -/
def execPerstNRelease (s : State) : Host.Outcome State Fault Refusal :=
  .next (s.withDev { s.dev with perstN := false })

/-- PCIE_LINK_DOWN: without hot reset, a unit reset of the host interface. The change of DL_UP is an event (14 R403). -/
def execPcieLinkDown (s : State) : Host.Outcome State Fault Refusal :=
  if s.dev.dstate = .cold then .next s
  else
    let was := bit (s.reg (pPci + 0x104)) 8
    .next (if was then s.hostReset.raise pPci 5 else s.hostReset)

/-- FUNCTION_LEVEL_RESET: the link itself stays. -/
def execFunctionLevelReset (s : State) : Host.Outcome State Fault Refusal :=
  if s.dev.dstate = .cold then .next s
  else
    let l := s.reg (pPci + 0x104)
    .next (if bit l 8 then s.hostReset.setReg (pPci + 0x104) l else s.hostReset)

/-- LINK speeds are coded 1 to 5; 0 is no speed. -/
def linkWord (speed : Fin 6) (width : Fin 5) : Word := w32 (speed.val + 8 * width.val + 256)

/-- PCIE_LINK_UP (14 R403, 15 R422): speed and width as trained; a changed value is an event. -/
def execPcieLinkUp (speed : Fin 6) (width : Fin 5) (s : State) : Host.Outcome State Fault Refusal :=
  if s.dev.dstate = .cold || s.dev.perstN || s.dev.lhOnly then .next s
  else
    let w := linkWord speed width
    .next (if s.reg (pPci + 0x104) == w then s else (s.setReg (pPci + 0x104) w).raise pPci 5)

/-- PCIE_CONFIG_WRITE (14 R380, R381, R397): MSI-X Enable, Function Mask, Bus Master Enable and the power state. -/
def execPcieConfigWrite (msixEn fnMask busMaster d3hot : Bool) (s : State) : Host.Outcome State Fault Refusal :=
  let p := s.pci
  let s1 := s.withPci { p with msixEn := msixEn, fnMask := fnMask, busMaster := busMaster, d3hot := d3hot }
  let open_ := msixEn && busMaster && !(p.msixEn && p.busMaster)
  let unmask := p.fnMask && !fnMask
  .next ((List.range 256).foldl (fun s v =>
    let m := bit (tget s.pci.table v {}).ctrl 0
    if s.cause v && (open_ || (unmask && !m)) then s.makeDue v else s) s1)

/-! Unit resets (15 R425, R426). -/

/-- UNIT_RESULT of a unit reset: 0 done, 1 refused, 2 in progress. -/
def State.unitResult (s : State) (type index code : Nat) : State :=
  s.setReg (pRst + 0x108) (w32 (type + 256 * index + 65536 * code))

/-- A unit reset write that is refused or ignored. -/
def State.unitRefuse (s : State) (type index : Nat) : State :=
  ((s.unitResult type index 1).bump (pRst + 0x11C)).raise pRst 2

/-- Registers of a page go back to their reset values, the event and fault bits apart. -/
def State.dropPage (s : State) (base : Nat) : State :=
  let here := fun (off : Nat) => decide (base ≤ off) && decide (off < base + 0x1000) && !isHeader off
  { s.unhold base (base + 0x1000) with regs := s.regs.filter (fun e => !here e.1), cnt := s.cnt.filter (fun e => !here e.1), latch := s.latch.filter (fun e => !here e.1) }

/-- An engine and its memories as after reset. -/
def State.clearEngine (s : State) (n : Nat) : State :=
  let s1 := { s with engines := tdel s.engines n, fronts := tdel s.fronts n }
  let s2 := s1.withMem (memErase (memErase s1.mem (spIram n) (spIram (n + 1))) (spDram n) (spDram (n + 1)))
  ((s2.dropPage (pEng n)).unhold (0x1400000 + 0x1000 * n) (0x1401000 + 0x1000 * n)).dropKp n

/-- A kiln's commons as after reset: queues, DMA, sessions, pairing and patch go. -/
def State.clearKiln (s : State) (k : Nat) : State :=
  let s1 := (List.range 4).foldl (fun s h => s.dropHash k h) s
  let ki := s1.kiln
  let s2 := s1.withKiln { ki with dma := ki.dma.filter (fun e => e.1 / 8 != k), recs := ki.recs.filter (fun e => e.1 / 4 != k), jobs := ki.jobs.filter (fun j => j.kiln != k), pllOff := ki.pllOff.filter (· != k), waits := ki.waits.filter (· != k) }
  (s2.unpatch k).dropPage (pKln k)

/-- Ports of a group are reset: links down, counters cleared, the port state gone (15 R425, 12 R344). -/
def State.resetGroup (s : State) (strait : Bool) (g : Nat) : State :=
  let ps := (List.range 4).map (fun i => 4 * g + i)
  let s1 := ps.foldl (fun s p => s.portDown strait p) s
  let s2 := s1.dropPage (pPort strait g)
  (ps.foldl (fun s p =>
    let lo := pcOff strait p 0
    ({ s with cnt := s.cnt.filter (fun e => decide (e.1 < lo) || decide (lo + 256 ≤ e.1)) }).setPort strait p { seq := (s.port strait p).seq }) s2).xoffAll

/-- Every running exchange is dropped without ABORT (06 R168): those of keyed peers become held rekeys, of the peer or of the
channel, and start again later. -/
def State.dropAllXchs (s : State) : State :=
  let gone := s.vault.xchs.filter (fun x => x.phase != 3)
  let chans := gone.filterMap (·.chan) ++ s.vault.busy.filterMap (·.2)
  let s1 := chans.foldl (fun s c => s.setChan c { s.chan c with rekeyHeld := true }) s
  let peers := gone.filterMap (fun x => if x.chan.isNone && (s1.peer x.g).sub.keyed then some x.g else none)
  let s2 := peers.foldl (fun s w => s.setPeer w { s.peer w with rekeyHeld := true }) s1
  let v := s2.vault
  s2.withVault { v with xchs := [], pairs := [], busy := [], prks := v.prks.filter (·.done) }

/-- A harbour pair goes out of service (13 R352). -/
def State.pairDown (s : State) (h : Nat) : State :=
  let s1 := s.mailStop h
  let s2 := s1.setHc h { s1.hc h with inService := false, halted := false, waiting := false }
  if h == 1 then s2.dropAllXchs else s2

/-- A kiln gets its patch and images again and is in service, unless its control store has an error in ROM (09 R282). -/
def State.kilnBack (s : State) (k : Nat) : State :=
  ((s.repatch k).putImgs (fun n => n / 8 == k) true false).setReg (pKln k + 0x104) (if s.kiln.parity.contains k then 0 else 3)

/-- Both pairs serve: HC1 loads patches, HC0 images (10 R308, 13 R351, R352). -/
def State.mayReload (s : State) : Bool := s.hcUp 0 && s.hcUp 1

/-- Kiln commons that woke, or were repaired, while a pair was out of service get patch and images now (13 R352). -/
def State.kilnsBack (s : State) : State :=
  if !s.mayReload then s
  else (s.kiln.waits.filter (fun k => !s.islOff (193 + k))).foldl State.kilnBack (s.withKiln { s.kiln with waits := [] })

/-- A kiln's patch and images are loaded, now or when both pairs serve. -/
def State.kilnLoad (s : State) (k : Nat) : State :=
  if s.mayReload then s.kilnBack k else s.withKiln { s.kiln with waits := ins s.kiln.waits k }

/-- A pair is back with its firmware restored. -/
def State.pairUp (s : State) (h : Nat) : State :=
  let x := s.hc h
  if x.inService then s
  else
    let s1 := s.setHc h { Harbour.initial with recoveries := x.recoveries + 1, lockFaults := x.lockFaults }
    (((s1.lockUp h).mailBack h).raise pHrb 2).kilnsBack.keyScanAll

/-- Whether a unit reset may start, and what it does at once. -/
def State.unitStart (s : State) (type i : Nat) : State :=
  if type == 1 then ((s.endAll i 0x12).clearEngine i)
  else if type == 2 then
    (((List.range 8).foldl (fun s e => s.clearEngine (8 * i + e)) (s.leaveService i 0x14)).clearKiln i)
  else if type == 3 || type == 4 then
    let d := type - 3
    let a := s.reg (pLane d i + 0x100)
    let s1 := if fld a 0 4 != 15 && !bit a 5 && !(s.laneU d i).resetting then s.squelch d i false else s
    (s1.setReg (pLane d i + 0x100) (setFld (setFld (s1.reg (pLane d i + 0x100)) 5 1 0) 4 1 0)).setLaneU d i
      { s1.laneU d i with resetting := true, loaded := false }
  else if type == 5 then s.resetGroup false i
  else if type == 6 then s.resetGroup true i
  else if type == 7 then s.pairDown i
  else s.hostReset

/-- Index range of a unit type. -/
def unitCount (type : Nat) : Nat :=
  if type == 1 then 192 else if type == 2 then 24 else if type == 3 || type == 4 then 9
  else if type == 5 || type == 6 then 8 else if type == 7 then 2 else if type == 8 then 1 else 0

/-- A unit reset by command. -/
def State.unitReset (s : State) (type i : Nat) : State :=
  let off := (type == 1 && s.islOff (193 + i / 8)) || (type == 2 && s.islOff (193 + i))
  let key := 256 * type + i
  if s.dev.dstate = .cold then s
  else if unitCount type ≤ i || s.dev.ember.isSome || off then s.unitRefuse type i
  else if s.dev.units.contains key then s
  else
    let s1 := (s.withDev { s.dev with units := ins s.dev.units key }).unitResult type i 2
    s1.unitStart type i

/-- The write of RST.UNIT_CMD. -/
def State.unitCmd (s : State) (v : Word) : State :=
  if fld v 24 8 == 0xA5 then s.unitReset (fld v 0 4) (fld v 8 8)
  else if s.dev.dstate = .cold then s else s.unitRefuse (fld v 0 4) (fld v 8 8)

def execUnitResetEngine (n : Fin 192) (s : State) : Host.Outcome State Fault Refusal := gateO (pRst + 0x104) s fun s => .next (s.unitReset 1 n.val)
def execUnitResetKiln (k : Fin 24) (s : State) : Host.Outcome State Fault Refusal := gateO (pRst + 0x104) s fun s => .next (s.unitReset 2 k.val)
def execUnitResetEncryptLane (n : Fin 9) (s : State) : Host.Outcome State Fault Refusal := gateO (pRst + 0x104) s fun s => .next (s.unitReset 3 n.val)
def execUnitResetDecryptLane (n : Fin 9) (s : State) : Host.Outcome State Fault Refusal := gateO (pRst + 0x104) s fun s => .next (s.unitReset 4 n.val)
def execUnitResetHomeGroup (g : Fin 8) (s : State) : Host.Outcome State Fault Refusal := gateO (pRst + 0x104) s fun s => .next (s.unitReset 5 g.val)
def execUnitResetStraitGroup (g : Fin 8) (s : State) : Host.Outcome State Fault Refusal := gateO (pRst + 0x104) s fun s => .next (s.unitReset 6 g.val)
def execUnitResetHarbourPair (h : Fin 2) (s : State) : Host.Outcome State Fault Refusal := gateO (pRst + 0x104) s fun s => .next (s.unitReset 7 h.val)
def execUnitResetHostInterface (s : State) : Host.Outcome State Fault Refusal := gateO (pRst + 0x104) s fun s => .next (s.unitReset 8 0)

/-- Type and index of a unit. -/
def unitKey : UnitId → Nat × Nat
  | .engine n => (1, n.val) | .kiln k => (2, k.val) | .lane .enc n => (3, n.val) | .lane .dec n => (4, n.val)
  | .group .home g => (5, g.val) | .group .strait g => (6, g.val) | .harbour h => (7, h.val) | .hostIf => (8, 0)

/-- What brings a unit back into service (15 R425). -/
def State.unitBack (s : State) (type i : Nat) : State :=
  if type == 1 then s.putImgs (· == i) false false
  else if type == 2 then s.kilnBack i
  else if type == 3 || type == 4 then s.setLaneU (type - 3) i { s.laneU (type - 3) i with loaded := true }
  else if type == 7 then s.pairUp i
  else s

/-- An engine needs HC0 to come back, for its image, and a kiln both pairs (13 R352). -/
def State.mayReturn (s : State) (type : Nat) : Bool := if type == 1 then s.hcUp 0 else if type == 2 then s.mayReload else true

/-- UNIT_RESET_DONE (15 R425): a unit whose patch or image no pair can load yet stays in its reset. -/
def execUnitResetDone (u : UnitId) (s : State) : Host.Outcome State Fault Refusal :=
  let (type, i) := unitKey u
  let key := 256 * type + i
  if !s.dev.units.contains key || !s.mayReturn type then .next s
  else
    let s1 := (s.withDev { s.dev with units := s.dev.units.filter (· != key) }).unitBack type i
    .next (((s1.unitResult type i 0).bump (pRst + 0x118)).raise pRst 1)

/-- LOCKSTEP_MISMATCH (13 R352, 16 R432): the third within one hour is SAF_FT_PAIR_REPEAT. -/
def State.lockstep (s : State) (h : Nat) : State :=
  if s.dev.dstate = .cold || !s.hcUp h then s
  else
    let x := s.hc h
    let recent := x.lockFaults.filter (fun t => decide (s.dev.mono < t + 3600 * 10 ^ 9)) ++ [s.dev.mono]
    let s1 := ((s.setHc h { x with lockFaults := recent }).fault pHrb h).pairDown h
    if 3 ≤ recent.length then s1.fault pSaf 5 else s1

def execLockstepMismatch (h : Fin 2) (s : State) : Host.Outcome State Fault Refusal := .next (s.lockstep h.val)

/-- PAIR_BACK (13 R352). -/
def execPairBack (h : Fin 2) (s : State) : Host.Outcome State Fault Refusal := .next (s.pairUp h.val)

/-! Ember reset (15 R423, R424, R464; 01 R27; 04 R116; 06 R168; 13 R375). -/

/-- Registers that an Ember reset keeps: the island-0 pages, event and fault bits, ASSIGN, PC_RETIRED, the mailbox rings,
BOOT, the group states and baselines of sensing and its action, the paths of pairs, the pool mark and RATE. -/
def emberKeeps (off : Nat) : Bool :=
  let pg := off / 0x1000
  let o := off % 0x1000
  if 0x1000000 ≤ off then false
  else if o == 0x34 then false
  else if isHeader off then true
  else if pg == 0 || (8 ≤ pg && pg < 0x10) || pg == 0x80 || pg == 0x90 || pg == 0x98 then true
  else if (0x30 ≤ pg && pg < 0x39) || (0x44 ≤ pg && pg < 0x4D) || pg == 0x60 || pg == 0x61 then o == 0x100
  else if pg == 0x40 then decide (0x150 ≤ o) && decide (o < 0x160)
  else if pg == 0x50 then o == 0x13C
  else if pg == 0x78 then o == 0x124
  else if pg == 0x70 then o == 0x120 || (decide (0x200 ≤ o) && decide (o < 0x400) && (o % 0x40 == 8 || o % 0x40 == 0x38 || o % 0x40 == 0x3C))
  else false

/-- A generation switch that was under way completes if a block had passed its switch point; checks and a green copy are
dropped (13 R375). Copies that cannot be read leave no generation. -/
def Gen.ember (g : Gen) (copiesOk : Bool) : Gen :=
  let g1 := { g with phase := 0, refire := false, green := [], passed := [] }
  if !copiesOk then {}
  else if g.phase == 3 && !g.passed.isEmpty then
    { g1 with live := g.green, prev := g.live, liveNo := if g.liveNo == 0xFFFFFFFF then 1 else g.liveNo + 1, prevNo := g.liveNo, refireOk := !g.refire && g.liveNo != 0 }
  else g1

/-- What the transmit side keeps (04 R116): frames retained leave the holding buffer; the others wait in it to be encrypted again
under their PN and epoch (03 R65). The source mask stays, which R126 does not list: DESIGN CHOICE (log entry 79). -/
def Chan.ember (x : Chan) (assured : Bool) : Chan :=
  let again := if assured then (x.flight.filter (!·.retained)).map (fun f => { f with replay := true }) else x.flight.filter (·.replay)
  { x with flight := again, resv := 0, nacked := [] }

/-- The switch-in or rewrite under way takes effect at the reset (15 R423). -/
def State.finishLanes (s : State) : State :=
  let s1 := [0, 1].foldl (fun s d =>
    match s.spare d, s.lowestWaiting d with
    | some n, some m =>
      let a := s.assignOf d m
      (s.setReg (pLane d m + 0x100) (setFld (setFld a 0 4 15) 6 1 0)).setReg (pLane d n + 0x100) (w32 (fld a 0 4 + 64 * fld a 6 1))
    | _, _ => s) s
  { s1 with slots := s1.slots.map (fun e => (e.1, { e.2 with bad := false })) }

/-- Ingress stops: every arriving frame is cut and counted in EMBER_CUT. -/
def State.emberCut (s : State) : State :=
  (List.range 32).foldl (fun s p =>
    match (s.port false p).arr with
    | some a => ((s.stompCut a.chan a).dropArr p).bump (pQmg + 0x144)
    | none => s) s

/-- What an Ember reset stops at its start: counters and most registers fall to their reset values. -/
def State.emberStop (s : State) (code : Nat) : State :=
  let s1 := { s with cnt := s.cnt.filter (fun e => e.1 == 0x20110 || e.1 == 0x20118), latch := [], regs := s.regs.filter (fun e => emberKeeps e.1), gen := { s.gen with held := [] } }
  let s2 := (s1.mailStop 0).mailStop 1
  s2.withDev { s2.dev with ember := some { from_ := s.dev.dstate, code := code }, units := [] }

/-- The exchanges that an Ember reset drops, and DRB, which starts up again. -/
def State.emberDrop (s : State) : State :=
  let s1 := s.dropAllXchs
  s1.withVault { s1.vault with drbUp := false, drbReq := [0, 0, 0] }

/-- Engines, kilns, ports and harbour pairs that an Ember reset clears. -/
def State.emberWipe (s : State) : State :=
  { s with engines := [], fronts := [], kiln := { parity := s.kiln.parity }, mem := (memErase (memErase s.mem (spIram 0) (spDram 192)) (spPatch 0) (spPatch 24)), optics := [], ports := s.ports.map (fun (e : Nat × Port) => (e.1, { seq := e.2.seq })), streams := [], lane := s.lane.map (fun (e : Nat × Lane) => (e.1, { e.2 with frames := 0 })), harbours := s.harbours.map (fun (e : Nat × Harbour) => (e.1, { Harbour.initial with recoveries := e.2.recoveries, lockFaults := e.2.lockFaults })) }

/-- The channels that keep their state through an Ember reset. -/
def State.emberChans (s : State) : State :=
  s.enabledChans.foldl (fun s c => (s.setChan c ((s.chan c).ember (s.assured c))).flushHeld c) s

/-- Ports go down at the start of an Ember reset. -/
def State.emberPorts (s : State) : State :=
  (List.range 32).foldl (fun s p => (s.portDown false p).portDown true p) s

/-- An Ember reset starts, with its LAST_RESET code. -/
def State.emberStart (s : State) (code : Nat) : State :=
  let from_ := s.dev.dstate
  let s1 := s.emberStop code
  let s2 := (if from_ = .boot then s1 else s1.setDState .boot).emberCut.cutFrames
  let s3 := s2.emberPorts.emberDrop.emberWipe.finishLanes.emberChans
  let s4 := s3.xoffAll.hostReset.withVault { s3.vault with drbSrc := true }
  let s5 := if from_ = .boot then s4 else s4.setRegFld (pBoot + 0x100) 12 1 1
  (s5.setReg (pBoot + 0x114) 1).setStage 1

/-- The collector permits an Ember trigger (16 R437). -/
def State.mayUnseal (s : State) : Bool :=
  !bit (s.reg 0xC10C) 3 && !bit (s.reg 0xC10C) 4 && s.saf.active.isEmpty

/-- An Ember trigger (15 R423, R426, 16 R437): by command 3, by hot reset 4, leaving SEALED 5. -/
def State.emberTrigger (s : State) (code : Nat) : State :=
  if s.dev.dstate = .cold || s.dev.ember.isSome then s
  else if s.dev.dstate = .zeroized || s.dev.lhOnly then
    if code == 3 then (s.bump (pRst + 0x11C)).raise pRst 2 else s.hostReset
  else if s.dev.dstate = .sealed && !s.mayUnseal then
    let s1 := (s.bump 0xC124).raise pSaf 2
    if code == 4 then s1.hostReset else s1
  else s.emberStart code

/-- EMBER (15 R423). -/
def execEmber (v : Word) (s : State) : Host.Outcome State Fault Refusal := gateO (pRst + 0x100) s fun s =>
  .next (if v == 0x454D4252 then s.emberTrigger 3 else s)

/-- PCIE_HOT_RESET (14 R384). -/
def execPcieHotReset (s : State) : Host.Outcome State Fault Refusal :=
  if s.dev.dstate = .cold then .next s
  else .next (if bit (s.reg (pPci + 0x100)) 0 then s.emberTrigger 4 else s.hostReset)

/-- The state that an Ember reset returns to (01 R27). -/
def State.emberReturn (s : State) (e : EmberRun) : State :=
  if e.sealedIn || s.dev.dstate ≠ .boot then s
  else
    let s1 := if e.from_ = .sealed then ((s.setReg 0xC108 0).setReg 0xC10C 0).withSaf { s.saf with active := [] } else s
    if e.from_ = .boot || s1.gen.copiesLost then s1
    else if e.from_ = .sealed then s1.setDState (if s1.peerKeyed != 0 then .protect else .staged)
    else (s1.setDState e.from_).tally

/-- The retained copies that the reset found: a fault for each that failed. -/
def State.emberCopies (s : State) (copiesOk retainedOk : Bool) : State :=
  let s1 := if retainedOk then s else s.fault pBoot 0
  let g := { s1.gen.ember copiesOk with copiesLost := !copiesOk }
  if copiesOk then s1.withGen g else (s1.withGen g).fault pCfg 0

/-- The boot stages still open at the end of an Ember reset. -/
def State.emberStages (s : State) (warm : Bool) (ms : Word) : State :=
  if warm && s.stage != 6 then (((s.emberLoad.lockUp 0).lockUp 1).setReg (pBoot + 0x118) ms |>.setStage 6).raise pBoot 1
  else if !warm && s.stage != 5 then (s.setStage 5).raise pBoot 1 else s

/-- Resynchronisation with every keyed peer (04 R116), and the frames that waited for a key. -/
def State.emberPeers (s : State) : State :=
  let s1 := (List.range 8).foldl (fun s w =>
    if (s.peer w).sub = .joined || (s.peer w).sub = .stranded || (s.peer w).sub = .landfall then s.startResync w else s) s
  (s1.chans.map (·.1)).foldl (fun s c => s.unwait c (fun _ => true)) s1

/-- EMBER_DONE (01 R27, 15 R423): the live generation and the firmware are restored from the retained copies, and the
device goes on. -/
def execEmberDone (copiesOk retainedOk : Bool) (ms : Word) (s : State) : Host.Outcome State Fault Refusal :=
  match s.dev.ember with
  | none => .next s
  | some _ =>
    let s3 := (s.emberCopies copiesOk retainedOk).emberStages s.warmBoot ms
    let e := s3.dev.ember.getD { from_ := .boot, code := 3 }
    let s4 := s3.withDev { s3.dev with ember := none }
    let s5 := ((s4.bump (pRst + 0x110)).setReg (pRst + 0x114) ms).setReg (pRst + 0x10C) (w32 e.code)
    .next (((((s5.emberReturn e).mailBack 0).mailBack 1).emberPeers.raise pRst 0).keyScanAll)

/-- EMBER_SLOW (15 R424): the line clears when the reset completes. -/
def execEmberSlow (s : State) : Host.Outcome State Fault Refusal :=
  .next (if s.dev.ember.isSome then s.fault pRst 0 else s)

/-! Supplies (15 R406, 16 R432, 17 R444, R445). -/

/-- The vault loses its key store, the PRKs and the DRBG states (15 R406, 06 R146). -/
def State.loseKeys (s : State) : State :=
  let v := s.vault
  let s1 := s.withVault { v with idk := [], cert := [], anchors := [], imkPriv := [], imkPub := [], chains := [], xchs := [], prks := [], pairs := [], heldWrites := [], drbUp := false, drbReq := [0, 0, 0], mism := [] }
  { s1 with slots := [], portSlots := [], regs := noKeyRegs s1.regs }

/-- What stands in the main supplies' domain and is lost with them. -/
def State.mainOff (s : State) : State :=
  { s with ports := s.ports.map (fun (e : Nat × Port) => (e.1, { seq := e.2.seq })), engines := [], fronts := [] }

/-- MAIN_POWER_FAIL: Lighthouse-only. -/
def execMainPowerFail (rails : BitVec 13) (s : State) : Host.Outcome State Fault Refusal :=
  if s.dev.dstate = .cold then .next s
  else
    let s1 := (s.withDev { s.dev with lhOnly := true, ember := none }).setRegFld (pLhs + 0x100) 1 1 0
    let s2 := s1.setReg (pLhs + 0x10C) (w32 ((s1.reg (pLhs + 0x10C)).toNat &&& (0x1FFF - rails.toNat)))
    .next s2.mainOff.loseKeys

/-- RAIL_OUT_OF_RANGE: SAF_FT_VMON. -/
def execRailOutOfRange (r : Fin 13) (s : State) : Host.Outcome State Fault Refusal :=
  if s.dev.dstate = .cold then .next s
  else .next ((s.setReg (pLhs + 0x10C) (setFld (s.reg (pLhs + 0x10C)) r.val 1 0)).fault pSaf 0)

/-! Clocks (15 R405, R408 to R411). -/

/-- LCLK_FALLBACK. -/
def execLclkFallback (s : State) : Host.Outcome State Fault Refusal :=
  if s.dev.dstate = .cold || bit (s.reg (pLhs + 0x100)) 0 then .next s
  else .next ((s.setRegFld (pLhs + 0x100) 0 1 1).raise pLhs 0)

/-- LCLK_RESTORED. -/
def execLclkRestored (s : State) : Host.Outcome State Fault Refusal :=
  if bit (s.reg (pLhs + 0x100)) 0 then .next ((s.setRegFld (pLhs + 0x100) 0 1 0).raise pLhs 1) else .next s

/-- Place of a clock among the six of CSTATUS. -/
def clkBit : ClockSrc → Option Nat
  | .hclk => some 0 | .dclk => some 1 | .sysref => some 2 | .serdesRef i => some (3 + i.val) | .pcieRef => some 5
  | _ => none

/-- The group's ports go down with its own fault (12 R350). -/
def State.pllLoss (s : State) (strait : Bool) (g : Nat) : State :=
  ((List.range 4).map (4 * g + ·)).foldl (fun s p => s.portDown strait p) (s.fault (pPort strait g) 0)

/-- A clock monitor, or a PLL's lock, fails (15 R408, 16 R431): the reaction is by source. -/
def State.clockFail (s : State) (src : ClockSrc) (pll : Bool) : State :=
  let b := b2n pll
  let inj := s.saf.injected.contains (pClk, b)
  let s1 := s.fault pClk b
  let s2 := match clkBit src with
    | some i => (s1.setRegFld (pClk + 0x100) i 1 0).setRegFld (pClk + 0x108) (24 + i) 1 1
    | none => s1
  match src with
  | .hclk | .dclk | .sysref => s2.sealFault (44 + b) inj
  | .serdesRef i => (List.range 8).foldl (fun s g => s.pllLoss (i.val == 1) g) s2
  | .pcieRef => s2.hostReset
  | .kilnEclk k =>
    let s3 := if pll then s2.setRegFld (pClk + 0x104) k.val 1 0 else s2.setRegFld (pClk + 0x108) k.val 1 1
    s3.leaveService k.val 0x14
  | .portPll side g => s2.pllLoss (sideB side) g.val

/-- CLOCK_MONITOR_FAIL (15 R408). -/
def execClockMonitorFail (src : ClockSrc) (pll : Bool) (s : State) : Host.Outcome State Fault Refusal :=
  if s.dev.dstate = .cold then .next s else .next (s.clockFail src pll)

/-- Frequency that kiln k should run at: ECLK_SEL, or 800 MHz at most while capped. -/
def State.eclkWant (s : State) (k : Nat) : Nat :=
  let sel := fld (s.reg (pClk + 0x140 + 4 * k)) 0 2
  if bit (s.reg (pLhs + 0x100)) 2 then min sel 1 else sel

/-- Starts a step of kiln k if one is due and none runs. -/
def State.stepEclk (s : State) (k : Nat) : State :=
  let r := s.reg (pClk + 0x1A0 + 4 * k)
  let w := s.eclkWant k
  if bit r 2 || fld r 0 2 == w then s
  else (s.setReg (pClk + 0x1A0 + 4 * k) (setFld r 2 1 1)).withKiln { s.kiln with stepTo := tput s.kiln.stepTo k w }

/-- ECLK_SEL_WRITE (15 R409). -/
def execEclkSelWrite (k : Fin 24) (v : Word) (s : State) : Host.Outcome State Fault Refusal := gateO (pClk + 0x140 + 4 * k.val) s fun s =>
  .next ((s.setReg (pClk + 0x140 + 4 * k.val) (v &&& 3)).stepEclk k.val)

/-- ECLK_STEP_DONE (15 R409): the new value shows, and a write kept meanwhile is applied. -/
def execEclkStepDone (k : Fin 24) (s : State) : Host.Outcome State Fault Refusal :=
  let r := pClk + 0x1A0 + 4 * k.val
  if bit (s.reg r) 2 then
    .next (((s.setReg r (w32 (tget s.kiln.stepTo k.val 3))).raise pClk 0).stepEclk k.val)
  else .next s

/-- The temperature registers and the power cap after a sample of t quarter degrees (12 bits). -/
def State.tempRegs (s : State) (t sensor : Nat) : State :=
  let s1 := s.setReg (pLhs + 0x104) (w32 (t + 65536 * sensor))
  let s2 := if sgn 12 (fld (s1.reg (pLhs + 0x108)) 0 12) < sgn 12 t then s1.setReg (pLhs + 0x108) (w32 t) else s1
  let capped := bit (s2.reg (pLhs + 0x100)) 2
  if 400 ≤ sgn 12 t && !capped then (s2.setRegFld (pLhs + 0x100) 2 1 1).raise pLhs 2
  else if sgn 12 t < 380 && capped then s2.setRegFld (pLhs + 0x100) 2 1 0 else s2

/-- TEMP_SAMPLE (15 R411, 16 R432): the fault line asserts as TEMP reaches 110 °C. -/
def execTempSample (quarterC : Int) (sensor : Byte) (s : State) : Host.Outcome State Fault Refusal :=
  if s.dev.dstate = .cold then .next s
  else
    let t := (quarterC % 4096).toNat
    let s1 := (List.range 24).foldl State.stepEclk (s.tempRegs t sensor.toNat)
    .next (if 440 ≤ sgn 12 t && sgn 12 (fld (s.reg (pLhs + 0x104)) 0 12) < 440 then s1.fault pSaf 1 else s1)

/-- TEMP_MAX_READ (15): the read sets TEMP_MAX to the current TEMP. -/
def execTempMaxRead (s : State) : Host.Outcome State Fault Refusal :=
  let v := s.reg (pLhs + 0x108)
  .next ((s.setReg (pLhs + 0x108) (w32 (fld (s.reg (pLhs + 0x104)) 0 12))).emit (.read (v.setWidth 64)))

/-! Entropy (06 R176 to R178). -/

/-- The import keys that LOAD could not draw are made once DRB serves. -/
def State.lateImk (s : State) : State :=
  if s.stage == 5 && s.vault.imkPub.isEmpty && decide (s.dev.dstate ≠ .zeroized) then s.makeImk else s

/-- STARTUP_TESTS_PASSED (06 R176): DRB serves from now on. After a failed known-answer test it does not before a cold reset:
DESIGN CHOICE, the manual does not say what an Ember reset changes there (log entry 83). -/
def execStartupTestsPassed (s : State) : Host.Outcome State Fault Refusal :=
  let v := s.vault
  if s.dev.dstate = .cold || v.drbDead || v.drbCast || s.dev.lhOnly then .next s
  else .next (s.withVault { v with drbSrc := true, drbUp := true, drbStall := [], drbReq := [0, 0, 0] }).lateImk.keyScanAll

/-- Adds one to a counter in a field of n bits; the manual gives no rule for its overflow (log entry 7). -/
def State.bumpFld (s : State) (off lo n : Nat) : State :=
  let v := fld (s.reg off) lo n + 1
  if v < 2 ^ n then s.setRegFld off lo n v
  else (s.setRegFld off lo n (Config.freeNat s.free)).drawn

/-- DRBG_RESEED (06 R177, R178): 1 s since an instance's last reseed. -/
def execDrbgReseed (i : Fin 3) (s : State) : Host.Outcome State Fault Refusal :=
  if s.vault.drbCast || s.dev.dstate = .cold then .next s else .next (s.reseed i.val)

/-- Failures of the health tests within the last hour. -/
def State.recentFails (s : State) : List Nat :=
  s.vault.drbFails.filter (fun t => decide (s.dev.mono < t + 3600 * 10 ^ 9))

/-- A failed health test, counted in the field at lo: the source stops and the start-up tests run again; the third
failure within one hour stops it until a cold reset (06 R178). -/
def State.healthFail (s : State) (lo : Nat) : State :=
  let l := s.recentFails ++ [s.dev.mono]
  let s1 := s.withVault { s.vault with drbFails := l, drbSrc := false }
  let s2 := ((s1.bumpFld (pDrb + 0x104) lo 16).raise pDrb 0).fault pDrb 0
  if 3 ≤ l.length then (s2.withVault { s2.vault with drbDead := true }).fault pDrb 1 else s2

/-- A failed known-answer test stops every instance (06 R178). -/
def State.castFail (s : State) : State :=
  (s.withVault { s.vault with drbCast := true, drbUp := false }).fault pDrb 2

/-- HEALTH_TEST_FAIL (06 R176, R178). -/
def execHealthTestFail (t : HealthTest) (s : State) : Host.Outcome State Fault Refusal :=
  if s.dev.dstate = .cold then .next s
  else match t with
    | .knownAnswer => .next s.castFail
    | .repetition => .next (s.healthFail 0)
    | .adaptive => .next (s.healthFail 16)

/-- UNSEAL (16 R438): a mailbox command of HC0. -/
def execUnseal (tag : Half) (s : State) : Host.Outcome State Fault Refusal :=
  if !s.alive 0 then .next s
  else if s.stage == 0xE then .next (s.respond 0 7 tag 1 0x81 [])
  else if s.dev.dstate ≠ .sealed then .next (s.respond 0 7 tag 1 3 [])
  else if bit (s.reg 0xC10C) 3 || bit (s.reg 0xC10C) 4 then .next (s.respond 0 7 tag 1 1 [])
  else if !s.saf.active.isEmpty then .next (s.respond 0 7 tag 1 2 [])
  else .next ((s.respond 0 7 tag 0 0 []).emberTrigger 5)

end Sys2Proof.Machine
end

