-- ==== Sys2Proof/Machine/Mailbox.lean ====
section
/-! DEFINITION. The mailbox commands of HC0 and HC1 (06 R171 to R174, R179 to R181, 11 R327, 13 R364 to R368). A row
stands for a request that the host has posted and that the channel's firmware carries out and answers at once; while the
firmware does not serve, the request stays posted. -/
namespace Sys2Proof.Machine

open Crypto

/-- A refusal whose reason the manual does not state: a free byte (log entry 3). -/
def State.refuseFree (s : State) (c code : Nat) (tag : Half) : State :=
  s.drawn.respond c code tag 1 (Config.freeByte s.free).toNat []

/-- A plain answer: status 0. -/
def State.done (s : State) (c code : Nat) (tag : Half) (payload : List Byte) : State := s.respond c code tag 0 0 payload

/-- Lifecycle in force (13 R364). -/
def State.life (s : State) : Nat := s.dev.lifecycle

/-- Commands of R181 that the lifecycle forbids: in RETURNED all but ATTEST, in BLANK four of them. -/
def State.forbids (s : State) (code : Nat) : Bool :=
  (s.life == 3 && code != 0x44 && decide (code < 0x4A)) || (s.life == 1 && (code == 0x45 || code == 0x41 || code == 0x43 || code == 0x49))

/-- A vault keeper command: served by HC1, where the lifecycle and the length of the request permit it. -/
def State.keeper (s : State) (code : Nat) (tag : Half) (lenOk : Bool) (go : State → State) : State :=
  if !s.alive 1 then s
  else if s.forbids code then s.respond 1 code tag 1 0x83 []
  else if !lenOk then s.respond 1 code tag 1 0x82 []
  else go s

/-- A management command: served by HC0; in RECOVERY only those of 13 R360. -/
def State.manager (s : State) (code : Nat) (tag : Half) (lenOk : Bool) (go : State → State) : State :=
  if !s.alive 0 then s
  else if s.stage == 0xE && !(code == 1 || code == 2 || code == 3) then s.respond 0 code tag 1 0x81 []
  else if !lenOk then s.respond 0 code tag 1 0x82 []
  else go s

/-- Word and mask applied to a policy word. -/
def masked (old word mask : Word) : Word := (old &&& ~~~mask) ||| (word &&& mask)

/-- KEY_POLICY_SET (06 R179): reserved bits stay 0, ANCHOR_LOCK is never cleared and is stored with the anchors, and the
exchange interval keeps its range. -/
def execKeyPolicySet (tag : Half) (word mask : Word) (s : State) : Host.Outcome State Fault Refusal :=
  .next (s.keeper 0x40 tag true (fun s =>
    let v := s.vault
    let w := (masked v.policy word mask &&& 0xFFFF003F) ||| (v.policy &&& 2)
    if fld w 16 16 < 60 then s.refuseFree 1 0x40 tag
    else
      let s1 := s.withVault { v with policy := w }
      (if bit w 1 && !bit v.policy 1 then s1.saveAnchors else s1).done 1 0x40 tag []))

/-- ANCHOR_SET (06 R149): refused while the anchors are locked. -/
def execAnchorSet (tag : Half) (g : Byte) (ec pq : List Byte) (s : State) : Host.Outcome State Fault Refusal :=
  .next (s.keeper 0x41 tag (ec.length == 65 && pq.length == 1952) (fun s =>
    let v := s.vault
    if bit v.policy 1 || 8 ≤ g.toNat then s.refuseFree 1 0x41 tag
    else ((s.withVault { v with anchors := tput v.anchors g.toNat (ec ++ pq) }).saveAnchors).done 1 0x41 tag []))

/-- IMK_ID (06 R171). -/
def State.imkId (s : State) : List Byte := (sha256 s.vault.imkPub).take 8

/-- IMK_GET (06 R171): both public keys, IMK_ID and the signature over the keys and 8 zero bytes. -/
def execImkGet (tag : Half) (s : State) : Host.Outcome State Fault Refusal :=
  .next (s.keeper 0x42 tag true (fun s =>
    let sig := fit 64 (Config.ecdsaSign s.vault.idk (s.vault.imkPub ++ List.replicate 8 0) s.free)
    s.drawn.done 1 0x42 tag (s.vault.imkPub ++ s.imkId ++ sig)))

/-- What the vault finds in an import blob (06 R172, R173): 0 and the unwrapped 56 bytes, or the reason. -/
def State.importCheck (s : State) (b : List Byte) : Nat × List Byte :=
  let c := leNat (cut b 2 2) % 8192
  let okm := hkdfExpand true (hkdfExtract s.imkId (Config.importSecret s.vault.imkPriv (cut b 16 1633)))
    ([0x4F, 0x5A, 0x49, 0x4D] ++ b.take 16) 44
  let (pt, ok) := gcmOpen (okm.take 32) (okm.drop 32) (b.take 1649) (cut b 1649 56) (cut b 1705 16)
  if !bit s.vault.policy 4 then (1, [])
  else if cut b 8 8 != s.imkId then (2, [])
  else if !ok then (3, [])
  else if !(s.chEn c && s.macsec c) then (4, [])
  else if [0, 1].any (fun k => (s.slot 0 c k).valid && (s.slot 0 c k).kcv == kcv (pt.take 32)) then (5, [])
  else if leNat (b.take 2) / 256 == 1 && leNat (cut pt 48 8) == 0 then (6, [])
  else (0, pt)

/-- Header fields of a blob as R172 gives them. -/
def blobOk (b : List Byte) : Bool :=
  let kind := leNat (cut b 1 1)
  leNat (b.take 1) == 1 && (kind == 1 || kind == 2) && leNat (cut b 2 2) / 8192 == 0 && leNat (cut b 4 1) < 4 &&
    (leNat (cut b 5 1) == 0 || (leNat (cut b 5 1) == 1 && kind == 1)) && leNat (cut b 6 2) == 0

/-- SA_IMPORT (06 R172, R173). While no entropy is available, or the device is SEALED, imports wait. -/
def execSaImport (tag : Half) (blob : List Byte) (s : State) : Host.Outcome State Fault Refusal :=
  .next (s.keeper 0x43 tag (blob.length == 1721) (fun s =>
    if !s.entropy || s.isSealed || s.dev.dstate = .zeroized then s.respond 1 0x43 tag 2 0 []
    else if !blobOk blob then s.refuseFree 1 0x43 tag
    else
      let c := leNat (cut blob 2 2) % 8192
      match s.importCheck blob with
      | (0, pt) =>
        let enc := leNat (cut blob 1 1) == 1
        let w : HeldWrite := { enc := enc, chan := c, epoch := leNat (cut blob 4 1), data := pt, sa := true, use := nbit (leNat (cut blob 5 1)) 0, at_ := s.dev.mono }
        (s.writeKey w).done 1 0x43 tag []
      | (r, _) =>
        let s1 := (s.bump (pVlt + 0x11C)).setReg (pVlt + 0x128) (w32 (r + 0x10 + 2048 * c + 256 * s.spg c))
        (s1.raise pVlt 2).respond 1 0x43 tag 1 r []))

/-- The signed bytes of the attestation report (06 R174). -/
def State.report (s : State) (nonce : List Byte) : List Byte :=
  let dig := fun (l : List Byte) => fit 32 l
  ([1, 0, 0, 1] : List Byte) ++ leBytes 4 (s.reg (pDev + 0x100)).toNat ++
  (List.range 4).flatMap (fun i => leBytes 4 (Config.dieSerial i).toNat) ++
  [by8 s.life, by8 (dstateCode s.dev.dstate), by8 s.peerKeyed, by8 s.vault.dukCur] ++ leBytes 4 s.vault.policy.toNat ++
  leBytes 4 s.gen.liveNo.toNat ++ leBytes 8 (s.dev.mono / 1000) ++ List.replicate 4 (0 : Byte) ++ nonce ++ dig s.boot.fwDigest ++
  dig (match s.boot.patch with | some p => sha256 p | none => []) ++
  sha256 (s.boot.images.flatMap (fun i => sha256 i.bytes)) ++ sha256 s.anchorBytes ++ sha256 s.vault.imkPub ++
  List.replicate 16 (0 : Byte)

/-- ATTEST (06 R174). -/
def execAttest (tag : Half) (nonce : List Byte) (s : State) : Host.Outcome State Fault Refusal :=
  .next (s.keeper 0x44 tag (nonce.length == 32) (fun s =>
    let r := s.report nonce
    s.drawn.done 1 0x44 tag (r ++ fit 64 (Config.ecdsaSign s.vault.idk r s.free))))

/-- IDENT_PROVISION (06 R148): a new DUK in the next free slot, new identity keys, and the certificate request. It is refused while no entropy
is available: DESIGN CHOICE, the manual does not say (log entry 82). -/
def execIdentProvision (tag : Half) (subject : List Byte) (s : State) : Host.Outcome State Fault Refusal :=
  .next (s.keeper 0x45 tag true (fun s =>
    let v := s.vault
    let n := v.duk.length
    if !v.idk.isEmpty || 4 ≤ n || !s.entropy || s.dev.dstate = .zeroized then s.refuseFree 1 0x45 tag
    else
      let duk := (List.range 32).map (fun i => Config.freeByte (s.free + i))
      let idk := (List.range 3076).map (fun i => Config.freeByte (s.free + 32 + i))
      let s1 := { s with free := s.free + 3109 }
      let s2 := ((s1.withVault { v with duk := v.duk ++ [(n, duk)], dukCur := n, idk := idk, cert := [] }).drbUse 0).saveIdent
      let pq := Config.publicOf (idk.drop 32)
      s2.done 1 0x45 tag (Config.pkcs10 (idk.take 32) subject ++ pq ++ fit 64 (Config.ecdsaSign idk pq (s.free + 3108)))))

/-- IDENT_CERT_SET (06 R148): at most 4 KiB, stored beside the keys. -/
def execIdentCertSet (tag : Half) (cert : List Byte) (s : State) : Host.Outcome State Fault Refusal :=
  .next (s.keeper 0x46 tag (decide (cert.length ≤ 4096)) (fun s =>
    if s.vault.idk.isEmpty then s.refuseFree 1 0x46 tag
    else ((s.withVault { s.vault with cert := cert }).saveIdent).done 1 0x46 tag []))

/-- IDENT_GET (06 R148). -/
def execIdentGet (tag : Half) (s : State) : Host.Outcome State Fault Refusal :=
  .next (s.keeper 0x47 tag true (fun s => s.done 1 0x47 tag s.vault.cert))

/-- ZEROIZE (06 R180, R181): no response. Its tag stands in the request slot. -/
def execZeroize (confirm : Word) (s : State) : Host.Outcome State Fault Refusal :=
  let tag := BitVec.ofNat 16 (leNat (s.mget (reqSlot 1 (fld (s.reg (pCh 1 + 4)) 0 6) + 2) 2))
  .next (s.keeper 0x48 tag true (fun s =>
    if confirm == 0x5A5AA5A5 then (s.headOn 1).zeroize_ 3 false else s.refuseFree 1 0x48 tag))

/-- REKEY (06 R150, R167, R181): of a channel, or with 0xFFFF of the peer. A peer that is STRANDED or LANDFALL has it
held; a device that may start no exchange is busy. -/
def execRekey (tag : Half) (g : Byte) (chan : Half) (s : State) : Host.Outcome State Fault Refusal :=
  .next (s.keeper 0x49 tag true (fun s =>
    let w := s.home_ g.toNat
    let c := chan.toNat
    let one := c < 8192 && s.chEn c && (s.asxon c || s.isStream c) && s.home_ (s.spg c) == w
    if 8 ≤ g.toNat || !(c == 0xFFFF || one) then s.refuseFree 1 0x49 tag
    else match (s.peer w).sub with
      | .unkeyed => s.refuseFree 1 0x49 tag
      | .keying => s.respond 1 0x49 tag 2 0 []
      | .stranded | .landfall =>
        (if one then s.rekeyChan c else s.setPeer w { s.peer w with rekeyHeld := true }).done 1 0x49 tag []
      | .joined =>
        if !s.mayKey then s.respond 1 0x49 tag 2 0 []
        else (if one then s.rekeyChan c else s.startXch w none).done 1 0x49 tag []))

/-- SENSE_POLICY_SET (11 R327): the value 3 is refused, and SNS.ACTION mirrors the word. -/
def execSensePolicySet (tag : Half) (word mask : Word) (s : State) : Host.Outcome State Fault Refusal :=
  .next (s.keeper 0x4A tag true (fun s =>
    let w := masked s.vault.sense word mask
    if (List.range 16).any (fun i => fld w (2 * i) 2 == 3) then s.refuseFree 1 0x4A tag
    else ((s.withVault { s.vault with sense := w }).setReg (pSns + 0x120) w).done 1 0x4A tag []))

/-- A command of R368, served by HC1. -/
def State.keeper2 (s : State) (code : Nat) (tag : Half) (lenOk : Bool) (go : State → State) : State :=
  if !s.alive 1 then s
  else if !lenOk then s.respond 1 code tag 1 0x82 []
  else go s

/-- LIFECYCLE_ADVANCE (13 R364): forward only; into RETURNED the device first zeroizes with every DUK slot retired. -/
def execLifecycleAdvance (tag : Half) (target : Byte) (confirm : Word) (s : State) :
    Host.Outcome State Fault Refusal :=
  .next (s.keeper2 0x4B tag true (fun s =>
    let now := lifeOf s.boot.fuses
    if target == 2 && now == 1 then (s.withBoot { s.boot with fuses := s.boot.fuses + 1 }).done 1 0x4B tag []
    else if target == 3 && now == 2 && confirm == 0xA5A55A5A then
      let s1 := s.zeroize_ 3 true
      let s2 := s1.withVault { s1.vault with dukRetired := [0, 1, 2, 3] }
      (s2.withBoot { s2.boot with fuses := s2.boot.fuses + 2 }).done 1 0x4B tag []
    else s.refuseFree 1 0x4B tag))

/-- INTEGRATOR_KEY_SET (13 R368). -/
def execIntegratorKeySet (tag : Half) (n : Byte) (hash : List Byte) (s : State) : Host.Outcome State Fault Refusal :=
  .next (s.keeper2 0x4C tag (hash.length == 32) (fun s =>
    let b := s.boot
    if s.life == 3 then s.respond 1 0x4C tag 1 0x83 []
    else if 4 ≤ n.toNat || b.intKeys.any (fun e => e.1 == n.toNat) then s.refuseFree 1 0x4C tag
    else (s.withBoot { b with intKeys := tput b.intKeys n.toNat hash }).done 1 0x4C tag []))

/-- INTEGRATOR_KEY_REVOKE (13 R368). -/
def execIntegratorKeyRevoke (tag : Half) (n : Byte) (s : State) : Host.Outcome State Fault Refusal :=
  .next (s.keeper2 0x4D tag true (fun s =>
    if 4 ≤ n.toNat then s.refuseFree 1 0x4D tag
    else (s.withBoot { s.boot with intRevoked := ins s.boot.intRevoked n.toNat }).done 1 0x4D tag []))

/-- The version that a floor may rise to: the one that was booted. -/
def State.floorTop (s : State) (which : Byte) : Nat := (s.reg (if which == 0 then pBoot + 0x108 else pBoot + 0x110)).toNat

/-- A floor in force. -/
def State.floorOf (s : State) (which : Byte) : Nat := if which == 0 then s.boot.fwFloor else s.boot.patchFloor

/-- The floors as BOOT shows them. -/
def State.showFloors (s : State) : State := s.setReg (pBoot + 0x10C) (w32 (s.boot.fwFloor + 256 * s.boot.patchFloor))

/-- Sets a floor. -/
def State.setFloor (s : State) (which : Byte) (ver : Nat) : State :=
  (s.withBoot (if which == 0 then { s.boot with fwFloor := ver } else { s.boot with patchFloor := ver })).showFloors

/-- FLOOR_SET (13 R355, R368): at most the booted version, and never below the floor in force. -/
def execFloorSet (tag : Half) (which : Byte) (ver : Word) (s : State) : Host.Outcome State Fault Refusal :=
  .next (s.keeper2 0x4E tag true (fun s =>
    if 1 < which.toNat || s.floorTop which < ver.toNat || ver.toNat < s.floorOf which || 64 < ver.toNat then
      s.refuseFree 1 0x4E tag
    else (s.setFloor which ver.toNat).done 1 0x4E tag []))

/-! HC0. -/

/-- FW_VER and SEQ of a slot, from its header in SPI NOR: 0 where none stands there. -/
def State.slotVer (s : State) (i : Nat) : Word × Word :=
  if s.mword (norSlot i) == 0x57465A4F then (s.mword (norSlot i + 8), s.mword (norSlot i + 12)) else (0, 0)

/-- FW_INFO (13 R367). The order of the fields is the model's (log entry 12). -/
def execFwInfo (tag : Half) (s : State) : Host.Outcome State Fault Refusal :=
  .next (s.manager 1 tag true (fun s =>
    let (va, qa) := s.slotVer 0
    let (vb, qb) := s.slotVer 1
    s.done 0 1 tag ([va, qa, vb, qb].flatMap (fun w => leBytes 4 w.toNat) ++
      [by8 (fld (s.reg (pBoot + 0x100)) 8 1), by8 s.boot.fwFloor, by8 s.boot.patchFloor, by8 s.life] ++
      leBytes 4 (s.reg (pBoot + 0x104)).toNat)))

/-- FW_WRITE (13 R356, R367). -/
def execFwWrite (tag : Half) (slot : Byte) (off : Word) (bytes : List Byte) (s : State) :
    Host.Outcome State Fault Refusal :=
  .next (s.manager 2 tag (decide (bytes.length ≤ 65504)) (fun s =>
    let n := slot.toNat
    if s.stage != 0xE && n == fld (s.reg (pBoot + 0x100)) 8 1 then s.respond 0 2 tag 1 0x85 []
    else if 1 < n || off.toNat % 4096 != 0 || 0x800000 < off.toNat + bytes.length then s.refuseFree 0 2 tag
    else (s.mput (norSlot n + off.toNat) bytes).done 0 2 tag []))

/-- FW_VERIFY (13 R360, R367): in RECOVERY a cold reset follows success; which code LAST_RESET shows for it is free. -/
def execFwVerify (tag : Half) (slot : Byte) (s : State) : Host.Outcome State Fault Refusal :=
  .next (s.manager 3 tag true (fun s =>
    let i := slot.toNat
    let (ok, len) := s.fwFormat i
    if 1 < i then s.refuseFree 0 3 tag
    else if !ok then s.respond 0 3 tag 1 1 []
    else if (s.mword (norSlot i + 8)).toNat < s.boot.fwFloor then s.respond 0 3 tag 1 2 []
    else if !s.signedOk 0 (s.mget (norSlot i) len) then s.respond 0 3 tag 1 3 []
    else
      let s1 := s.done 0 3 tag []
      if s.stage == 0xE then
        let s2 := s1.drawn.coldReset (1 + b2n (Config.freeBool s1.free))
        match execResetNRelease s2 with | .next s3 => s3 | _ => s2
      else s1))

/-- STORE_WRITE (13 R356, R367). -/
def execStoreWrite (tag : Half) (off : Word) (bytes : List Byte) (s : State) : Host.Outcome State Fault Refusal :=
  .next (s.manager 4 tag (decide (bytes.length ≤ 65512)) (fun s =>
    if 0x1000000 < off.toNat + bytes.length then s.refuseFree 0 4 tag
    else (s.mput (norStore + off.toNat) bytes).done 0 4 tag []))

/-- IMAGES_RELOAD (13 R367, 10 R308): each kiln's engines halt, which ends their jobs with STATUS 0x12, and the images
are loaded anew. -/
def execImagesReload (tag : Half) (s : State) : Host.Outcome State Fault Refusal :=
  .next (s.manager 5 tag true (fun s =>
    let s1 := (List.range 192).foldl (fun s n => s.endAll n 0x12) s
    ((s1.readStore).putImgs (fun _ => true) true true).done 0 5 tag []))

/-- LOG_READ (13 R367): up to 4,095 entries of 16 bytes; the manual states neither how many nor what they hold. -/
def execLogRead (tag : Half) (start : Word) (s : State) : Host.Outcome State Fault Refusal :=
  .next (s.manager 6 tag true (fun s =>
    let n := Config.freeNat (s.free + start.toNat) % 4096
    let bytes := (List.range (16 * n)).map (fun i => Config.freeByte (s.free + i))
    ({ s with free := s.free + 65536 }).done 0 6 tag bytes))

end Sys2Proof.Machine
end

