-- ==== Sys2Proof/Machine/Cache.lean ====
section
/-! DEFINITION. An engine's data cache and store buffer (07 R184, R186, R201, R202). -/
namespace Sys2Proof.Machine

/-- Addresses reached through the data cache: kiln shared memory and the engine backing window (07 R185). -/
def cached (a : Nat) : Bool := (decide (0x100000 ≤ a) && decide (a < 0x200000)) || (decide (0x40000000 ≤ a) && decide (a < 0x80000000))

/-- Base of the 32-byte line of an address, and its set among 128. -/
def lineOf (a : Nat) : Nat := a / 32 * 32
def setOf (a : Nat) : Nat := a / 32 % 128

/-- Writes a line back if it is dirty. -/
def State.backLine (s : State) (n : Nat) (l : Line) : State := if l.dirty then s.putEng n l.addr l.bytes else s

/-- The line of an address is in the cache: a full set gives up one of its two lines, and which one is free (07 R184). -/
def State.allocLine (s : State) (n a : Nat) : State :=
  let b := lineOf a
  let e := s.eng n
  if e.dcache.any (fun l => l.addr == b) then s
  else
    let peers := e.dcache.filter (fun l => setOf l.addr == setOf b)
    let (s1, keep) : State × List Line := match peers with
      | [x, y] =>
        let v := if Config.victimWay s.free then x else y
        ((s.backLine n v).drawn, e.dcache.filter (fun (l : Line) => l.addr != v.addr))
      | _ => (s, e.dcache)
    s1.setEng n { s1.eng n with dcache := keep ++ [({ addr := b, bytes := s1.getEng n b 32, dirty := false } : Line)] }

/-- Bytes of a line from an offset, replaced. -/
def Line.put (l : Line) (a : Nat) (bytes : List Byte) : Line :=
  { l with bytes := l.bytes.take (a - l.addr) ++ bytes ++ l.bytes.drop (a - l.addr + bytes.length), dirty := true }

/-- Reads up to the end of a line: through the cache, or straight from memory. -/
def State.readPart (s : State) (n a len : Nat) : List Byte × State :=
  if cached a then
    let s1 := s.allocLine n a
    let l := ((s1.eng n).dcache.find? (fun l => l.addr == lineOf a)).getD { addr := lineOf a, bytes := List.replicate 32 0, dirty := false }
    (cut l.bytes (a - l.addr) len, s1)
  else (s.getEng n a len, s)

/-- Writes within a line: into the cache, or straight to memory. -/
def State.writePart (s : State) (n a : Nat) (bytes : List Byte) : State :=
  if cached a then
    let s1 := s.allocLine n a
    let e := s1.eng n
    s1.setEng n { e with dcache := e.dcache.map (fun l => if l.addr == lineOf a then l.put a bytes else l) }
  else s.putEng n a bytes

/-- Drains the oldest k entries of the store buffer. -/
def State.drainN (s : State) (n : Nat) : Nat → State
  | 0 => s
  | k + 1 =>
    let e := s.eng n
    match e.stbuf with
    | [] => s
    | b :: t => ((s.setEng n { e with stbuf := t }).writePart n b.addr b.bytes).drainN n k

/-- Drains the whole store buffer. -/
def State.drainStores (s : State) (n : Nat) : State := s.drainN n (s.eng n).stbuf.length

/-- Writes dirty lines back and empties the caches and the store buffer (07 R186). -/
def State.emptyCaches (s : State) (n : Nat) : State :=
  let s1 := (s.drainStores n).icacheFlush n
  let e := s1.eng n
  e.dcache.foldl (fun s l => s.backLine n l) (s1.setEng n { e with dcache := [] })

/-- A store enters the buffer; a full buffer drains its oldest entry first (07 R201). -/
def State.bufStore (s : State) (n a : Nat) (bytes : List Byte) : State :=
  let s1 := if 4 ≤ (s.eng n).stbuf.length then s.drainN n 1 else s
  let e := s1.eng n
  s1.setEng n { e with stbuf := e.stbuf ++ [{ addr := a, bytes := bytes }] }

/-- An aligned load of len bytes checked against the buffer (07 R202): forwarded from the youngest entry that holds it,
or after the entries up to the youngest one that overlaps it have drained. -/
def State.loadPart (s : State) (n a len : Nat) : List Byte × State :=
  let buf := (s.eng n).stbuf
  let covers := fun (b : StBuf) => decide (b.addr < a + len) && decide (a < b.addr + b.bytes.length)
  let whole := fun (b : StBuf) => decide (b.addr ≤ a) && decide (a + len ≤ b.addr + b.bytes.length)
  match (buf.reverse.find? covers) with
  | none => s.readPart n a len
  | some b =>
    if whole b then (cut b.bytes (a - b.addr) len, s)
    else
      let k := buf.length - (buf.reverse.findIdx covers)
      (s.drainN n k).readPart n a len

end Sys2Proof.Machine
end

