-- ==== Sys2Proof/Machine/Sense.lean ====
section
/-! DEFINITION. Line sensing: batches, baselines, alarms and their actions, equaliser snapshots and optics polls
(11 R317 to R329). -/
namespace Sys2Proof.Machine

/-! Alarms and their actions (11 R327 to R329). -/

/-- An alarm: its kind, its magnitude where the manual gives one a unit, and its port or slot. -/
structure Alarm where
  kind : Nat
  mag : Option Int
  port : Nat := 0
  slot : Nat := 0
  deriving DecidableEq, Repr

/-- The action of a kind (11 R327): 0 LOG, 1 REKEY, 2 SEAL. -/
def State.actionOf (s : State) (k : Nat) : Nat := fld s.vault.sense (2 * k) 2

/-- A REKEY on group g acts as LOG (11 R328, R329). -/
def State.rekeyIdle (s : State) (g : Nat) : Bool :=
  let near := match (s.sense g).rekeyAt with
    | some t => decide (s.dev.mono < t + fld (s.lv (pSns + 0x11C)) 0 16 * 10 ^ 9)
    | none => false
  s.isSealed || (s.peer (s.home_ g)).sub = .unkeyed || near

/-- The REKEY action on group g: a peer-scope exchange now, or once the peer is JOINED and none runs. -/
def State.senseRekey (s : State) (g : Nat) : State :=
  let w := s.home_ g
  let s1 := s.setPeer w { s.peer w with rekeyHeld := true, rekeyBy := ins (s.peer w).rekeyBy g }
  if (s1.peer w).sub = .joined && s1.anyPath w then s1.startHeldPeer w else s1

/-- Latches, counts and records one alarm of group g with the action taken. -/
def State.latchAlarm (s : State) (g act : Nat) (a : Alarm) : State :=
  let s1 := (s.setReg (sGrp g + 0x28) (s.reg (sGrp g + 0x28) ||| w32 (2 ^ a.kind))).bump (sGrp g + 0x34)
  let s2 := s1.setReg (pSns + 0x124) (w32 (a.kind + 16 * g + 128 * (a.port % 4) + 512 * act + 2048 * a.slot + 2 ^ 31))
  let s3 := match a.mag with
    | some m => s2.setReg (pSns + 0x128) (BitVec.ofInt 32 m)
    | none => (s2.setReg (pSns + 0x128) (Config.freeWord s2.free)).drawn
  s3.raise pSns 0

/-- The alarms of one group in one batch or poll: each is latched, and the most severe action is taken once (11 R329).
A home-side optics alarm has no affected peer. -/
def State.alarms (s : State) (g : Nat) (peer : Bool) (l : List Alarm) : State :=
  let top := l.foldl (fun m a => max m (s.actionOf a.kind)) 0
  let act := if top == 1 && (!peer || s.rekeyIdle g) then 0 else top
  let s1 := l.foldl (fun s a => s.latchAlarm g act a) s
  if act == 1 then s1.senseRekey g
  else if act == 2 then
    match l.find? (fun a => s.actionOf a.kind == 2) with
    | some a => s1.seal_ 2 (a.kind + 16 * g) false
    | none => s1
  else s1

/-! Delay arithmetic (11 R317, R318, R325), exact, in units of 2^-16 ns. -/

/-- Rounds to the nearest integer. -/
def near (x : Rat) : Int := (x + 1 / 2).floor

/-- The picoseconds of a threshold in units of 2^-16 ns. -/
def ofPs (n : Int) : Rat := (n * 65536 : Int) / (1000 : Rat)

/-- Mean of a list. -/
def mean (l : List Rat) : Rat := if l.isEmpty then 0 else l.foldl (· + ·) 0 / (l.length : Rat)

/-- Mean of a list of integers. -/
def meanI (l : List Int) : Rat := mean (l.map (fun (i : Int) => (i : Rat)))

/-- The least-squares line of points (t, y): its slope, and its value at t. -/
def lsq (pts : List (Rat × Rat)) : Rat × (Rat → Rat) :=
  let mt := mean (pts.map Prod.fst)
  let my := mean (pts.map Prod.snd)
  let sxx := pts.foldl (fun a p => a + (p.1 - mt) * (p.1 - mt)) 0
  let sxy := pts.foldl (fun a p => a + (p.1 - mt) * (p.2 - my)) 0
  let b := if sxx == 0 then 0 else sxy / sxx
  (b, fun t => my + b * (t - mt))

/-- What the probes of a port measure. -/
structure Meas where
  rho : Rat
  rtts : List Rat                  -- rtt of the complete probes, newest first
  rtt : Rat                        -- window mean
  dRtt : Rat                       -- window mean less the prediction
  dX : Rat

/-- The measurement of a port: none until the window of 64 and the reference span of 1,024 are full. -/
def Port.measure (po : Port) : Option Meas :=
  if po.probes.length < 1088 || po.done < 1088 then none
  else
    match po.probes.getLast? with
    | none => none
    | some (t0, _, _, _) =>
      let rows := po.probes.map (fun (t1, t2, t3, t4) =>
        ((sdiff t1 t0 : Rat), (sdiff t2 t1 : Rat), (sdiff t4 t3 : Rat), (sdiff t4 t1 : Rat), (sdiff t3 t2 : Rat)))
      let ref := rows.drop 64
      let rho := (lsq (ref.map (fun (t, f, _) => (t, f)))).1
      let rtt := fun (r : Rat × Rat × Rat × Rat × Rat) => r.2.2.2.1 - r.2.2.2.2 / (1 + rho)
      let x := fun (r : Rat × Rat × Rat × Rat × Rat) => r.2.1 - r.2.2.1
      let win := rows.take 64
      let t := mean (win.map (·.1))
      let w := mean (win.map rtt)
      some { rho := rho, rtts := rows.map rtt, rtt := w, dRtt := w - (lsq (ref.map (fun r => (r.1, rtt r)))).2 t, dX := mean (win.map x) - (lsq (ref.map (fun r => (r.1, x r)))).2 t }

/-! Batches (11 R318, R319, R323 to R326). -/

/-- Sets a 64-bit pair of registers. -/
def State.setPair (s : State) (off : Nat) (v : Int) : State :=
  let n := (v % (2 ^ 64 : Int)).toNat
  (s.setReg off (w32 n)).setReg (off + 4) (w32 (n / 2 ^ 32))

/-- The reference port of a group. -/
def State.refPort (s : State) (g : Nat) : Nat := 4 * g + fld (s.lv (sGrp g)) 0 2

/-- Writes the measurement of the reference port (11 R317, R318). -/
def State.writeMeas (s : State) (g : Nat) (m : Meas) : State :=
  let a := (s.sense g).asym
  let s1 := ((s.setPair (sGrp g + 0x0C) (near m.rtt)).setPair (sGrp g + 0x14) (near ((m.rtt + a) / 2))).setPair
    (sGrp g + 0x1C) (near ((m.rtt - a) / 2))
  (s1.setReg (sGrp g + 0x24) (BitVec.ofInt 32 (near (m.rho * 2 ^ 40)))).setReg (aGrp g + 0x18)
    (BitVec.ofInt 32 (near (m.rtt / 65536)))

/-- A step test: one more batch in a row that reached its threshold, and whether it fires (11 R325). -/
def stepHit (t : Tbl Nat) (key : Nat) (reached : Bool) : Tbl Nat × Bool :=
  if reached then (let n := tget t key 0 + 1; (tput t key (min n 3), n == 2)) else (tdel t key, false)

/-- A threshold in ps is reached. -/
def reaches (d : Rat) (ps : Nat) : Bool := decide (ofPs ps ≤ d) || decide (d ≤ -ofPs ps)

/-- Magnitude of a delay in 2^-8 ps. -/
def magPs (d : Rat) : Int := near (d * 1000 * 256 / 65536)

/-- The delay tests of one port of a group in ARMED. -/
def State.delayTests (s : State) (g p : Nat) (m : Meas) : State × List Alarm :=
  let th := fld (s.lv (pSns + 0x104)) 0 16
  let se := s.sense g
  let (h1, f1) := stepHit se.hits (p % 4) (reaches m.dRtt th)
  let (h2, f2) := stepHit h1 (4 + p % 4) (reaches m.dX th)
  let a := if f2 && p == s.refPort g then se.asym + m.dX else se.asym
  (s.setSense g { se with hits := h2, asym := a },
   (if f1 then [{ kind := 0, mag := some (magPs m.dRtt), port := p % 4 }] else []) ++
   (if f2 then [{ kind := 1, mag := some (magPs m.dX), port := p % 4 }] else []))

/-- Lanes of one port in a mode (12 R331). -/
def modeLanes (m : Nat) : Nat := if m == 2 then 2 else if 3 ≤ m && m < 7 then 1 else 4

/-- The skews of a batch by lane (2^-8 ps): window, mean of the previous 16 batches, and the step test in ARMED. -/
def State.skewBatch (s : State) (g : Nat) (skews : List Int) (armed : Bool) : State × List Alarm :=
  let hist := (s.sense g).skewHist
  let th := fld (s.lv (pSns + 0x104)) 16 16
  let (s1, al) := (List.range (min 4 skews.length)).foldl (fun (acc : State × List Alarm) n =>
    let v := skews.getD n 0
    let old := hist.map (fun h => h.getD n 0)
    let win := 0x1500000 + 64 * (4 * g + n)
    let base := meanI old
    let sA := (acc.1.setReg win (BitVec.ofInt 32 v)).setReg (win + 4) (BitVec.ofInt 32 (near base))
    let d := (v : Rat) - base
    let r := armed && old.length == 16 && (decide ((th * 256 : Nat) ≤ d) || decide (d ≤ -((th * 256 : Nat) : Rat)))
    let (h, f) := stepHit (sA.sense g).hits (8 + n) r
    (sA.setSense g { sA.sense g with hits := h },
     if f then acc.2 ++ [{ kind := 2, mag := some (near d), port := n / modeLanes (s.mode true g) }] else acc.2)) (s, [])
  (s1.setSense g { s1.sense g with skewHist := (skews :: hist).take 16 }, al)

/-- PROBE_LOSS of the ports of a group, whose batch counts start anew. -/
def State.lossBatch (s : State) (g : Nat) : State × List Alarm :=
  (List.range 4).foldl (fun (acc : State × List Alarm) n =>
    let po := acc.1.port true (4 * g + n)
    let r := decide (po.doneNow + po.lostNow < 8 * po.lostNow)
    let (h, f) := stepHit (acc.1.sense g).hits (12 + n) r
    ((acc.1.setPort true (4 * g + n) { po with doneNow := 0, lostNow := 0 }).setSense g { acc.1.sense g with hits := h },
     if f then acc.2 ++ [{ kind := 8, mag := none, port := n }] else acc.2)) (s, [])

/-- DRIFT, and the tracked baseline's move towards the batch mean in a batch without alarm (11 R324, R325). -/
def State.track (s : State) (g : Nat) (m : Option Meas) (quiet : Bool) : State × List Alarm :=
  let se := s.sense g
  let d := se.tracked - se.learned
  if reaches d (1000 * fld (s.lv (pSns + 0x10C)) 0 16) then
    (s.setSense g { se with learned := se.tracked }, [{ kind := 6, mag := some (magPs d), port := s.refPort g % 4 }])
  else match quiet, m with
    | true, some m =>
      let ts := fld (s.lv (pSns + 0x110)) 8 16
      let (t, s1) := if ts == 0 then ((sgn 64 (Config.freeNat s.free) : Rat), s.drawn)
        else (se.tracked + (m.rtt - se.tracked) / (1000 * ts : Nat), s)
      ((s1.setSense g { se with tracked := t }).setPair (sGrp g + 0x38) (near t), [])
    | _, _ => (s, [])

/-- SNS_FT_TS_CHECK: the ports of a group whose timestamps ran backward or whose rtt fell outside 0 to 1 s stop probing, and the
group raises SENSE_LOST. -/
def State.tsStop (s : State) (g : Nat) : State × List Alarm :=
  (List.range 4).foldl (fun (acc : State × List Alarm) n =>
    let po := acc.1.port true (4 * g + n)
    if po.tsBad && !po.stopped then
      ((acc.1.setPort true (4 * g + n) { po with stopped := true }).faultBit pSns 0, acc.2 ++ [{ kind := 11, mag := none, port := n }])
    else acc) (s, [])

/-- The same in every group. -/
def State.tsCheck (s : State) : State :=
  (List.range 8).foldl (fun s g => (s.tsStop g).1.alarms g true (s.tsStop g).2) s

/-- Marks ports of a group with an rtt outside 0 to 1 s. -/
def State.rttCheck (s : State) (ms : List (Nat × Meas)) : State :=
  ms.foldl (fun s e =>
    if e.2.rtts.any (fun r => decide (r < 0) || decide ((10 ^ 9 * 65536 : Nat) < r)) then
      s.setPort true e.1 { s.port true e.1 with tsBad := true }
    else s) s

/-- Sensing jobs run: HC0 in service, the kilns patched, and the device neither COLD nor in an Ember reset (11 R323, 13 R352, R362). -/
def State.senses_ (s : State) : Bool := s.hcUp 0 && !s.patchFailed && s.dev.ember.isNone && decide (s.dev.dstate ≠ .cold) && !s.dev.lhOnly

/-- The delay tests of a batch's ports in turn. -/
def State.delayAll (s : State) (g : Nat) (ms : List (Nat × Meas)) : State × List Alarm :=
  ms.foldl (fun (acc : State × List Alarm) e =>
    ((acc.1.delayTests g e.1 e.2).1, acc.2 ++ (acc.1.delayTests g e.1 e.2).2)) (s, [])

/-- The measurements of the reference port, where it has any, in the registers. -/
def State.refMeas (s : State) (g : Nat) : State :=
  match (s.port true (s.refPort g)).measure with
  | some m => s.writeMeas g m
  | none => s

/-- SENSING_BATCH (11 R318, R319, R323 to R325, R329). With the path down nothing is tested; in SUSPENDED with the path up again, skews are
recorded and only the check of timestamps runs (log entry 57). -/
def State.batch (s : State) (g : Nat) (skews : List Int) : State :=
  let mode := s.senseMode g
  if mode == 0 || !s.senses_ then s
  else if !(s.path g).up then (s.lossBatch g).1.setSense g { (s.lossBatch g).1.sense g with hits := [], authHit := false }
  else
    let ps := (s.pathPorts g).filter (fun p => !(s.port true p).stopped)
    let ms := ps.filterMap (fun p => ((s.port true p).measure).map (fun m => (p, m)))
    let ref := (s.port true (s.refPort g)).measure
    let (s1, stops) := ((s.refMeas g).rttCheck ms).tsStop g
    let (s2, loss) := s1.lossBatch g
    let auth : List Alarm := if (s2.sense g).authHit then [{ kind := 9, mag := none }] else []
    let s3 := s2.setSense g { s2.sense g with authHit := false }
    if mode == 3 then ((s3.setSense g { s3.sense g with hits := [] }).skewBatch g skews false).1.alarms g true stops
    else if mode == 1 then (s3.skewBatch g skews false).1.alarms g true (loss ++ auth ++ stops)
    else
      let (s4, delay) := s3.delayAll g ms
      let (s5, skew) := s4.skewBatch g skews true
      let (s6, drift) := s5.track g ref (loss ++ auth ++ delay ++ skew ++ stops).isEmpty
      s6.alarms g true (delay ++ skew ++ drift ++ loss ++ auth ++ stops)

def execSensingBatch (g : Fin 8) (skews : List Int) (s : State) : Host.Outcome State Fault Refusal :=
  .next (s.batch g.val skews)

/-- BATCH_MISS (11 R323). -/
def execBatchMiss (g : Fin 8) (s : State) : Host.Outcome State Fault Refusal :=
  .next (if s.senseMode g.val == 0 then s else (s.bump (pSns + 0x12C)).raise pSns 2)

/-- SENSE_LOST (11 R323). -/
def execSenseLost (g : Fin 8) (s : State) : Host.Outcome State Fault Refusal :=
  .next (if s.senseMode g.val == 0 then s else s.alarms g.val true [{ kind := 11, mag := none }])

/-- LEARNING_END (11 R317, R324): the baselines are formed, by a rule that the manual does not give, so they are free;
the asymmetry starts at ASYM_PS. -/
def execLearningEnd (g : Fin 8) (s : State) : Host.Outcome State Fault Refusal :=
  let g := g.val
  if s.senseMode g != 1 then .next s
  else
    let base : Rat := (sgn 64 (Config.freeNat s.free) : Rat)
    let eq := (List.range 4).map (fun l => (List.range 14).map (fun i =>
      sgn 8 (Config.freeByte (s.free + 1 + 14 * l + i)).toNat))
    let s1 := { s with free := s.free + 57 }
    let a := ofPs (sgn 32 (s.lv (sGrp g + 4)).toNat)
    let s2 := s1.setSense g { s1.sense g with learned := base, tracked := base, eqBase := eq, asym := a, hits := [] }
    .next (((s2.setPair (sGrp g + 0x38) (near base)).setSenseMode g 2).raise pSns 1)

/-- ALARM_HOLDOFF_END (11 R324): back from SUSPENDED, with LANDFALL_DELTA tested in a group that was ARMED. -/
def execAlarmHoldoffEnd (g : Fin 8) (s : State) : Host.Outcome State Fault Refusal :=
  let g := g.val
  let po := s.port true (s.refPort g)
  if s.senseMode g != 3 || !(s.path g).up || po.done < 1088 then .next s
  else if !(s.sense g).wasArmed then .next (s.setSenseMode g 1)
  else
    let s1 := s.setSenseMode g 2
    match po.measure with
    | none => .next s1
    | some m =>
      let d := mean (m.rtts.take 1024) - (s.sense g).tracked
      .next (if reaches d (fld (s.lv (pSns + 0x10C)) 16 16) then
          s1.alarms g true [{ kind := 7, mag := some (magPs d), port := s.refPort g % 4 }]
        else s1)

/-! Equalisers (11 R320). -/

/-- The 14 codes of a lane. -/
def eqCodes (c : EqCodes) : List Int :=
  [(c.ctle.toNat : Int), (c.vga.toNat : Int)] ++ (List.range 12).map (fun i => sgn 8 (c.dfe.getD i 0).toNat)

/-- EQ_SNAPSHOT (11 R320): the window's codes and distance; EQ_SHIFT at the second snapshot in a row that reaches
EQ_DIST, in ARMED. -/
def execEqSnapshot (l : Fin 32) (c : EqCodes) (s : State) : Host.Outcome State Fault Refusal :=
  let g := l.val / 4
  let n := l.val % 4
  let w := 0x1500000 + 64 * l.val
  let base := (s.sense g).eqBase.getD n []
  let dist := if base.isEmpty then fld (s.reg (w + 8)) 16 16
    else (List.zipWith (fun (a b : Int) => (a - b).natAbs) (eqCodes c) base).foldl (· + ·) 0
  let tap := fun i => (c.dfe.getD i 0).toNat
  let four := fun i => w32 (tap i + 256 * tap (i + 1) + 65536 * tap (i + 2) + 16777216 * tap (i + 3))
  let s1 := (((s.setReg (w + 8) (w32 (c.ctle.toNat + 256 * c.vga.toNat + 65536 * dist))).setReg (w + 12) (four 0)).setReg
    (w + 16) (four 4)).setReg (w + 20) (four 8)
  let r := s.senseMode g == 2 && !base.isEmpty && decide (fld (s.lv (pSns + 0x114)) 0 16 ≤ dist)
  let (h, f) := stepHit (s1.sense g).hits (16 + n) r
  let s2 := s1.setSense g { s1.sense g with hits := h }
  .next (if f then s2.alarms g true [{ kind := 3, mag := some (dist : Int), port := n / modeLanes (s.mode true g) }] else s2)

/-! Optics (11 R321, R322). -/

def State.slotOf (s : State) (i : Nat) : Slot := tget s.optics i {}
def State.setSlotOf (s : State) (i : Nat) (x : Slot) : State := { s with optics := tput s.optics i x }

/-- OPT_SLOT of a slot. -/
def State.optCfg (s : State) (i : Nat) : Word := s.lv (pSns + 0x400 + 4 * i)

/-- Window of a slot. -/
def wSlot (i : Nat) : Nat := 0x1510000 + 64 * i

/-- Writes a signed halfword of the slot window. -/
def State.setSlotHalf (s : State) (i off lane : Nat) (v : Int) : State :=
  s.setRegFld (wSlot i + off + 4 * (lane / 2)) (16 * (lane % 2)) 16 (v % 65536).toNat

/-- Bank select and page select, the only bytes that the device writes. -/
def State.selectPage (s : State) (i : Nat) : State := (s.emit (.optics i 126 0)).emit (.optics i 127 0x11)

/-- A poll that the module answered: counted; at its first answer the pages are selected. -/
def State.slotAnswers (s : State) (i : Nat) : State :=
  let x := s.slotOf i
  let s1 := if x.answered then s else s.selectPage i
  ((s1.setSlotOf i { x with misses := 0, answered := true }).setReg (wSlot i) 1).bumpWrap (wSlot i + 0x38)

/-- A poll that the module did not acknowledge: the third in a row marks the slot LOST. -/
def State.slotMiss (s : State) (i : Nat) : State :=
  let x := s.slotOf i
  let c := s.optCfg i
  let s1 := s.setSlotOf i { x with misses := min 3 (x.misses + 1), answered := x.answered && x.misses < 2 }
  if x.misses == 2 then
    ((s1.setReg (wSlot i) 2).alarms (fld c 2 3) (!bit c 1) [{ kind := 10, mag := none, slot := i }]).raise pSns 3
  else s1

/-- The largest m below 2^k above a start with 10^m at most x. -/
def log10Floor (x : Nat) : Nat → Nat → Nat
  | 0, m => m
  | k + 1, m => log10Floor x k (if 10 ^ (m + 2 ^ k) ≤ x then m + 2 ^ k else m)

/-- A power field v in 0.01 dBm (11 R322): 10 × log10(v × 10^-4) dBm, −40 dBm for 0. It is rounded to the nearest 0.01 dBm before
any test: DESIGN CHOICE, the manual gives the unit only (log entry 89). -/
def dbm (v : Nat) : Int := if v == 0 then -4000 else ((log10Floor (v ^ 2000) 14 0 + 1) / 2 : Nat) - 4000

/-- Power of lane n among the bytes of a page, most significant first (00 R6). -/
def lanePower (b : List Byte) (n : Nat) : Int := dbm (beNat (cut b (2 * n) 2))

/-- The RX power of a slot's lanes: window, the tests of R322, and the baselines of a fast poll. -/
def State.rxPower (s : State) (i : Nat) (fast : Bool) (rx : List Byte) : State × List Alarm :=
  let c := s.optCfg i
  let th := s.lv (pSns + 0x108)
  let low := sgn 16 (fld th 16 16)
  let mode := s.senseMode (fld c 2 3)
  (List.range 8).foldl (fun (acc : State × List Alarm) n =>
    if !bit c (8 + n) then acc
    else
      let v := lanePower rx n
      let x := acc.1.slotOf i
      let old := tget x.samples n []
      let base := meanI old
      let d := (v : Rat) - base
      let st := fast && old.length == 16 && (mode == 2 || mode == 3) &&
        (decide ((5 * fld th 0 8 : Nat) ≤ d) || decide (d ≤ -((5 * fld th 0 8 : Nat) : Rat)))
      let cross := decide (v < low) && !x.lowNow.contains n
      let lows := if v < low then ins x.lowNow n else x.lowNow.filter (· != n)
      let keep := if fast && !st && !cross then (v :: old).take 16 else old
      let s1 := (acc.1.setSlotOf i { x with lowNow := lows, samples := tput x.samples n keep }).setSlotHalf i 0x08 n v
      let s2 := if fast then s1.setSlotHalf i 0x18 n (near (meanI keep)) else s1
      (s2, acc.2 ++ (if st then [{ kind := 4, mag := some (near d), slot := i }] else []) ++
        (if cross then [{ kind := 5, mag := some v, slot := i }] else []))) (s, [])

/-- The device polls the slot: it is enabled. -/
def State.slotOn (s : State) (i : Nat) : Bool :=
  bit (s.optCfg i) 0 && decide (s.dev.dstate ≠ .cold) && s.dev.ember.isNone && !s.dev.lhOnly

/-- The slot is polled in full: it is not LOST. -/
def State.slotPolled (s : State) (i : Nat) : Bool := s.slotOn i && !bit (s.reg (wSlot i)) 1

/-- OPTICS_FAST_POLL (11 R322): RX power of a strait slot. -/
def execOpticsFastPoll (i : Fin 32) (r : Option SlotRead) (s : State) : Host.Outcome State Fault Refusal :=
  let c := s.optCfg i.val
  if !s.slotPolled i.val || bit c 1 then .next s
  else match r with
    | none => .next (s.slotMiss i.val)
    | some r =>
      let (s1, al) := (s.slotAnswers i.val).rxPower i.val true r.rx
      .next (s1.alarms (fld c 2 3) true al)

/-- OPTICS_SLOW_POLL (11 R321, R322): the slot in full; another page select is written again. -/
def execOpticsSlowPoll (i : Fin 32) (r : Option SlotRead) (s : State) : Host.Outcome State Fault Refusal :=
  let c := s.optCfg i.val
  if !s.slotPolled i.val then .next s
  else match r with
    | none => .next (s.slotMiss i.val)
    | some r =>
      let first := !(s.slotOf i.val).answered
      let s1 := s.slotAnswers i.val
      let s2 := if r.pageSel == 0x11 || first then s1 else s1.selectPage i.val
      let s3 := s2.setReg (wSlot i.val + 4) (w32 (beNat (r.lower.take 2) + 65536 * beNat (cut r.lower 2 2)))
      let s4 := (List.range 8).foldl (fun s n => if bit c (8 + n) then s.setSlotHalf i.val 0x28 n (lanePower r.tx n) else s) s3
      let (s5, al) := s4.rxPower i.val false r.rx
      .next (s5.alarms (fld c 2 3) (!bit c 1) al)

/-- LOST_SLOT_POLL (11 R321): once a second a LOST slot is polled; an answer ends LOST. -/
def execLostSlotPoll (i : Fin 32) (r : Option SlotRead) (s : State) : Host.Outcome State Fault Refusal :=
  if bit (s.reg (wSlot i.val)) 1 && s.slotOn i.val && r.isSome then .next (s.slotAnswers i.val) else .next s

end Sys2Proof.Machine
end

