-- ==== Sys2Proof/Machine/Faults.lean ====
section
/-! DEFINITION. Fault lines and their reactions, fault injection, scrubs and pseudo-channel retirement (05 R131 to R133,
07 R195, 09 R282, 10 R287, 15 R404, 16 R431, R440). -/
namespace Sys2Proof.Machine

/-! HBM (05 R130 to R133). -/

/-- The stack exists on this part and the device is powered. -/
def State.hbmOn (s : State) (h : Nat) : Bool := (h == 0 || s.dev.h48) && !s.islOff (254 + h) && decide (s.dev.dstate ≠ .cold) && !s.dev.lhOnly

/-- RETIRE_CMD (05 R132). -/
def execRetireCmd (h : Fin 2) (v : Word) (s : State) : Host.Outcome State Fault Refusal := gateO (pHbm h.val + 0x108) s fun s =>
  .next (if bit v 8 && s.hbmOn h.val then s.retirePc h.val (fld v 0 5) else s)

/-- HBM_SCRUB (05 R131, R132): one sweep. -/
def execHbmScrub (h : Fin 2) (f : HbmSweep) (s : State) : Host.Outcome State Fault Refusal :=
  let p := pHbm h.val
  if !s.hbmOn h.val || !bit (s.reg (p + 0x118)) 0 then .next s
  else
    let s1 := if f.corrected == 0 then s else (s.bumpBy (p + 0x10C) f.corrected).raise p 0
    let s2 := f.rebuilt.foldl (fun s c => (s.bump (p + 0x114)).pcError h.val c.val) s1
    let s3 := f.unrebuilt.foldl (fun s c => (s.fault p 1).pcError h.val c.val) s2
    let s4 := f.reorderLost.foldl (fun s e => (s.fault p 1).loseHeld e.1.val e.2) s3
    let s5 := f.unresponsive.foldl (fun s c => s.retirePc h.val c.val) s4
    .next ((s5.bumpWrap (p + 0x11C)).raise p 2)

/-! The other scrubs. -/

/-- An injected error of a memory is what the next scrub finds there (16 R440). -/
def State.found (s : State) (pb b : Nat) (f : ScrubFinding) : ScrubFinding :=
  if s.saf.injected.contains (pb, b) then .uncorrectable 0 else f

/-- LIGHTHOUSE_SCRUB (15 R404). -/
def execLighthouseScrub (f : ScrubFinding) (s : State) : Host.Outcome State Fault Refusal :=
  if s.dev.dstate = .cold then .next s
  else match s.found pLhs 0 f with
    | .clean => .next s
    | .corrected n => .next (s.bumpBy (pLhs + 0x110) n)
    | .uncorrectable _ => .next (s.fault pLhs 0)

/-- ENGINE_SCRUB (07 R195): a corrected error leaves no trace. -/
def execEngineScrub (n : Fin 192) (iram : Bool) (f : ScrubFinding) (s : State) : Host.Outcome State Fault Refusal :=
  let b := if iram then 2 else 1
  if !s.awake n.val then .next s
  else match s.found (pEng n.val) b f with
    | .uncorrectable _ => .next (s.fault (pEng n.val) b)
    | _ => .next s

/-- SHMEM_SCRUB (10 R287). -/
def execShmemScrub (k : Fin 24) (f : ScrubFinding) (s : State) : Host.Outcome State Fault Refusal :=
  if s.islOff (193 + k.val) then .next s
  else match s.found (pKln k.val) 1 f with
    | .clean => .next s
    | .corrected n => .next (s.bumpBy (pKln k.val + 0x128) n)
    | .uncorrectable _ => .next (s.fault (pKln k.val) 1)

/-- HC1 loads the patch again, now or when it serves. -/
def State.kilnPatch (s : State) (k : Nat) : State :=
  if s.hcUp 1 then (s.repatch k).setReg (pKln k + 0x104) 3 else s.withKiln { s.kiln with waits := ins s.kiln.waits k }

/-- A control-store parity error (09 R282): the kiln leaves service. Firmware reloads the patch RAM and takes the kiln
back; an error in ROM keeps it out until a cold reset. -/
def State.controlStore (s : State) (k : Nat) (patchRam : Bool) : State :=
  let s1 := (s.fault (pKln k) 0).leaveService k 0x14
  if patchRam && !s1.kiln.parity.contains k then (s1.unpatch k).kilnPatch k
  else s1.withKiln { s1.kiln with parity := ins s1.kiln.parity k }

/-- CONTROL_STORE_CHECK (09 R282): words 0 to 2,047 are ROM, the rest patch RAM. An injected error stands in patch RAM,
the one part that is written. -/
def execControlStoreCheck (k : Fin 24) (f : ScrubFinding) (s : State) : Host.Outcome State Fault Refusal :=
  if s.islOff (193 + k.val) then .next s
  else if s.saf.injected.contains (pKln k.val, 0) then .next (s.controlStore k.val true)
  else match f with
    | .uncorrectable w => .next (s.controlStore k.val (decide (2048 ≤ w)))
    | _ => .next s

/-! Fault lines (16 R431). -/

/-- The clock behind a CLK fault line whose source is not told: a free choice. -/
def clockOf (i : Nat) : ClockSrc :=
  match i % 46 with
  | 0 => .hclk | 1 => .dclk | 2 => .sysref | 3 => .serdesRef 0 | 4 => .serdesRef 1 | 5 => .pcieRef
  | n =>
    if n < 30 then .kilnEclk (Fin.ofNat 24 (n - 6))
    else if n < 38 then .portPll .home (Fin.ofNat 8 (n - 30)) else .portPll .strait (Fin.ofNat 8 (n - 38))

/-- The slot of a channel in which the error lies: a valid one, and of two a free choice, for the line does not tell. -/
def State.badSlot (s : State) (d c : Nat) : State :=
  let both := (s.slot d c 0).valid && (s.slot d c 1).valid
  let k := if both then Config.freeNat s.free % 2 else if (s.slot d c 1).valid then 1 else 0
  let s1 := if both then s.drawn else s
  s1.setSlot d c k { s1.slot d c k with bad := true }

/-- A lane unit's fault line: a disagreement or echo match squelches the unit, a failed self-test seals, and the slots of
the listed channels wait for their rewrite. -/
def State.laneLine (s : State) (d n b : Nat) (chans : List Nat) : State :=
  let pg := pLane d n
  if b < 2 then
    let s1 := s.fault pg b
    (if b == 1 then s1.bump (pg + 0x118) else s1).squelch d n true
  else if b == 2 then
    (if bit (s.reg 0xC120) 31 then s else s.setReg 0xC120 (w32 (n + 16 * d + 2 ^ 31))).fault pg 2
  else
    chans.foldl (fun s c =>
      s.badSlot d c) ((s.fault pg b).bump (pg + (if b == 3 then 0x120 else 0x124)))

/-- Closes the listed channels with REASON 3; their exchanges fall due (06 R150). -/
def State.closeAll (s : State) (chans : List Nat) : State :=
  (chans.foldl (fun s c => s.closeReport c 3) s).keyScanAll

/-- An uncorrectable error in a deskew or FEC buffer of a group (12 R350): the frame that arrives on the port ends with a bad FCS, or the
codeword is counted. Which port it is, no command says: it is free (log entry 96). -/
def State.bufUe (s : State) (strait : Bool) (g : Nat) : State :=
  let p := 4 * g + Config.freeNat s.free % 4
  if !strait && (s.port false p).arr.isSome then s.drawn.cutArrival p else s.drawn.portCnt strait p 12

/-- A defined fault line asserts: its FAULT_RAW bit and its block's reaction. -/
def State.line (s : State) (p : Page) (b : Nat) (chans : List Nat) : State :=
  let pg := pageOff p
  match p with
  | .cphE n => s.laneLine 0 n.val b chans
  | .cphD n => s.laneLine 1 n.val b chans
  | .asx =>
    let s1 := (s.fault pg b).closeAll chans
    if b == 1 then chans.foldl State.setGap s1 else s1
  | .qmg => ((if b == 0 then s.bump (pQmg + 0x148) else s).fault pg b).closeAll chans
  | .hbm _ => (s.fault pg b).closeAll chans
  | .vlt =>
    if b == 1 && s.dev.dstate ≠ .zeroized then (s.fault pg b).sealFault 333 (s.saf.injected.contains (pg, b)) else s.fault pg b
  | .drb =>
    if b == 0 then s.drawn.healthFail (if Config.freeBool s.free then 0 else 16)
    else if b == 1 then (s.withVault { s.vault with drbDead := true, drbSrc := false }).fault pg b
    else s.castFail
  | .eng n => if b == 0 then (s.fault pg b).haltEngine n.val else s.fault pg b
  | .kln k =>
    if b == 0 then s.controlStore k.val false
    else if b == 2 then (s.fault pg b).leaveService k.val 0x14 else s.fault pg b
  | .sns => (s.fault pg b).tsCheck
  | .hpt g => if b == 0 then s.pllLoss false g.val else (s.fault pg b).bufUe false g.val
  | .spt g => if b == 0 then s.pllLoss true g.val else (s.fault pg b).bufUe true g.val
  | .hrb => if b < 2 then s.lockstep b else s
  | .pci => (s.fault pg b).hostReset
  | .saf _ =>
    if b == 2 then s.drawn.tamper (Config.freeNat s.free % 7) (s.saf.injected.contains (pg, 2)) else s.fault pg b
  | .clk => s.drawn.clockFail (clockOf (Config.freeNat s.free)) (b == 1)
  | _ => s.fault pg b

/-- Page p has a fault at bit b (16 R431); the header bits of SAF pages 1 to 3 are reserved (16 R430). -/
def faultDefined (p : Page) (b : Nat) : Bool :=
  match evNum (pageOff p) b with
  | some n => ftClass n != 0 && (match p with | .saf i => i == 0 | _ => true)
  | none => false

/-- FAULT_LINE_ASSERT (16 R431): the fault of a bit that no block defines does not exist. -/
def execFaultLineAssert (p : Page) (bit : Fin 6) (chans : List (Fin 8192)) (s : State) :
    Host.Outcome State Fault Refusal :=
  if s.dev.dstate = .cold || !faultDefined p bit.val then .next s
  else .next (s.line p bit.val (chans.map (·.val)))

/-! Injection (16 R440). -/

/-- A SEAL-class fault: one whose reaction is SEAL; of a clock's, only its source tells, so it counts as one. -/
def State.sealClass (s : State) (n : Nat) : Bool :=
  ftClass n == 2 || n == 44 || n == 45 || n == 333 || (n == 62 && !s.policy 2)

/-- Faults whose injection waits for the next word, record or test of the mechanism. -/
def injWaits (p : Page) (b : Nat) : Bool :=
  match p with
  | .cphE _ | .cphD _ => true
  | .saf _ => b == 3 || b == 4
  | .asx | .qmg | .hbm _ | .pci | .lhs | .hpt _ | .spt _ => !(match p with | .hpt _ | .spt _ => b == 0 | .lhs => b == 1 | .hbm _ => b == 0 | _ => false)
  | .eng _ => b != 0
  | .kln _ => b < 2
  | _ => false

/-- One bit of a FAULT_INJ write. -/
def State.inject (s : State) (p : Page) (b : Nat) : State :=
  let n := (evNum (pageOff p) b).getD 0
  let vault := match p with | .vlt => true | _ => false
  if !faultDefined p b then s
  else if !s.saf.proofArmed || vault || (s.sealClass n && s.dev.dstate ≠ .boot && s.dev.dstate ≠ .staged) then
    (s.bump 0xC128).raise pSaf 3
  else
    let s1 := s.withSaf { s.saf with injected := s.saf.injected.filter (· != (pageOff p, b)) ++ [(pageOff p, b)] }
    if injWaits p b then s1
    else
      let s2 := s1.line p b []
      let s3 := s2.withSaf { s2.saf with injected := s2.saf.injected.filter (· != (pageOff p, b)), active := s2.saf.active.filter (· != n) }
      if s2.saf.active.contains n && !s.saf.active.contains n && s3.saf.active.isEmpty then s3.raise pSaf 4 else s3

/-- FAULT_INJ (16 R440): each bit written 1. -/
def execFaultInj (p : Page) (v : Word) (s : State) : Host.Outcome State Fault Refusal :=
  gateA (match p with | .kln _ => .harbour 0 | .eng _ => .harbour 0 | _ => .host) (pageOff p + 0x2C) s fun s =>
  if s.dev.dstate = .cold then .next s
  else .next ((List.range 16).foldl (fun s b => if bit v b then s.inject p b else s) s)

end Sys2Proof.Machine
end

