-- ==== Sys2Proof/Machine/Kiln.lean ====
section
/-! DEFINITION. Kiln services: the kiln register space by agent, queues, DMA, the hash co-unit, context commands
(10 R286 to R303, R309). -/
namespace Sys2Proof.Machine

open Crypto

/-! Agents of a kiln register access. -/

/-- The number of an agent as an owner (0 to 7 engine, 8 HC0, 9 HC1) and its running context. -/
def State.owner (s : State) (a : Agent) : Nat × Nat :=
  match a with
  | .engine n => (n.val % 8, (s.eng n.val).run.getD 0)
  | .harbour h => (8 + h.val, 0)
  | .host => (10, 0)

/-- The agent's running context is sealed. -/
def State.agentSealed (s : State) (a : Agent) : Bool :=
  match a with
  | .engine n => match (s.eng n.val).run with | some c => (s.ctx n.val c).sealed_ | none => false
  | _ => false

def isHarbour : Agent → Bool | .harbour _ => true | _ => false

/-- A write by the host to a firmware-owned register is ignored and counted (14 R391). -/
def State.fwWrite (s : State) : State := (s.bump (pPci + 0x110)).raise pPci 1

/-- A write ignored under R286. -/
def State.ignored (s : State) (k : Nat) (a : Agent) : State :=
  match a with
  | .host => s.fwWrite
  | _ => s.bump (pKln k + 0x124)

/-- An access by a harbour core or by an engine of kiln k: another agent's is the host's. -/
def reachesKiln (k : Nat) (a : Agent) : Bool :=
  match a with | .engine n => n.val / 8 == k | _ => true

/-! DMA (10 R299, R300, R309). -/

/-- Registers of channel ch of kiln k. -/
def dmaReg (k ch : Nat) : Nat := pKln k + 0x200 + 0x20 * ch

def State.dma (s : State) (k ch : Nat) : Dma := tget s.kiln.dma (8 * k + ch) {}
def State.setDma (s : State) (k ch : Nat) (d : Dma) : State := s.withKiln { s.kiln with dma := tput s.kiln.dma (8 * k + ch) d }

/-- STATUS of a channel: state, cause, fault kind; INDEX stands beside. -/
def State.dmaStatus (s : State) (k ch st cause kind : Nat) : State :=
  s.setReg (dmaReg k ch + 8) (w32 (st + 4 * cause + 16 * kind + 256 * ((s.dma k ch).idx % 65536)))

/-- A line on the owner's engine; a harbour core takes the events instead (10 R288). -/
def State.dmaLine (s : State) (k ch i : Nat) : State :=
  let o := (s.dma k ch).owner
  if o < 8 then s.raiseLine (8 * k + o) i else s

/-- The channel belongs to another context or to a harbour core: an owner that is gone owns it no longer. -/
def State.dmaForeign (s : State) (k ch : Nat) (a : Agent) : Bool :=
  let d := s.dma k ch
  let (o, c) := s.owner a
  d.used && !(d.owner == o && d.ctx == c) && (8 ≤ d.owner || (s.ctx (8 * k + d.owner) d.ctx).st != 0)

/-- An engine's register write to a channel that is not its own, or that runs, is ignored; so is the host's. -/
def State.dmaBarred (s : State) (k ch : Nat) (a : Agent) : Bool :=
  match a with
  | .host => true
  | .harbour _ => false
  | .engine _ => s.dmaForeign k ch a || fld (s.reg (dmaReg k ch + 8)) 0 2 == 1 || !reachesKiln k a

/-- GO: the writer owns the channel, which starts at entry 0. -/
def State.dmaStart (s : State) (k ch : Nat) (a : Agent) : State :=
  let (o, c) := s.owner a
  let sld := s.agentSealed a
  let d : Dma := { list := (s.reg (dmaReg k ch)).toNat, idx := 0, owner := o, ctx := c, sealed_ := sld, used := true }
  (((s.setDma k ch d).dmaStatus k ch 1 0 0).setReg (dmaReg k ch + 0x0C) (w32 (o + 16 * c + 1024 * b2n sld))).setReg
    (dmaReg k ch + 0x10) 0

/-- DMA_GO (10 R299, R300). -/
def execDmaGo (k : Fin 24) (ch : Fin 8) (a : Agent) (s : State) : Host.Outcome State Fault Refusal :=
  if s.islOff (193 + k.val) then .next s
  else .next (if s.dmaBarred k.val ch.val a then s.ignored k.val a else s.dmaStart k.val ch.val a)

/-- A register FIFO or HS_OUT in the kiln register space: 1 HS_IN, 2 HS_STREAM, 3 KP_DATA, 4 HS_OUT, with its session or
engine. -/
def kilnFifo (a : Nat) : Option (Nat × Nat) :=
  let o := a - 0x08000000
  if a < 0x08000000 || 0x08010000 ≤ a then none
  else if 0x400 ≤ o && o < 0x600 then
    let r := (o - 0x400) % 0x80
    let h := (o - 0x400) / 0x80
    if r == 0x0C then some (1, h) else if r == 0x18 then some (2, h) else if 0x40 ≤ r then some (4, h) else none
  else if 0x600 ≤ o && o < 0x700 && (o - 0x600) % 0x20 == 0x0C then some (3, (o - 0x600) / 0x20)
  else none

/-- The memory behind a DMA address of an owner (10 R299): none when unmapped. -/
def State.dmaAddr (s : State) (k o a : Nat) : Option Nat :=
  if 0x02000000 ≤ a && a < 0x02100000 then
    let e := (a - 0x02000000) / 0x20000
    let x := (a - 0x02000000) % 0x20000
    if o < 8 then none
    else if x < 0x8000 then some (spIram (8 * k + e) + x)
    else if 0x10000 ≤ x then some (spDram (8 * k + e) + (x - 0x10000)) else none
  else if a < 0x20000 then (if o < 8 then s.engAddr (8 * k + o) a else none)
  else s.engAddr (8 * k) a

/-- A D-RAM byte of an engine lies in a region of a context. -/
def Ctx.inRegion (x : Ctx) (a : Nat) : Bool :=
  (List.range 4).any (fun r => decide ((x.dataBase.getD r 0).toNat ≤ a) && decide (a < (x.dataLimit.getD r 0).toNat))

/-- The engine and its D-RAM address behind a DMA address. -/
def dmaDram (k o a : Nat) : Option (Nat × Nat) :=
  if 0x02000000 ≤ a && a < 0x02100000 then
    let x := (a - 0x02000000) % 0x20000
    if 0x10000 ≤ x then some (8 * k + (a - 0x02000000) / 0x20000, x) else none
  else if 0x10000 ≤ a && a < 0x20000 && o < 8 then some (8 * k + o, a) else none

/-- D-RAM bytes from a on that lie in a region of a context: each byte in some region, up to the end of the last that goes on. -/
def Ctx.within (x : Ctx) (a len : Nat) : Bool :=
  let on := fun (p : Nat) => (List.range 4).foldl (fun m r =>
    if (x.dataBase.getD r 0).toNat ≤ p && p < (x.dataLimit.getD r 0).toNat then max m (x.dataLimit.getD r 0).toNat else m) p
  decide (a + len ≤ on (on (on (on a))))

/-- A D-RAM byte of a range lies in a region of a context. -/
def Ctx.touches (x : Ctx) (a len : Nat) : Bool :=
  (List.range 4).any (fun r => decide ((x.dataBase.getD r 0).toNat < a + len) && decide (max a (x.dataBase.getD r 0).toNat < (x.dataLimit.getD r 0).toNat))

/-- The sealed contexts of an engine whose regions a D-RAM range touches. -/
def State.sealedIn (s : State) (n a len : Nat) : List Nat :=
  (List.range 64).filter (fun c => (s.ctx n c).st != 0 && (s.ctx n c).sealed_ && (s.ctx n c).touches a len)

/-- The sealed context of an engine in whose regions a D-RAM address lies. -/
def State.sealedAt (s : State) (n a : Nat) : Option Nat :=
  (List.range 64).find? (fun c => (s.ctx n c).st != 0 && (s.ctx n c).sealed_ && (s.ctx n c).inRegion a)

/-- Fault kind of one end of a transfer: 0 none. `other` is the register FIFO at the other end. -/
def State.dmaEnd (s : State) (k : Nat) (d : Dma) (a len : Nat) (other : Option Nat) (src : Bool) : Nat :=
  let last := a + len - 1
  if (s.dmaAddr k d.owner a).isNone || (s.dmaAddr k d.owner last).isNone then
    (if d.owner < 8 && 0x02000000 ≤ a && a < 0x02100000 then 2 else 1)
  else if (s.dmaAddr k d.owner last).getD 0 != (s.dmaAddr k d.owner a).getD 0 + (len - 1) then 1
  else
    match dmaDram k d.owner a with
    | none => 0
    | some (n, x) =>
      let own := d.owner < 8 && n == 8 * k + d.owner
      let hit := s.sealedIn n x len
      let mine := own && hit.all (· == d.ctx)
      let road := match other with
        | some f => if src then f == 1 || f == 3 else f == 2 || f == 3 || f == 4
        | none => false
      if !hit.isEmpty && !(mine && road) then 3
      else if own && !(s.ctx n d.ctx).within x len then 2 else 0

/-! The hash co-unit (10 R301 to R303). -/

def hashReg (k h : Nat) : Nat := pKln k + 0x400 + 0x80 * h
def State.hash (s : State) (k h : Nat) : Hash := tget s.kiln.hash (4 * k + h) {}
def State.setHash (s : State) (k h : Nat) (x : Hash) : State := s.withKiln { s.kiln with hash := tput s.kiln.hash (4 * k + h) x }

/-- Output length of a digest. -/
def digestLen (alg : Nat) : Nat := if alg == 0 || alg == 2 then 32 else if alg == 1 || alg == 3 then 48 else 64

/-- A digest. -/
def digest (alg : Nat) (m : List Byte) : List Byte :=
  if alg == 0 then sha256 m else if alg == 1 then sha384 m else if alg == 2 then sha3 256 m
  else if alg == 3 then sha3 384 m else sha3 512 m

/-- The settings of a session are ones that R302 gives a meaning: others set ERR at START. -/
def hashOk (ctrl klen : Word) : Bool :=
  let alg := fld ctrl 0 4
  let mode := fld ctrl 4 2
  if mode == 0 then decide (alg ≤ 6)
  else decide (alg ≤ 1) && decide (mode ≤ 2) && decide (fld klen 0 8 ≤ 128) && (mode == 1 || decide (fld ctrl 8 16 ≤ 255 * digestLen alg))

/-- START by an agent. -/
def State.hashBegin (s : State) (k h : Nat) (a : Agent) (v : Word) : State :=
  let base := hashReg k h
  let sld := s.agentSealed a
  let s1 := (s.setReg base (v &&& 0xFFFFFF)).setHash k h { owner := some (s.owner a), sealed_ := sld }
  let s2 := s1.withRegs (s1.regs.filter (fun e => decide (e.1 < base + 0x40) || decide (base + 0x80 ≤ e.1)))
  s2.setReg (base + 0x10) (w32 ((if hashOk v (s.reg (base + 8)) then 1 else 4) + 8 * b2n sld))

/-- The session belongs to another than the owner o. -/
def State.hashOther (s : State) (k h : Nat) (o : Nat × Nat) : Bool :=
  match (s.hash k h).owner with | some p => p != o | none => false

/-- The session is another agent's. -/
def State.hashForeign (s : State) (k h : Nat) (a : Agent) : Bool :=
  s.hashOther k h (s.owner a) || !reachesKiln k a || (match a with | .host => true | _ => false)

/-- A write of HS_CTRL. -/
def State.hashCtrl (s : State) (k h : Nat) (a : Agent) (v : Word) : State :=
  if s.hashForeign k h a then s.ignored k a
  else if bit v 24 then s.hashBegin k h a v else s.setReg (hashReg k h) (v &&& 0xFFFFFF)

/-- HASH_START (10 R302). -/
def execHashStart (k : Fin 24) (h : Fin 4) (a : Agent) (v : Word) (s : State) : Host.Outcome State Fault Refusal :=
  .next (if s.islOff (193 + k.val) then s else s.hashCtrl k.val h.val a v)

/-- Bytes written to HS_IN join the input of the session while it runs. -/
def State.hashIn (s : State) (k h : Nat) (l : List Byte) : State :=
  let x := s.hash k h
  if bit (s.reg (hashReg k h + 0x10)) 0 then s.setHash k h { x with input := x.input ++ l } else s

/-- HS_RELEASE. -/
def State.hashFree (s : State) (k h : Nat) (a : Agent) (v : Word) : State :=
  if s.hashForeign k h a then s.ignored k a else if bit v 0 then s.dropHash k h else s

def execHsRelease (k : Fin 24) (h : Fin 4) (a : Agent) (v : Word) (s : State) : Host.Outcome State Fault Refusal :=
  .next (if s.islOff (193 + k.val) then s else s.hashFree k.val h.val a v)

/-- The key of an HMAC or HKDF-Expand session: the first HS_KLEN bytes, or the granted vault key of the owner's
descriptor; none when that key is refused. -/
def State.hashKey (s : State) (k h : Nat) : Option (List Byte × List Byte) :=
  let c := s.reg (hashReg k h)
  let x := s.hash k h
  let klen := fld (s.reg (hashReg k h + 8)) 0 8
  if bit c 6 then
    match x.owner with
    | some (e, ctx) =>
      if 8 ≤ e then none
      else
        let d := s.kpDesc (8 * k + e)
        match s.sealedJobOf (8 * k + e) ctx with
        | some j =>
          let key := s.kpKey d
          if 0x10 ≤ d.kind && s.kpFields d && granted j d && !key.isEmpty then some (key, x.input) else none
        | none => none
    | none => none
  else some (x.input.take klen, x.input.drop klen)

/-- The output of a session whose input is complete: none on error. -/
def State.hashResult (s : State) (k h : Nat) : Option (List Byte) :=
  let c := s.reg (hashReg k h)
  let alg := fld c 0 4
  let out := fld c 8 16
  let m := (s.hash k h).input
  match fld c 4 2 with
  | 0 => some (if alg == 5 then shake128 m out else if alg == 6 then shake256 m out else digest alg m)
  | 1 => (s.hashKey k h).map (fun (key, msg) => hmac (alg == 1) key msg)
  | _ => (s.hashKey k h).map (fun (key, msg) => hkdfExpand (alg == 1) key msg out)

/-- Bytes that a session takes in all. -/
def State.hashNeed (s : State) (k h : Nat) : Nat :=
  let c := s.reg (hashReg k h)
  (s.reg (hashReg k h + 4)).toNat + (if fld c 4 2 == 0 || bit c 6 then 0 else fld (s.reg (hashReg k h + 8)) 0 8)

/-- Writes HS_OUT. -/
def State.hashOut (s : State) (k h : Nat) (l : List Byte) : State :=
  (List.range 16).foldl (fun s i =>
    if (cut l (4 * i) 4).isEmpty then s else s.setReg (hashReg k h + 0x40 + 4 * i) (wordAt l i)) s

/-- OUT_TO_PORT: the output joins the pending key-port write of the owner's engine, as if the owner's code had written it. -/
def State.hashToPort (s : State) (k : Nat) (owner : Option (Nat × Nat)) (out : List Byte) : State :=
  match owner with
  | some (e, c) =>
    if 8 ≤ e then s
    else if (s.sealedJobOf (8 * k + e) c).isNone then s.kpRefuse (8 * k + e) 1
    else s.setKp (8 * k + e) { s.kp (8 * k + e) with data := (s.kp (8 * k + e)).data ++ out }
  | none => s

/-- Line 3 on the engine of a session's owner (10 R288). -/
def State.hashLine (s : State) (k : Nat) (owner : Option (Nat × Nat)) : State :=
  match owner with
  | some (e, _) => if e < 8 then s.raiseLine (8 * k + e) 3 else s
  | none => s

/-- HASH_DONE (10 R302): the session has all its input and completes; line 3 on the owner's engine. -/
def execHashDone (k : Fin 24) (h : Fin 4) (s : State) : Host.Outcome State Fault Refusal :=
  let k := k.val
  let h := h.val
  let st := hashReg k h + 0x10
  let x := s.hash k h
  if !bit (s.reg st) 0 || x.input.length < s.hashNeed k h then .next s
  else
    let c := s.reg (hashReg k h)
    let xof := fld c 4 2 == 0 && 5 ≤ fld c 0 4
    match s.hashResult k h with
    | none => .next ((s.setReg st (setFld (s.reg st) 0 3 4)).hashLine k x.owner)
    | some out =>
      let s1 := s.setReg st (setFld (s.reg st) 0 3 2)
      let s2 := if bit c 7 then s1.hashToPort k x.owner out
        else if xof then s1.setHash k h { x with xof := out }
        else (s1.setHash k h { x with xof := out }).hashOut k h (out.take 64)
      .next (s2.hashLine k x.owner)

/-- The next word of HS_STREAM for a reader: an XOF goes on for as long as it is read. -/
def State.hashStreamBy (s : State) (k h : Nat) (o : Nat × Nat) : Word × State :=
  let x := s.hash k h
  let c := s.reg (hashReg k h)
  let alg := fld c 0 4
  if !bit (s.reg (hashReg k h + 0x10)) 1 || bit c 7 || (x.sealed_ && x.owner != some o) then (0, s)
  else
    let src := if fld c 4 2 == 0 && alg == 5 then shake128 x.input (x.xofPos + 4)
      else if fld c 4 2 == 0 && alg == 6 then shake256 x.input (x.xofPos + 4) else x.xof
    (wordAt (src.drop x.xofPos) 0, s.setHash k h { x with xofPos := x.xofPos + 4 })

/-- The next word of HS_STREAM for an agent. -/
def State.hashStream (s : State) (k h : Nat) (a : Agent) : Word × State := s.hashStreamBy k h (s.owner a)

/-- HS_OUT word i for a reader. -/
def State.hashWordBy (s : State) (k h i : Nat) (o : Nat × Nat) : Word :=
  let x := s.hash k h
  if x.sealed_ && x.owner != some o then 0 else s.reg (hashReg k h + 0x40 + 4 * i)

/-- HS_OUT word i for an agent. -/
def State.hashWord (s : State) (k h i : Nat) (a : Agent) : Word := s.hashWordBy k h i (s.owner a)

/-! The key-port block as an agent reads and writes it (10 R304). -/

/-- A use of the block of engine n by an agent: the engine itself in a sealed context; another context's use is refused. -/
def State.kpUse (s : State) (n : Nat) (a : Agent) (go : State → State) : State :=
  match a with
  | .engine m => if m.val == n then (if (s.sealedJob n).isSome then go s else s.kpRefuse n 1) else s.ignored (n / 8) a
  | _ => s.ignored (n / 8) a

/-- A write of offset o of the block. -/
def State.kpWrite (s : State) (n o : Nat) (a : Agent) (v : Word) : State :=
  if o == 0 then s.kpUse n a (fun s => s.setReg (kpBase n) (v &&& 0x1FFF0FFF))
  else if o == 4 then s.kpUse n a (fun s => s.setReg (kpBase n + 4) (v &&& 0x3FFFFFFF))
  else if o == 8 then s.kpUse n a (fun s => s.setReg (kpBase n + 8) (v &&& 7))
  else if o == 0x0C then s.kpUse n a (fun s => s.setKp n { s.kp n with data := (s.kp n).data ++ leBytes 4 v.toNat })
  else if o == 0x10 then (if bit v 0 then s.kpUse n a (fun s => s.kpGo n) else s)
  else s

/-- The next word of KP_DATA of engine n: the key in order, and 0 beyond it. -/
def State.kpNext (s : State) (n : Nat) : Word × State :=
  (wordAt (s.kp n).back 0, s.setKp n { s.kp n with back := (s.kp n).back.drop 4 })

/-- A read of KP_DATA. -/
def State.kpTake (s : State) (n : Nat) (a : Agent) : Word × State :=
  match a with
  | .engine m =>
    if m.val != n then (0, s)
    else if (s.sealedJob n).isNone then (0, s.kpRefuse n 1)
    else s.kpNext n
  | _ => (0, s)

/-! DMA entries. A channel acts for its owner, an engine context or a harbour core, whatever that engine runs meanwhile (10 R299). -/

/-- The owner of a channel. -/
def Dma.who (d : Dma) : Nat × Nat := (d.owner, d.ctx)

/-- A channel's access to the key-port block of engine e of its kiln: a sealed context's own. -/
def State.kpByDma (s : State) (k : Nat) (d : Dma) (e : Nat) : Bool :=
  d.owner == e && (s.sealedJobOf (8 * k + e) d.ctx).isSome

/-- A channel's access to a key-port block that is not its owner's to use: that of its own engine is refused, another is ignored. -/
def State.kpDmaBar (s : State) (k : Nat) (d : Dma) (e : Nat) : State :=
  if d.owner == e then s.kpRefuse (8 * k + e) 1 else s.bump (pKln k + 0x124)

/-- One word from a register FIFO. -/
def State.fifoTake (s : State) (k : Nat) (d : Dma) (f : Nat × Nat) : Word × State :=
  if f.1 == 2 then s.hashStreamBy k f.2 d.who
  else if f.1 == 3 then (if s.kpByDma k d f.2 then s.kpNext (8 * k + f.2) else (0, s.kpDmaBar k d f.2))
  else (0, s)

/-- n words from a register FIFO. -/
def State.fifoBytes (s : State) (k : Nat) (d : Dma) (f : Nat × Nat) : Nat → List Byte × State
  | 0 => ([], s)
  | n + 1 =>
    let (w, s1) := s.fifoTake k d f
    let (l, s2) := s1.fifoBytes k d f n
    (leBytes 4 w.toNat ++ l, s2)

/-- Bytes to a register FIFO. -/
def State.fifoPut (s : State) (k : Nat) (d : Dma) (f : Nat × Nat) (l : List Byte) : State :=
  if f.1 == 1 then (if s.hashOther k f.2 d.who then s.bump (pKln k + 0x124) else s.hashIn k f.2 l)
  else if f.1 == 3 then
    (if s.kpByDma k d f.2 then s.setKp (8 * k + f.2) { s.kp (8 * k + f.2) with data := (s.kp (8 * k + f.2)).data ++ l }
     else s.kpDmaBar k d f.2)
  else s

/-- Words of HS_OUT from an address. -/
def State.outBytes (s : State) (k : Nat) (d : Dma) (addr len : Nat) : List Byte :=
  let o := addr - 0x08000400
  (cut ((List.range 16).flatMap (fun i => leBytes 4 (s.hashWordBy k (o / 0x80) i d.who).toNat)) (o % 0x80 - 0x40) len)

/-- The bytes that a DMA step takes from its source. -/
def State.dmaFrom (s : State) (k : Nat) (d : Dma) (src len : Nat) : List Byte × State :=
  match kilnFifo src with
  | some (4, _) => (s.outBytes k d src len, s)
  | some f => s.fifoBytes k d f (len / 4)
  | none => (s.mget ((s.dmaAddr k d.owner src).getD 0) len, s)

/-- Where a DMA step puts bytes in memory; where source and destination overlap, what it leaves is free. -/
def State.dmaTo (s : State) (k : Nat) (d : Dma) (src dst len flags : Nat) (bytes : List Byte) : State :=
  let da := (s.dmaAddr k d.owner dst).getD 0
  let sa := (s.dmaAddr k d.owner src).getD 0
  let overlap := (kilnFifo src).isNone && decide (sa < da + len) && decide (da < sa + len) && flags % 16 < 16
  if overlap then
    (s.drawnN len).mput da ((List.range len).map (fun i => Config.freeByte (s.free + i)))
  else s.mput da bytes

/-- Copies up to len bytes of an entry; overlapping ranges leave free bytes at the destination. -/
def State.dmaCopy (s : State) (k : Nat) (d : Dma) (src dst len flags : Nat) : State :=
  let (bytes, s1) := s.dmaFrom k d src len
  match kilnFifo dst with
  | some f => s1.fifoPut k d f bytes
  | none => s1.dmaTo k d src dst len flags bytes

/-- Fault kind of an entry: 0 none (10 R299, R300, R309). -/
def State.dmaCheck (s : State) (k : Nat) (d : Dma) (src dst len flags : Nat) : Nat :=
  let sf := kilnFifo src
  let df := kilnFifo dst
  let sFix := nbit flags 2
  let dFix := nbit flags 3
  let fifoBad := (sFix && (src % 4 != 0 || len % 4 != 0)) || (dFix && (dst % 4 != 0 || len % 4 != 0))
  let srcReg := match sf with | some (4, _) => !sFix | some (f, _) => sFix && f != 1 | none => false
  let dstReg := match df with | some (f, _) => dFix && (f == 1 || f == 3) | none => false
  if len == 0 then 6
  else if fifoBad then 5
  else if (sFix || sf.isSome) && !srcReg || (dFix || df.isSome) && !dstReg then 1
  else
    let e1 := if sf.isSome then 0 else s.dmaEnd k d src len (df.map Prod.fst) true
    if e1 != 0 then e1 else if df.isSome then 0 else s.dmaEnd k d dst len (sf.map Prod.fst) false

/-- The current entry of a channel: its words; none where it cannot be read or a reserved field is not 0. -/
def State.dmaEntry (s : State) (k ch : Nat) : Option (List Byte) :=
  let d := s.dma k ch
  match s.dmaAddr k d.owner (d.list + 16 * d.idx) with
  | none => none
  | some a =>
    let e := s.mget a 16
    if fld (wordAt e 2) 24 8 != 0 || fld (wordAt e 3) 4 28 != 0 then none else some e

/-- A channel stops on a fault (10 R300). -/
def State.dmaFault (s : State) (k ch kind : Nat) : State :=
  ((s.dmaStatus k ch 3 1 kind).dmaLine k ch 2).raise (pKln k) 4

/-- A free part of an entry, in whole 16-byte steps, is copied before it ends early. -/
def State.dmaPart (s : State) (k ch : Nat) : State :=
  let d := s.dma k ch
  match s.dmaEntry k ch with
  | none => s
  | some e =>
    let len := fld (wordAt e 2) 0 24
    let m := 16 * (Config.freeNat s.free % (len / 16 + 1))
    let flags := (wordAt e 3).toNat
    if s.dmaCheck k d (wordAt e 0).toNat (wordAt e 1).toNat len flags == 0 && m != 0 then
      s.drawn.dmaCopy k d (wordAt e 0).toNat (wordAt e 1).toNat m flags
    else s.drawn

/-- DMA_ENTRY_DONE (10 R300): the current entry completes, or faults. -/
def execDmaEntryDone (k : Fin 24) (ch : Fin 8) (memErr : Bool) (s : State) : Host.Outcome State Fault Refusal :=
  let k := k.val
  let ch := ch.val
  let d := s.dma k ch
  if fld (s.reg (dmaReg k ch + 8)) 0 2 != 1 || s.islOff (193 + k) then .next s
  else match s.dmaEntry k ch with
    | none => .next (s.dmaFault k ch 6)
    | some e =>
      let src := (wordAt e 0).toNat
      let dst := (wordAt e 1).toNat
      let len := fld (wordAt e 2) 0 24
      let flags := (wordAt e 3).toNat
      let kind := s.dmaCheck k d src dst len flags
      if kind != 0 then .next (s.dmaFault k ch kind)
      else if memErr then
        let s1 := (s.dmaPart k ch).dmaFault k ch 4
        .next (if 0x100000 ≤ src && src < 0x200000 then s1.fault (pKln k) 1 else s1)
      else
        let s1 := s.dmaCopy k d src dst len flags
        let s2 := s1.setReg (dmaReg k ch + 0x10) (s1.reg (dmaReg k ch + 0x10) + w32 len)
        let s3 := if nbit flags 1 then (s2.dmaLine k ch 1).raise (pKln k) 3 else s2
        if nbit flags 0 then .next (((s3.dmaStatus k ch 2 0 0).dmaLine k ch 0).raise (pKln k) 2)
        else .next ((s3.setDma k ch { d with idx := d.idx + 1 }).dmaStatus k ch 1 0 0)

/-- STOP: the entry ends at a 16-byte boundary. -/
def State.dmaStop (s : State) (k ch cause : Nat) : State :=
  if fld (s.reg (dmaReg k ch + 8)) 0 2 == 1 then (s.dmaPart k ch).dmaStatus k ch 3 cause 0 else s

/-- DMA_STOP (10 R299, R300). A STOP by the owner is no write that R299 bars because the channel runs. -/
def execDmaStop (k : Fin 24) (ch : Fin 8) (a : Agent) (s : State) : Host.Outcome State Fault Refusal :=
  if s.islOff (193 + k.val) then .next s
  else
    let barred := match a with
      | .host => true
      | .harbour _ => false
      | .engine _ => s.dmaForeign k.val ch.val a || !reachesKiln k.val a
    .next (if barred then s.ignored k.val a else s.dmaStop k.val ch.val 2)

/-- RESUME: the stopped entry again from its first byte. -/
def State.dmaGoOn (s : State) (k ch : Nat) : State :=
  if fld (s.reg (dmaReg k ch + 8)) 0 2 == 3 then s.dmaStatus k ch 1 0 0 else s

/-- DMA_RESUME (10 R300). -/
def execDmaResume (k : Fin 24) (ch : Fin 8) (a : Agent) (s : State) : Host.Outcome State Fault Refusal :=
  if s.islOff (193 + k.val) then .next s
  else .next (if s.dmaBarred k.val ch.val a then s.ignored k.val a else s.dmaGoOn k.val ch.val)

/-- Power aborts the transfers of kiln k that run, those of engine e alone when one is named (10 R300, 15 R418). -/
def State.dmaAbort (s : State) (k : Nat) (e : Option Nat) : State :=
  (List.range 8).foldl (fun s ch =>
    let mine := match e with | some e => (s.dma k ch).owner == e | none => true
    if mine && fld (s.reg (dmaReg k ch + 8)) 0 2 == 1 then
      ((s.dmaStop k ch 3).dmaLine k ch 2).raise (pKln k) 5
    else s) s

/-! Queues and context commands (10 R292 to R297). -/

/-- The queue's owner is harbour pair h. -/
def queueOwner (q : Nat) (a : Agent) : Bool := match a with | .harbour h => h.val == q / 2 | _ => false

/-- A write of Q_CTRL's size, Q_TAIL or Q_CHEAD takes effect once both indices lie below 2^size (13 R376); a new
Q_CHEAD frees completion records. -/
def State.queueSet (s : State) (k q off : Nat) (v : Word) : State :=
  let b := pKln k + 0x140 + 0x20 * q
  let s1 := s.hold off v
  let size := fld (s1.written (b + 8) (s.reg (b + 8))) 0 4
  let tail := fld (s1.written (b + 0x10) (s.reg (b + 0x10))) 0 10
  let chead := fld (s1.written (b + 0x14) (s.reg (b + 0x14))) 0 10
  if tail < 2 ^ size && chead < 2 ^ size then
    let used := (chead + 2 ^ size - fld (s.reg (b + 0x14)) 0 10 % 2 ^ size) % 2 ^ size
    let s2 := (((s1.setRegFld (b + 8) 0 4 size).setReg (b + 0x10) (w32 tail)).setReg (b + 0x14) (w32 chead)).unhold b (b + 0x20)
    (s2.withKiln { s2.kiln with recs := tput s2.kiln.recs (4 * k + q) (tget s2.kiln.recs (4 * k + q) 0 - used) }).agreed 3
  else s1.disagree off

/-- A write of a queue register at offset o. -/
def State.queueWrite (s : State) (k q o : Nat) (a : Agent) (v : Word) : State :=
  let b := pKln k + 0x140 + 0x20 * q
  if !queueOwner q a then s.ignored k a
  else if o == 0 then s.setReg b (v &&& 0xFFFFFFC0)
  else if o == 4 then s.setReg (b + 4) (v &&& 0xFFFFFFF0)
  else if o == 8 then
    let s1 := s.setRegFld (b + 8) 8 1 (fld v 8 1)
    if bit (s.reg (b + 8)) 8 then s1 else s1.queueSet k q (b + 8) (v &&& 0xF)
  else if o == 0x10 || o == 0x14 then s.queueSet k q (b + o) (v &&& 0x3FF)
  else s

/-- Q_TAIL_DOORBELL (10 R292). -/
def execQTailDoorbell (h : Fin 2) (k : Fin 24) (q : Fin 4) (v : Word) (s : State) : Host.Outcome State Fault Refusal :=
  .next (if s.islOff (193 + k.val) then s else s.queueWrite k.val q.val 0x10 (.harbour h) v)

/-- JOB_DISPATCH (10 R290, R291). -/
def execJobDispatch (k : Fin 24) (s : State) : Host.Outcome State Fault Refusal := .next (s.dispatch k.val)

/-- JOB_TIMEOUT (10 R295). -/
def execJobTimeout (n : Fin 192) (ctx : Fin 64) (s : State) : Host.Outcome State Fault Refusal :=
  if s.kiln.jobs.any (fun j => j.kiln == n.val / 8 && j.engine == n.val % 8 && j.ctx == ctx.val && j.timeout != 0) then
    .next (s.endCtx n.val ctx.val 0x10 true)
  else .next s

/-- RESUME of a context (10 R296): its state is unchanged, its fault fields too. A sealed context's state was cleared at its fault, so
none is left to resume. -/
def State.resumeCtx (s : State) (n c : Nat) : State :=
  let x := s.ctx n c
  if x.st == 4 && x.restart && !x.sealed_ then
    (s.setCtx n c { x with st := 2, pc := x.faultPc, brkAt := if x.fault % 256 == 7 then some x.faultPc else none }).runNext n
  else s

/-- KILL of a context (10 R296). -/
def State.killCtx (s : State) (n c : Nat) : State :=
  if (s.ctx n c).st == 0 then s else s.endCtx n c 0x11 true

/-- RESUME. -/
def execResume (_h : Fin 2) (n : Fin 192) (ctx : Fin 64) (s : State) : Host.Outcome State Fault Refusal :=
  .next (s.resumeCtx n.val ctx.val)

/-- KILL. -/
def execKill (_h : Fin 2) (n : Fin 192) (ctx : Fin 64) (s : State) : Host.Outcome State Fault Refusal :=
  .next (s.killCtx n.val ctx.val)

/-- A write of ENG_DOORBELL (10 R286). -/
def State.engBell (s : State) (k : Nat) (v : Word) : State :=
  (List.range 8).foldl (fun s e => if bit v e then s.raiseLine (8 * k + e) 5 else s)
    (s.setReg (pKln k + 0x114) (s.reg (pKln k + 0x114) ||| (v &&& 0xFF)))

/-- ENG_DOORBELL. -/
def execEngDoorbell (_h : Fin 2) (k : Fin 24) (v : Word) (s : State) : Host.Outcome State Fault Refusal :=
  .next (if s.islOff (193 + k.val) then s else s.engBell k.val v)

/-- TIMER_CMP_MATCH (10 R286). -/
def execTimerCmpMatch (k : Fin 24) (s : State) : Host.Outcome State Fault Refusal :=
  .next (if s.islOff (193 + k.val) then s else (List.range 8).foldl (fun s e => s.raiseLine (8 * k.val + e) 6) s)

/-! The kiln register space (10 R286). -/

/-- A write of a hash session's block. -/
def State.klnHashWrite (s : State) (k o h r : Nat) (a : Agent) (v : Word) : State :=
  if r == 0 then s.hashCtrl k h a v
  else if r == 0x14 then s.hashFree k h a v
  else if s.hashForeign k h a then (if r == 4 || r == 8 || r == 0x0C then s.ignored k a else s)
  else if r == 4 then s.setReg (pKln k + o) v
  else if r == 8 then s.setReg (pKln k + o) (v &&& 0xFF)
  else if r == 0x0C then s.hashIn k h (leBytes 4 v.toNat)
  else s

/-- A write of a DMA channel's CTRL: stop, go or resume. -/
def State.klnDmaCtrl (s : State) (k ch : Nat) (a : Agent) (v : Word) : State :=
  let stopBar := match a with | .engine _ => s.dmaForeign k ch a | _ => false
  if bit v 1 then (if stopBar then s.ignored k a else s.dmaStop k ch 2)
  else if bit v 0 then (if s.dmaBarred k ch a then s.ignored k a else s.dmaStart k ch a)
  else if bit v 2 then (if s.dmaBarred k ch a then s.ignored k a else s.dmaGoOn k ch)
  else s

/-- A write of a register that firmware alone writes. -/
def State.klnFwWrite (s : State) (k o : Nat) (v : Word) : State :=
  if o == 0x104 then s.setReg (pKln k + o) (v &&& 3)
  else if o == 0x108 then s.setReg (pKln k + o) (v &&& 0xFFFFF)
  else if o == 0x114 then s.engBell k v
  else if o == 0x118 then
    let n := 8 * k + fld v 0 3
    let c := fld v 8 6
    if fld v 16 2 == 1 then s.resumeCtx n c else if fld v 16 2 == 2 then s.killCtx n c else s
  else s

/-- A store of an engine to the ENG pages of its kiln, which stand in the kiln register space as they stand in the BAR. They are
firmware's (07 R218); a machine-check handler alone adds save areas, through SAVE_FREE of its engine (R215): DESIGN CHOICE, the
manual does not say by what access (log entry 91). -/
def State.klnEngWrite (s : State) (k o : Nat) (a : Agent) (v : Word) : State :=
  let n := 8 * k + (o / 0x1000 - 1)
  match a with
  | .engine m => if m.val == n && (s.eng n).mc && o % 0x1000 == 0x110 then s.setReg (pEng n + 0x110) v else s.ignored k a
  | _ => s

/-- A write of a register of kiln k, at offset o after the common header, by an engine or a harbour core. -/
def State.klnWrite (s : State) (k o : Nat) (a : Agent) (v : Word) : State :=
  if 0x600 ≤ o && o < 0x700 then s.kpWrite (8 * k + (o - 0x600) / 0x20) ((o - 0x600) % 0x20) a v
  else if 0x400 ≤ o && o < 0x600 then s.klnHashWrite k o ((o - 0x400) / 0x80) ((o - 0x400) % 0x80) a v
  else if 0x200 ≤ o && o < 0x300 then
    let ch := (o - 0x200) / 0x20
    let r := (o - 0x200) % 0x20
    if r == 0 then (if s.dmaBarred k ch a then s.ignored k a else s.setReg (pKln k + o) (v &&& 0xFFFFFFF0))
    else if r == 4 then s.klnDmaCtrl k ch a v
    else s
  else if 0x140 ≤ o && o < 0x1C0 then s.queueWrite k ((o - 0x140) / 0x20) ((o - 0x140) % 0x20) a v
  else if o == 0x110 then s.setReg (pKln k + o) v
  else if 0x1000 ≤ o then s.klnEngWrite k o a v
  else if !isHarbour a then (if o < 0x80 || o == 0x104 || o == 0x108 || o == 0x114 || o == 0x118 then s.ignored k a else s)
  else s.klnFwWrite k o v

/-- KSTATUS. -/
def State.kstatus (s : State) (k : Nat) : Word :=
  let es := List.range 8
  let mask := fun (f : Nat → Bool) => es.foldl (fun a e => if f e then a + 2 ^ e else a) 0
  w32 (fld (s.reg (pKln k + 0x104)) 0 1 + 2 * b2n (s.kiln.patched.contains k) + 4 * b2n (s.kiln.patchLock.contains k) +
    256 * mask (fun e => s.awake (8 * k + e)) + 65536 * mask (fun e => s.engHalted (8 * k + e)))

end Sys2Proof.Machine
end

