-- ==== Sys2Proof/Machine/Power.lean ====
section
/-! DEFINITION. Islands: commands, holds, sleep and wake, deep idle (15 R412 to R420). -/
namespace Sys2Proof.Machine

/-- The island is switchable by command (15 R412, 00 R2). -/
def State.cmdIsland (s : State) (i : Nat) : Bool :=
  (decide (193 ≤ i) && decide (i ≤ 216)) || (decide (251 ≤ i) && decide (i ≤ 254)) || (i == 255 && s.dev.h48)

/-- CMD_RESULT: island, code, refusal rule. -/
def State.cmdResult (s : State) (i code rule : Nat) : State := s.setReg (pPwr + 0x108) (w32 (i + 512 * code + 4096 * rule))

/-- A command that finishes. -/
def State.cmdDone (s : State) (i code : Nat) : State := (s.cmdResult i code 0).raise pPwr 0

/-- A command that is refused, by a rule of R416 or because an Ember reset runs (R426). -/
def State.cmdRefuse (s : State) (i rule : Nat) : State := ((s.cmdResult i 1 rule).bump (pPwr + 0x11C)).raise pPwr 2

/-- Condition 2 of R416: traffic, held bytes or port groups in use. -/
def State.poolBusy (s : State) : Bool :=
  s.enabledChans.any (fun c => s.assured c && ((s.chan c).st = .active || (s.chan c).st = .held)) ||
  s.chans.any (fun e => e.2.qOcc != 0 || e.2.retOcc != 0 || e.2.reorderOcc != 0) ||
  (List.range 8).any (fun g => s.mode false g != 0 || s.mode true g != 0)

/-- The kilns both in service and patched, k apart. -/
def State.otherKilns (s : State) (k : Nat) : Nat :=
  ((List.range 24).filter (fun j => j != k && !s.islOff (193 + j) && bit (s.reg (pKln j + 0x104)) 0 && s.kiln.patched.contains j)).length

/-- The rule of R416 that refuses a DOWN: 0 none. -/
def State.downRule (s : State) (i : Nat) : Nat :=
  if !s.cmdIsland i then 1
  else if 251 ≤ i && s.poolBusy then 2
  else if 193 ≤ i && i ≤ 216 && s.otherKilns (i - 193) < 2 then 3
  else if s.pst i == 0 then 4 else 0

/-- The DMA registers of a kiln that a power abort stopped: they stay, because such a channel may resume (15 R418). -/
def State.heldDma (s : State) (k : Nat) : List Nat :=
  (List.range 8).filter (fun ch => fld (s.reg (dmaReg k ch + 8)) 0 4 == 15)

/-- Kiln commons go off: as a unit reset, but for aborted DMA channels. -/
def State.kilnOff (s : State) (k : Nat) : State :=
  let keep := s.heldDma k
  let regs := keep.flatMap (fun ch => [0, 8, 0x0C, 0x10].map (fun o => (dmaReg k ch + o, s.reg (dmaReg k ch + o))))
  let chans := keep.map (fun ch => (ch, s.dma k ch))
  let s1 := (((List.range 8).foldl (fun s e => s.clearEngine (8 * k + e)) s).clearKiln k)
  let s2 := regs.foldl (fun (s : State) (e : Nat × Word) => s.setReg e.1 e.2) s1
  chans.foldl (fun (s : State) (e : Nat × Dma) => s.setDma k e.1 e.2) s2

/-- Registers of a page go, except some. -/
def State.dropPageBut (s : State) (base : Nat) (keep : List Nat) : State :=
  let kept := keep.map (fun o => (base + o, s.reg (base + o)))
  kept.foldl (fun (s : State) (e : Nat × Word) => s.setReg e.1 e.2) (s.dropPage base)

/-- CLS goes off: the Lighthouse keeps the totals of clear frames (02 R52). -/
def State.dropCls (s : State) : State :=
  let kept := s.cnt.filter (fun e => e.1 == pCls + 0x110 || e.1 == pCls + 0x118)
  let s1 := s.dropPage pCls
  { s1 with cnt := s1.cnt ++ kept }

/-- What an island loses as it goes off (15 R412). -/
def State.islandLoses (s : State) (i : Nat) : State :=
  if 1 ≤ i && i ≤ 192 then s.emptyCaches (i - 1)
  else if i ≤ 216 && 193 ≤ i then s.kilnOff (i - 193)
  else if 217 ≤ i && i ≤ 224 then s.resetGroup false (i - 217)
  else if 225 ≤ i && i ≤ 232 then s.resetGroup true (i - 225)
  else if 233 ≤ i && i ≤ 241 then s.dropPageBut (pE (i - 233)) [0x100]
  else if 242 ≤ i && i ≤ 250 then s.dropPageBut (pD (i - 242)) [0x100]
  else if i == 251 then s.dropCls
  else if i == 252 then s.dropPageBut pQmg [0x13C]
  else if i == 253 then s.dropPageBut pAsx [0x150, 0x154, 0x158, 0x15C]
  else if i == 254 || i == 255 then s.dropPageBut (pHbm (i - 254)) [0x100]
  else s

/-- An island goes off. -/
def State.goOff (s : State) (i : Nat) : State := (s.islandLoses i).setPst i 0

/-- An island starts to wake, by command or not. -/
def State.startWake (s : State) (i : Nat) (cmd : Bool) : State :=
  s.setIsland i { s.island i with ps := 2, cmd := cmd, hostDown := false }

/-- An accepted DOWN: the island holds (15 R417). For kiln commons every job completes with STATUS 0x14. -/
def State.startHold (s : State) (i : Nat) : State :=
  let svc := fld (s.reg (pKln (i - 193) + 0x104)) 0 2
  let s1 := (s.setIsland i { s.island i with ps := 3, cmd := true, hostDown := true, savedSvc := svc }).bump (pPwr + 0x114)
  if 193 ≤ i && i ≤ 216 then
    let k := i - 193
    let s2 := (List.range 8).foldl (fun s e => s.drainStores (8 * k + e)) s1
    s2.leaveService k 0x14
  else s1

/-- A command for an island (15 R416, R419, R426). -/
def State.islCmd (s : State) (i : Nat) (up : Bool) : State :=
  let x := s.island i
  if s.dev.dstate = .cold || s.dev.lhOnly then s
  else if s.dev.ember.isSome then s.cmdRefuse i 5
  else if !s.cmdIsland i then s.cmdRefuse i 1
  else if x.ps == 2 then (s.setIsland i { x with kept := some up }).cmdResult i 2 0
  else if up then
    if x.ps == 3 then
      let s1 := s.setIsland i { x with ps := 1, cmd := false, hostDown := false }
      let s2 := if 193 ≤ i && i ≤ 216 then s1.setReg (pKln (i - 193) + 0x104) (setFld (s1.reg (pKln (i - 193) + 0x104)) 0 2 x.savedSvc)
        else s1
      s2.cmdDone i 4
    else if x.ps == 0 then s.startWake i true
    else (s.setIsland i { x with hostDown := false }).cmdDone i 0
  else if x.ps == 3 then s
  else
    let rule := s.downRule i
    if rule != 0 then s.cmdRefuse i rule else s.startHold i

/-- ISL_CMD_UP (15 R419). -/
def execIslCmdUp (i : Fin 260) (s : State) : Host.Outcome State Fault Refusal := gateO (pPwr + 0x100) s fun s => .next (s.islCmd i.val true)

/-- ISL_CMD_DOWN (15 R416). -/
def execIslCmdDown (i : Fin 260) (s : State) : Host.Outcome State Fault Refusal := gateO (pPwr + 0x100) s fun s => .next (s.islCmd i.val false)

/-- A kept command is applied as the transition ends (15 R419). -/
def State.applyKept (s : State) (i : Nat) : State :=
  let x := s.island i
  match x.kept with
  | none => s
  | some up => (s.setIsland i { x with kept := none }).islCmd i up

/-- A hold ends: the island goes off, with a result code. -/
def State.endHold (s : State) (i code : Nat) : State :=
  let x := s.island i
  let s1 := s.goOff i
  (if x.cmd then (s1.setIsland i { s1.island i with cmd := false }).cmdDone i code else s1).applyKept i

/-- POWER_HOLD_DONE (15 R417): every transfer has reached its boundary. -/
def execPowerHoldDone (i : Fin 260) (s : State) : Host.Outcome State Fault Refusal :=
  .next (if s.pst i.val == 3 then s.endHold i.val 0 else s)

/-- HOLD_LIMIT_EXPIRY (15 R418): transfers in flight are aborted. -/
def execHoldLimitExpiry (i : Fin 260) (s : State) : Host.Outcome State Fault Refusal :=
  if s.pst i.val != 3 then .next s
  else
    let s1 := if 193 ≤ i.val && i.val ≤ 216 then s.dmaAbort (i.val - 193) none else s
    .next (((s1.bump (pPwr + 0x118)).raise pPwr 1).endHold i.val 3)

/-- What an island does as it becomes usable (15 R413, R415, 03 R74). -/
def State.islandUp (s : State) (i : Nat) : State :=
  let s1 := s.setPst i 1
  if 1 ≤ i && i ≤ 192 then
    let k := (i - 1) / 8
    let s2 := if s1.kiln.pllOff.contains k then
        (s1.withKiln { s1.kiln with pllOff := s1.kiln.pllOff.filter (· != k) }).setRegFld (pClk + 0x104) k 1 1
      else s1
    s2.runNext (i - 1)
  else if 193 ≤ i && i ≤ 216 then s1.kilnLoad (i - 193)
  else if 233 ≤ i && i ≤ 241 then s1.bumpWrap (pE (i - 233) + 0x104)
  else if 242 ≤ i && i ≤ 250 then s1.bumpWrap (pD (i - 242) + 0x104)
  else s1

/-- ISLAND_WAKE_DONE (15 R415). -/
def execIslandWakeDone (i : Fin 260) (s : State) : Host.Outcome State Fault Refusal :=
  let x := s.island i.val
  if x.ps != 2 then .next s
  else
    let s1 := s.islandUp i.val
    let s2 := if x.cmd then (s1.setIsland i.val { s1.island i.val with cmd := false }).cmdDone i.val 0 else s1
    .next (s2.applyKept i.val)

/-- The unit of an island leaves service (16 R431). -/
def State.islandFails (s : State) (i : Nat) : State :=
  if 1 ≤ i && i ≤ 192 then
    let s1 := s.endAll (i - 1) 0x12
    s1.setEng (i - 1) { s1.eng (i - 1) with halted := true }
  else if 193 ≤ i && i ≤ 216 then s.leaveService (i - 193) 0x14
  else if 217 ≤ i && i ≤ 224 then (List.range 4).foldl (fun s n => s.portDown false (4 * (i - 217) + n)) s
  else if 225 ≤ i && i ≤ 232 then (List.range 4).foldl (fun s n => s.portDown true (4 * (i - 225) + n)) s
  else if 233 ≤ i && i ≤ 241 then s.squelch 0 (i - 233) true
  else if 242 ≤ i && i ≤ 250 then s.squelch 1 (i - 242) true
  else s

/-- ISLAND_SWITCH_TIMEOUT (15 R415, 16 R431): the island has not reached its commanded state within 1 ms. -/
def execIslandSwitchTimeout (i : Fin 260) (s : State) : Host.Outcome State Fault Refusal :=
  .next (if 2 ≤ s.pst i.val then (s.fault pPwr 0).islandFails i.val else s)

/-- The engine has a runnable context or runs a handler. -/
def State.engBusy (s : State) (n : Nat) : Bool :=
  let e := s.eng n
  e.run.isSome || e.mc || e.ctxs.any (fun c => (c.2.st == 2 && !c.2.parked) || c.2.st == 3)

/-- ENGINE_SLEEP (15 R413, 07 R186). -/
def execEngineSleep (n : Fin 192) (s : State) : Host.Outcome State Fault Refusal :=
  .next (if s.awake n.val && !s.engBusy n.val then s.goOff (1 + n.val) else s)

/-- ENGINE_WAKE (15 R413): a sleeping engine of a kiln whose commons are on starts to wake. -/
def execEngineWake (n : Fin 192) (s : State) : Host.Outcome State Fault Refusal :=
  .next (if s.pst (1 + n.val) == 0 && !s.islOff (193 + n.val / 8) then s.startWake (1 + n.val) false else s)

/-- KILN_PLL_STOP (15 R413): every engine of the kiln sleeps. -/
def execKilnPllStop (k : Fin 24) (s : State) : Host.Outcome State Fault Refusal :=
  .next (if (List.range 8).all (fun e => s.pst (1 + 8 * k.val + e) == 0) && !s.islOff (193 + k.val) then
      (s.withKiln { s.kiln with pllOff := ins s.kiln.pllOff k.val }).setRegFld (pClk + 0x104) k.val 1 0
    else s)

/-! Deep idle (15 R420). -/

/-- A lane unit that R414 keeps on. -/
def State.laneWanted (s : State) (d n : Nat) : Bool :=
  let a := s.assignOf d n
  let g := fld a 0 4
  if bit a 5 then false
  else if g == 15 then bit a 4
  else s.enabledChans.any (fun c => s.spg c == g && (!bit a 6 || s.isStream c))

/-- The island should be on under R330 and R414. -/
def State.wanted (s : State) (i : Nat) : Bool :=
  if 217 ≤ i && i ≤ 224 then s.mode false (i - 217) != 0
  else if 225 ≤ i && i ≤ 232 then s.mode true (i - 225) != 0
  else if 233 ≤ i && i ≤ 241 then s.laneWanted 0 (i - 233)
  else if 242 ≤ i && i ≤ 250 then s.laneWanted 1 (i - 242)
  else false

/-- Brings the islands of port groups and lane units to what the live generation wants. -/
def State.followGen (s : State) : State :=
  (List.range 34).foldl (fun s j =>
    let i := 217 + j
    if s.wanted i && s.pst i == 0 then s.startWake i false
    else if !s.wanted i && s.pst i != 0 then s.goOff i else s) s

/-- Entering deep idle: islands 1 to 255 go off; the jobs of the kilns end as a power-down ends them (15 R417). -/
def State.deepEnter (s : State) : State :=
  let s1 := (List.range 24).foldl (fun s k => if s.islOff (193 + k) then s else s.leaveService k 0x14) s
  let s2 := (List.range 255).foldl (fun s j => if s.pst (1 + j) == 0 then s else s.goOff (1 + j)) s1
  ((s2.setReg (pPwr + 0x10C) 1).setRegFld (pPwr + 0x110) 0 1 1).raise pPwr 3

/-- Deep idle is on. -/
def State.deepIdle (s : State) : Bool := bit (s.reg (pPwr + 0x110)) 0

/-- DEEP_IDLE_ENTER. -/
def execDeepIdleEnter (s : State) : Host.Outcome State Fault Refusal := gateO (pPwr + 0x10C) s fun s =>
  if s.dev.dstate = .cold || s.dev.lhOnly || s.deepIdle then .next s
  else if s.dev.ember.isSome || s.poolBusy || s.peerKeyed != 0 then .next ((s.bump (pPwr + 0x11C)).raise pPwr 2)
  else .next s.deepEnter

/-- Leaving deep idle: HBM, CLS, QMG, ASX and the kilns wake, except islands that the host commanded down, and lane units
and port groups follow the live generation. -/
def State.deepLeave (s : State) : State :=
  if !s.deepIdle then s
  else
    let s1 := (s.setReg (pPwr + 0x10C) 0).setRegFld (pPwr + 0x110) 0 1 0
    let up := (List.range 24).map (193 + ·) ++ [251, 252, 253, 254] ++ (if s.dev.h48 then [255] else [])
    let s2 := up.foldl (fun s i => if s.pst i == 0 && !(s.island i).hostDown then s.startWake i false else s) s1
    s2.followGen

/-- DEEP_IDLE_LEAVE: a write of 0. -/
def execDeepIdleLeave (s : State) : Host.Outcome State Fault Refusal := gateO (pPwr + 0x10C) s fun s => .next s.deepLeave

end Sys2Proof.Machine
end

