-- ==== Sys2Proof/Machine/Gen.lean ====
section
/-! DEFINITION. Configuration generations: the green copy, the checks of a firing and the switch (13 R369 to R375,
02 R41 to R43, 04 R110, 05 R128, R129, 12 R333, R345). -/
namespace Sys2Proof.Machine

/-- Sets FIRE_RESULT. -/
def State.fireResult (s : State) (code page : Nat) : State :=
  let (blk, inst) := if page == 0 then (0, 0) else pageCode (page / 0x1000)
  s.setReg (pCfg + 0x11C) (w32 (code + 65536 * blk + 16777216 * inst))

/-- GREEN_OPEN (13 R369). -/
def execGreenOpen (v : Word) (s : State) : Host.Outcome State Fault Refusal := gateO (pCfg + 0x100) s fun s =>
  .next (if bit v 0 && s.gen.phase == 0 then s.withGen { s.gen with phase := 1, green := s.gen.live } else s)

/-- GREEN_ABORT (13 R369). -/
def execGreenAbort (v : Word) (s : State) : Host.Outcome State Fault Refusal := gateO (pCfg + 0x10C) s fun s =>
  .next (if bit v 0 && s.gen.phase == 1 then s.withGen { s.gen with phase := 0, green := [] } else s)

/-- FIRE (13 R370). -/
def execFire (v : Word) (s : State) : Host.Outcome State Fault Refusal := gateO (pCfg + 0x104) s fun s =>
  if !bit v 0 then .next s
  else if s.gen.phase == 0 then .next (s.fireResult 3 0)
  else if s.gen.phase == 1 then .next (s.withGen { s.gen with phase := 2, refire := false })
  else .next (s.fireResult 2 0)

/-- REFIRE (13 R373). -/
def execRefire (v : Word) (s : State) : Host.Outcome State Fault Refusal := gateO (pCfg + 0x108) s fun s =>
  let g := s.gen
  if !bit v 0 then .next s
  else if 2 ≤ g.phase then .next (s.fireResult 2 0)
  else if g.phase == 0 && g.refireOk then .next (s.withGen { g with phase := 2, refire := true, green := g.prev })
  else .next (s.fireResult 4 0)

/-! The checks. Each gives the fault number, and the channel, group or port it names; 0 when there is none. -/

/-- Transmit and receive words of the copy under check. -/
def State.gt (s : State) (c i : Nat) : Word := s.txw true c i
def State.gr (s : State) (c i : Nat) : Word := s.rxw true c i

/-- Channels with EN in either entry, ascending (02 R41). -/
def State.checked (s : State) : List Nat := (chansOf s.gen.green).filter (fun c => bit (s.gt c 0) 0 || bit (s.gr c 0) 0)

def gCls (w : Word) : Nat := fld w 1 2
def gFmt (w : Word) : Nat := fld w 3 2
def gSpg (w : Word) : Nat := fld w 5 3
def State.gMode (s : State) (strait : Bool) (g : Nat) : Nat := fld (s.gv (pPort strait g + 0x100)) 0 4

/-- Items 1 to 4 and 6 of R41 for a channel. -/
def State.clsItem (s : State) (i c : Nat) : Bool :=
  let t := s.gt c 0
  let r := s.gr c 0
  let st := gCls t == 2
  if i == 1 then
    gCls t == 3 || gCls r == 3 || fld t 10 2 == 3 || (!st && gFmt t == 3) || (gCls r != 2 && gFmt r == 3)
  else if i == 2 then
    (gCls t == 0 && (gFmt t == 1 || gFmt t == 2)) || (gCls r == 0 && (gFmt r == 1 || gFmt r == 2))
  else if i == 3 then
    bit t 0 != bit r 0 || gCls t != gCls r || gSpg t != gSpg r || (!st && gFmt t != gFmt r)
  else if i == 4 then
    if st then
      let th := fld (s.gt c 6) 0 3
      let rh := fld (s.gr c 4) 0 3
      let m := s.gMode true (gSpg t)
      th != rh || !modeOtn m || s.gMode false th != m
    else modeOtn (s.gMode true (gSpg t)) || modeOtn (s.gMode false (fld r 8 5 / 4))
  else
    let len := fld (s.gt c 1) 0 14
    (len != 0 && (len < 64 || 10240 < len)) || 30 < fld (s.gr c 1) 16 5 ||
      (gCls t == 0 && fld (s.gt c 2) 16 8 ≤ fld (s.gt c 2) 24 8)

/-- The first channel of a list that repeats a key of an earlier one. -/
def firstShare (key : Nat → List Nat) : List Nat → List Nat → Option Nat
  | _, [] => none
  | seen, c :: t => if (key c).any seen.contains then some c else firstShare key (seen ++ key c) t

/-- The first channel at which the running sum exceeds the cap. -/
def firstOver (share : Nat → Nat) (cap : Nat) : Nat → List Nat → Option Nat
  | _, [] => none
  | sum, c :: t => if cap < sum + share c then some c else firstOver share cap (sum + share c) t

/-- The lower of two channels found. -/
def lower : Option Nat → Option Nat → Option Nat
  | some a, some b => some (min a b)
  | some a, none => some a
  | none, b => b

/-- Items 5, 7 and 8 of R41: the channel they name. -/
def State.clsShare (s : State) (i : Nat) (cs : List Nat) : Option Nat :=
  if i == 5 then
    let streams := cs.filter (fun c => gCls (s.gt c 0) == 2)
    let pair := firstShare (fun c => [fld (s.gt c 6) 0 3, 8 + gSpg (s.gt c 0)]) [] streams
    let named := (List.range 8).filterMap (fun g =>
      let w := s.gv (pCls + 0x140 + 4 * g)
      if bit w 0 && !streams.contains (fld w 1 13) then some (fld w 1 13) else none)
    lower pair (named.foldl (fun m c => lower m (some c)) none)
  else if i == 7 then
    let as := cs.filter (fun c => gCls (s.gt c 0) == 0)
    let ret := firstOver (fun c => fld (s.gt c 2) 0 16) (256 * fld (s.gv (pQmg + 0x118)) 0 8) 0 as
    if ret.isSome then ret
    else firstOver (fun c => fld (s.gr c 1) 0 16) (256 * fld (s.gv (pQmg + 0x11C)) 0 8) 0 as
  else
    let ms := cs.filter (fun c => gCls (s.gt c 0) != 2 && (gFmt (s.gt c 0) == 1 || gFmt (s.gt c 0) == 2))
    firstShare (fun c => [gSpg (s.gt c 0) * 2 ^ 64 + (s.gr c 2).toNat + 2 ^ 32 * (s.gr c 3).toNat]) [] ms

/-- The check of CLS (02 R41): fault and channel. -/
def State.clsCheck (s : State) : Nat × Nat :=
  let cs := s.checked
  let found := [1, 2, 3, 4, 5, 6, 7, 8].findSome? (fun i =>
    let c := if i == 5 || i == 7 || i == 8 then s.clsShare i cs else cs.find? (s.clsItem i)
    c.map (fun c => (i, c)))
  found.getD (0, 0)

/-- Enabled pairs of the copy under check: index, working group, protect group. -/
def State.gPairs (s : State) : List (Nat × Nat × Nat) :=
  (List.range 4).filterMap (fun p =>
    let w := s.gv (pAsx + 0x140 + 4 * p)
    if bit w 0 then some (p, fld w 1 3, fld w 4 3) else none)

/-- The first pair that names a group twice or one that an earlier pair names. -/
def pairClash : List Nat → List (Nat × Nat × Nat) → Option Nat
  | _, [] => none
  | seen, (p, w, r) :: t =>
    if w == r || seen.contains w || seen.contains r then some p else pairClash (w :: r :: seen) t

/-- The check of ASX (04 R110): fault, and group or pair. -/
def State.asxCheck (s : State) : Nat × Nat :=
  let ps := s.gPairs
  match pairClash [] ps with
  | some p => (1, p)
  | none =>
    match ps.find? (fun (_, w, r) => s.gMode true w != s.gMode true r) with
    | some (p, _, _) => (2, p)
    | none =>
      match s.checked.find? (fun c => ps.any (fun (_, _, r) => r == gSpg (s.gt c 0))) with
      | some c => (3, gSpg (s.gt c 0))
      | none =>
        let strand := fld (s.gv (pAsx + 0x110)) 0 7
        if fld (s.gv (pAsx + 0x10C)) 0 16 < 3 * fld (s.gv (pAsx + 0x108)) 0 16 || strand == 0 || 100 < strand then (4, 0)
        else (0, 0)

/-- Partition sizes of a copy in units of 256 MiB. -/
def State.parts (s : State) (new : Bool) : List Nat :=
  [0x118, 0x11C, 0x120, 0x124].map (fun o => fld (s.cv new (pQmg + o)) 0 8)

/-- META in MiB for a retention partition (05 R128). -/
def metaMib (ret : Nat) : Nat := cdiv ret 15 + cdiv (ret * 2128) 1048576 + 256

/-- The check of QMG (05 R129). -/
def State.qmgCheck (s : State) : Nat :=
  let ps := s.parts true
  let used := 256 * ps.foldl (· + ·) 0
  let total := if s.dev.h48 then 49152 else 24576
  let wm := s.gv (pQmg + 0x108)
  let rx := fld (s.gv (pQmg + 0x100)) 0 18
  if s.dev.dstate ≠ .boot && s.dev.dstate ≠ .staged && ps != s.parts false then 1
  else if total < used + metaMib (256 * ps.headD 0) then 2
  else if rx < 16384 || 131072 < rx then 3
  else if fld wm 0 8 ≤ fld wm 8 8 then 4
  else if fld (s.gv (pQmg + 0x104)) 0 16 == 0 || fld (s.gv (pQmg + 0x10C)) 0 16 < 41 then 5
  else 0

/-- Index of the first of a port's PCFG words that a predicate picks. -/
def State.firstPcfg (s : State) (strait : Bool) (g : Nat) (p : Nat → Word → Bool) : Option Nat :=
  (List.range 4).find? (fun n => p n (s.gv (pPort strait g + 0x110 + 4 * n)))

/-- The check of a port group (12 R333): fault, port and channel. -/
def State.portCheck (s : State) (strait : Bool) (g : Nat) : Nat × Nat × Nat :=
  let gc := s.gv (pPort strait g + 0x100)
  let m := fld gc 0 4
  let up := fld (s.gv (pPort strait g + 0x104)) 0 10
  let lacks := fun n => decide (modePorts m ≤ n)
  if 12 ≤ m || (bit gc 4 && m != 5) then (1, 0, 0)
  else if up < 1 || 1000 < up then (2, 0, 0)
  else
    match s.firstPcfg strait g (fun _ w => fld w 0 2 == 3 || (strait && bit w 3)) with
    | some n => (2, n, 0)
    | none =>
      match s.firstPcfg strait g (fun n w => (lacks n && fld w 0 5 != 0) || (modeOtn m && fld w 2 3 != 0)) with
      | some n => (3, n, 0)
      | none =>
        let bad := fun c => if strait then gSpg (s.gt c 0) == g && lacks (fld (s.gt c 0) 8 2)
          else gCls (s.gt c 0) != 2 && fld (s.gr c 0) 8 5 / 4 == g && (lacks (fld (s.gr c 0) 8 2) || modeOtn m)
        match s.checked.find? bad with
        | some c => (4, if strait then fld (s.gt c 0) 8 2 else fld (s.gr c 0) 8 2, c)
        | none =>
          if strait && m == 11 && s.gMode true (if g % 2 == 0 then g + 1 else g - 1) != 0 then (5, 0, 0) else (0, 0, 0)

/-- Records what a block's check found: FIRE_CHECK, CHECK_FAIL and, on a refusal, its event. -/
def State.checkPage (s : State) (page fc fault val ev : Nat) : State :=
  let s1 := (s.setReg (page + fc) (w32 val)).setRegFld (page + 0x44) 1 1 (b2n (fault != 0))
  if fault == 0 then s1 else s1.raise page ev

/-- The checks of every block in the order of the page map, with the first page that refuses. -/
def State.allChecks (s : State) : State × Option Nat :=
  let ports := (List.range 16).map (fun i => (decide (8 ≤ i), i % 8))
  let pf := ports.map (fun (st, g) => (pPort st g, s.portCheck st g))
  let cls := s.clsCheck
  let asx := s.asxCheck
  let q := s.qmgCheck
  let s1 := pf.foldl (fun s (pg, k, n, c) => s.checkPage pg 0x108 k (k + 16 * n + 64 * c) 5) s
  let s2 := s1.checkPage pCls 0x120 cls.1 (cls.1 + 16 * cls.2) 0
  let s3 := s2.checkPage pAsx 0x120 asx.1 (asx.1 + 16 * asx.2) 8
  let s4 := s3.checkPage pQmg 0x12C q q 3
  let bad := (pf.map (fun (pg, k, _, _) => (pg, k))) ++ [(pCls, cls.1), (pAsx, asx.1), (pQmg, q)]
  (s4, (bad.find? (fun e => e.2 != 0)).map Prod.fst)

/-- Valid exact-match entries of the copy under check, ascending. -/
def State.gEntries (s : State) : List Nat :=
  ((s.gen.green.foldl (fun acc e => if 0x1100000 ≤ e.1 && e.1 < 0x1140000 then insAsc ((e.1 - 0x1100000) / 16) acc else acc) [])).filter
    (fun i => bit (s.emw true i 0) 0)

/-- The key that an exact-match entry holds. -/
def State.emKey (s : State) (i : Nat) : Nat := (s.emw true i 1).toNat + 2 ^ 32 * fld (s.emw true i 2) 0 3

/-- The higher index of the first pair of entries with one key (02 R42). -/
def dupIndex : List (Nat × Nat) → List Nat → Option Nat
  | [], _ => none
  | (k, i) :: t, seen => if seen.contains k then some i else dupIndex t (k :: seen)

/-- The two conditions of R42 that refuse nothing. -/
def State.tableChecks (s : State) : State :=
  let es := s.gEntries
  let s1 := match dupIndex (es.map (fun i => (s.emKey i, i))) [] with
    | some i => (s.setReg (pCls + 0x124) (w32 i)).raise pCls 1
    | none => s
  if es.any (fun i => s.bucket true (s.emKey i) (i / 8192) != i % 8192 / 4) then s1.raise pCls 2 else s1

/-- FIRE_CHECKS_DONE (13 R370): refused with code 1, or the switch begins. -/
def execFireChecksDone (s : State) : Host.Outcome State Fault Refusal :=
  let g := s.gen
  if g.phase != 2 then .next s
  else
    let (s1, bad) := s.tableChecks.allChecks
    match bad with
    | some pg =>
      let back := if g.refire then { g with phase := 0, refire := false, green := [] } else { g with phase := 1 }
      .next (((s1.withGen back).fireResult 1 pg).raise pCfg 1)
    | none => .next (s1.withGen { g with phase := 3, passed := [] })

/-! The switch (13 R371). -/

/-- PORT_SWITCH_POINT: an ingress port's first frame boundary after the checks pass. -/
def execPortSwitchPoint (side : Side) (p : Fin 32) (s : State) : Host.Outcome State Fault Refusal :=
  .next (if s.gen.phase == 3 then s.withGen { s.gen with passed := ins s.gen.passed (32 * b2n (sideB side) + p.val) } else s)

/-- The switch changes what R43 names of a channel that runs. -/
def State.recast (s : State) (c : Nat) : Bool :=
  let o := s.txw false c 0
  let n := s.gt c 0
  ((s.chan c).st = .active || (s.chan c).st = .held) &&
    (!(bit n 0 && bit (s.gr c 0) 0) || gCls o != gCls n || gSpg o != gSpg n || (gFmt o != gFmt n && !(gCls o == 2 && gCls n == 2)))

/-- The firing changes what R345 names of a group. -/
def State.regroup (s : State) (strait : Bool) (g : Nat) : Bool :=
  let m : Word := 0xFF7F
  (s.lv (pPort strait g + 0x100) &&& m) != (s.gv (pPort strait g + 0x100) &&& m)

/-- Every port of a group goes down and starts its bring-up again. -/
def State.restartGroup (s : State) (strait : Bool) (g : Nat) : State :=
  (List.range 4).foldl (fun s n =>
    let s1 := s.portDown strait (4 * g + n)
    s1.setPort strait (4 * g + n) { s1.port strait (4 * g + n) with step := 0, anFail := false, ltFail := false }) s

/-- The units that carry a seal lane 1 under the live generation: ASSIGN of each direction (03 R56). -/
def State.laneRoles (s : State) : State :=
  [0, 1].foldl (fun s d => (List.range 9).foldl (fun s n =>
    let a := s.assignOf d n
    let g := fld a 0 4
    let pair := if g % 2 == 0 then g + 1 else g - 1
    let two := fun g => s.mode true g == 11 && s.enabledChans.any (fun c => s.spg c == g && s.isStream c)
    if g == 15 then s
    else if bit a 6 && !two g then s.setReg (pLane d n + 0x100) (setFld (setFld a 6 1 0) 0 4 pair)
    else if !bit a 6 && two pair && s.mode true g == 0 then s.setReg (pLane d n + 0x100) (setFld (setFld a 6 1 1) 0 4 pair)
    else s) s) s

/-- Sensing after a switch: a group whose probing is disabled goes OFF, and a changed PROBE_US clears the windows and
the hits of the delay tests (11 R324, R326). -/
def State.senseSwitch (s : State) (oldUs : Nat) : State :=
  let s1 := (List.range 8).foldl (fun s g =>
    if s.senseMode g != 0 && !(bit (s.lv (pSns + 0x100)) 16 && bit (s.lv (sGrp g)) 2) then s.senseOff g else s) s
  if fld (s1.lv (pSns + 0x100)) 0 16 == oldUs then s1
  else
    let s2 := (List.range 8).foldl (fun s g => s.setSense g { s.sense g with hits := (s.sense g).hits.filter (fun e => decide (8 ≤ e.1)) }) s1
    (List.range 32).foldl (fun s p => s.setPort true p { s.port true p with done := 0, probes := [] }) s2

/-- LIVE_GEN + 1, skipping 0. -/
def nextGen (n : Word) : Word := if n == 0xFFFFFFFF then 1 else n + 1

/-- The copies and numbers after a switch. -/
def Gen.switched (g : Gen) : Gen :=
  { g with phase := 0, refire := false, live := g.green, green := [], prev := g.live, liveNo := nextGen g.liveNo, prevNo := g.liveNo, refireOk := !g.refire && g.liveNo != 0, passed := [] }

/-- The OTN groups without a Stream channel send ODU-OCI. -/
def State.sendOcis (s : State) : State := (List.range 8).foldl (fun s g => (s.sendOci false g).sendOci true g) s

/-- What the new generation makes of ports, lanes, islands, peers and channels. -/
def State.afterSwitch (s : State) (oldUs : Nat) : State :=
  let s1 := ((s.laneRoles).senseSwitch oldUs).followGen
  let anyPort := (List.range 8).any (fun g => s1.mode false g != 0 || s1.mode true g != 0)
  let s2 := if anyPort then s1.deepLeave else s1
  let s3 := (List.range 8).foldl (fun s g => s.pathCheck g) s2
  let s4 := s3.enabledChans.foldl (fun s c => (s.activate c).settle c) s3
  let s5 := (List.range 8).foldl (fun s w => s.strandCheck w) s4
  s5.xoffAll.keyScanAll.sendOcis

/-- Frames of the old generation that are still arriving are finished. -/
def State.finishOld (s : State) : State :=
  (List.range 32).foldl (fun s p =>
    match (s.port false p).arr with
    | some a => if a.newGen then s else s.finishArr p
    | none => s) s

/-- Channels that the switch recasts close by policy. -/
def State.closeRecast (s : State) : State :=
  ((chansOf s.gen.live).filter s.recast).foldl (fun s c => s.closeReport c 2) s

/-- Port groups whose mode the switch changes start anew. -/
def State.regroupAll (s : State) : State :=
  (((List.range 16).map (fun i => (decide (8 ≤ i), i % 8))).filter (fun e => s.regroup e.1 e.2)).foldl
    (fun s e => s.restartGroup e.1 e.2) s

/-- A channel whose CLIMIT the switch changed notes when (04 R101): the refresh repeats its ACK. -/
def State.climitChanged (s old : State) : State :=
  { s with chans := s.chans.map (fun e => if s.climitOf e.1 == old.climitOf e.1 then e else (e.1, { e.2 with ackChange := s.dev.mono })) }

/-- The switch itself: the green copy becomes the live one. -/
def State.switchOver (s : State) (ns : Word) : State :=
  let oldUs := fld (s.lv (pSns + 0x100)) 0 16
  let s1 := (s.withGen s.gen.switched).climitChanged s
  let s2 := ((s1.fireResult 0 0).setReg (pCfg + 0x130) ns).bump (pCfg + 0x12C)
  (s2.afterSwitch oldUs).raise pCfg 0

/-- Every existing port has passed its switch point (13 R371). -/
def State.allPassed (s : State) : Bool :=
  (List.range 64).all (fun i => !s.portExists (decide (32 ≤ i)) (i % 32) || s.gen.passed.contains i)

/-- GENERATION_SWITCH_DONE (13 R371, R374): every port has passed its switch point, and no frame carries the old bit any more. -/
def execGenerationSwitchDone (ns : Word) (s : State) : Host.Outcome State Fault Refusal :=
  if s.gen.phase != 3 || !s.allPassed then .next s
  else
    let s1 := s.finishOld.closeRecast.regroupAll
    let s2 := s1.switchOver ns
    .next (if s1.gen.liveNo == 0 && s2.dev.dstate = .boot && s2.dev.ember.isNone then ((s2.setDState .staged).setStage 6).tally else s2)

end Sys2Proof.Machine
end

