-- ==== Sys2Proof/Machine/Header.lean ====
section
/-! DEFINITION. The common page header (14 R386 to R390), the routes and the MSI-X messages (14 R396, R397). Each
register has one operation, which the host's row, a DMA ring and a harbour core's store all use. -/
namespace Sys2Proof.Machine

/-- Event bits that the page's chapter defines. -/
def evtMask (pb : Nat) : Word :=
  let pg := pb / 0x1000
  if pg == 0 || pg == 0xA then 1
  else if pg == 1 || pg == 9 || pg == 0x50 || pg == 0x70 || pg == 0x80 then 0xF
  else if pg == 4 then 0x7F
  else if pg == 8 || pg == 0xB || pg == 0x20 || pg == 0x60 || pg == 0x61 || pg == 0x78 || pg == 0x90 || pg == 0x98 then 7
  else if pg == 0xC then 0x1F
  else if 0x10 ≤ pg && pg < 0x20 || 0x30 ≤ pg && pg < 0x39 || 0x44 ≤ pg && pg < 0x4D then 0x3F
  else if pg == 0x40 then 0x1FF
  else if pg == 0x88 then 3
  else if 0x100 ≤ pg && pg < 0x280 then (if pg % 16 == 0 then 0xFF else if pg % 16 ≤ 8 then 0xF else 0)
  else 0

/-- Fault bits that the page's chapter defines. -/
def faultMask (pb : Nat) : Word :=
  (List.range 8).foldl (fun (a : Word) b =>
    match evNum pb b with
    | some n => if ftClass n != 0 then a ||| w32 (2 ^ b) else a
    | none => a) 0

/-- The kiln and engine pages belong to firmware (14 R385). -/
def fwPage (pb : Nat) : Bool := decide (0x100000 ≤ pb)

/-- A write of a header register: firmware's pages take only firmware's, and LOCK or an off island may bar it. -/
def State.headW (s : State) (host : Bool) (off : Nat) (go : State → State) : State :=
  if host && fwPage off then s.fwWrite
  else match s.barred off with
    | some t => t
    | none => go s

/-- A write of LOCK, EVT_PEND or FAULT_PEND, which LOCK does not bar. -/
def State.headU (s : State) (host : Bool) (off : Nat) (go : State → State) : State :=
  if host && fwPage off then s.fwWrite
  else if !s.dev.h48 && off / 0x1000 == 0x61 then s
  else if s.islOff (islandAt off) then s.offWrite
  else go s

/-- LOCK (14 R390). -/
def State.lockWrite (s : State) (host : Bool) (pb : Nat) (v : Word) : State :=
  s.headU host (pb + 0x34) fun s =>
    if v == 0x5A5A0001 then s.setReg (pb + 0x34) 1
    else if v == 0x5A5A0000 then s.setReg (pb + 0x34) 0
    else s

/-- Events of a page behind the bits of a word. -/
def eventsOf (pb : Nat) (w : Word) : List Nat :=
  (List.range 16).filterMap (fun b => if bit w b then evNum pb b else none)

/-- EVT_PEND (14 R387): clears raw bits; the vector routed from a cleared pending bit becomes due where its cause is
still 1 (14 R397). -/
def State.evtClear (s : State) (host : Bool) (pb : Nat) (v : Word) : State :=
  s.headU host (pb + 0x18) fun s =>
    let cleared := s.evtPend pb &&& v
    let s1 := s.setReg (pb + 0x10) (s.reg (pb + 0x10) &&& ~~~v)
    if !host then s1
    else (eventsOf pb cleared).foldl (fun s n =>
      let w := s.route n
      if bit w 8 && s.cause (fld w 0 8) then s.makeDue (fld w 0 8) else s) s1

/-- EVT_FORCE (14 R387). -/
def State.evtForce (s : State) (host : Bool) (pb : Nat) (v : Word) : State :=
  s.headW host (pb + 0x1C) fun s =>
    (List.range 16).foldl (fun s b => if bit (v &&& evtMask pb) b then s.raise pb b else s) s

/-- EVT_EN (14 R386, R387): a raw bit that becomes enabled is pending at once. -/
def State.evtEnable (s : State) (host : Bool) (pb : Nat) (v : Word) : State :=
  s.headW host (pb + 0x14) fun s =>
    let s1 := s.setReg (pb + 0x14) (v &&& evtMask pb)
    (eventsOf pb (s1.evtPend pb &&& ~~~(s.evtPend pb))).foldl (fun t n => State.dueFrom s t n) s1

/-- FAULT_EN (14 R386, R388): a raw fault that becomes enabled is pending. -/
def State.faultEnable (s : State) (host : Bool) (pb : Nat) (v : Word) : State :=
  s.headW host (pb + 0x24) fun s =>
    let old := s.reg (pb + 0x20) &&& s.reg (pb + 0x24)
    let s1 := s.setReg (pb + 0x24) (v &&& faultMask pb)
    if (s1.reg (pb + 0x20) &&& s1.reg (pb + 0x24)) &&& ~~~old != 0 then s1.raise pSaf 0 else s1

/-- FAULT_PEND (14 R388): clears raw bits and no reaction. -/
def State.faultClear (s : State) (host : Bool) (pb : Nat) (v : Word) : State :=
  s.headU host (pb + 0x28) fun s => s.setReg (pb + 0x20) (s.reg (pb + 0x20) &&& ~~~v)

/-- HOST_ROUTE (14 R396, R397): the vectors that the route named before and names after become due where their cause
is 1. -/
def State.routeWrite (s : State) (n : Nat) (v : Word) : State :=
  s.headW true (0x3100 + 4 * n) fun s =>
    let old := s.route n
    let new := v &&& 0xFFFF
    let s1 := s.withPci { s.pci with routes := tput s.pci.routes n new }
    if new == old then s1
    else [old, new].foldl (fun s w => if bit w 8 && s.cause (fld w 0 8) then s.makeDue (fld w 0 8) else s) s1

/-- A host access that the function answers. -/
def State.hosted (s : State) (go : State → State) : Host.Outcome State Fault Refusal :=
  .next (if s.hostGone then s else go s)

/-- LOCK_WRITE. -/
def execLockWrite (p : Page) (v : Word) (s : State) : Host.Outcome State Fault Refusal :=
  s.hosted (·.lockWrite true (pageOff p) v)

/-- EVT_PEND_CLEAR. -/
def execEvtPendClear (p : Page) (v : Word) (s : State) : Host.Outcome State Fault Refusal :=
  s.hosted (·.evtClear true (pageOff p) v)

/-- EVT_FORCE. -/
def execEvtForce (p : Page) (v : Word) (s : State) : Host.Outcome State Fault Refusal :=
  s.hosted (·.evtForce true (pageOff p) v)

/-- EVT_EN_WRITE. -/
def execEvtEnWrite (p : Page) (v : Word) (s : State) : Host.Outcome State Fault Refusal :=
  s.hosted (·.evtEnable true (pageOff p) v)

/-- FAULT_PEND_CLEAR. -/
def execFaultPendClear (p : Page) (v : Word) (s : State) : Host.Outcome State Fault Refusal :=
  s.hosted (·.faultClear true (pageOff p) v)

/-- HOST_ROUTE_WRITE. -/
def execHostRouteWrite (n : Fin 640) (v : Word) (s : State) : Host.Outcome State Fault Refusal :=
  s.hosted (·.routeWrite n.val v)

/-- The vector's message may leave (14 R381, R397). -/
def State.msixOpen (s : State) (v : Nat) : Bool :=
  s.pci.msixEn && s.pci.busMaster && !s.pci.fnMask && !s.pci.d3hot && !bit (tget s.pci.table v {}).ctrl 0

/-- MSIX_MESSAGE (14 R397): the moment at which a due vector's message would leave; a masked or disabled vector sends
nothing. -/
def execMsixMessage (v : Fin 256) (s : State) : Host.Outcome State Fault Refusal :=
  if !s.pci.due.contains v.val then .next s
  else
    let e := tget s.pci.table v.val {}
    let s1 := s.withPci { s.pci with due := s.pci.due.filter (· != v.val) }
    .next (if s.msixOpen v.val then
      s1.emit (.msix v.val (BitVec.ofNat 64 (e.addrLo.toNat + 2 ^ 32 * e.addrHi.toNat)) e.data) else s1)

/-- A write of dword d of an MSI-X table entry: unmasking a vector whose cause is 1 makes it due. -/
def State.msixTable (s : State) (v d : Nat) (w : Word) : State :=
  let e := tget s.pci.table v {}
  let e1 : Msix := if d == 0 then { e with addrLo := w &&& 0xFFFFFFFC } else if d == 1 then { e with addrHi := w }
    else if d == 2 then { e with data := w } else { e with ctrl := w &&& 1 }
  let s1 := s.withPci { s.pci with table := tput s.pci.table v e1 }
  if bit e.ctrl 0 && !bit e1.ctrl 0 && !s.pci.fnMask && s1.cause v then s1.makeDue v else s1

end Sys2Proof.Machine
end

