-- ==== Sys2Proof/Machine/FwRegs.lean ====
section
/-! DEFINITION. Firmware's writes of the registers it owns (07 R218, R219, 13 R363, R376, 14 R385): the ENG pages, the
context window, the KLN pages, FW_ROUTE and FIXED_CNT. Other registers take no write from firmware, TIM's apart
(11 R311). -/
namespace Sys2Proof.Machine

/-- Line i of an engine agrees: enabled at level 1, its vector is a multiple of 4 below 0x8000 (13 R376). -/
def lineOk (en level vec : Word) (i : Nat) : Bool :=
  !(bit en i && bit level i) || (vec.toNat % 4 == 0 && decide (vec.toNat < 0x8000))

/-- A write of INT_EN, INT_LEVEL or INT_VEC[i]: each line that agrees takes its new set, the others keep theirs. -/
def State.intWrite (s : State) (n o : Nat) (v : Word) : State :=
  let b := pEng n
  let s1 := s.hold (b + o) v
  let en := s1.written (b + 0x134) (s.reg (b + 0x134))
  let lv := s1.written (b + 0x138) (s.reg (b + 0x138))
  let vec := fun i => s1.written (b + 0x180 + 4 * i) (s.reg (b + 0x180 + 4 * i))
  let touched := if o < 0x140 then List.range 16 else [(o - 0x180) / 4]
  let s2 := touched.foldl (fun s i =>
    if lineOk en lv (vec i) i then
      (((s.setRegFld (b + 0x134) i 1 (fld en i 1)).setRegFld (b + 0x138) i 1 (fld lv i 1)).setReg (b + 0x180 + 4 * i) (vec i)).unhold
        (b + 0x180 + 4 * i) (b + 0x184 + 4 * i)
    else s) s1
  let drop := fun (s : State) (r : Nat) (w : Word) => if s.reg (b + r) == w then s.unhold (b + r) (b + r + 4) else s
  let s3 := drop (drop s2 0x134 en) 0x138 lv
  if touched.all (fun i => lineOk en lv (vec i) i) then s3.agreed 0 else s3.disagree (b + o)

/-- ENG.CTRL (07 R218): PFLUSH clears the predictor; HALT stops the engine at the bundle boundary, or lets it leave halt with its
caches invalid. -/
def State.engCtrl (s : State) (n : Nat) (v : Word) : State :=
  let was := bit (s.reg (pEng n + 0x104)) 0
  let s := if bit v 1 then s.predFlush n else s
  if bit v 0 then (if was then s else (s.setRegFld (pEng n + 0x104) 0 1 1).raise (pEng n) 2)
  else if was then (s.release n).runNext n else s

/-- A write of an ENG register. -/
def State.engWrite (s : State) (n o : Nat) (v : Word) : State :=
  if o == 0x104 then s.engCtrl n v
  else if o == 0x13C then (s.setReg (pEng n + o) v).perfOpened n
  else if o == 0x134 || o == 0x138 then s.intWrite n o (v &&& 0xFFFF)
  else if 0x180 ≤ o && o < 0x1C0 && o % 4 == 0 then s.intWrite n o v
  else match findRow rowsEng o with
    | some r => if r.acc == .rw then s.setReg (pEng n + o) (v &&& r.mask) else s
    | none => s

/-- A region agrees: base not above limit, both multiples of 64 (13 R376). -/
def boundsOk (base limit : Word) : Bool :=
  decide (base.toNat ≤ limit.toNat) && base.toNat % 64 == 0 && limit.toNat % 64 == 0

/-- A write of a context entry word (07 R219). -/
def State.ctxWrite (s : State) (n c o : Nat) (v : Word) : State :=
  let x := s.ctx n c
  let off := 0x1400000 + 0x1000 * n + 64 * c + o
  if o == 0 then s.setCtx n c { x with det := bit v 6, pin := bit v 8 }
  else if x.st != 0 then s
  else if o == 8 || o == 0xC || (0x10 ≤ o && o < 0x30 && o % 4 == 0) then
    let lo := off - off % 8
    let r := (o - 0x10) / 8
    let s1 := s.hold off v
    let base := s1.written lo (if o < 0x10 then x.codeBase else x.dataBase.getD r 0)
    let limit := s1.written (lo + 4) (if o < 0x10 then x.codeLimit else x.dataLimit.getD r 0)
    if boundsOk base limit then
      let y : Ctx := if o < 0x10 then { x with codeBase := base, codeLimit := limit }
        else { x with dataBase := setAt x.dataBase r base, dataLimit := setAt x.dataLimit r limit }
      ((s1.setCtx n c y).unhold lo (lo + 8)).agreed (heldClass off)
    else s1.disagree off
  else s

/-- FAULT_INJ of a page of a kiln, by firmware. -/
def State.fwInject (s : State) (pg : Nat) (v : Word) : State :=
  let p : Page := if pg % 16 == 0 then .kln (Fin.ofNat 24 ((pg - 0x100) / 16)) else .eng (Fin.ofNat 192 (8 * ((pg - 0x100) / 16) + (pg % 16 - 1)))
  (List.range 16).foldl (fun s b => if bit v b then s.inject p b else s) s

/-- A register of a kiln or engine page, by firmware. -/
def State.fwPageWrite (s : State) (h : Fin 2) (pg o : Nat) (v : Word) : State :=
  if pg % 16 == 0 then s.klnWrite ((pg - 0x100) / 16) o (.harbour h) v
  else s.engWrite (8 * ((pg - 0x100) / 16) + (pg % 16 - 1)) o v

/-- The time registers, by firmware, where it owns ToD. -/
def State.fwTodWrite (s : State) (h : Fin 2) (o : Nat) (v : Word) : State :=
  let out := fun (x : Host.Outcome State Fault Refusal) => match x with | .next t => t | _ => s
  if o == 0x114 then out (execTodStep (.harbour h) v s)
  else if o == 0x120 then out (execTodLoad (.harbour h) v s)
  else if o == 0x124 then out (execRateWrite (.harbour h) v s)
  else if o == 0x118 || o == 0x11C then
    (if s.todOwner (.harbour h) then s.setReg (pTim + o) (if o == 0x11C then v &&& 0xFFFF else v) else s)
  else s

/-- FW_ROUTE. -/
def State.fwRouteWrite (s : State) (n : Nat) (v : Word) : State :=
  s.withPci { s.pci with fwRoutes := tput s.pci.fwRoutes n (v &&& 0xFFFF) }

/-- The registers of a page that firmware owns. -/
def State.fwOwnWrite (s : State) (h : Fin 2) (pg o : Nat) (v : Word) : State :=
  let pb := 0x1000 * pg
  if o == 0x14 then s.evtEnable false pb v
  else if o == 0x18 then s.evtClear false pb v
  else if o == 0x1C then s.evtForce false pb v
  else if o == 0x24 then s.faultEnable false pb v
  else if o == 0x28 then s.faultClear false pb v
  else if o == 0x2C then s.headW false (pb + o) (fun s => s.fwInject pg v)
  else if o == 0x34 then s.lockWrite false pb v
  else s.headW false (pb + o) (fun s => s.fwPageWrite h pg o v)

/-- A store of harbour pair h to the register map. -/
def State.fwRegWrite (s : State) (h : Fin 2) (off : Nat) (v : Word) : State :=
  let pg := off / 0x1000
  let o := off % 0x1000
  if 0x1400000 ≤ off && off < 0x14C0000 then s.ctxWrite ((off - 0x1400000) / 0x1000) (off % 0x1000 / 64) (off % 64) v
  else if 0x2400 ≤ off && off < 0x2E00 && off % 4 == 0 then s.fwRouteWrite ((off - 0x2400) / 4) v
  else if off == pBoot + 0x114 then s.setReg off (v &&& 1)
  else if 0x1000 * pg == pTim then s.fwTodWrite h o v
  else if !fwPage off || (pageRows pg).isNone then s
  else s.fwOwnWrite h pg o v

/-- HALT (07 R218): firmware's write of ENG.CTRL. -/
def execHalt (n : Fin 192) (v : Word) (s : State) : Host.Outcome State Fault Refusal :=
  .next (s.headW false (pEng n.val + 0x104) (·.engCtrl n.val v))

end Sys2Proof.Machine
end

