-- ==== Sys2Proof/Machine/Peek.lean ====
section
/-! DEFINITION. Reads of the register BAR (14 R383, R386 to R393): the value each offset shows, and what reading it
does. -/
namespace Sys2Proof.Machine

/-- A word from its bits. -/
def bitsW (n : Nat) (f : Nat → Bool) : Word :=
  w32 ((List.range n).foldl (fun a b => if f b then a + 2 ^ b else a) 0)

/-- A word of 2-bit fields. -/
def pairsW (f : Nat → Nat) : Word := w32 ((List.range 16).foldl (fun a j => a + f j % 4 * 4 ^ j) 0)

/-- Seconds, saturating at 16 bits. -/
def secs16 (ns : Nat) : Nat := min 0xFFFF (ns / 10 ^ 9)

/-! The common header. -/

/-- Blocks with staged fields: the pages with an RWS register. -/
def stagedPage (pg : Nat) : Bool := match pageRows pg with | some (rows, _) => rows.any (·.acc == .rws) | none => false

/-- The page's side and group, for a port page. -/
def portPage (pg : Nat) : Option (Bool × Nat) :=
  if 0x10 ≤ pg && pg < 0x18 then some (false, pg - 0x10) else if 0x18 ≤ pg && pg < 0x20 then some (true, pg - 0x18) else none

/-- GEN_USED (13 R371, 14 R386): in the switch a port page takes the new number with the switch point of its group's
last existing port, any other block from the passing of the checks. -/
def State.genUsed (s : State) (pg : Nat) : Word :=
  if !stagedPage pg then 0
  else if s.gen.phase != 3 then s.gen.liveNo
  else match portPage pg with
    | some (b, g) =>
      if (List.range 4).all (fun n => !s.portExists b (4 * g + n) || s.gen.passed.contains (32 * b2n b + 4 * g + n)) then
        nextGen s.gen.liveNo else s.gen.liveNo
    | none => nextGen s.gen.liveNo

/-- The block holds a frame of the old generation during the switch: only an arriving frame outlasts a command. -/
def State.mixed (s : State) (pg : Nat) : Bool :=
  let old := fun p => match (s.port false p).arr with | some a => !a.newGen | none => false
  s.gen.phase == 3 && (match portPage pg with
    | some (b, g) => !b && (List.range 4).any (fun n => old (4 * g + n))
    | none => (pg == 0x20 || pg == 0x50) && (List.range 32).any old)

/-- DEV.STATUS (01 R28). -/
def State.devStatus (s : State) : Word :=
  w32 (dstateCode s.dev.dstate + 16 * s.peerKeyed + 4096 * s.peerStranded)

/-- A header register of a page. -/
def State.headReg (s : State) (pg o : Nat) : Word :=
  let pb := 0x1000 * pg
  let (code, inst) := pageCode pg
  if o == 0 then w32 (65536 * code + 256 * inst + 1)
  else if o == 4 then 0xB0
  else if o == 0xC then (if pg == 0 then s.devStatus else 0)
  else if o == 0x10 then s.reg (pb + 0x10)
  else if o == 0x14 then s.reg (pb + 0x14)
  else if o == 0x18 then s.evtPend pb
  else if o == 0x20 then s.reg (pb + 0x20)
  else if o == 0x24 then s.reg (pb + 0x24)
  else if o == 0x28 then s.reg (pb + 0x20) &&& s.reg (pb + 0x24)
  else if o == 0x30 then w32 (islandAt pb + 512 * s.pst (islandAt pb))
  else if o == 0x34 then s.reg (pb + 0x34)
  else if o == 0x40 then s.genUsed pg
  else if o == 0x44 then w32 (b2n (s.mixed pg) + 2 * fld (s.reg (pb + 0x44)) 1 1)
  else 0

/-! The configuration identity of the function (14 R380). -/

/-- A capability that the function presents. -/
inductive PciCap where
  | pcieEndpoint | powerManagement | msix | aer | deviceSerial | dataLinkFeature | phy16 | phy32 | laneMargining
  deriving DecidableEq, Repr

/-- What the function presents to configuration requests. -/
structure ConfigIdentity where
  vendor : Nat := 0x1F4B
  device : Nat := 0x3200
  revision : Nat
  classCode : Nat := 0x108000
  subVendor : Nat := 0x1F4B
  subDevice : Nat := 0x3200
  headerType : Nat := 0
  interruptPin : Nat := 0
  msixVectors : Nat := 256
  caps : List PciCap := [.pcieEndpoint, .powerManagement, .msix, .aer, .deviceSerial, .dataLinkFeature, .phy16, .phy32, .laneMargining]
  serial : DWord
  noSoftReset : Bool := true
  d3hot : Bool
  deriving DecidableEq, Repr

/-- The configuration identity: the revision is DEV.IDENT.STEP, the serial number the low 64 bits of the die's. It is there in D3hot
too; none while PERST_N is asserted or the device is COLD or in Lighthouse-only. -/
def State.configIdentity (s : State) : Option ConfigIdentity :=
  if s.dev.dstate = .cold || s.dev.perstN || s.dev.lhOnly then none
  else some { revision := fld (s.reg 0x100) 16 8, serial := (Config.dieSerial 1 ++ Config.dieSerial 0 : BitVec 64), d3hot := s.pci.d3hot }

/-! Block registers that follow from other state. -/

/-- The latched timestamp words of a port's FIFO, or INFO. -/
def State.tsfReg (s : State) (strait : Bool) (p o : Nat) : Word :=
  let po := s.port strait p
  let (ns, lo, hi) := stampWords po.tsfLatch
  if o == 0 then
    match po.tsf with
    | e :: _ => w32 (e.seqId % 65536 + 65536 * (e.msgType % 16) + 2 ^ 20 * (e.domain % 256) + 2 ^ 30 * b2n po.tsfOver + 2 ^ 31)
    | [] => w32 (2 ^ 30 * b2n po.tsfOver)
  else if o == 4 then ns else if o == 8 then lo else hi

def State.portReg (s : State) (strait : Bool) (g o : Nat) : Word :=
  if 0x120 ≤ o && o < 0x130 then
    let p := 4 * g + (o - 0x120) / 4
    let po := s.port strait p
    if !s.portExists strait p then 0
    else w32 (po.step % 8 + 8 * b2n (s.portUp strait p) + 16 * b2n po.anFail + 32 * b2n po.ltFail + 64 * b2n po.paused +
      256 * (po.pfcPaused % 256))
  else if 0x140 ≤ o && o < 0x180 then s.tsfReg strait (4 * g + (o - 0x140) / 16) (o % 16)
  else s.reg (pPort strait g + o)

/-- Valid entries of a classifier table in the live generation. -/
def State.validIn (s : State) (base size n : Nat) : Nat :=
  (s.gen.live.filter (fun e => decide (base ≤ e.1) && decide (e.1 < base + size * n) && e.1 % size == 0 && bit e.2 0)).length

def State.clsReg (s : State) (o : Nat) : Word :=
  if o == 0x108 then w32 (s.validIn 0x1100000 16 16384)
  else if o == 0x10C then w32 (s.validIn 0x1140000 32 512)
  else s.reg (pCls + o)

def subCode : Sub → Nat | .unkeyed => 0 | .keying => 1 | .joined => 2 | .stranded => 3 | .landfall => 4

def State.asxReg (s : State) (o : Nat) : Word :=
  if 0x150 ≤ o && o < 0x160 then
    let p := (o - 0x150) / 4
    match s.wpPair p with
    | some (w, g, _) => w32 (b2n (s.peer w).onProtect + 2 * b2n (s.path w).up + 4 * b2n (s.path g).up +
        8 * b2n (s.wtrRunning p) + 16 * b2n ((s.peer w).force != 0))
    | none => 0
  else if 0x200 ≤ o && o < 0x400 && o % 0x40 == 4 then
    let g := (o - 0x200) / 0x40
    let pe := s.peer (s.home_ g)
    w32 (subCode pe.sub + 8 * b2n (s.path g).up + 16 * b2n pe.resync +
      65536 * (if pe.sub = .stranded then secs16 (s.dev.mono - pe.strandAt) else 0))
  else s.reg (pAsx + o)

def State.qmgReg (s : State) (o : Nat) : Word :=
  if o == 0x128 then
    let parts := (s.parts false).foldl (· + ·) 0
    w32 ((if s.dev.h48 then 49152 else 24576) - 256 * parts)
  else if o == 0x130 then w32 s.poolOcc
  else if o == 0x134 then w32 (s.txFree + (s.rxPart - s.rxUsed))
  else if o == 0x138 then w32 s.holdOcc
  else if 0x180 ≤ o && o < 0x200 then
    let po := s.port false ((o - 0x180) / 4)
    w32 (b2n po.xoffPause + 256 * (po.xoffPfc % 256))
  else s.reg (pQmg + o)

def State.vltReg (s : State) (o : Nat) : Word :=
  if o == 0x100 then s.vltStatus
  else if o == 0x104 then s.vault.policy
  else if o == 0x124 then w32 (s.vault.xchs.filter (fun x => x.phase != 3)).length
  else if 0x140 ≤ o && o < 0x160 then
    let g := (o - 0x140) / 4
    let e := (s.peer (s.home_ g)).portEpoch
    w32 (b2n ((tget s.vault.anchors g []) != []) + 2 * b2n (e != 0) + 65536 * (e % 65536))
  else s.reg (pVlt + o)

def State.drbReg (s : State) (o : Nat) : Word :=
  let v := s.vault
  if o == 0x100 then
    w32 (b2n v.drbSrc + 2 * b2n v.drbUp + 4 * (List.range 3).foldl (fun a i => if v.drbStall.contains i then a + 2 ^ i else a) 0 +
      32 * b2n v.drbDead)
  else if o == 0x10C then
    w32 (min 3 (v.drbFails.filter (fun t => decide (s.dev.mono < t + 3600 * 10 ^ 9))).length)
  else s.reg (pDrb + o)

def State.snsReg (s : State) (o : Nat) : Word :=
  if o == 0x120 then s.vault.sense
  else if 0x200 ≤ o && o < 0x400 && o % 0x40 == 8 then
    let g := (o - 0x200) / 0x40
    let left := if s.senseMode g == 1 then min 0xFFFF (cdiv ((s.sense g).learnEnd - s.dev.mono) (10 ^ 9)) else 0
    w32 (s.senseMode g + 65536 * left)
  else s.reg (pSns + o)

def State.timReg (s : State) (o : Nat) : Word :=
  if o == 0x108 then w32 s.todNs
  else if o == 0x10C || o == 0x110 then tget s.latch (pTim + o) 0
  else s.reg (pTim + o)

/-- RSTATUS of a ring: BUSY while a COPY ring has descriptors to take. -/
def State.ringBusy (s : State) (r : Nat) : Bool :=
  s.ringOn r && fld (s.reg (pRing r + 0x108)) 4 2 == 1 && s.reg (pRing r + 0x10C) != s.reg (pRing r + 0x110)

def State.ringReg (s : State) (r o : Nat) : Word :=
  if o == 0x114 then setFld (s.reg (pRing r + 0x114)) 0 1 (b2n (s.ringBusy r)) else s.reg (pRing r + o)

def State.rgrpReg (s : State) (q o : Nat) : Word :=
  if o == 0x100 then
    bitsW 8 (fun i => s.ringBusy (8 * q + i)) ||| (bitsW 8 (fun i => bit (s.reg (pRing (8 * q + i) + 0x114)) 1) <<< 8)
  else s.reg (pRgrp q + o)

def State.sstatus (s : State) : Word :=
  w32 (b2n s.isSealed + 2 * b2n s.saf.driveA + 4 * b2n s.saf.driveB + 8 * b2n (!s.saf.active.isEmpty) +
    16 * b2n s.saf.proofArmed + 32 * b2n s.saf.collectorOk)

def State.pwrReg (s : State) (o : Nat) : Word :=
  if o == 0x110 then
    let count := fun ps => ((List.range 260).filter (fun i => s.pst i == ps)).length
    w32 (fld (s.reg (pPwr + 0x110)) 0 1 + 256 * (count 2 % 256) + 65536 * (count 3 % 256))
  else if 0x200 ≤ o then
    let w := (o - 0x200) / 4
    pairsW (fun j => if 16 * w + j < 260 then s.pst (16 * w + j) else 0)
  else s.reg (pPwr + o)

def State.cfgReg (s : State) (o : Nat) : Word :=
  if o == 0x110 then w32 (s.gen.phase % 4 + 4 * b2n s.gen.refireOk)
  else if o == 0x114 then s.gen.liveNo
  else if o == 0x118 then s.gen.prevNo
  else s.reg (pCfg + o)

/-- The fixed-count mode of an engine (07 R207): the setting, or while it runs the one it left halt with. -/
def State.fixedOn (s : State) (n : Nat) : Bool :=
  if s.engHalted n then bit (s.reg (pBoot + 0x114)) 0 else (s.eng n).fixed

/-- An engine register (07 R218). RUN reads 1 while no context runs. -/
def State.engReg (s : State) (n o : Nat) : Word :=
  let e := s.eng n
  let bank := fun b => match e.ctxs.find? (fun c => c.2.hasBank && c.2.bank == b) with
    | some (c, _) => 128 + c
    | none => 0
  if o == 0x100 then
    let run := if s.engHalted n then 3 else if e.run.isSome || e.mc then 2 else 1
    let (c, x) := match e.run with | some c => (c, e.ctx c) | none => (0, Ctx.initial)
    w32 (run + 4 * b2n (s.fixedOn n) + 8 * c + 512 * b2n e.run.isSome + 1024 * (if e.mc then 7 else x.bank) +
      8192 * b2n (e.run.isSome && x.detNow) + 16384 * b2n e.mc + 32768 * b2n (e.run.isSome && x.sealed_))
  else if o == 0x108 then w32 (bank 0 + 256 * bank 1 + 65536 * bank 2 + 2 ^ 24 * bank 3)
  else if o == 0x10C then w32 (bank 4 + 256 * bank 5 + 65536 * bank 6)
  else if o == 0x12C then (match e.fpOwner with | some c => w32 (c + 64) | none => 0)
  else if o == 0x130 then bitsW 16 (fun i => s.lineUp n i)
  else s.reg (pEng n + o)

/-- A word of a context entry (07 R219). -/
def State.ctxReg (s : State) (n c o : Nat) : Word :=
  let x := s.ctx n c
  let fl := s.areaFlags n c
  if o == 0 then
    w32 (x.st + 8 * (if x.hasBank then x.bank else 0) + 64 * b2n x.det + 128 * b2n x.sealed_ + 256 * b2n x.pin +
      512 * fld fl 10 1 + 1024 * fld fl 8 1 + 2048 * fld fl 9 1)
  else if o == 4 then w32 x.save
  else if o == 8 then x.codeBase
  else if o == 0xC then x.codeLimit
  else if 0x10 ≤ o && o < 0x30 then
    (if o % 8 == 0 then x.dataBase.getD ((o - 0x10) / 8) 0 else x.dataLimit.getD ((o - 0x10) / 8) 0)
  else if o == 0x30 then w32 (x.fault % 512 + 512 * b2n x.restart)
  else if o == 0x34 then (if x.sealed_ then 0 else x.faultAddr)
  else if o == 0x38 then (if x.sealed_ then 0 else x.faultPc)
  else 0

/-- The value of a kiln register for a reader, without what the read does (10 R286). -/
def State.klnPeek (s : State) (k o : Nat) (a : Agent) : Word :=
  if 0x1000 ≤ o then
    let n := 8 * k + (o / 0x1000 - 1)
    if 0x9000 ≤ o then 0
    else if o % 0x1000 < 0x80 then s.headReg (0x100 + 16 * k + o / 0x1000) (o % 0x1000)
    else match findRow rowsEng (o % 0x1000) with
      | some r => if r.acc == .wo then 0 else s.engReg n (o % 0x1000)
      | none => 0
  else if o < 0x80 then s.headReg (0x100 + 16 * k) o
  else if o == 0x100 then s.kstatus k
  else if 0x400 ≤ o && o < 0x600 && 0x40 ≤ (o - 0x400) % 0x80 then
    s.hashWord k ((o - 0x400) / 0x80) (((o - 0x400) % 0x80 - 0x40) / 4) a
  else
    match findRow rowsKln o with
    | some r => if r.acc == .wo then 0 else s.reg (pKln k + o)
    | none => if 0x400 ≤ o && o < 0x600 && ((o - 0x400) % 0x80 == 0x0C || (o - 0x400) % 0x80 == 0x14) then 0
      else if 0x200 ≤ o && o < 0x300 && (o - 0x200) % 0x20 == 4 then 0
      else if 0x140 ≤ o && o < 0x620 || 0x620 ≤ o && o < 0x700 then s.reg (pKln k + o) else 0

/-- A read of a kiln register by any agent: none while RND_DATA waits for entropy. -/
def State.klnRead (s : State) (k o : Nat) (a : Agent) : Option (Word × State) :=
  if o == 0x700 then
    match s.rndWord k (s.tagOf a) with
    | (some w, s1) => some (w, s1)
    | (none, _) => none
  else if 0x400 ≤ o && o < 0x600 && (o - 0x400) % 0x80 == 0x18 then some (s.hashStream k ((o - 0x400) / 0x80) a)
  else if 0x600 ≤ o && o < 0x700 && (o - 0x600) % 0x20 == 0x0C then some (s.kpTake (8 * k + (o - 0x600) / 0x20) a)
  else
    let v := s.klnPeek k o a
    match findRow rowsKln o with
    | some r => some (v, if r.acc == .rc then s.setReg (pKln k + o) 0 else s)
    | none => some (v, s)

/-- The value of a block register that is neither staged nor write-only. -/
def State.blockReg (s : State) (pg o : Nat) : Word :=
  let off := 0x1000 * pg + o
  if pg == 0 then (if o == 0x100 then s.reg off else Config.dieSerial ((o - 0x104) / 4))
  else if pg == 1 then s.cfgReg o
  else if pg == 2 then
    (if o < 0x400 then bitsW 32 (fun b => s.evPending (8 * (o - 0x100) + b)) else tget s.pci.fwRoutes ((o - 0x400) / 4) 0)
  else if pg == 3 then s.route ((o - 0x100) / 4)
  else if pg == 4 then (if 0x140 ≤ o then bitsW 32 (fun b => s.cause (8 * (o - 0x140) + b)) else s.reg off)
  else if pg == 8 then (if o == 0x114 then w32 (s.dev.mono / 10 ^ 9) else s.reg off)
  else if pg == 9 then s.pwrReg o
  else if pg == 0xC then (if o == 0x100 then s.sstatus else s.reg off)
  else if pg == 0xD then bitsW 32 (fun b => s.ftSet (8 * (o - 0x100) + b))
  else if pg == 0xF then pairsW (fun j => ftClass (4 * (o - 0x100) + j))
  else if 0x10 ≤ pg && pg < 0x18 then s.portReg false (pg - 0x10) o
  else if 0x18 ≤ pg && pg < 0x20 then s.portReg true (pg - 0x18) o
  else if pg == 0x20 then s.clsReg o
  else if pg == 0x40 then s.asxReg o
  else if pg == 0x50 then s.qmgReg o
  else if pg == 0x70 then s.snsReg o
  else if pg == 0x78 then s.timReg o
  else if pg == 0x80 then s.vltReg o
  else if pg == 0x88 then s.drbReg o
  else if pg == 0x90 then
    (if o % 0x20 == 0xC then
      let c := (o - 0x10C) / 0x20
      w32 (b2n (s.alive c) + 2 * b2n (c == 0 && s.stage == 0xE))
    else s.reg off)
  else if 0xA0 ≤ pg && pg < 0xA8 then s.rgrpReg (pg - 0xA0) o
  else if 0xB0 ≤ pg && pg < 0xF0 then s.ringReg (pg - 0xB0) o
  else if 0x100 ≤ pg && pg % 16 == 0 then s.klnPeek ((pg - 0x100) / 16) o .host
  else if 0x100 ≤ pg then s.engReg (8 * ((pg - 0x100) / 16) + (pg % 16 - 1)) o
  else s.reg off

/-- What an RWS field or staged window word reads (00 R8, 13 R369). -/
def State.stagedReg (s : State) (off : Nat) : Word := if s.gen.phase != 0 then s.gv off else s.lv off

/-- Kiln registers that the page's table lays out by blocks: queues, DMA channels, hash sessions, key ports. -/
def kilnBlock (pg o : Nat) : Bool := decide (0x100 ≤ pg) && pg % 16 == 0 && decide (0x140 ≤ o) && decide (o < 0x700)

/-- The value of an offset of a register page. -/
def State.pageReg (s : State) (pg o : Nat) : Word :=
  match pageRows pg with
  | none => 0
  | some (rows, isl) =>
    let off := 0x1000 * pg + o
    let up := !s.islOff isl
    match findRow rows o with
    | some r =>
      if r.acc == .rws then s.stagedReg off
      else if r.acc == .wo || !up then 0
      else s.blockReg pg o
    | none =>
      if o < 0x80 then (if up || o == 0 || o == 4 || o == 0x30 then s.headReg pg o else 0)
      else if kilnBlock pg o then (if up then s.blockReg pg o else 0)
      else if 0x800 ≤ o then
        (match findRow rows (o - 0x800) with
        | some r => if r.acc == .rws then s.lv (off - 0x800) else 0
        | none => 0)
      else 0

/-! Windows. -/

/-- Decrypt count of a slot: received frames of its epoch that are not released (03 R83). -/
def State.rxCount (s : State) (c epoch : Nat) : Nat :=
  let x := s.chan c
  ((x.rq ++ x.held ++ x.waitKey).filter (fun f => f.epoch == epoch)).length

/-- Key status of a direction and channel (03 R83). -/
def State.keyReg (s : State) (d c o : Nat) : Word :=
  let k0 := s.slot d c 0
  let k1 := s.slot d c 1
  let count := fun (k : KeySlot) => if !k.valid then 0 else if d == 0 then min k.count 0xFFFFFFFF else s.rxCount c k.epoch
  if o == 0 then
    w32 (b2n k0.valid + 2 * b2n k1.valid + 4 * (if d == 0 then (s.chan c).cur else (s.chan c).rxCur) +
      8 * b2n (s.vault.heldWrites.any (fun h => h.enc == (d == 0) && h.chan == c)))
  else if o == 4 then w32 ((if k0.valid then k0.epoch % 65536 else 0) + 65536 * (if k1.valid then k1.epoch % 65536 else 0))
  else if o == 8 then w32 (count k0)
  else w32 (count k1)

/-- A 64-bit field of the ASX channel status: TX_NEXT and RX_NEXT (04 R117). -/
def State.nextPn (s : State) (c : Nat) (tx : Bool) : Nat :=
  let x := s.chan c
  if tx then x.txNext
  else if s.bestEff c then (if x.txNext == 0 then 0 else x.beHi + 1) else (if x.txNext == 0 then 0 else x.rxNext)

def cstateCode : CState → Nat | .idle => 0 | .active => 1 | .held => 2 | .closed => 3

/-- ASX channel status (04 R117). -/
def State.chanReg (s : State) (c o : Nat) : Word :=
  let x := s.chan c
  let sub := (s.peer (s.home_ (s.spg c))).sub
  if o == 0 then
    w32 (cstateCode x.st + 4 * b2n (decide (sub = .stranded) || decide (sub = .landfall)) + 8 * b2n x.resync + 16 * b2n x.gap)
  else if o == 4 then w32 x.qOcc
  else if o == 8 then w32 x.retOcc
  else if o == 0xC then w32 x.reorderOcc
  else 0

/-- The 64-bit value whose low word stands at an offset, where reading it latches the high word. -/
def State.wide (s : State) (off : Nat) : Option Nat :=
  let pg := off / 0x1000
  let o := off % 0x1000
  if 0x1180000 ≤ off && off < 0x1280000 then (if off % 8 == 0 then some (s.cnt64 off) else none)
  else if 0x1520000 ≤ off && off < 0x1524000 then 
    (if off % 8 == 0 && off % 256 < 144 then
      some (if s.portExists (decide (0x1522000 ≤ off)) ((off - 0x1520000) / 256 % 32) then s.cnt64 off else 0)
    else none)
  else if 0x1380000 ≤ off && off < 0x13C0000 then
    (if off % 32 == 0x10 then some (s.nextPn ((off - 0x1380000) / 32) true)
    else if off % 32 == 0x18 then some (s.nextPn ((off - 0x1380000) / 32) false) else none)
  else if off == 0x20110 || off == 0x20118 then some (s.cnt64 off)
  else if o == 0x108 && 0x30 ≤ pg && pg < 0x39 then some (s.laneU 0 (pg - 0x30)).frames
  else if o == 0x108 && 0x44 ≤ pg && pg < 0x4D then some (s.laneU 1 (pg - 0x44)).frames
  else if o == 0x104 && 0xA0 ≤ pg && pg < 0xA8 then some (s.cnt64 off)
  else if pg == 0x70 && 0x200 ≤ o && o < 0x400 && (o % 0x40 == 0xC || o % 0x40 == 0x14 || o % 0x40 == 0x1C || o % 0x40 == 0x38) then
    some ((s.reg off).toNat + 2 ^ 32 * (s.reg (off + 4)).toNat)
  else if pg == 0x78 && o == 0x100 then some s.dev.mono
  else if pg == 0xE && 0x100 ≤ o && o < 0x200 && o % 16 == 4 then
    some ((s.reg off).toNat + 2 ^ 32 * (s.reg (off + 4)).toNat)
  else if 0x100 ≤ pg && pg < 0x280 && 1 ≤ pg % 16 && pg % 16 ≤ 8 && 0x1C0 ≤ o && o < 0x1E0 && o % 8 == 0 then
    some (s.perfCount (8 * ((pg - 0x100) / 16) + (pg % 16 - 1)) ((o - 0x1C0) / 8))
  else if 0x100 ≤ pg && pg < 0x280 && 1 ≤ pg % 16 && pg % 16 ≤ 8 && o == 0x1E0 then
    some (Config.freeNat s.free % 2 ^ 64)
  else none

/-- The island whose live-only window an offset belongs to (14 R391). -/
def windowIsland (off : Nat) : Nat :=
  if 0x1180000 ≤ off && off < 0x1280000 then 251
  else if 0x1380000 ≤ off && off < 0x13C0000 then 253
  else if 0x1400000 ≤ off && off < 0x14C0000 then 1 + (off - 0x1400000) / 0x1000
  else if 0x1500000 ≤ off && off < 0x1511000 then 256
  else if 0x1520000 ≤ off && off < 0x1524000 then 217 + (off - 0x1520000) / 1024
  else 0

/-- The value of an offset in the window space. -/
def State.windowReg (s : State) (off : Nat) : Word :=
  if (stagedMask off).isSome then s.stagedReg off
  else if (stagedMask (off - 0x800000)).isSome && 0x1800000 ≤ off then s.lv (off - 0x800000)
  else if s.islOff (windowIsland off) then 0
  else if 0x1300000 ≤ off && off < 0x1320000 then s.keyReg 0 ((off - 0x1300000) / 16) (off % 16)
  else if 0x1340000 ≤ off && off < 0x1360000 then s.keyReg 1 ((off - 0x1340000) / 16) (off % 16)
  else if 0x1380000 ≤ off && off < 0x13C0000 then s.chanReg ((off - 0x1380000) / 32) (off % 32)
  else if 0x1400000 ≤ off && off < 0x14C0000 then
    s.ctxReg ((off - 0x1400000) / 0x1000) (off % 0x1000 / 64) (off % 64)
  else if 0x1500000 ≤ off && off < 0x1500800 || 0x1510000 ≤ off && off < 0x1510800 then s.reg off
  else 0

/-- The MSI-X table and PBA (14 R397): a masked or disabled vector's PBA bit holds its cause. -/
def State.msixReg (s : State) (pg o : Nat) : Word :=
  if pg == 5 then
    let e := tget s.pci.table (o / 16) {}
    if o % 16 == 0 then e.addrLo else if o % 16 == 4 then e.addrHi else if o % 16 == 8 then e.data else e.ctrl
  else if o < 32 then bitsW 32 (fun b => s.cause (8 * o + b) && !s.msixOpen (8 * o + b))
  else 0

/-- The value an offset shows. -/
def State.peek (s : State) (off : Nat) : Word :=
  let dark := if 0x1000000 ≤ off then s.islOff (windowIsland off) else s.islOff (islandAt off)
  match s.wide off with
  | some v => if dark then 0 else w32 v
  | none =>
    if 4 ≤ off && (s.wide (off - 4)).isSome then (if dark then 0 else tget s.latch off 0)
    else if 0x1000000 ≤ off then s.windowReg off
    else if off / 0x1000 == 5 || off / 0x1000 == 6 then s.msixReg (off / 0x1000) (off % 0x1000)
    else s.pageReg (off / 0x1000) (off % 0x1000)

/-- What reading an offset does: an RC field clears, a low word latches, and the special reads of 11, 12 and 15. -/
def State.readEffect (s : State) (off : Nat) : State :=
  let pg := off / 0x1000
  let o := off % 0x1000
  if (if 0x1000000 ≤ off then s.islOff (windowIsland off) else s.islOff (islandAt off)) then s
  else match s.wide off with
    | some v =>
      let s1 := { s with latch := tput s.latch (off + 4) (w32 (v / 2 ^ 32)) }
      if 0x100 ≤ pg && pg < 0x280 then s1.drawn else s1
    | none =>
      if 0x1000000 ≤ off then s
      else if pg == 0x78 && o == 0x108 then
        { s with latch := tput (tput s.latch (pTim + 0x10C) (w32 s.todSec)) (pTim + 0x110) (w32 (s.todSec / 2 ^ 32 % 65536)) }
      else if pg == 0x78 && o == 0x12C then s.setReg off (s.reg off &&& 0x7FFFFFFF)
      else if pg == 8 && o == 0x108 then s.setReg off (w32 (fld (s.reg (pLhs + 0x104)) 0 12))
      else match portPage pg with
        | some (b, g) =>
          if 0x140 ≤ o && o < 0x180 then
            let p := 4 * g + (o - 0x140) / 16
            if o % 16 == 0 then s.setPort b p { s.port b p with tsfLatch := (s.port b p).tsf.head? }
            else if o % 16 == 12 then s.popTsf b p else s
          else s
        | none =>
          match pageRows pg with
          | some (rows, _) =>
            (match findRow rows o with
            | some r => if r.acc == .rc then s.setReg off 0 else s
            | none => s)
          | none => s

/-- A kiln register whose reading takes something (10 R286, R301, R306): RND_DATA and HS_STREAM, while the kiln is on. -/
def State.takesKiln (s : State) (off : Nat) : Bool :=
  let pg := off / 0x1000
  let o := off % 0x1000
  decide (0x100 ≤ pg) && decide (pg < 0x280) && pg % 16 == 0 && !s.islOff (islandAt off) &&
    (o == 0x700 || (decide (0x400 ≤ o) && decide (o < 0x600) && (o - 0x400) % 0x80 == 0x18))

/-- A dword read. What the host gets of RND_DATA while there is no entropy is free: the manual does not say (log entry 91). -/
def State.regRead (s : State) (off : Nat) : Word × State :=
  if s.takesKiln off then
    match s.klnRead ((off - 0x100000) / 0x10000) (off % 0x1000) .host with
    | some r => r
    | none => (Config.freeWord s.free, s.drawn)
  else (s.peek off, s.readEffect off)

/-- A rejected request (14 R383). -/
def State.accessErr (s : State) (off : Nat) : State :=
  ((s.bump (pPci + 0x108)).setReg (pPci + 0x10C) (w32 off)).raise pPci 0

/-- A host read of 4 bytes: what the host gets stands in the output. -/
def State.hostRead (s : State) (off : Nat) : State :=
  if s.hostGone || 0x4000000 ≤ off then s
  else if off % 4 != 0 then (s.accessErr off).emit (.read 0)
  else
    let (v, s1) := s.regRead off
    s1.emit (.read (v.setWidth 64))

/-- RC_READ (00 R8): the read of a register; one of access RC clears. -/
def execRcRead (off : Word) (s : State) : Host.Outcome State Fault Refusal := .next (s.hostRead off.toNat)

/-- COUNTER_LOW_READ (02 R54): the low word of a 64-bit counter latches its high word. -/
def execCounterLowRead (off : Word) (s : State) : Host.Outcome State Fault Refusal := .next (s.hostRead off.toNat)

end Sys2Proof.Machine
end

