-- ==== Sys2Proof/Machine/Operands.lean ====
section
/-! DEFINITION. The operand forms of the Traim operations: registers, addresses and their checks, memory operands, lanes
(07 R185, R202, R203, R205; 08 R222 to R228, R246; 09 R251, R265, R266). -/
namespace Sys2Proof.Machine

/-! Register numbers across the files, for the rules on reads and writes: s, v, acc, f and special registers. -/

def regS (r : Nat) : Nat := r
def regV (r : Nat) : Nat := 32 + r
def regA (r : Nat) : Nat := 48 + r
def regF (r : Nat) : Nat := 52 + r
def regX (n : Nat) : Nat := 68 + n

/-- The register numbers of a target. -/
def Dst.codes : Dst → List Nat
  | .s r => [regS r]
  | .v r => [regV r]
  | .v2 r => [regV r, regV (r + 1)]
  | .f r => [regF r]
  | .acc r => [regA r]

/-- Two lists share an element. -/
def meets (a b : List Nat) : Bool := a.any b.contains

/-- No element twice. -/
def noDup : List Nat → Bool
  | [] => true
  | a :: t => !t.contains a && noDup t

/-- What an operation needs of its bundle (08 R223): slots, control, registers read and written, and the kinds of R199,
R245 and R246. `only` is 1 for an engine-only operation and 2 for a Traim-S-only one; `ext` says that an extension word may follow
(R222). -/
structure Op where
  sN : Nat := 0
  mN : Nat := 0
  vN : Nat := 0
  ctl : Bool := false
  cond : Bool := false
  alone : Bool := false
  reads : List Nat := []
  writes : List Nat := []
  vmem : Bool := false
  store : Bool := false
  fp : Bool := false
  micro : Bool := false
  slow : Bool := false
  serial : Bool := false
  only : Nat := 0
  bad : Bool := false
  ext : Bool := false
  deriving DecidableEq, Repr

/-- The bundle with one more operation; of several faults the first counts. A second word is an extension word (R222). -/
def Bundle.add (b : Bundle) (w : At) (o : Op) (bad : Bool) (flt : Option (Nat × Word)) (acts : List Act) : Bundle :=
  { ops := b.ops + 1, words := b.words + w.words, sN := b.sN + o.sN, mN := b.mN + o.mN, vN := b.vN + o.vN, ctl := b.ctl + b2n o.ctl, cond := b.cond + b2n o.cond, alone := b.alone || o.alone, writes := b.writes ++ o.writes, vmem := b.vmem || o.vmem, store := b.store || o.store, slow := b.slow || o.slow, fp := b.fp || o.fp, bad := b.bad || o.bad || bad || (decide (1 < w.words) && !o.ext), fault := if b.fault.isSome then b.fault else flt, acts := b.acts ++ acts }

/-- The bundle is ILLEGAL by R221 or R223. -/
def Bundle.illegal (b : Bundle) : Bool :=
  b.bad || decide (2 < b.sN) || decide (1 < b.mN) || decide (1 < b.vN) || decide (1 < b.ctl) ||
  (b.alone && decide (1 < b.ops)) || !noDup b.writes || (b.store && b.vmem) || decide (4 < b.words)

/-! Registers of a context. -/

/-- The value that a chained accumulation adds onto: the newest one in flight, or the register (09 R253). -/
def Ctx.chain (x : Ctx) (r : Nat) : List Int :=
  match x.pend.reverse.find? (fun p => p.dst == some (.acc r)) with
  | some p => (match p.val with | .a l => l | _ => x.racc r)
  | none => x.racc r

/-! Lanes (09 R251). -/

/-- Halfword lane i. -/
def hLane (v : Vec) (i : Nat) : Nat := v.toNat / 2 ^ (16 * i) % 65536
/-- Signed halfword lane i. -/
def hInt (v : Vec) (i : Nat) : Int := sgn 16 (hLane v i)
/-- Word lane i. -/
def wLane (v : Vec) (i : Nat) : Word := w32 (v.toNat / 2 ^ (32 * i))
/-- A vector from lanes of w bits, lane 0 first. -/
def packNat (w : Nat) : List Nat → Nat
  | [] => 0
  | a :: t => a % 2 ^ w + 2 ^ w * packNat w t
def ofH (f : Nat → Nat) : Vec := BitVec.ofNat 128 (packNat 16 ((List.range 8).map f))
def ofW (f : Nat → Word) : Vec := BitVec.ofNat 128 (packNat 32 ((List.range 4).map (fun i => (f i).toNat)))
/-- The pair that starts at v register r, as 256 bits. -/
def Ctx.pair (x : Ctx) (r : Nat) : Nat := (x.rv r).toNat + 2 ^ 128 * (x.rv (r + 1)).toNat

/-! Addresses (08 R226, R227). -/

/-- The address an access of n bytes uses. -/
def addrAt (a : Addr) (x : Ctx) (n : Nat) : Word :=
  match a with
  | .disp b d => x.rs b.val + d
  | .postInc b _ => x.rs b.val
  | .preDec b => x.rs b.val - w32 n
  | .index b i k => x.rs b.val + x.rs i.val * w32 (2 ^ k.val)

/-- The base after the access. -/
def addrAfter (a : Addr) (x : Ctx) (n : Nat) : Option (Nat × Word) :=
  match a with
  | .postInc b k => some (b.val, x.rs b.val + (if k == 0 then w32 n else k))
  | .preDec b => some (b.val, x.rs b.val - w32 n)
  | _ => none

/-- The base register that an address writes. -/
def addrWrites : Addr → List Nat
  | .postInc b _ => [regS b.val]
  | .preDec b => [regS b.val]
  | _ => []

/-- The registers an address reads. -/
def addrReads : Addr → List Nat
  | .disp b _ => [regS b.val]
  | .postInc b _ => [regS b.val]
  | .preDec b => [regS b.val]
  | .index b i _ => [regS b.val, regS i.val]

/-- The result of a base update. -/
def addrActs (a : Addr) (x : Ctx) (n : Nat) : List Act :=
  match addrAfter a x n with
  | some (r, v) => [.set (.s r) (.w v)]
  | none => []

/-- The aligned parts of an access of n bytes at a, the lower first (07 R203). -/
def alignedParts (a n : Nat) : List (Nat × Nat) :=
  if a % n == 0 then [(a, n)] else [(a, n - a % n), ((a + (n - a % n)) % 2 ^ 32, a % n)]

/-! What runs on a core. -/

/-- Engine n executes bundles. -/
def State.engRuns (s : State) (n : Nat) : Bool :=
  s.awake n && (!s.engHalted n || (s.eng n).step) && ((s.eng n).mc || (s.eng n).run.isSome)

/-- A level-1 handler and the machine-check handler lie in I-RAM outside the context's regions. -/
def State.handler (s : State) (n : Nat) : Bool := (s.eng n).mc || (s.eng n).shadowIn

/-- Caches are off and placement is restricted: deterministic and fixed-count mode (07 R205, R207). -/
def State.strict (s : State) (n : Nat) (x : Ctx) : Bool := x.detNow || s.fixedOn n

/-! Checks of an engine's accesses (07 R185, R203, R205, R219). -/

/-- The part lies in an enabled data region. -/
def Ctx.inData (x : Ctx) (a n : Nat) : Bool :=
  (List.range 4).any (fun r => decide ((x.dataBase.getD r 0).toNat ≤ a) && decide (a + n ≤ (x.dataLimit.getD r 0).toNat))

/-- Kiln register space. -/
def kilnSpace (a : Nat) : Bool := decide (0x08000000 ≤ a) && decide (a < 0x08010000)
/-- D-RAM. -/
def dram (a : Nat) : Bool := decide (0x10000 ≤ a) && decide (a < 0x20000)

/-- The fault of an engine's data access, with its address. -/
def State.engFault (s : State) (n : Nat) (x : Ctx) (a : Word) (size : Nat) : Option (Nat × Word) :=
  (alignedParts a.toNat size).findSome? (fun (p, len) =>
    if !(s.eng n).mc && !x.inData p len then some (3, w32 p)
    else if s.strict n x && !dram p && !kilnSpace p then some (4, w32 p)
    else if kilnSpace p then (if size == 4 && a.toNat % 4 == 0 then none else some (5, a))
    else if (s.engAddr n p).isNone then some (9, w32 p)
    else none)

/-- The fault of a fetch of `words` words at the PC. -/
def State.fetchFault (s : State) (n : Nat) (x : Ctx) (words : Nat) : Option Nat :=
  let a := x.pc.toNat
  let free := (s.eng n).mc || (s.handler n && a + 4 * words ≤ 0x8000)
  if !free && !(decide (x.codeBase.toNat ≤ a) && decide (a + 4 * words ≤ x.codeLimit.toNat)) then some 2
  else (List.range words).findSome? (fun i =>
    let w := (a + 4 * i) % 2 ^ 32
    if s.strict n x && 0x8000 ≤ w then some 4
    else if dram w || kilnSpace w then some 2
    else if (s.engAddr n w).isNone then some 9
    else none)

/-! An engine's memory operands. -/

/-- Reads an aligned part: straight from memory in I-RAM and in fixed-count mode, else past the store buffer. -/
def State.engPart (s : State) (n a len : Nat) : List Byte × State :=
  if a < 0x8000 || s.fixedOn n then (s.getEng n a len, s) else s.loadPart n a len

/-- Reads the parts of an access. -/
def State.engParts (s : State) (n : Nat) : List (Nat × Nat) → List Byte × State
  | [] => ([], s)
  | (a, len) :: t =>
    let (b, s1) := s.engPart n a len
    let (c, s2) := s1.engParts n t
    (b ++ c, s2)

/-- A load of an engine: its bytes, and whether it is a long operation; none while RND_DATA waits for entropy. -/
def State.engLoad (s : State) (n : Nat) (a : Word) (size : Nat) : Option (List Byte × Bool × State) :=
  if kilnSpace a.toNat then
    match s.klnRead (n / 8) (a.toNat % 0x10000) (.engine (Fin.ofNat 192 n)) with
    | some (w, s1) => some (leBytes 4 w.toNat, true, s1)
    | none => none
  else
    let (b, s1) := s.engParts n (alignedParts a.toNat size)
    some (b, false, s1)

/-- Writes a part: stores to I-RAM drain the buffer first; in fixed-count mode every store writes directly (07 R201). -/
def State.storePart (s : State) (n a : Nat) (b : List Byte) : State :=
  if s.fixedOn n then s.putEng n a b
  else if a < 0x8000 then (s.drainStores n).putEng n a b
  else s.bufStore n a b

/-- A store of an engine. -/
def State.engStore (s : State) (n : Nat) (a : Word) (b : List Byte) : State :=
  if kilnSpace a.toNat then (s.drainStores n).klnWrite (n / 8) (a.toNat % 0x10000) (.engine (Fin.ofNat 192 n)) (w32 (leNat b))
  else
    match alignedParts a.toNat b.length with
    | [(p, len), (q, _)] => (s.storePart n p (b.take len)).storePart n q (b.drop len)
    | _ => s.storePart n a.toNat b

/-- The loop body that a bundle lies in, fetched through the instruction cache (09 R266): the target of an RPT, or the body of the
innermost active level. -/
def Ctx.body (x : Ctx) : Option (Word × Word) :=
  if x.pc.toNat < 0x100000 then none
  else if x.rpt.isSome then some (x.pc, x.pc)
  else
    let around := x.regs.loops.filter (fun l => l.active && decide (l.start.toNat ≤ x.pc.toNat) && decide (x.pc.toNat ≤ l.stop.toNat))
    (around.foldl (fun (best : Option LoopLv) l => match best with | some b => some (if b.order < l.order then l else b) | none => some l) none).map
      (fun l => (l.start, l.stop))

/-- The repeat cache records or issues the body that a bundle of context x lies in. -/
def Engine.inBody (e : Engine) (x : Ctx) : Option RepBody :=
  match e.repBody, x.body with
  | some r, some (start, _) => if r.start == start then some r else none
  | _, _ => none

/-- What the repeat cache read an iteration ahead for the operand at a of the bundle at pc. -/
def Engine.ahead (e : Engine) (pc a : Nat) : Option Vec := (e.rep.find? (fun l => l.1 == pc && l.2.1 == a)).map (fun l => l.2.2)

/-- The 128-bit operand at an aligned address (09 R265, R266). In a loop body that the repeat cache records or issues, an INC operand
is read for the next iteration too, and a bundle that issues from the cache takes what was read ahead. -/
def State.vMem (s : State) (n : Nat) (x : Ctx) (a : Nat) (inc : Bool) : Vec × State :=
  let (b, s1) := s.engPart n a 16
  let now : Vec := BitVec.ofNat 128 (leNat b)
  if inc && x.body.isSome then
    let on := match (s.eng n).inBody x with | some r => r.on | none => false
    let old := if on then (s.eng n).ahead x.pc.toNat a else none
    let (b2, s2) := s1.engPart n ((a + 16) % 2 ^ 32) 16
    (old.getD now, s2.setEng n { s2.eng n with rep := tput (s2.eng n).rep x.pc.toNat ((a + 16) % 2 ^ 32, BitVec.ofNat 128 (leNat b2)) })
  else (now, s1)

/-- The second source of a V operation: its value, the fault of its access, the update of its address register (08 R228). -/
def State.vSrc (s : State) (n : Nat) (x : Ctx) (b : VSrc) : Vec × Option (Nat × Word) × List Act × State :=
  match b with
  | .reg v => (x.rv v.val, none, [], s)
  | .mem r inc =>
    let a := x.rs r.val
    let al := w32 (a.toNat / 16 * 16)
    let upd : List Act := if inc then [.set (.s r.val) (.w (a + 16))] else []
    match s.engFault n x al 16 with
    | some f => (0, some f, upd, s)
    | none => let (v, s1) := s.vMem n x al.toNat inc; (v, none, upd, s1)

def vReads : VSrc → List Nat
  | .reg v => [regV v.val]
  | .mem r _ => [regS r.val]
def vWrites : VSrc → List Nat
  | .mem r true => [regS r.val]
  | _ => []
def vIsMem : VSrc → Bool
  | .mem _ _ => true
  | _ => false

/-! A harbour pair's memory (log entry 13): its SRAM, the SPI NOR for execution in place, kiln shared memory, the mailbox
and the register BAR. -/

/-- The memory behind an address of pair h. -/
def hcAddr (h a : Nat) : Option Nat :=
  if a < 0x200000 then some (spHarbour h + a)
  else if 0x10000000 ≤ a && a < 0x12020000 then some (spNor + (a - 0x10000000))
  else if 0x40000000 ≤ a && a < 0x41800000 then some (spShmem ((a - 0x40000000) / 0x100000) + a % 0x100000)
  else if 0x60000000 ≤ a && a < 0x61000000 then some (spMailbox + (a - 0x60000000))
  else none

/-- The register BAR as a pair sees it. -/
def hcReg (a : Nat) : Bool := decide (0x80000000 ≤ a) && decide (a < 0x84000000)

/-- Privilege level of a pair: firmware. -/
def State.firmware (s : State) (h : Nat) : Bool := bit (s.csr h 0) 0

/-- An access at task level lies in an enabled region (13 R353). -/
def State.inTask (s : State) (h a n : Nat) : Bool :=
  s.firmware h || (List.range 4).any (fun r =>
    let b := (s.csr h (13 + 2 * r)).toNat
    let l := (s.csr h (14 + 2 * r)).toNat
    b != l && decide (b ≤ a) && decide (a + n ≤ l))

/-- The fault of a pair's data access. -/
def State.hcFault (s : State) (h : Nat) (a : Word) (n : Nat) (store : Bool) : Option (Nat × Word) :=
  let a' := a.toNat
  if !s.inTask h a' n then some (3, a)
  else if hcReg a' then (if n == 4 && a' % 4 == 0 then none else some (3, a))
  else if (hcAddr h a').isNone || (hcAddr h (a' + n - 1)).isNone || (store && 0x10000000 ≤ a' && a' < 0x12020000) then some (3, a)
  else none

/-- The fault of a data access of a core. -/
def State.dataFault (s : State) (c : Core) (x : Ctx) (a : Word) (n : Nat) (store : Bool) : Option (Nat × Word) :=
  match c with
  | .engine e => s.engFault e.val x a n
  | .harbour h => s.hcFault h.val a n store

/-- A pair's load of the word at offset off of the register map, of which the kilns' registers are a part. -/
def State.hcRegLoad (s : State) (h off : Nat) : List Byte × State :=
  if 0x100000 ≤ off && off < 0x280000 && off % 0x10000 < 0x1000 && 0x80 ≤ off % 0x1000 then
    if s.islOff (193 + (off - 0x100000) / 0x10000) then (leBytes 4 0, s)
    else match s.klnRead ((off - 0x100000) / 0x10000) (off % 0x10000) (.harbour (Fin.ofNat 2 h)) with
    | some (w, s1) => (leBytes 4 w.toNat, s1)
    | none => (leBytes 4 0, s)
  else
    let (w, s1) := s.regRead off
    (leBytes 4 w.toNat, s1)

/-- A load of a pair. -/
def State.hcLoad (s : State) (h : Nat) (a : Word) (n : Nat) : List Byte × State :=
  if hcReg a.toNat then s.hcRegLoad h (a.toNat - 0x80000000)
  else (s.mget ((hcAddr h a.toNat).getD 0) n, s)

/-- A store of a pair. -/
def State.hcStore (s : State) (h : Nat) (a : Word) (b : List Byte) : State :=
  if hcReg a.toNat then s.fwRegWrite (Fin.ofNat 2 h) (a.toNat - 0x80000000) (w32 (leNat b))
  else match hcAddr h a.toNat with
    | some m => s.mput m b
    | none => s

end Sys2Proof.Machine
end

