-- ==== Sys2Proof/Machine/Flags.lean ====
section
/-! DEFINITION. Results with their flags: ESTAT of the scalar and vector operations (08 R240, R241), and binary32
arithmetic with FPSTAT.FLAGS (09 R270 to R276). A flag set is a number: ESTAT OV 1, SAT 2, DZ 4; FLAGS NV 8, DZ 16, OF 32,
UF 64, IX 128. -/
namespace Sys2Proof.Machine

def fOV : Nat := 1
def fSAT : Nat := 2
def fDZ : Nat := 4
def fNV : Nat := 8
def fDivZ : Nat := 16
def fOF : Nat := 32
def fUF : Nat := 64
def fIX : Nat := 128

/-! Scalar integers. -/

/-- A word from an integer, modulo 2^32. -/
def wInt (i : Int) : Word := BitVec.ofInt 32 i

/-- The exact integer, saturated to 32 bits: sets SAT when it saturates. -/
def satW (i : Int) : Word × Nat :=
  if 2147483647 < i then (0x7FFFFFFF, fSAT) else if i < -2147483648 then (0x80000000, fSAT) else (wInt i, 0)

def addsW (a b : Word) : Word × Nat := satW (a.toInt + b.toInt)
def subsW (a b : Word) : Word × Nat := satW (a.toInt - b.toInt)
def negW (a : Word) : Word × Nat := (-a, if a == 0x80000000 then fOV else 0)
def negsW (a : Word) : Word × Nat := satW (-a.toInt)
def absW (a : Word) : Word × Nat := (if a.toInt < 0 then -a else a, if a == 0x80000000 then fOV else 0)
def abssW (a : Word) : Word × Nat := satW (if a.toInt < 0 then -a.toInt else a.toInt)

/-- DIV and REM truncate towards zero (08 R240). -/
def divW (a b : Word) : Word × Nat :=
  if b == 0 then (0xFFFFFFFF, fDZ) else if a == 0x80000000 && b == 0xFFFFFFFF then (0x80000000, fOV) else (wInt (a.toInt.tdiv b.toInt), 0)
def remW (a b : Word) : Word × Nat :=
  if b == 0 then (a, fDZ) else if a == 0x80000000 && b == 0xFFFFFFFF then (0, fOV) else (wInt (a.toInt.tmod b.toInt), 0)
def divuW (a b : Word) : Word × Nat := if b == 0 then (0xFFFFFFFF, fDZ) else (w32 (a.toNat / b.toNat), 0)
def remuW (a b : Word) : Word × Nat := if b == 0 then (a, fDZ) else (w32 (a.toNat % b.toNat), 0)

/-- Shifts by an 8-bit amount (08 R241). -/
def sllW (a : Word) (n : Nat) : Word := if 32 ≤ n then 0 else a <<< n
def srlW (a : Word) (n : Nat) : Word := if 32 ≤ n then 0 else a >>> n
def sraW (a : Word) (n : Nat) : Word := a.sshiftRight (min n 31)
def rorW (a : Word) (n : Nat) : Word := a.rotateRight (n % 32)
def rolW (a : Word) (n : Nat) : Word := a.rotateLeft (n % 32)

/-- Leading zeros among the low n bits. -/
def clzFrom (a : Nat) : Nat → Nat
  | 0 => 0
  | n + 1 => if nbit a n then 0 else 1 + clzFrom a n
/-- Number of ones among the low n bits. -/
def popFrom (a : Nat) : Nat → Nat
  | 0 => 0
  | n + 1 => b2n (nbit a n) + popFrom a n
def clzW (a : Word) : Word := w32 (clzFrom a.toNat 32)
def popW (a : Word) : Word := w32 (popFrom a.toNat 32)
/-- Bit i of the result is bit 31 − i of the operand. -/
def brevW (a : Word) : Word := w32 ((List.range 32).foldl (fun r i => 2 * r + b2n (bit a i)) 0)
def bswapW (a : Word) : Word := w32 (beNat (leBytes 4 a.toNat))

/-- Carry and borrow chains (09 R262). -/
def addcW (a b : Word) (c : Bool) : Word × Bool :=
  let t := a.toNat + b.toNat + b2n c
  (w32 t, decide (2 ^ 32 ≤ t))
def subcW (a b : Word) (c : Bool) : Word × Bool :=
  (a - b - w32 (b2n c), decide (a.toNat < b.toNat + b2n c))

/-! Binary32. -/

def qNaN : Word := 0x7FC00000

def fSign (a : Word) : Bool := bit a 31
def fExp (a : Word) : Nat := fld a 23 8
def fFrac (a : Word) : Nat := fld a 0 23
def fIsNaN (a : Word) : Bool := fExp a == 255 && fFrac a != 0
/-- A signalling NaN (09 R271). -/
def fIsSNaN (a : Word) : Bool := fIsNaN a && !bit a 22
def fIsInf (a : Word) : Bool := fExp a == 255 && fFrac a == 0
def fIsZero (a : Word) : Bool := fExp a == 0 && fFrac a == 0
/-- NV for the signalling NaNs among the operands. -/
def fSnan (l : List Word) : Nat := if l.any fIsSNaN then fNV else 0

/-- A finite number is its sign, significand m and exponent e: m × 2^e. -/
def fMant (a : Word) : Nat := if fExp a == 0 then fFrac a else fFrac a + 2 ^ 23
def fScale (a : Word) : Int := if fExp a == 0 then -149 else (fExp a : Int) - 150

def fZero (neg : Bool) : Word := if neg then 0x80000000 else 0
def fInf (neg : Bool) : Word := if neg then 0xFF800000 else 0x7F800000
def fMax (neg : Bool) : Word := if neg then 0xFF7FFFFF else 0x7F7FFFFF

/-- Rounds m × 2^e, plus a positive amount below one unit of m when `st`, to a multiple of 2^q: the multiple, and whether it is
inexact. -/
def roundTo (rm : Nat) (neg : Bool) (m : Nat) (e q : Int) (st : Bool) : Nat × Bool :=
  let sh := (q - e).toNat
  if q ≤ e then (m * 2 ^ (e - q).toNat, st)
  else
    let n := m / 2 ^ sh
    let r := m % 2 ^ sh
    let inexact := r != 0 || st
    let half := 2 ^ (sh - 1)
    let up := match rm with
      | 0 => decide (half < r) || (r == half && (st || n % 2 == 1))
      | 1 => false
      | 2 => neg && inexact
      | _ => !neg && inexact
    (if up then n + 1 else n, inexact)

/-- Rounds a magnitude m × 2^e (m not 0) to binary32 under RM, with OF, UF and IX: tininess is detected after rounding
(09 R272). -/
def fRound (rm : Nat) (neg : Bool) (m : Nat) (e : Int) (st : Bool) : Word × Nat :=
  let top := e + (Nat.log2 m : Nat)
  let free := roundTo rm neg m e (top - 23) st
  let tiny := decide (top + (if free.1 == 2 ^ 24 then 1 else 0) < -126)
  let q := if top - 23 < -149 then -149 else top - 23
  let (n, inexact) := roundTo rm neg m e q st
  let bits := ((q + 149).toNat) * 2 ^ 23 + n
  let sign := if neg then 2 ^ 31 else 0
  if 255 * 2 ^ 23 ≤ bits then
    let toInf := rm == 0 || (rm == 2 && neg) || (rm == 3 && !neg)
    (if toInf then fInf neg else fMax neg, fOF + fIX)
  else (w32 (sign + bits), if inexact then (if tiny then fUF + fIX else fIX) else 0)

/-- Rounds an exact signed value i × 2^e; an exact zero takes the given sign. -/
def fRoundInt (rm : Nat) (i : Int) (e : Int) (zeroNeg : Bool) : Word × Nat :=
  if i == 0 then (fZero zeroNeg, 0) else fRound rm (decide (i < 0)) i.natAbs e false

/-- The signed significand of a finite number. -/
def fSigned (a : Word) : Int := if fSign a then -(fMant a : Int) else fMant a

/-- The sum of two exact values i × 2^e and j × 2^f. -/
def exactAdd (i e j f : Int) : Int × Int :=
  let g := min e f
  (i * 2 ^ (e - g).toNat + j * 2 ^ (f - g).toNat, g)

/-- FADD. -/
def fAdd (rm : Nat) (a b : Word) : Word × Nat :=
  if fIsNaN a || fIsNaN b then (qNaN, fSnan [a, b])
  else if fIsInf a && fIsInf b then (if fSign a == fSign b then (a, 0) else (qNaN, fNV))
  else if fIsInf a then (a, 0) else if fIsInf b then (b, 0)
  else
    let (i, e) := exactAdd (fSigned a) (fScale a) (fSigned b) (fScale b)
    let zneg := if fIsZero a && fIsZero b && fSign a == fSign b then fSign a else rm == 2
    fRoundInt rm i e zneg

/-- The sign-changed operand of a subtraction; a NaN stays one. -/
def fNeg (a : Word) : Word := if fIsNaN a then a else a ^^^ 0x80000000

/-- FSUB. -/
def fSub (rm : Nat) (a b : Word) : Word × Nat := fAdd rm a (fNeg b)

/-- FMUL. -/
def fMul (rm : Nat) (a b : Word) : Word × Nat :=
  let neg := fSign a != fSign b
  if fIsNaN a || fIsNaN b then (qNaN, fSnan [a, b])
  else if fIsInf a || fIsInf b then (if fIsZero a || fIsZero b then (qNaN, fNV) else (fInf neg, 0))
  else fRoundInt rm (fSigned a * fSigned b) (fScale a + fScale b) neg

/-- FMA: a × b + c, rounded once. IEEE 754-2019 leaves open whether 0 × ∞ + a quiet NaN raises NV: `open_` says it. -/
def fFma (open_ : Bool) (rm : Nat) (a b c : Word) : Word × Nat :=
  let neg := fSign a != fSign b
  let bad := (fIsInf a && fIsZero b) || (fIsZero a && fIsInf b)
  if fIsNaN a || fIsNaN b || fIsNaN c then (qNaN, if bad && !fIsSNaN c then (if open_ then fNV else 0) else fSnan [a, b, c])
  else if bad then (qNaN, fNV)
  else if fIsInf a || fIsInf b then (if fIsInf c && fSign c != neg then (qNaN, fNV) else (fInf neg, 0))
  else if fIsInf c then (c, 0)
  else
    let p := fSigned a * fSigned b
    let (i, e) := exactAdd p (fScale a + fScale b) (fSigned c) (fScale c)
    let zneg := if p == 0 && fIsZero c && neg == fSign c then neg else rm == 2
    fRoundInt rm i e zneg

/-- FDIV. -/
def fDiv (rm : Nat) (a b : Word) : Word × Nat :=
  let neg := fSign a != fSign b
  if fIsNaN a || fIsNaN b then (qNaN, fSnan [a, b])
  else if fIsInf a then (if fIsInf b then (qNaN, fNV) else (fInf neg, 0))
  else if fIsInf b then (fZero neg, 0)
  else if fIsZero b then (if fIsZero a then (qNaN, fNV) else (fInf neg, fDivZ))
  else if fIsZero a then (fZero neg, 0)
  else
    let n := fMant a * 2 ^ 64
    fRound rm neg (n / fMant b) (fScale a - fScale b - 64) (n % fMant b != 0)

/-- The integer square root below 2^k. -/
def isqrt (n : Nat) : Nat → Nat → Nat
  | 0, r => r
  | k + 1, r => let t := r + 2 ^ k; isqrt n k (if t * t ≤ n then t else r)

/-- FSQRT. -/
def fSqrt (rm : Nat) (a : Word) : Word × Nat :=
  if fIsNaN a then (qNaN, fSnan [a])
  else if fIsZero a then (a, 0)
  else if fSign a then (qNaN, fNV)
  else if fIsInf a then (a, 0)
  else
    let e := fScale a
    let odd := e % 2 != 0
    let n := fMant a * 2 ^ (if odd then 65 else 64)
    let e2 := (if odd then e - 1 else e) / 2 - 32
    let r := isqrt n 48 0
    fRound rm false r e2 (r * r != n)

/-- The order of two numbers that are no NaN, −0 below +0. -/
def fKey (a : Word) : Int := if fSign a then -(a.toNat % 2 ^ 31 : Nat) - 1 else (a.toNat : Int)

/-- FMIN and FMAX: minimumNumber and maximumNumber (09 R273). -/
def fMinMax (big : Bool) (a b : Word) : Word × Nat :=
  let fl := fSnan [a, b]
  if fIsNaN a && fIsNaN b then (qNaN, fl)
  else if fIsNaN a then (b, fl) else if fIsNaN b then (a, fl)
  else (if decide (fKey a < fKey b) == big then b else a, fl)

/-- The value of a number that is no NaN and no infinity is smaller, or an infinity lies outside. -/
def fLess (a b : Word) : Bool :=
  if fIsZero a && fIsZero b then false else decide (fKey a < fKey b)
def fSame (a b : Word) : Bool := (fIsZero a && fIsZero b) || a == b

/-- FCMP: 0 EQ, 1 LT, 2 LE, 3 UNORD. -/
def fCmp (c : Nat) (a b : Word) : Word × Nat :=
  let un := fIsNaN a || fIsNaN b
  let fl := if c == 1 || c == 2 then (if un then fNV else 0) else fSnan [a, b]
  let r := if un then c == 3 else if c == 0 then fSame a b else if c == 1 then fLess a b
    else if c == 2 then fLess a b || fSame a b else false
  (w32 (b2n r), fl)

/-- FCVT.W.S. -/
def fToInt (rm : Nat) (a : Word) : Word × Nat :=
  if fIsNaN a then (0x7FFFFFFF, fNV)
  else if fIsInf a then (if fSign a then 0x80000000 else 0x7FFFFFFF, fNV)
  else
    let (n, inexact) := roundTo rm (fSign a) (fMant a) (fScale a) 0 false
    let i : Int := if fSign a then -(n : Int) else n
    if 2147483647 < i then (0x7FFFFFFF, fNV)
    else if i < -2147483648 then (0x80000000, fNV)
    else (wInt i, if inexact then fIX else 0)

/-- FCVT.S.W. -/
def fOfInt (rm : Nat) (a : Word) : Word × Nat := fRoundInt rm a.toInt 0 false

end Sys2Proof.Machine
end

