-- ==== Sys2Proof/Machine/Bundle.lean ====
section
/-! DEFINITION. Bundles: how the operations of one are gathered, checked and completed on an engine or a harbour pair
(07 R197 to R203, R212 to R214; 08 R221 to R225, R233 to R239, R246, R247; 09 R274, R275; 13 R353, R354). -/
namespace Sys2Proof.Machine

/-! Results. -/

/-- A younger write discards the value of an older result to the same register, not its flags (07 R197). -/
def Pend.discard (p : Pend) (codes : List Nat) : Pend :=
  match p.dst with
  | some d => if meets d.codes codes then { p with dst := none } else p
  | none => p

/-- The targets of the results that the next bundle reads. -/
def setCodes (acts : List Act) : List Nat :=
  acts.flatMap (fun a => match a with | .set d _ => d.codes | _ => [])

/-- One bundle passes: results whose shadow ends are written, but for those that a younger write discards. -/
def Ctx.ageBy (x : Ctx) (codes : List Nat) : Ctx :=
  let l := x.pend.map (fun p => { p.discard codes with age := p.age - 1 })
  (l.filter (fun p => p.age == 0)).foldl Ctx.land { x with pend := l.filter (fun p => p.age != 0) }

/-- Long operations that a predicate picks complete (07 R199). -/
def Ctx.finish (x : Ctx) (f : Pend → Bool) : Ctx :=
  (x.longs.filter f).foldl Ctx.land { x with longs := x.longs.filter (fun p => !f p) }

/-- The long operations that an operation waits for (07 R199, 08 R245, 09 R278). -/
def Op.awaits (o : Op) (p : Pend) : Bool :=
  o.serial || (o.micro && !p.src.isEmpty) ||
  (match p.dst with | some d => meets d.codes (o.reads ++ o.writes) | none => false)

/-- A result that the third bundle reads, or the next one in fixed-count mode (07 R197, R207). -/
def Ctx.addLate (x : Ctx) (fixed : Bool) (p : Pend) : Ctx :=
  if fixed then x.land p else { x with pend := x.pend ++ [{ p with age := 2 }] }

/-- Results in their shadow that a younger operation writes over lose their value. -/
def Ctx.overwritten (x : Ctx) (codes : List Nat) : Ctx := { x with pend := x.pend.map (fun p => p.discard codes) }

/-- A long operation starts; at most two run, so that a third waits for the oldest. -/
def Ctx.addLong (x : Ctx) (fixed : Bool) (p : Pend) : Ctx :=
  let y := x.overwritten (match p.dst with | some d => d.codes | none => [])
  if fixed then y.land p
  else match y.longs with
    | a :: b :: t => { y with longs := b :: t ++ [p] }.land a
    | l => { y with longs := l ++ [p] }

/-- Writes a special register (08 R242); loop counters apart. -/
def Ctx.special (x : Ctx) (n : Nat) (v : Word) : Ctx :=
  if n == 0 then { x with regs := { x.regs with estat := v &&& 7 } }
  else if n == 1 then { x with regs := { x.regs with cy := bit v 0 } }
  else if n == 2 then { x with regs := { x.regs with vprog := v &&& 31 } }
  else if n == 3 then { x with fpstat := v &&& 0x3FFFB }
  else if n < 8 then { x with regs := { x.regs with loops := x.regs.loops.modify (n - 4) (fun l => { l with count := v }) } }
  else if n == 8 then { x with regs := { x.regs with vq := v } }
  else x

/-- The register result of an act; `next` is the address of the bundle that follows. -/
def Ctx.act (fixed : Bool) (next : Word) (x : Ctx) (a : Act) : Ctx :=
  match a with
  | .set d v => x.write d v
  | .late d v fl => x.addLate fixed { dst := some d, val := v, flags := fl }
  | .long d v fl src => x.addLong fixed { dst := some d, val := v, flags := fl, src := src }
  | .flag fl => x.flag fl
  | .special n v => x.special n v
  | .loop lv count stop =>
    let l : LoopLv := { active := count != 0, count := count, start := next, stop := stop, order := x.regs.loopNext }
    { x with regs := { x.regs with loops := x.regs.loops.set lv l, loopNext := x.regs.loopNext + 1 } }
  | .lclr lv => { x with regs := { x.regs with loops := x.regs.loops.modify lv (fun l => { l with active := false }) } }
  | .rpt n => { x with rpt := some n, rptPc := x.pc }
  | _ => x

/-- Writes of special registers come before the sticky bits that other operations of the bundle set. -/
def ordered (acts : List Act) : List Act :=
  let sp := fun (a : Act) => match a with | .special _ _ => true | _ => false
  acts.filter sp ++ acts.filter (fun a => !sp a)

/-! Loop ends (08 R233). -/

/-- Active levels whose end is the bundle at pc, the most recently started first. -/
def Ctx.ending (x : Ctx) : List Nat :=
  let l := (List.range 4).filter (fun i => match x.regs.loops[i]? with | some l => l.active && l.stop == x.pc | none => false)
  let ord := fun i => (x.regs.loops[i]?.getD {}).order
  let rec put (i : Nat) : List Nat → List Nat
    | [] => [i]
    | j :: t => if ord j < ord i then i :: j :: t else j :: put i t
  l.foldl (fun acc i => put i acc) []

/-- Tests the levels in turn: the target of the one that loops back, and the registers with the counters and levels after. -/
def loopTests (r : Regs) : List Nat → Option Word × Regs
  | [] => (none, r)
  | i :: t =>
    let l := r.loops.getD i {}
    let c := l.count - 1
    if c == 0 then loopTests { r with loops := r.loops.set i { l with count := c, active := false } } t
    else (some l.start, { r with loops := r.loops.set i { l with count := c } })

/-- The outcomes of the tests made: false is an exit. -/
def loopOuts (r : Regs) : List Nat → List Bool
  | [] => []
  | i :: t => if (r.loops.getD i {}).count - 1 == 0 then false :: loopOuts r t else [true]

/-- The loop ends that the bundle at the PC tests. -/
def Ctx.tests (x : Ctx) : List Bool := loopOuts x.regs x.ending

/-! The repeat cache (09 R266). -/

/-- A bundle of context x passes, which branches where taken: the repeat cache records a body from its start, issues it from the
second iteration on when it holds at most 32 bundles, and is invalidated by a taken branch and by an exit. -/
def Engine.track (e : Engine) (x : Ctx) (taken : Bool) : Engine :=
  match x.body with
  | none => e.noRep
  | some (start, stop) =>
    let r := (e.inBody x).getD { start := start }
    let again := match x.rpt with | some k => decide (2 ≤ k) | none => x.tests == [true]
    if taken || x.tests.contains false || ((e.inBody x).isNone && x.pc != start) then e.noRep
    else if x.pc == stop then
      (if again then { e with repBody := some { start := start, on := r.on || decide (r.seen < 32) } } else e.noRep)
    else { e with repBody := some { r with seen := r.seen + 1 } }

/-! Stops of an engine's running context. -/

/-- The FP trap of a context (09 R274, R275): every operation in flight completes. In repetitions it is not restartable (08 R236),
and it ends a sealed context. -/
def State.fpFault (s : State) (n c : Nat) (precise : Bool) : State :=
  let s0 := s.settleCtx n c
  let x := s0.ctx n c
  let y := { x with fpstat := setFld x.fpstat 13 5 x.fpTrap, fpTrap := 0 }
  (s0.setCtx n c y).faultCtx n c 6 0 x.pc precise (x.rpt.isNone && !x.sealed_)

/-- A fault of what runs: of the context, or of the machine-check handler, which the manual does not describe and which
halts the engine as a machine check inside the handler does (07 R214, R215). -/
def State.stopRun (s : State) (n code : Nat) (addr pc : Word) (again : Bool) : State :=
  let e := s.eng n
  if e.mc then ((s.faultBit (pEng n) 0).raise (pEng n) 1).haltEngine n
  else match e.run with
    | some c => s.faultCtx n c code addr pc true (restartable code && again)
    | none => s

/-! The FP file (07 R193). -/

/-- The FP state that context c would use: the file, or what its save area holds. -/
def State.fpFile (s : State) (n c : Nat) : List Word × Word :=
  let x := s.ctx n c
  if (s.eng n).fpOwner == some c then (x.f, x.fpstat)
  else if bit (s.areaFlags n c) 10 then
    let a := (s.engAddr n x.save).getD 0
    ((List.range 16).map (fun i => s.mword (a + 0x300 + 4 * i)), s.mword (a + 0x340))
  else (List.replicate 16 0, 0)

/-- Writes the owner's FP state to its save area; a sealed context's area is never written (07 R192). -/
def State.saveFp (s : State) (n o : Nat) : Option State :=
  if (s.ctx n o).sealed_ then some s
  else match s.takeArea n o with
    | none => none
    | some (area, s1) =>
      let a := (s1.engAddr n area).getD 0
      let x := s1.ctx n o
      some ((s1.mput (a + 0x300) (x.f.flatMap (fun w => leBytes 4 w.toNat) ++ leBytes 4 x.fpstat.toNat)).mputW (a + 4)
        (setFld (setFld (s1.mword (a + 4)) 0 6 o) 10 1 1))

/-- The lazy-FP micro-trap: none when the owner needs a save area and there is none. -/
def State.lazyFp (s : State) (n : Nat) : Option State :=
  let e := s.eng n
  match e.mc, e.run with
  | false, some c =>
    if e.fpOwner == some c then some s
    else
      let s0? : Option State := match e.fpOwner with
        | some o => (s.saveFp n o).map (fun (t : State) => t.setCtx n o { t.ctx n o with f := List.replicate 16 0, fpstat := 0 })
        | none => some s
      s0?.map (fun (t : State) =>
        let (f, st) := t.fpFile n c
        let t1 := t.setCtx n c { t.ctx n c with f := f, fpstat := st }
        (t1.setEng n { t1.eng n with fpOwner := some c }).perfAdd n 0x0B 1)
  | _, _ => some s

/-! System operations (08 R237). -/

/-- The END of a context: its job is done, with s1 as the result. -/
def State.endRun (s : State) (n c : Nat) : State :=
  let s1 := s.settleCtx n c
  ((s1.endJob n c 0 ((s1.ctx n c).rs 1)).freeCtx n c false).runNext n

/-- YIELD (08 R237, 10 R298): another runnable context runs, or the same one where there is none. -/
def State.yieldRun (s : State) (n c : Nat) : State :=
  let s1 := s.settleCtx n c
  let e := s1.eng n
  (s1.setEng n (e.offCore.setCtx c { e.ctx c with st := 2 })).runOther n c

/-- RETI of a level-1 handler: the interrupted context goes on, with its own s24 to s31 and the FP traps that waited. -/
def State.retLevel1 (s : State) (n : Nat) : State :=
  let s1 := s.setCur n (s.cur n).settle
  let s2 := s1.setEng n { s1.eng n with shadowIn := false }
  let x := s2.cur n
  let (y, s3) := s2.resumeMicro n { x with pc := (s.eng n).retPc, fpTrap := x.fpTrap ||| x.heldTrap, heldTrap := 0 }
  s3.setCur n y

/-- RETI of a level-2 handler context h: it parks until its next interrupt, and the interrupted context goes on if it can, filled
first where it was spilled meanwhile. -/
def State.retLevel2 (s : State) (n h : Nat) : State :=
  let s1 := s.settleCtx n h
  let e := s1.eng n
  let s2 := s1.setEng n (e.offCore.setCtx h { e.ctx h with st := 2, parked := true })
  match e.level2From with
  | some c =>
    let s3 := s2.bring n c
    if (s3.ctx n c).st == 2 && !(s3.eng n).mc then s3.enter n c else s3.runNext n
  | none => s2.runNext n

/-- RETI (07 R212, R213, 09 R279); outside a handler there is nothing to return from. -/
def State.retInt (s : State) (n : Nat) : State :=
  if (s.eng n).shadowIn then s.retLevel1 n
  else if (s.eng n).level2 then
    match (s.eng n).run with
    | some h => s.retLevel2 n h
    | none => s
  else s

/-- What SAVE_EXHAUSTED stopped is tried again (07 R190). -/
def State.tryAgain (s : State) (n : Nat) : Option Retry → State
  | some (.fill c) => s.fill n c
  | some .job => s.dispatch (n / 8)
  | none => s

/-- MRET (07 R215): poisoned contexts are FAULTED with POISON, the interrupted context goes on or another runs, and a spill that found
no save area is tried again. -/
def State.retMc (s : State) (n : Nat) : State :=
  let e := s.eng n
  if !e.mc then s
  else
    let s1 := s.setEng n { e with mc := false, bundle := {}, retry := none }
    let bad := (List.range 64).filter (fun c => (e.ctx c).poisoned)
    ((bad.foldl (fun s c => s.faultCtx n c 8 0 (s.ctx n c).pc false false) s1).runNext n).tryAgain n e.retry

/-- Writes an s register of a bank (08 R238). -/
def State.bankPut (s : State) (n b r : Nat) (v : Word) : State :=
  let e := s.eng n
  if b == 7 then s.setEng n { e with mcCtx := e.mcCtx.write (.s r) (.w v) }
  else match e.ctxs.find? (fun c => c.2.hasBank && c.2.bank == b) with
    | some (c, _) => s.setCtx n c ((s.ctx n c).write (.s r) (.w v))
    | none => s.setEng n { e with bankS := tput e.bankS (32 * b + r) v }

/-- What a system operation does on an engine. -/
def State.engSys (s : State) (n : Nat) (op : SysOp) : State :=
  let e := s.eng n
  match op with
  | .dint => s.setEng n { e with dint := some 256 }
  | .eint => s.setEng n { e with dint := none }
  | .swi i => s.raiseLine n i
  | .sync => s.drainStores n
  | .iflush => let s1 := (s.drainStores n).icacheFlush n; s1.setEng n (s1.eng n).noRep
  | .pflush => s.predFlush n
  | .lclr => s.setEng n e.noRep
  | .pbar k => if k == 0 then s else s.setEng n { e with pbar := k }
  | .dcwb a => if s.strict n (s.cur n) then s else
      match e.dcache.find? (fun l => l.addr == lineOf a.toNat) with
      | some l => (s.backLine n l).setEng n { e with dcache := e.dcache.map (fun k => if k.addr == l.addr then { k with dirty := false } else k) }
      | none => s
  | .dcinv a => if s.strict n (s.cur n) then s else s.setEng n { e with dcache := e.dcache.filter (fun l => l.addr != lineOf a.toNat) }
  | .reti => s.retInt n
  | .mret => s.retMc n
  | .end_ => match e.mc, e.run with | false, some c => s.endRun n c | _, _ => s
  | .yield => match e.mc, e.run with | false, some c => s.yieldRun n c | _, _ => s
  | .mcwr b r v => s.bankPut n b r v
  | _ => s

/-! Completing a bundle on an engine. -/

/-- The value of a loaded scalar. -/
def loadVal (size : Nat) (signed : Bool) (b : List Byte) : Word :=
  if signed then wInt (sgn (8 * size) (leNat b)) else w32 (leNat b)

/-- The results of a load. -/
def loadPends (d : Dst) (size : Nat) (signed : Bool) (b : List Byte) : List Pend :=
  match d with
  | .s r =>
    if size == 8 then
      [{ dst := some (.s r), val := .w (wordAt b 0) }, { dst := some (.s (r + 1)), val := .w (wordAt b 1) }]
    else [{ dst := some (.s r), val := .w (loadVal size signed b) }]
  | d => [{ dst := some d, val := .v (BitVec.ofNat 128 (leNat b)) }]

/-- Elements of a gather from element i on, read from D-RAM: their values, and the number and address of the first that
faults (09 R267, R268). -/
def State.gatherFrom (s : State) (n : Nat) (x : Ctx) (base : Word) (idx : List Nat) : Nat → Nat → List Nat × Option (Nat × Word)
  | 0, _ => ([], none)
  | k + 1, i =>
    let a := base + w32 (2 * idx.getD i 0)
    let p := a.toNat / 2 * 2
    if !dram p || !((s.eng n).mc || x.inData p 2) then ([], some (i, a))
    else
      let (l, f) := s.gatherFrom n x base idx k (i + 1)
      (leNat (s.getEng n p 2) :: l, f)

/-- The pair vd with elements from element i on replaced. -/
def gatherInto (x : Ctx) (vd i : Nat) (l : List Nat) : Vec × Vec :=
  let old := (List.range 16).map (fun j => hLane (x.rv (vd + j / 8)) (j % 8))
  let new := old.take i ++ l ++ old.drop (i + l.length)
  (ofH (fun j => new.getD j 0), ofH (fun j => new.getD (8 + j) 0))

/-- A memory act: the results it starts, and a jump. None while RND_DATA waits. -/
def State.engMem (s : State) (n : Nat) (fixed : Bool) (next : Word) (x : Ctx) (a : Act) : Option (State × Ctx × Option Word) :=
  match a with
  | .load d size sg ad =>
    match s.engLoad n ad size with
    | none => none
    | some (b, long, s1) =>
      let ps := loadPends d size sg b
      some (s1, ps.foldl (fun x p => if long then x.addLong fixed p else x.addLate fixed p) x, none)
  | .store ad b => some (s.engStore n ad b, x, none)
  | .link ad => some (s.engStore n ad (leBytes 4 next.toNat), x, none)
  | .retAt ad =>
    match s.engLoad n ad 4 with
    | none => none
    | some (b, _, s1) => some (s1, x, some (wordAt b 0))
  | .jump t => some (s, x, some t)
  | _ => some (s, x, none)

/-- The memory acts of a bundle in turn. -/
def State.engMems (s : State) (n : Nat) (fixed : Bool) (next : Word) (x : Ctx) (j : Option Word) :
    List Act → Option (State × Ctx × Option Word)
  | [] => some (s, x, j)
  | a :: t =>
    match s.engMem n fixed next x a with
    | none => none
    | some (s1, x1, j1) => s1.engMems n fixed next x1 (if j1.isSome then j1 else j) t

/-- The serialising micro-routine that a bundle starts. -/
def routineOf (acts : List Act) : Option Routine :=
  acts.findSome? (fun a => match a with | .routine r => some r | _ => none)

/-- A routine is a save. -/
def Routine.saves : Routine → Bool
  | .half _ save => save
  | _ => false

/-- The registers that a restore writes. -/
def halfCodes (upper : Bool) : List Nat :=
  if upper then (List.range 16).map regV ++ (List.range 4).map regA else (List.range 32).map regS

/-- The system operations of a bundle. -/
def sysOps (acts : List Act) : List SysOp :=
  acts.flatMap (fun a => match a with | .sys o => [o] | _ => [])

/-- A serialising operation first drains the store buffer (07 R216, 08 R245). -/
def hasSerial (acts : List Act) : Bool :=
  acts.any (fun a => match a with | .routine _ => true | .gather _ _ _ => true | .sys .sync => true | .sys .iflush => true | _ => false)

/-- The address after the bundle at the PC. -/
def Ctx.fall (x : Ctx) (b : Bundle) : Word := x.pc + w32 (4 * b.words)

/-- The registers that a bundle writes, for the results still in flight. -/
def writtenBy (acts : List Act) : List Nat :=
  setCodes acts ++ (match routineOf acts with | some (.half u false) => halfCodes u | _ => [])

/-- A bundle begins: the loops that end at it are counted, and a repetition is. -/
def Ctx.begun (x : Ctx) : Ctx :=
  { x with regs := (loopTests x.regs x.ending).2, brkAt := if x.brkAt == some x.pc then none else x.brkAt, rpt := match x.rpt with | some (k + 2) => some (k + 1) | _ => none }

/-- The registers after a bundle: results in flight age, and the acts that need no memory are done (07 R197). -/
def Ctx.applied (x : Ctx) (fixed : Bool) (b : Bundle) : Ctx :=
  (ordered b.acts).foldl (Ctx.act fixed (x.fall b)) (x.begun.ageBy (writtenBy b.acts))

/-- Store-buffer entries drain: all before a serialising operation, one beside a bundle with no V memory operand (07 R201). -/
def State.preMem (s : State) (n : Nat) (b : Bundle) : State :=
  if hasSerial b.acts then s.drainStores n else if b.vmem then s else s.drainN n 1

/-- The PC after a bundle whose operations jump to j, if any does. -/
def Ctx.nextPc (x : Ctx) (b : Bundle) (j : Option Word) : Word :=
  match j with
  | some t => t
  | none =>
    if (match x.rpt with | some (_ + 2) => true | _ => false) then x.pc
    else match (loopTests x.regs x.ending).1 with | some t => t | none => x.fall b

/-- PBAR and DINT count down, and the repeat cache follows. -/
def State.countDown (s : State) (n : Nat) (x : Ctx) (b : Bundle) (j : Option Word) : State :=
  let e := s.eng n
  s.setEng n ({ e with pbar := e.pbar - b.cond - x.tests.length, dint := e.dint.map (· - 1) }.track x j.isSome)

/-- A routine of the bundle begins (09 R277). It works on the bytes of the half of the running context as the bundle finds them, with
the PC that the bundle leaves; pc is that address. -/
def State.started (s : State) (n : Nat) (acts : List Act) (pc : Word) : Option Run :=
  (routineOf acts).map (fun r =>
    let img := match (s.eng n).run with
      | some c => s.routineBytes n (if (s.eng n).mc then s.ctx n c else { s.ctx n c with pc := pc }) r
      | none => []
    { kind := r, img := img })

/-- A branch of the bundle is taken. -/
def jumps (acts : List Act) : Bool := acts.any (fun a => match a with | .jump _ => true | _ => false)

/-- Unaligned accesses of the bundle (07 R203, R218). -/
def splits (acts : List Act) : Nat :=
  (acts.filter (fun a => match a with
    | .load _ n _ ad => (alignedParts ad.toNat n).length == 2
    | .store ad l => (alignedParts ad.toNat l.length).length == 2
    | .link ad | .retAt ad => (alignedParts ad.toNat 4).length == 2
    | _ => false)).length

/-- What a bundle of context x does in front of the pipeline (07 R184, R208, R209, R218, 09 R266): its lines are fetched unless it
issues from the repeat cache, its branches, with the outcomes given, and its loop ends update the predictor unless they are barred,
and the bundle and its unaligned accesses are counted. -/
def State.ran (s : State) (n : Nat) (x : Ctx) (words : Nat) (branches : List Bool) (unaligned : Nat) : State :=
  let issued := match (s.eng n).inBody x with | some r => r.on | none => false
  let f := s.front n
  let f1 := if s.strict n x || issued then f else (List.range words).foldl (fun f i => f.fetch (x.pc.toNat + 4 * i)) f
  let outs := (branches ++ x.tests).drop (s.eng n).pbar
  let f2 := if s.strict n x then f1 else outs.foldl (fun f t => f.update x.pc.toNat t) f1
  ((s.setFront n f2).perfAdd n 2 1).perfAdd n 0x0A unaligned

/-- The system operations of a bundle, in turn. -/
def State.engSyss (s : State) (n : Nat) (acts : List Act) : State := (sysOps acts).foldl (fun s o => s.engSys n o) s

/-- A bundle that nothing stops takes effect: the registers as they stood before it are in x. -/
def State.engApply (s : State) (n : Nat) (x : Ctx) (b : Bundle) : Option State :=
  match ((s.ran n x b.words (List.replicate b.cond (jumps b.acts)) (splits b.acts)).preMem n b).engMems n (s.fixedOn n) (x.fall b) (x.applied (s.fixedOn n) b) none b.acts with
  | none => none
  | some (s1, y, j) =>
    let pc := x.nextPc b j
    let s2 := (s1.countDown n x b j).setCur n { y with pc := pc, routine := s1.started n b.acts pc }
    some (s2.engSyss n b.acts)

/-- The gather of a bundle. -/
def gatherOf (acts : List Act) : Option (Nat × Word × List Nat) :=
  acts.findSome? (fun a => match a with | .gather vd base idx => some (vd, base, idx) | _ => none)

/-- A gather in the bundle, done: its target's new value, or the stop of the context with the elements it kept. -/
def State.gatherDone (s : State) (n : Nat) (x : Ctx) (acts : List Act) : List Act × Option State :=
  match gatherOf acts with
  | none => (acts, none)
  | some (vd, base, idx) =>
    let i := if 16 ≤ x.regs.vprog.toNat then 0 else x.regs.vprog.toNat
    let s1 := s.drainStores n
    let (l, f) := s1.gatherFrom n x base idx (16 - i) i
    let (lo, hi) := gatherInto x vd i l
    match f with
    | none => (.set (.v2 vd) (.v2 lo hi) :: .special 2 0 :: acts, none)
    | some (k, a) =>
      let y := { x with pend := x.pend.map (fun (p : Pend) => p.discard [regV vd, regV (vd + 1)]) }.write (.v2 vd) (.v2 lo hi)
      (acts, some ((s1.setCur n (y.special 2 (w32 k))).stopRun n 3 a x.pc true))

/-- A long operation that writes the FP file, or flags of FPSTAT. -/
def Pend.isFp (p : Pend) : Bool := decide (8 ≤ p.flags) || (match p.dst with | some (.f _) => true | _ => false)

/-- What FPBAR waits for: the FP results in flight, with their flags (09 R275). -/
def Ctx.atBar (x : Ctx) : Ctx :=
  let y := x.finish Pend.isFp
  { (y.pend.foldl (fun y p => y.flag (p.flags / 8 * 8)) y) with pend := y.pend.map (fun p => { p with flags := p.flags % 8 }) }

/-- The save area that a save of a half needs. -/
def State.savesArea (s : State) (n : Nat) (acts : List Act) : Option State :=
  match routineOf acts, (s.eng n).run with
  | some r, some c => if r.saves then (s.takeArea n c).map Prod.snd else some s
  | _, _ => some s

/-- The FP file and the save area that a bundle needs: none where an area is wanted and none is free. -/
def State.engPrep (s : State) (n : Nat) (b : Bundle) : Option State :=
  match (if b.fp then s.lazyFp n else some s) with
  | none => none
  | some s1 => s1.savesArea n b.acts

/-- A bundle whose form and operands are in order. -/
def State.engRun (s : State) (n : Nat) (b : Bundle) : Option State :=
  match s.engPrep n b with
  | none => some (s.machineCheck n 1 0 none)
  | some s1 =>
    match s1.gatherDone n (s1.cur n) b.acts with
    | (_, some t) => some t
    | (acts, none) => s1.engApply n (s1.cur n) { b with acts := acts }

/-- The forms that R221, R223, R233 and R235 forbid. -/
def Ctx.illegal (x : Ctx) (b : Bundle) : Bool := b.illegal || (!x.ending.isEmpty && decide (0 < b.ctl))

/-- An FP trap is due (09 R274): it comes at the next bundle boundary, in a level-1 handler too. -/
def State.trapDue (s : State) (n : Nat) : Bool := (s.cur n).fpTrap != 0 && !(s.eng n).mc

/-- The FP trap of what runs. -/
def State.trapRun (s : State) (n : Nat) (precise : Bool) : State :=
  match (s.eng n).run with
  | some c => s.fpFault n c precise
  | none => s

/-- A load from kiln register space, which is a long operation (07 R199). -/
def kilnLoads (acts : List Act) : Bool :=
  acts.any (fun a => match a with | .load _ _ _ ad => kilnSpace ad.toNat | .retAt ad => kilnSpace ad.toNat | _ => false)

/-- A complete bundle on engine n: a trap that is due, fetch, decode, faults, then its effect. None while a read waits. -/
def State.engCommit (s : State) (n : Nat) (b : Bundle) : Option State :=
  let x := s.cur n
  let s0 := s.setEng n { s.eng n with bundle := {}, step := false }
  let once := x.rpt.isNone
  let fpb := (sysOps b.acts).contains .fpbar
  if s.trapDue n then some (s0.trapRun n fpb)
  else match s.fetchFault n x b.words with
  | some code => some (s0.stopRun n code 0 x.pc once)
  | none =>
    if x.rpt.isSome && (0 < b.ctl || b.slow || !x.ending.isEmpty || kilnLoads b.acts) then some (s0.stopRun n 1 0 x.rptPc false)
    else if x.illegal b then some (s0.stopRun n 1 0 x.pc false)
    else if x.rpt == some 0 then some (s0.setCur n { x with pc := x.fall b, rpt := none })
    else if (sysOps b.acts).contains .brk && x.brkAt != some x.pc then some (s0.stopRun n 7 0 x.pc once)
    else
      let y := if fpb then x.atBar else x
      let s1 := s0.setCur n y
      if s1.trapDue n then some (s1.trapRun n true)
      else match b.fault with
        | some (code, a) => some (s0.stopRun n code a x.pc once)
        | none => s1.engRun n b

/-- What an operation finds: its fault, its acts, and the state after reading its operands. -/
abbrev Meaning := State → Ctx → Option (Nat × Word) × List Act × State

/-- An operation waits for a suspended micro-routine when it needs the sequencer or the destination (09 R278, R279). -/
def State.opWaits (s : State) (n : Nat) (o : Op) : Bool :=
  (o.micro && (s.eng n).ctxs.any (fun c => c.2.micro.isSome)) ||
    (match (s.cur n).micro with | some m => o.awaits m.pend | none => false)

/-- The FP file that an operation sees. -/
def State.withFp (s : State) (n : Nat) (x : Ctx) : Ctx :=
  match (s.eng n).mc, (s.eng n).run with
  | false, some c => { x with f := (s.fpFile n c).1, fpstat := (s.fpFile n c).2 }
  | _, _ => x

/-- The results that an operation waits for are in. -/
def State.opReady (s : State) (n : Nat) (o : Op) : State :=
  if (s.cur n).longs.any o.awaits then s.setCur n ((s.cur n).finish o.awaits) else s

/-- The registers that an operation sees then. -/
def State.opCtx (s : State) (n : Nat) (o : Op) : Ctx :=
  let x := if (s.cur n).longs.any o.awaits then (s.cur n).finish o.awaits else s.cur n
  if o.fp then (s.opReady n o).withFp n x else x

/-- An operation is added to the bundle, which is executed when it is the last; old is the state where a read waits. -/
def State.opAdd (old : State) (n : Nat) (w : At) (o : Op) (r : Option (Nat × Word) × List Act × State) : State :=
  let b := (r.2.2.eng n).bundle.add w o (o.only == 2) r.1 r.2.1
  if w.more then r.2.2.setEng n { r.2.2.eng n with bundle := b }
  else match r.2.2.engCommit n b with
    | some t => t
    | none => old

/-- An FP operation of a context that does not own the file takes the lazy-FP micro-trap, which is microcoded: it waits for the
sequencer (07 R193, 09 R277, R278). -/
def State.asMicro (s : State) (n : Nat) (o : Op) : Op :=
  if o.fp && !(s.eng n).mc && (s.eng n).fpOwner != (s.eng n).run then { o with micro := true } else o

/-- Before an operation: a serialising routine completes (08 R245); in fixed-count mode whatever the mode before it left in flight
or in the store buffer is in (07 R207). -/
def State.opStart (s : State) (n : Nat) : State :=
  let s1 := s.finishRoutine n
  if s1.fixedOn n && !((s1.eng n).stbuf.isEmpty && (s1.cur n).pend.isEmpty && (s1.cur n).longs.isEmpty) then
    let s2 := s1.drainStores n
    s2.setCur n (s2.cur n).settle
  else s1

/-- One operation on a running engine. Where an FP trap is due the operations of the bundle are gathered, to learn whether it holds
FPBAR, and have no effect (09 R274, R275). -/
def State.engOpOn (s : State) (n : Nat) (w : At) (o : Op) (f : Meaning) : State :=
  if s.opWaits n o then s
  else
    let x := s.opCtx n o
    let s1 := s.opReady n o
    if s1.trapDue n then s.opAdd n w o (none, (f s1 x).2.1, s1)
    else s.opAdd n w o (if x.rpt == some 0 then (none, [], s1) else f s1 x)

/-- One operation on engine n (08 R223 to R225). -/
def State.engOp (s : State) (n : Nat) (w : At) (o : Op) (f : Meaning) : State :=
  if !s.engRuns n then s else (s.opStart n).engOpOn n w ((s.opStart n).asMicro n o) f

/-! Harbour pairs (08 R246, R247, 13 R353, R354). -/

/-- Traps of pair h: one at firmware level while IE is 0 is a lockstep fault. -/
def State.hcTrap (s : State) (h cause : Nat) (tval epc : Word) : State :=
  let ts := s.csr h 0
  let clean := s.setHc h { s.hc h with bundle := {}, waiting := false, step := false }
  if cause < 0x20 && bit ts 0 && !bit ts 1 then clean.lockstep h
  else
    let ts' := w32 (1 + 4 * fld ts 1 1 + 8 * fld ts 0 1)
    let s1 := (((clean.setCsr h 2 epc).setCsr h 3 (w32 cause)).setCsr h 4 tval).setCsr h 0 ts'
    s1.setHc h { s1.hc h with pc := s1.csr h 1 }

/-- An enabled harbour line is asserted. -/
def State.hcWake (s : State) (h : Nat) : Bool := (List.range 32).any (fun l => bit (s.csr h 8) l && s.hcLine h l)

/-- Pair h executes bundles. -/
def State.hcRuns (s : State) (h : Nat) : Bool :=
  s.hcUp h && (!(s.hc h).halted || (s.hc h).step) && (!(s.hc h).waiting || s.hcWake h) && s.dev.ember.isNone &&
    !s.dev.lhOnly && decide (s.dev.dstate ≠ .cold)

/-- What a pair runs, in the form of a context. -/
def State.hcCur (s : State) (h : Nat) : Ctx := { Ctx.initial with regs := (s.hc h).regs, pc := (s.hc h).pc }

/-- A CSR as CSRR reads it; HCLK counts are free (log entry 14). -/
def State.csrRead (s : State) (h n : Nat) : Word × State :=
  if n == 6 then
    let c := Config.freeNat s.free
    (w32 c, s.drawn.setHc h { s.hc h with cycleLatch := w32 (c / 2 ^ 32) })
  else if n == 7 then ((s.hc h).cycleLatch, s)
  else if n == 9 then (bitsW 32 (fun l => s.hcLine h l), s)
  else (s.csr h n, s)

/-- CSRW's bits of register n; none where it is read-only. -/
def csrMask (n : Nat) : Option Word :=
  if n == 0 then some 0xF else if n == 1 then some 0xFFFFFFFC else if n == 3 then some 0xFF else if n == 12 then some 1
  else if n == 6 || n == 7 || n == 9 || n == 10 || n == 11 || 21 ≤ n then none else some 0xFFFFFFFF

/-- What a system operation does on a pair; its bundle is at pc. -/
def State.hcSys (s : State) (h : Nat) (pc : Word) (op : SysOp) : State :=
  match op with
  | .brk => s.hcTrap h 5 0 pc
  | .ecall => s.hcTrap h 4 0 pc
  | .eret =>
    let ts := s.csr h 0
    let s1 := s.setCsr h 0 (w32 (fld ts 3 1 + 2 * fld ts 2 1 + 4 * fld ts 2 1 + 8 * fld ts 3 1))
    s1.setHc h { s1.hc h with pc := s1.csr h 2 }
  | .wfi => if s.hcWake h then s else s.setHc h { s.hc h with waiting := true }
  | .csrr rd n =>
    let (v, s1) := s.csrRead h n
    s1.setHc h { s1.hc h with regs := { (s1.hc h).regs with s := (s1.hc h).regs.s.set rd v } }
  | .csrw n v => match csrMask n with | some m => s.setCsr h n (v &&& m) | none => s
  | _ => s

/-- A memory act on a pair: results are available to the next bundle (08 R247). -/
def State.hcMem (s : State) (h : Nat) (next : Word) (x : Ctx) (a : Act) : State × Ctx × Option Word :=
  match a with
  | .load d size sg ad =>
    let (b, s1) := s.hcLoad h ad size
    (s1, (loadPends d size sg b).foldl Ctx.land x, none)
  | .store ad b => (s.hcStore h ad b, x, none)
  | .link ad => (s.hcStore h ad (leBytes 4 next.toNat), x, none)
  | .retAt ad => let (b, s1) := s.hcLoad h ad 4; (s1, x, some (wordAt b 0))
  | .jump t => (s, x, some t)
  | _ => (s, x, none)

/-- A complete bundle on pair h. -/
def State.hcCommit (s : State) (h : Nat) (b : Bundle) : State :=
  let x := s.hcCur h
  let s0 := s.setHc h { s.hc h with bundle := {}, step := false, waiting := false }
  let fall := x.pc + w32 (4 * b.words)
  let form := (b.ops == 1 && (b.words == 1 || b.words == 2)) || (b.ops == 2 && b.words == 1)  -- 08 R246
  if !s.inTask h x.pc.toNat (4 * b.words) then s0.hcTrap h 2 x.pc x.pc
  else if b.illegal || !form then s0.hcTrap h 1 0 x.pc
  else match b.fault with
    | some (cause, a) => s0.hcTrap h cause a x.pc
    | none =>
      let x1 := (ordered b.acts).foldl (Ctx.act true fall) x
      let (s1, x2, j) := b.acts.foldl (fun (t : State × Ctx × Option Word) a =>
        let (s', x', j') := t.1.hcMem h fall t.2.1 a
        (s', x', if j'.isSome then j' else t.2.2)) (s0, x1, none)
      let s2 := s1.setHc h { s1.hc h with regs := x2.regs, pc := j.getD fall }
      (sysOps b.acts).foldl (fun s o => s.hcSys h x.pc o) s2

/-- One operation on pair h. -/
def State.hcOp (s : State) (h : Nat) (w : At) (o : Op) (f : Meaning) : State :=
  if !s.hcRuns h then s
  else
    let (flt, acts, s1) := f s (s.hcCur h)
    let b := (s1.hc h).bundle.add w o (o.only == 1) flt acts
    if w.more then s1.setHc h { s1.hc h with bundle := b } else s1.hcCommit h b

/-- One operation on its core. -/
def State.op (s : State) (w : At) (o : Op) (f : Meaning) : State :=
  match w.core with
  | .engine n => s.engOp n.val w o f
  | .harbour h => s.hcOp h.val w o f

/-- An operation whose acts follow from the registers alone. -/
def State.pureOp (s : State) (w : At) (o : Op) (g : Ctx → List Act) : State := s.op w o (fun s x => (none, g x, s))

end Sys2Proof.Machine
end

