-- ==== Sys2Proof/Machine/Alu.lean ====
section
/-! DEFINITION. Scalar operations (08 R222, R224, R240 to R243, R246, R247; 09 R262). -/
namespace Sys2Proof.Machine

/-- A three-operand ALU operation; the next bundle reads the result. -/
def State.alu (s : State) (w : At) (rd ra rb : Reg) (g : Word → Word → Word) : State :=
  s.pureOp w { sN := 1, reads := [regS ra, regS rb], writes := [regS rd] } (fun x => [.set (.s rd) (.w (g (x.rs ra) (x.rs rb)))])

/-- The same with ESTAT bits. -/
def State.aluF (s : State) (w : At) (rd ra rb : Reg) (g : Word → Word → Word × Nat) : State :=
  s.pureOp w { sN := 1, reads := [regS ra, regS rb], writes := [regS rd] }
    (fun x => let r := g (x.rs ra) (x.rs rb); [.set (.s rd) (.w r.1), .flag r.2])

/-- Two operands. -/
def State.alu2 (s : State) (w : At) (rd ra : Reg) (g : Word → Word) : State :=
  s.pureOp w { sN := 1, reads := [regS ra], writes := [regS rd] } (fun x => [.set (.s rd) (.w (g (x.rs ra)))])

/-- An immediate operation, which takes an extension word (08 R222). -/
def State.aluI (s : State) (w : At) (rd ra : Reg) (g : Word → Word) : State :=
  s.pureOp w { sN := 1, reads := [regS ra], writes := [regS rd], ext := true } (fun x => [.set (.s rd) (.w (g (x.rs ra)))])

def State.alu2F (s : State) (w : At) (rd ra : Reg) (g : Word → Word × Nat) : State :=
  s.pureOp w { sN := 1, reads := [regS ra], writes := [regS rd] }
    (fun x => let r := g (x.rs ra); [.set (.s rd) (.w r.1), .flag r.2])

/-- ADDC and SUBC write cy beside rd (09 R262). -/
def State.aluC (s : State) (w : At) (rd ra rb : Reg) (g : Word → Word → Bool → Word × Bool) : State :=
  s.pureOp w { sN := 1, reads := [regS ra, regS rb], writes := [regS rd, regX 1] }
    (fun x => let r := g (x.rs ra) (x.rs rb) x.regs.cy; [.set (.s rd) (.w r.1), .special 1 (w32 (b2n r.2))])

/-- Divide and remainder are long operations (07 R199, 09 R269). -/
def State.divide (s : State) (w : At) (rd ra rb : Reg) (g : Word → Word → Word × Nat) : State :=
  s.pureOp w { sN := 1, reads := [regS ra, regS rb], writes := [regS rd], slow := true }
    (fun x => let r := g (x.rs ra) (x.rs rb); [.long (.s rd) (.w r.1) r.2 []])

def execAdd (w : At) (rd ra rb : Reg) (s : State) : Host.Outcome State Fault Refusal := .next (s.alu w rd ra rb (· + ·))
def execSub (w : At) (rd ra rb : Reg) (s : State) : Host.Outcome State Fault Refusal := .next (s.alu w rd ra rb (· - ·))
def execAnd (w : At) (rd ra rb : Reg) (s : State) : Host.Outcome State Fault Refusal := .next (s.alu w rd ra rb (· &&& ·))
def execOr (w : At) (rd ra rb : Reg) (s : State) : Host.Outcome State Fault Refusal := .next (s.alu w rd ra rb (· ||| ·))
def execXor (w : At) (rd ra rb : Reg) (s : State) : Host.Outcome State Fault Refusal := .next (s.alu w rd ra rb (· ^^^ ·))
def execAndn (w : At) (rd ra rb : Reg) (s : State) : Host.Outcome State Fault Refusal := .next (s.alu w rd ra rb (fun a b => a &&& ~~~b))

/-- The amount of a register shift: bits [7:0] (08 R241). -/
def amt (b : Word) : Nat := fld b 0 8

def execSll (w : At) (rd ra rb : Reg) (s : State) : Host.Outcome State Fault Refusal := .next (s.alu w rd ra rb (fun a b => sllW a (amt b)))
def execSrl (w : At) (rd ra rb : Reg) (s : State) : Host.Outcome State Fault Refusal := .next (s.alu w rd ra rb (fun a b => srlW a (amt b)))
def execSra (w : At) (rd ra rb : Reg) (s : State) : Host.Outcome State Fault Refusal := .next (s.alu w rd ra rb (fun a b => sraW a (amt b)))
def execRor (w : At) (rd ra rb : Reg) (s : State) : Host.Outcome State Fault Refusal := .next (s.alu w rd ra rb (fun a b => rorW a (amt b)))
def execRol (w : At) (rd ra rb : Reg) (s : State) : Host.Outcome State Fault Refusal := .next (s.alu w rd ra rb (fun a b => rolW a (amt b)))

def sltW (a b : Word) : Word := w32 (b2n (decide (a.toInt < b.toInt)))
def sltuW (a b : Word) : Word := w32 (b2n (decide (a.toNat < b.toNat)))

def execSlt (w : At) (rd ra rb : Reg) (s : State) : Host.Outcome State Fault Refusal := .next (s.alu w rd ra rb sltW)
def execSltu (w : At) (rd ra rb : Reg) (s : State) : Host.Outcome State Fault Refusal := .next (s.alu w rd ra rb sltuW)
def execMin (w : At) (rd ra rb : Reg) (s : State) : Host.Outcome State Fault Refusal := .next (s.alu w rd ra rb (fun a b => if a.toInt < b.toInt then a else b))
def execMax (w : At) (rd ra rb : Reg) (s : State) : Host.Outcome State Fault Refusal := .next (s.alu w rd ra rb (fun a b => if a.toInt < b.toInt then b else a))
def execMinu (w : At) (rd ra rb : Reg) (s : State) : Host.Outcome State Fault Refusal := .next (s.alu w rd ra rb (fun a b => if a.toNat < b.toNat then a else b))
def execMaxu (w : At) (rd ra rb : Reg) (s : State) : Host.Outcome State Fault Refusal := .next (s.alu w rd ra rb (fun a b => if a.toNat < b.toNat then b else a))

def execAdds (w : At) (rd ra rb : Reg) (s : State) : Host.Outcome State Fault Refusal := .next (s.aluF w rd ra rb addsW)
def execSubs (w : At) (rd ra rb : Reg) (s : State) : Host.Outcome State Fault Refusal := .next (s.aluF w rd ra rb subsW)
def execNeg (w : At) (rd ra : Reg) (s : State) : Host.Outcome State Fault Refusal := .next (s.alu2F w rd ra negW)
def execNegs (w : At) (rd ra : Reg) (s : State) : Host.Outcome State Fault Refusal := .next (s.alu2F w rd ra negsW)
def execAbs (w : At) (rd ra : Reg) (s : State) : Host.Outcome State Fault Refusal := .next (s.alu2F w rd ra absW)
def execAbss (w : At) (rd ra : Reg) (s : State) : Host.Outcome State Fault Refusal := .next (s.alu2F w rd ra abssW)
def execAddc (w : At) (rd ra rb : Reg) (s : State) : Host.Outcome State Fault Refusal := .next (s.aluC w rd ra rb addcW)
def execSubc (w : At) (rd ra rb : Reg) (s : State) : Host.Outcome State Fault Refusal := .next (s.aluC w rd ra rb subcW)
def execClz (w : At) (rd ra : Reg) (s : State) : Host.Outcome State Fault Refusal := .next (s.alu2 w rd ra clzW)
def execPopc (w : At) (rd ra : Reg) (s : State) : Host.Outcome State Fault Refusal := .next (s.alu2 w rd ra popW)
def execBrev (w : At) (rd ra : Reg) (s : State) : Host.Outcome State Fault Refusal := .next (s.alu2 w rd ra brevW)
def execBswap (w : At) (rd ra : Reg) (s : State) : Host.Outcome State Fault Refusal := .next (s.alu2 w rd ra bswapW)

def execAddi (w : At) (rd ra : Reg) (imm : Word) (s : State) : Host.Outcome State Fault Refusal := .next (s.aluI w rd ra (· + imm))
def execAndi (w : At) (rd ra : Reg) (imm : Word) (s : State) : Host.Outcome State Fault Refusal := .next (s.aluI w rd ra (· &&& imm))
def execOri (w : At) (rd ra : Reg) (imm : Word) (s : State) : Host.Outcome State Fault Refusal := .next (s.aluI w rd ra (· ||| imm))
def execXori (w : At) (rd ra : Reg) (imm : Word) (s : State) : Host.Outcome State Fault Refusal := .next (s.aluI w rd ra (· ^^^ imm))
def execSlti (w : At) (rd ra : Reg) (imm : Word) (s : State) : Host.Outcome State Fault Refusal := .next (s.aluI w rd ra (sltW · imm))
def execSltiu (w : At) (rd ra : Reg) (imm : Word) (s : State) : Host.Outcome State Fault Refusal := .next (s.aluI w rd ra (sltuW · imm))
def execSlli (w : At) (rd ra : Reg) (n : Byte) (s : State) : Host.Outcome State Fault Refusal := .next (s.alu2 w rd ra (sllW · n.toNat))
def execSrli (w : At) (rd ra : Reg) (n : Byte) (s : State) : Host.Outcome State Fault Refusal := .next (s.alu2 w rd ra (srlW · n.toNat))
def execSrai (w : At) (rd ra : Reg) (n : Byte) (s : State) : Host.Outcome State Fault Refusal := .next (s.alu2 w rd ra (sraW · n.toNat))
def execRori (w : At) (rd ra : Reg) (n : Byte) (s : State) : Host.Outcome State Fault Refusal := .next (s.alu2 w rd ra (rorW · n.toNat))
def execMov (w : At) (rd ra : Reg) (s : State) : Host.Outcome State Fault Refusal := .next (s.alu2 w rd ra id)

/-- LI. -/
def execLi (w : At) (rd : Reg) (imm : Word) (s : State) : Host.Outcome State Fault Refusal :=
  .next (s.pureOp w { sN := 1, writes := [regS rd], ext := true } (fun _ => [.set (.s rd) (.w imm)]))

def execDiv (w : At) (rd ra rb : Reg) (s : State) : Host.Outcome State Fault Refusal := .next (s.divide w rd ra rb divW)
def execDivu (w : At) (rd ra rb : Reg) (s : State) : Host.Outcome State Fault Refusal := .next (s.divide w rd ra rb divuW)
def execRem (w : At) (rd ra rb : Reg) (s : State) : Host.Outcome State Fault Refusal := .next (s.divide w rd ra rb remW)
def execRemu (w : At) (rd ra rb : Reg) (s : State) : Host.Outcome State Fault Refusal := .next (s.divide w rd ra rb remuW)

/-! Special registers (08 R242). A harbour pair has ESTAT and cy only; the manual states no value for the others there, so
their reads are free and their writes do nothing (log entry 15). -/

/-- The value of special register n on a core. -/
def State.specialReg (s : State) (c : Core) (x : Ctx) (n : Nat) : Word × State :=
  if n == 0 then (x.regs.estat, s)
  else if n == 1 then (w32 (b2n x.regs.cy), s)
  else match c with
    | .harbour _ => (Config.freeWord s.free, s.drawn)
    | .engine e =>
      (if n == 2 then x.regs.vprog else if n == 3 then x.fpstat
       else if n < 8 then (x.regs.loops[n - 4]?.getD {}).count
       else if n == 8 then x.regs.vq
       else if n == 9 then w32 ((s.eng e.val).run.getD 0) else w32 e.val, s)

def onHarbour : Core → Bool | .harbour _ => true | .engine _ => false

/-- MVS. -/
def execMvs (w : At) (rd : Reg) (n : Fin 32) (s : State) : Host.Outcome State Fault Refusal :=
  .next (s.op w { sN := 1, writes := [regS rd], fp := n.val == 3 && !onHarbour w.core, bad := decide (10 < n.val) }
    (fun s x => let (v, s1) := s.specialReg w.core x n.val; (none, [.set (.s rd) (.w v)], s1)))

/-- MVTS. -/
def execMvts (w : At) (n : Fin 32) (ra : Reg) (s : State) : Host.Outcome State Fault Refusal :=
  .next (s.pureOp w { sN := 1, reads := [regS ra], writes := [regX n], fp := n.val == 3 && !onHarbour w.core, bad := decide (8 < n.val) }
    (fun x => if onHarbour w.core && 1 < n.val then [] else [.special n (x.rs ra)]))

/-- ESTCLR. -/
def execEstclr (w : At) (s : State) : Host.Outcome State Fault Refusal :=
  .next (s.pureOp w { sN := 1, writes := [regX 0] } (fun _ => [.special 0 0]))

/-! The multiplies of the V slot, which Traim-S has too (08 R246). -/

/-- A multiply: a V-slot result. -/
def State.mulOp (s : State) (w : At) (rd ra rb : Reg) (g : Word → Word → Word) : State :=
  s.pureOp w { vN := 1, reads := [regS ra, regS rb], writes := [regS rd] } (fun x => [.late (.s rd) (.w (g (x.rs ra) (x.rs rb))) 0])

def execMul (w : At) (rd ra rb : Reg) (s : State) : Host.Outcome State Fault Refusal := .next (s.mulOp w rd ra rb (· * ·))
def execMulh (w : At) (rd ra rb : Reg) (s : State) : Host.Outcome State Fault Refusal := .next (s.mulOp w rd ra rb (fun a b => wInt (a.toInt * b.toInt / 2 ^ 32)))
def execMulhu (w : At) (rd ra rb : Reg) (s : State) : Host.Outcome State Fault Refusal := .next (s.mulOp w rd ra rb (fun a b => w32 (a.toNat * b.toNat / 2 ^ 32)))

end Sys2Proof.Machine
end

