-- ==== Sys2Proof/Machine/Branch.lean ====
section
/-! DEFINITION. Control flow (08 R229 to R236). -/
namespace Sys2Proof.Machine

/-- The address that a displacement in words names from a bundle. -/
def target (x : Ctx) (disp : Word) : Word := x.pc + 4 * disp

/-- A conditional branch on two registers. -/
def State.branch (s : State) (w : At) (ra rb : Reg) (disp : Word) (p : Word → Word → Bool) : State :=
  s.pureOp w { sN := 1, ctl := true, cond := true, reads := [regS ra, regS rb], ext := true } (fun x => if p (x.rs ra) (x.rs rb) then [.jump (target x disp)] else [])

/-- A conditional branch on one register. -/
def State.branchZ (s : State) (w : At) (ra : Reg) (disp : Word) (p : Word → Bool) : State :=
  s.pureOp w { sN := 1, ctl := true, cond := true, reads := [regS ra], ext := true } (fun x => if p (x.rs ra) then [.jump (target x disp)] else [])

def execBeq (w : At) (ra rb : Reg) (disp : Word) (s : State) : Host.Outcome State Fault Refusal := .next (s.branch w ra rb disp (· == ·))
def execBne (w : At) (ra rb : Reg) (disp : Word) (s : State) : Host.Outcome State Fault Refusal := .next (s.branch w ra rb disp (· != ·))
def execBlt (w : At) (ra rb : Reg) (disp : Word) (s : State) : Host.Outcome State Fault Refusal := .next (s.branch w ra rb disp (fun a b => decide (a.toInt < b.toInt)))
def execBge (w : At) (ra rb : Reg) (disp : Word) (s : State) : Host.Outcome State Fault Refusal := .next (s.branch w ra rb disp (fun a b => decide (b.toInt ≤ a.toInt)))
def execBltu (w : At) (ra rb : Reg) (disp : Word) (s : State) : Host.Outcome State Fault Refusal := .next (s.branch w ra rb disp (fun a b => decide (a.toNat < b.toNat)))
def execBgeu (w : At) (ra rb : Reg) (disp : Word) (s : State) : Host.Outcome State Fault Refusal := .next (s.branch w ra rb disp (fun a b => decide (b.toNat ≤ a.toNat)))
def execBeqz (w : At) (ra : Reg) (disp : Word) (s : State) : Host.Outcome State Fault Refusal := .next (s.branchZ w ra disp (· == 0))
def execBnez (w : At) (ra : Reg) (disp : Word) (s : State) : Host.Outcome State Fault Refusal := .next (s.branchZ w ra disp (· != 0))

/-- DBNZ (08 R230). -/
def execDbnz (w : At) (ra : Reg) (disp : Word) (s : State) : Host.Outcome State Fault Refusal :=
  .next (s.pureOp w { sN := 1, ctl := true, cond := true, reads := [regS ra], writes := [regS ra], ext := true }
    (fun x => .set (.s ra) (.w (x.rs ra - 1)) :: (if x.rs ra - 1 != 0 then [.jump (target x disp)] else [])))

/-- J. -/
def execJ (w : At) (disp : Word) (s : State) : Host.Outcome State Fault Refusal :=
  .next (s.pureOp w { sN := 1, ctl := true, ext := true } (fun x => [.jump (target x disp)]))

/-- JR. -/
def execJr (w : At) (ra : Reg) (s : State) : Host.Outcome State Fault Refusal :=
  .next (s.pureOp w { sN := 1, ctl := true, reads := [regS ra] } (fun x => [.jump (x.rs ra)]))

/-- CALL and CALLR: the S slot and the M slot (08 R231). -/
def State.callTo (s : State) (w : At) (ext : Bool) (reads : List Nat) (t : Ctx → Word) : State :=
  s.op w { sN := 1, mN := 1, ctl := true, store := true, reads := regS 31 :: reads, writes := [regS 31], ext := ext } (fun s x =>
    let sp := x.rs 31 - 4
    (s.dataFault w.core x sp 4 true, [.set (.s 31) (.w sp), .link sp, .jump (t x)], s))

def execCall (w : At) (disp : Word) (s : State) : Host.Outcome State Fault Refusal := .next (s.callTo w true [] (fun x => target x disp))
def execCallr (w : At) (ra : Reg) (s : State) : Host.Outcome State Fault Refusal := .next (s.callTo w false [regS ra] (fun x => x.rs ra))

/-- RET. -/
def execRet (w : At) (s : State) : Host.Outcome State Fault Refusal :=
  .next (s.op w { sN := 1, mN := 1, ctl := true, reads := [regS 31], writes := [regS 31] } (fun s x =>
    (s.dataFault w.core x (x.rs 31) 4 false, [.set (.s 31) (.w (x.rs 31 + 4)), .retAt (x.rs 31)], s)))

/-! Loops. -/

/-- Words of the bundle at an address, by the P bits in instruction memory, at most four (08 R221). -/
def State.bundleWords (s : State) (n a : Nat) : Nat → Nat
  | 0 => 0
  | k + 1 => if leNat (s.getEng n a 1) % 2 == 1 then 1 + s.bundleWords n (a + 4) k else 1

/-- The address after the bundle at an address. -/
def State.bundleAfter (s : State) (n : Nat) (a : Word) : Word := a + w32 (4 * s.bundleWords n a.toNat 4)

/-- A loop or repeat count read at RD. -/
def countOf (x : Ctx) (c : Count) : Word := match c with | .imm n => w32 n | .reg r => x.rs r

def countReads : Count → List Nat | .imm _ => [] | .reg r => [regS r]

/-- LOOP (08 R232): a count of 0 goes on after the end bundle. -/
def execLoop (w : At) (level : Fin 4) (count : Count) (endDisp : Fin 2048) (s : State) : Host.Outcome State Fault Refusal :=
  .next (s.op w { sN := 1, ctl := true, only := 1, reads := countReads count, writes := [regX (4 + level)], bad := endDisp.val == 0 } (fun s x =>
    let c := countOf x count
    let stop := target x (w32 endDisp.val)
    let n := match w.core with | .engine e => e.val | .harbour _ => 0
    (none, .loop level c stop :: (if c == 0 then [.jump (s.bundleAfter n stop)] else []), s)))

/-- RPT (08 R235): the count is latched. -/
def execRpt (w : At) (count : Count) (s : State) : Host.Outcome State Fault Refusal :=
  .next (s.pureOp w { sN := 1, ctl := true, alone := true, only := 1, reads := countReads count } (fun x => [.rpt (fld (countOf x count) 0 8)]))

end Sys2Proof.Machine
end

