-- ==== Sys2Proof/Machine/Events.lean ====
section
/-! DEFINITION. Engine events: interrupts, machine checks, faults, fills, long operations and harbour traps (07 R188, R199,
R211 to R215; 09 R274, R279; 13 R354). A row whose premise does not hold changes nothing. -/
namespace Sys2Proof.Machine

/-- Interrupts are deferred: a machine check, DINT, an RPT, a sealed context, a bundle not yet complete (07 R213, R215, 08
R236). -/
def State.deferred (s : State) (n : Nat) : Bool :=
  let e := s.eng n
  let dint := match e.dint with | some k => k != 0 | none => false
  e.mc || dint || e.bundle.ops != 0 || (s.cur n).rpt.isSome || (e.run.isSome && (s.cur n).sealed_)

/-- Line i is asserted and enabled at a level. -/
def State.lineDue (s : State) (n i : Nat) (one : Bool) : Bool :=
  bit (s.reg (pEng n + 0x134)) i && (bit (s.reg (pEng n + 0x138)) i == one) && s.lineUp n i

/-- The line that the engine would take: level 1 first, then level 2, the lowest of each (07 R211). -/
def State.nextLine (s : State) (n : Nat) : Option (Nat × Bool) :=
  let pick := fun one => (List.range 16).find? (fun i => s.lineDue n i one)
  match (if (s.eng n).shadowIn then none else pick true) with
  | some i => some (i, true)
  | none => if (s.eng n).shadowIn || (s.eng n).level2 then none else (pick false).map (fun i => (i, false))

/-- A line of the kiln or of SWI is taken; a taken doorbell reads 0 again. -/
def State.lineTaken (s : State) (n i : Nat) : State :=
  let s1 := s.setEng n { s.eng n with lines := (s.eng n).lines.filter (· != i), dint := none }
  if i == 5 then s1.setRegFld (pKln (n / 8) + 0x114) (n % 8) 1 0 else s1

/-- The micro-save slot of a routine that is suspended: micro-PC and temporaries are free (09 R279). -/
def State.microSlot (s : State) (p : Pend) (run : Option Run) (seen : List Byte) : Micro :=
  { pc := Config.freeNat s.free % 4096, temps := (List.range 4).map (fun i => BitVec.ofNat 64 (Config.freeNat (s.free + 1 + i))), pend := p, run := run, seen := seen }

/-- A serialising routine of context c after a free number of steps: it is suspended, or completes where none is left. -/
def State.pauseRoutine (s : State) (n c : Nat) (r : Run) : State :=
  let (s1, r1) := s.someSteps n r
  let x := s1.ctx n c
  let s2 := s1.setCtx n c { x with routine := some r1 }
  if r1.step == r1.kind.steps then s2.finishRoutine n
  else
    (s2.drawnN 5).setCtx n c { x with routine := none, micro := some (s2.microSlot { dst := none, val := .w 0 } (some r1) (s2.routineInputs n x r1.kind)) }

/-- Results in flight are written; a micro-routine is suspended (07 R198, R212, 09 R279). -/
def State.pause (s : State) (n c : Nat) : State :=
  let x := s.ctx n c
  let s1 : State := match x.routine with
    | some r => s.pauseRoutine n c r
    | none =>
      match x.longs.find? (fun (p : Pend) => !p.src.isEmpty) with
      | none => s
      | some p => (s.drawnN 5).setCtx n c { x with longs := x.longs.filter (fun q => q.src.isEmpty), micro := some (s.microSlot p none []) }
  s1.setCtx n c (s1.ctx n c).settle

/-- Takes a level-1 line (07 R212). FP traps due at the same boundary come after RETI (R213). -/
def State.takeLevel1 (s : State) (n i : Nat) : State :=
  match (s.eng n).run with
  | none => s
  | some c =>
    let s1 := (s.pause n c).lineTaken n i
    let x := s1.ctx n c
    let s2 := s1.setCtx n c { x with pc := s.reg (pEng n + 0x180 + 4 * i), fpTrap := 0, heldTrap := x.fpTrap }
    s2.setEng n { (s2.eng n).noRep with shadowIn := true, retPc := x.pc }

/-- Takes a level-2 line (07 R213): the handler context must be RESIDENT, or become so. -/
def State.takeLevel2 (s : State) (n i : Nat) : State :=
  let h := fld (s.reg (pEng n + 0x140 + 4 * i)) 0 6
  let s0 := s.bring n h
  if (s0.ctx n h).st != 2 || (s0.eng n).mc then s0
  else
    let from_ := (s0.eng n).run
    let s1 := match from_ with | some c => s0.pause n c | none => s0
    let s2 := s1.lineTaken n i
    let e := s2.eng n
    let e1 := match from_ with
      | some c => e.offCore.setCtx c { e.ctx c with st := 2 }
      | none => e.offCore
    let s3 := (s2.setEng n e1).enter n h
    s3.setEng n { s3.eng n with level2 := true, level2From := from_ }

/-- The engine is awake, not halted and at a bundle boundary where interrupts are taken. -/
def State.mayInterrupt (s : State) (n : Nat) : Bool := s.awake n && !s.engHalted n && !s.deferred n

/-- INTERRUPT_LEVEL1 (07 R212). -/
def execInterruptLevel1 (n : Fin 192) (line : Fin 16) (s : State) : Host.Outcome State Fault Refusal :=
  .next (if s.mayInterrupt n.val && s.nextLine n.val == some (line.val, true) then s.takeLevel1 n.val line.val else s)

/-- INTERRUPT_LEVEL2 (07 R213). -/
def execInterruptLevel2 (n : Fin 192) (line : Fin 16) (s : State) : Host.Outcome State Fault Refusal :=
  .next (if s.mayInterrupt n.val && s.nextLine n.val == some (line.val, false) then s.takeLevel2 n.val line.val else s)

/-- DINT_LIMIT (07 R213): after 256 bundles of deferral the engine takes the interrupt that is due. -/
def execDintLimit (n : Fin 192) (s : State) : Host.Outcome State Fault Refusal :=
  if (s.eng n.val).dint != some 0 then .next s
  else
    let s1 := s.setEng n.val { s.eng n.val with dint := none }
    .next (if s1.mayInterrupt n.val then
        match s1.nextLine n.val with
        | some (i, true) => s1.takeLevel1 n.val i
        | some (i, false) => s1.takeLevel2 n.val i
        | none => s1
      else s1)

/-- The context that a machine check poisons (07 R215). -/
def State.mcVictim (s : State) (n cause : Nat) (bank : Nat) : Option Nat :=
  let e := s.eng n
  if cause == 2 || cause == 3 || cause == 4 then e.run
  else if cause == 5 || cause == 6 then (e.ctxs.find? (fun c => c.2.hasBank && c.2.bank == bank)).map Prod.fst
  else none

/-- A micro-routine of what engine n runs is abandoned, after a free number of its steps (09 R281). -/
def State.abandon (s : State) (n : Nat) : State :=
  let s1 := match (s.cur n).routine with
    | some r => (s.someSteps n r).1
    | none => s
  let x := s1.cur n
  s1.setCur n { x with longs := x.longs.filter (fun p => p.src.isEmpty), micro := none, routine := none }

/-- A machine check that the target of an RPT raises, which is not deferred (08 R236): the target is no microcoded operation, so its
control store error is that of a lazy-FP micro-trap, and one of a routine begun before waits. -/
def State.ownCheck (s : State) (n cause : Nat) : Bool :=
  cause == 3 || cause == 4 || (cause == 2 && !(s.cur n).longs.any (fun p => !p.src.isEmpty))

/-- MACHINE_CHECK (07 R215, 09 R281): a parity error of the control store abandons the micro-routine; one that the target of
an RPT did not raise is deferred (08 R236). -/
def execMachineCheck (n : Fin 192) (cause : Byte) (addr : Word) (bank : Fin 8) (s : State) : Host.Outcome State Fault Refusal :=
  let c := cause.toNat
  if c < 1 || 6 < c || !s.awake n.val || s.engHalted n.val || (!s.ownCheck n.val c && (s.cur n.val).rpt.isSome) ||
      (c == 1 && s.reg (pEng n.val + 0x110) != 0) then .next s
  else
    let s1 := if c == 2 then s.abandon n.val else s
    .next (s1.machineCheck n.val c addr (s1.mcVictim n.val c bank.val))

/-- CONTEXT_FAULT (07 R214): a fault of the running context that its operations do not show, such as a reserved encoding or
an uncorrectable error of HBM in engine backing or of kiln shared memory, which raises KLN_FT_SHMEM_UE (10 R287). -/
def execContextFault (n : Fin 192) (code : Byte) (addr : Word) (s : State) : Host.Outcome State Fault Refusal :=
  let k := code.toNat
  if k < 1 || 9 < k || k == 6 || k == 8 || !s.engRuns n.val then .next s
  else
    let s0 := s.finishRoutine n.val
    let s1 := s0.setEng n.val { s0.eng n.val with bundle := {}, step := false }
    let s2 := if k == 9 && 0x100000 ≤ addr.toNat && addr.toNat < 0x200000 then s1.fault (pKln (n.val / 8)) 1 else s1
    .next (s2.stopRun n.val k addr (s.cur n.val).pc (s.cur n.val).rpt.isNone)

/-- FP_TRAP (09 R274). -/
def execFpTrap (n : Fin 192) (s : State) : Host.Outcome State Fault Refusal :=
  .next (if s.engRuns n.val && (s.eng n.val).bundle.ops == 0 && s.trapDue n.val then s.trapRun n.val false else s)

/-- CONTEXT_FILL (07 R188 to R190). -/
def execContextFill (n : Fin 192) (ctx : Fin 64) (s : State) : Host.Outcome State Fault Refusal :=
  .next (if s.awake n.val && !(s.eng n.val).mc then s.fill n.val ctx.val else s)

/-- LONG_OP_COMPLETE (07 R199, 08 R245): the serialising routine, or the oldest long operation. -/
def execLongOpComplete (n : Fin 192) (s : State) : Host.Outcome State Fault Refusal :=
  let x := s.cur n.val
  match x.routine, x.longs with
  | some _, _ => .next (if s.engRuns n.val then s.finishRoutine n.val else s)
  | none, p :: t => .next (if s.engRuns n.val then s.setCur n.val ({ x with longs := t }.land p) else s)
  | none, [] => .next s

/-- HARBOUR_TRAP (13 R354): a trap, or an enabled line taken while IE is 1. -/
def execHarbourTrap (h : Fin 2) (cause : Byte) (tval : Word) (s : State) : Host.Outcome State Fault Refusal :=
  let c := cause.toNat
  let up := s.hcUp h.val && (!(s.hc h.val).halted || (s.hc h.val).step) && s.dev.ember.isNone && !s.dev.lhOnly && decide (s.dev.dstate ≠ .cold)
  let line := decide (0x20 ≤ c) && decide (c < 0x40)
  let due := bit (s.csr h.val 0) 1 && bit (s.csr h.val 8) (c - 0x20) && s.hcLine h.val (c - 0x20) && (s.hc h.val).bundle.ops == 0
  if up && ((line && due) || (decide (1 ≤ c) && decide (c ≤ 6) && !(s.hc h.val).waiting)) then
    .next (s.hcTrap h.val c (if line then 0 else tval) (s.hc h.val).pc)
  else .next s

end Sys2Proof.Machine
end

