-- ==== Sys2Proof/Machine/Fp.lean ====
section
/-! DEFINITION. Floating point (09 R269 to R276). -/
namespace Sys2Proof.Machine

/-- The rounding mode. -/
def Ctx.rm (x : Ctx) : Nat := fld x.fpstat 0 2

/-- A scalar FP operation of two sources. -/
def State.fpOp (s : State) (w : At) (fd fa fb : FReg) (g : Nat → Word → Word → Word × Nat) : State :=
  s.pureOp w { vN := 1, only := 1, fp := true, reads := [regF fa, regF fb], writes := [regF fd] } (fun x =>
    let r := g x.rm (x.rf fa) (x.rf fb)
    [.late (.f fd) (.w r.1) r.2])

def execFadd (w : At) (fd fa fb : FReg) (s : State) : Host.Outcome State Fault Refusal := .next (s.fpOp w fd fa fb fAdd)
def execFsub (w : At) (fd fa fb : FReg) (s : State) : Host.Outcome State Fault Refusal := .next (s.fpOp w fd fa fb fSub)
def execFmul (w : At) (fd fa fb : FReg) (s : State) : Host.Outcome State Fault Refusal := .next (s.fpOp w fd fa fb fMul)
def execFmin (w : At) (fd fa fb : FReg) (s : State) : Host.Outcome State Fault Refusal := .next (s.fpOp w fd fa fb (fun _ => fMinMax false))
def execFmax (w : At) (fd fa fb : FReg) (s : State) : Host.Outcome State Fault Refusal := .next (s.fpOp w fd fa fb (fun _ => fMinMax true))

/-- FMA: fd := fa × fb + fd, rounded once. -/
def execFma (w : At) (fd fa fb : FReg) (s : State) : Host.Outcome State Fault Refusal :=
  .next (s.op w { vN := 1, only := 1, fp := true, reads := [regF fa, regF fb, regF fd], writes := [regF fd] } (fun s x =>
    let r := fFma (Config.freeBool s.free) x.rm (x.rf fa) (x.rf fb) (x.rf fd)
    (none, [.late (.f fd) (.w r.1) r.2], s.drawn)))

/-- FDIV and FSQRT are long operations. -/
def State.fpLong (s : State) (w : At) (fd : FReg) (reads : List Nat) (g : Ctx → Word × Nat) : State :=
  s.pureOp w { vN := 1, only := 1, fp := true, slow := true, reads := reads, writes := [regF fd] } (fun x => [.long (.f fd) (.w (g x).1) (g x).2 []])

def execFdiv (w : At) (fd fa fb : FReg) (s : State) : Host.Outcome State Fault Refusal :=
  .next (s.fpLong w fd [regF fa, regF fb] (fun x => fDiv x.rm (x.rf fa) (x.rf fb)))
def execFsqrt (w : At) (fd fa : FReg) (s : State) : Host.Outcome State Fault Refusal :=
  .next (s.fpLong w fd [regF fa] (fun x => fSqrt x.rm (x.rf fa)))

def execFcvtWS (w : At) (rd : Reg) (fa : FReg) (s : State) : Host.Outcome State Fault Refusal :=
  .next (s.pureOp w { vN := 1, only := 1, fp := true, reads := [regF fa], writes := [regS rd] } (fun x =>
    let r := fToInt x.rm (x.rf fa)
    [.late (.s rd) (.w r.1) r.2]))
def execFcvtSW (w : At) (fd : FReg) (ra : Reg) (s : State) : Host.Outcome State Fault Refusal :=
  .next (s.pureOp w { vN := 1, only := 1, fp := true, reads := [regS ra], writes := [regF fd] } (fun x =>
    let r := fOfInt x.rm (x.rs ra)
    [.late (.f fd) (.w r.1) r.2]))
def execFcmp (w : At) (rd : Reg) (fa fb : FReg) (c : Fin 4) (s : State) : Host.Outcome State Fault Refusal :=
  .next (s.pureOp w { vN := 1, only := 1, fp := true, reads := [regF fa, regF fb], writes := [regS rd] } (fun x =>
    let r := fCmp c.val (x.rf fa) (x.rf fb)
    [.late (.s rd) (.w r.1) r.2]))

/-- The four lanes of a vector FP operation: the flags are the OR of all lanes. -/
def fLanes (g : Nat → Word × Nat) : Vec × Nat :=
  (ofW (fun i => (g i).1), (List.range 4).foldl (fun a i => a ||| (g i).2) 0)

/-- A vector FP operation. -/
def State.vfpOp (s : State) (w : At) (vd va : VReg) (b : VSrc) (extra : List Nat) (g : Nat → State → Ctx → Nat → Word → Word → Word × Nat) : State :=
  s.op w { vN := 1, only := 1, fp := true, reads := regV va :: vReads b ++ extra, writes := regV vd :: vWrites b, vmem := vIsMem b } (fun s x =>
    let n := match w.core with | .engine e => e.val | .harbour _ => 0
    let (v, flt, upd, s1) := s.vSrc n x b
    let r := fLanes (fun i => g i s1 x x.rm (wLane (x.rv va) i) (wLane v i))
    (flt, .late (.v vd) (.v r.1) r.2 :: upd, { s1 with free := s1.free + 4 }))

def execVfadd (w : At) (vd va : VReg) (b : VSrc) (s : State) : Host.Outcome State Fault Refusal := .next (s.vfpOp w vd va b [] (fun _ _ _ => fAdd))
def execVfsub (w : At) (vd va : VReg) (b : VSrc) (s : State) : Host.Outcome State Fault Refusal := .next (s.vfpOp w vd va b [] (fun _ _ _ => fSub))
def execVfmul (w : At) (vd va : VReg) (b : VSrc) (s : State) : Host.Outcome State Fault Refusal := .next (s.vfpOp w vd va b [] (fun _ _ _ => fMul))

/-- VFMA: vd := va × vb + vd per lane. -/
def execVfma (w : At) (vd va : VReg) (b : VSrc) (s : State) : Host.Outcome State Fault Refusal :=
  .next (s.vfpOp w vd va b [regV vd] (fun i s x rm p q => fFma (Config.freeBool (s.free + i)) rm p q (wLane (x.rv vd) i)))

/-! Moves copy bits (09 R271). -/

/-- MVSF. -/
def execMvsf (w : At) (fd : FReg) (ra : Reg) (s : State) : Host.Outcome State Fault Refusal :=
  .next (s.pureOp w { vN := 1, only := 1, fp := true, reads := [regS ra], writes := [regF fd] } (fun x => [.late (.f fd) (.w (x.rs ra)) 0]))
/-- MVFS. -/
def execMvfs (w : At) (rd : Reg) (fa : FReg) (s : State) : Host.Outcome State Fault Refusal :=
  .next (s.pureOp w { vN := 1, only := 1, fp := true, reads := [regF fa], writes := [regS rd] } (fun x => [.late (.s rd) (.w (x.rf fa)) 0]))

end Sys2Proof.Machine
end

