-- ==== Sys2Proof/Machine/Host.lean ====
section
/-! DEFINITION. Host writes of the register BAR and the DMA rings (13 R369, 14 R383, R385, R399, R400). -/
namespace Sys2Proof.Machine

/-- The state a command leaves. -/
def outState (s : State) (x : Host.Outcome State Fault Refusal) : State := match x with | .next t => t | _ => s

/-! Rings (14 R399 to R401). -/

/-- A ring stops with an error. -/
def State.ringStop (s : State) (r code : Nat) : State :=
  let off := pRing r + 0x114
  (s.setReg off (setFld (setFld (s.reg off) 1 1 1) 4 4 code)).raise pPci 4

def ringSize (c : Word) : Nat := 2 ^ fld c 0 4

/-- RCTRL (14 R399): a write that leaves EN at 0 changes the other fields, no other write does; EN goes from 0 to 1
where LOG2 and KIND are valid. -/
def State.ringCtrl (s : State) (r : Nat) (v : Word) : State :=
  let off := pRing r + 0x108
  let c := s.reg off
  if !bit v 8 then s.setReg off (v &&& 0x1FF003F)
  else if bit c 8 then s
  else if fld c 0 4 < 6 || fld c 4 2 == 3 then
    (s.setReg off (v &&& 0x1FF003F)).setRegFld (pRing r + 0x114) 4 4 4
  else (((s.setRegFld off 8 1 1).setReg (pRing r + 0x10C) 0).setReg (pRing r + 0x110) 0).setRegFld (pRing r + 0x114) 1 1 0

/-- RING_ENABLE. -/
def execRingEnable (r : Fin 64) (v : Word) (s : State) : Host.Outcome State Fault Refusal :=
  gateO (pRing r.val + 0x108) s fun s => .next (s.ringCtrl r.val v)

/-- TAIL of a COPY ring (14 R399): too many descriptors stop the ring. -/
def State.ringTail (s : State) (r : Nat) (v : Word) : State :=
  let c := s.reg (pRing r + 0x108)
  if fld c 4 2 != 1 then s
  else
    let s1 := s.setReg (pRing r + 0x110) (v &&& 0xFFFF)
    let used := ((v &&& 0xFFFF).toNat + 65536 - (s.reg (pRing r + 0x10C)).toNat) % 65536
    if s.ringOn r && decide (ringSize c < used) then s1.ringStop r 2 else s1

/-- COPY_DOORBELL. -/
def execCopyDoorbell (r : Fin 64) (v : Word) (s : State) : Host.Outcome State Fault Refusal :=
  gateO (pRing r.val + 0x110) s fun s => .next (s.ringTail r.val v)

/-- A write of another ring register. -/
def State.ringWrite (s : State) (r o : Nat) (v : Word) : State :=
  let c := s.reg (pRing r + 0x108)
  if o == 0x100 then (if bit c 8 then s else s.setReg (pRing r + o) (v &&& 0xFFFFF000))
  else if o == 0x104 then (if bit c 8 then s else s.setReg (pRing r + o) v)
  else if o == 0x10C then (if fld c 4 2 == 2 then s.setReg (pRing r + o) (v &&& 0xFFFF) else s)
  else s

/-! Writes. -/

/-- CNT_CLEAR (02 R54): one channel's counters, or all. -/
def State.clearCounters (s : State) (v : Word) : State :=
  let c := fld v 0 13
  let hit := fun (o : Nat) => if bit v 31 then decide (0x1180000 ≤ o) && decide (o < 0x1280000)
    else decide (ccOff c 0 ≤ o) && decide (o < ccOff c 16)
  { s with cnt := s.cnt.filter (fun e => !hit e.1) }

/-- CNT_CLEAR. -/
def execCntClear (v : Word) (s : State) : Host.Outcome State Fault Refusal :=
  gateO (pCls + 0x128) s fun s => .next (s.clearCounters v)

/-- A staged write with PHASE 1, or one that comes too early or too late (13 R369). -/
def State.stage1 (s : State) (off : Nat) (mask v : Word) : State :=
  if s.gen.phase == 1 then s.withGen { s.gen with green := tput s.gen.green off (v &&& mask) }
  else (s.bump (pCfg + 0x120)).raise pCfg 3

/-- REQ_TAIL (13 R366, R376). -/
def State.reqTail (s : State) (c : Nat) (v : Word) : State :=
  let off := pCh c
  let s1 := s.hold off (v &&& 0x3F)
  if (fld v 0 6 + 64 - fld (s.reg (off + 4)) 0 6) % 64 ≤ 32 then
    ((s1.setReg off (v &&& 0x3F)).unhold off (off + 4)).agreed 4
  else s1.disagree off

/-- The field is firmware-owned (14 R385): firmware's pages, FIXED_CNT, FW_ROUTE and the RO fields of SNS. -/
def fwField (pg o : Nat) : Bool :=
  decide (0x100 ≤ pg) || (pg == 0x98 && o == 0x114) || (pg == 2 && decide (0x400 ≤ o) && decide (o < 0xE00)) ||
    (pg == 0x70 && (match findRow rowsSns o with | some r => r.acc == .ro | none => false))

/-- A write that takes effect at the row of a register (00 R8), where nothing bars it. -/
def State.rowWrite (s : State) (pg o : Nat) (r : Row) (v : Word) : State :=
  let off := 0x1000 * pg + o
  match r.acc with
  | .rws => s
  | .rw => if pg == 0x90 then s.reqTail ((o - 0x100) / 0x20) v
    else if pg == 0x78 && !s.todOwner .host then s
    else s.setReg off (v &&& r.mask)
  | .w1c => s.setReg off (s.reg off &&& ~~~(v &&& r.mask))
  | .w1s => s.setReg off (s.reg off ||| (v &&& r.mask))
  | _ => s

/-- Commands of the configuration page. -/
def State.cfgCommand (s : State) (o : Nat) (v : Word) : Option State :=
  if o == 0x100 then some (outState s (execGreenOpen v s)) else if o == 0x104 then some (outState s (execFire v s))
  else if o == 0x108 then some (outState s (execRefire v s)) else if o == 0x10C then some (outState s (execGreenAbort v s))
  else none

/-- Commands of the power page. -/
def State.pwrCommand (s : State) (o : Nat) (v : Word) : Option State :=
  if o == 0x100 then
    some (outState s (gateO (pPwr + 0x100) s fun s =>
      .next (if fld v 16 2 == 1 then s.islCmd (fld v 0 9) true else if fld v 16 2 == 2 then s.islCmd (fld v 0 9) false else s)))
  else if o == 0x10C then some (outState s (if bit v 0 then execDeepIdleEnter s else execDeepIdleLeave s)) else none

/-- Commands of the reset page. -/
def State.rstCommand (s : State) (o : Nat) (v : Word) : Option State :=
  if o == 0x100 then some (outState s (execEmber v s))
  else if o == 0x104 then some (outState s (gateO (pRst + 0x104) s fun s => .next (s.unitCmd v))) else none

/-- Commands of safety page 0. -/
def State.safCommand (s : State) (o : Nat) (v : Word) : Option State :=
  if o == 0x104 then some (outState s (execSealCmd v s)) else if o == 0x118 then some (outState s (execProofArm v s)) else none

/-- Commands of the ASX page. -/
def State.asxCommand (s : State) (o : Nat) (v : Word) : Option State :=
  if o == 0x124 then
    let p : Fin 4 := Fin.ofNat 4 (fld v 0 2)
    some (outState s (if fld v 2 2 == 1 then execForceToProtect p s else if fld v 2 2 == 2 then execForceToWorking p s
      else if fld v 2 2 == 3 then execClearForce p s else gateO (pAsx + 0x124) s fun s => .next s))
  else if o == 0x128 then
    some (outState s (if bit v 4 then execClosePeer (Fin.ofNat 8 (fld v 0 3)) s else gateO (pAsx + 0x128) s fun s => .next s))
  else none

/-- Commands of the time page. -/
def State.timCommand (s : State) (o : Nat) (v : Word) : Option State :=
  if o == 0x114 then some (outState s (execTodStep .host v s)) else if o == 0x120 then some (outState s (execTodLoad .host v s))
  else if o == 0x124 then some (outState s (execRateWrite .host v s)) else none

/-- Registers of ring page pg. -/
def State.ringCommand (s : State) (pg o : Nat) (v : Word) : Option State :=
  if o == 0x108 then some (outState s (execRingEnable (Fin.ofNat 64 (pg - 0xB0)) v s))
  else if o == 0x110 then some (outState s (execCopyDoorbell (Fin.ofNat 64 (pg - 0xB0)) v s))
  else if o == 0x100 || o == 0x104 || o == 0x10C then
    some (s.headW true (0x1000 * pg + o) (·.ringWrite (pg - 0xB0) o v))
  else none

/-- Registers whose writes are commands on pages of several units. -/
def State.unitCommand (s : State) (pg o : Nat) (v : Word) : Option State :=
  if pg == 3 then (if 0x100 ≤ o && o < 0xB00 && o % 4 == 0 then some (s.routeWrite ((o - 0x100) / 4) v) else none)
  else if pg == 0xA then
    (if 0x140 ≤ o && o < 0x1A0 && o % 4 == 0 then some (outState s (execEclkSelWrite (Fin.ofNat 24 ((o - 0x140) / 4)) v s)) else none)
  else if 0x10 ≤ pg && pg < 0x20 then
    (if o == 0x10C then
      some (outState s (execPortCntClear (if pg < 0x18 then .home else .strait) (Fin.ofNat 8 pg) v s)) else none)
  else if pg == 0x20 then (if o == 0x128 then some (outState s (execCntClear v s)) else none)
  else if 0x30 ≤ pg && pg < 0x39 then (if o == 0x13C then some (outState s (execMmClear .enc (Fin.ofNat 9 (pg - 0x30)) v s)) else none)
  else if 0x44 ≤ pg && pg < 0x4D then (if o == 0x13C then some (outState s (execMmClear .dec (Fin.ofNat 9 (pg - 0x44)) v s)) else none)
  else if pg == 0x60 || pg == 0x61 then
    (if o == 0x108 then some (outState s (execRetireCmd (Fin.ofNat 2 (pg - 0x60)) v s)) else none)
  else none

/-- A register whose write is a command of its own. -/
def State.command (s : State) (pg o : Nat) (v : Word) : Option State :=
  if pg == 1 then s.cfgCommand o v
  else if pg == 9 then s.pwrCommand o v
  else if pg == 0xB then s.rstCommand o v
  else if pg == 0xC then s.safCommand o v
  else if pg == 0x40 then s.asxCommand o v
  else if pg == 0x78 then s.timCommand o v
  else if 0xB0 ≤ pg && pg < 0xF0 then s.ringCommand pg o v
  else s.unitCommand pg o v

/-- FAULT_INJ of a page the host may write (16 R440). -/
def State.hostInj (s : State) (pg : Nat) (v : Word) : State :=
  let p : Option Page :=
    if pg == 0 then some .dev else if pg == 1 then some .cfg else if pg == 4 then some .pci else if pg == 8 then some .lhs
    else if pg == 9 then some .pwr else if pg == 0xA then some .clk else if pg == 0xB then some .rst
    else if 0xC ≤ pg && pg < 0x10 then some (.saf (Fin.ofNat 4 (pg - 0xC)))
    else if 0x10 ≤ pg && pg < 0x18 then some (.hpt (Fin.ofNat 8 pg)) else if 0x18 ≤ pg && pg < 0x20 then some (.spt (Fin.ofNat 8 pg))
    else if pg == 0x20 then some .cls else if 0x30 ≤ pg && pg < 0x39 then some (.cphE (Fin.ofNat 9 (pg - 0x30)))
    else if pg == 0x40 then some .asx else if 0x44 ≤ pg && pg < 0x4D then some (.cphD (Fin.ofNat 9 (pg - 0x44)))
    else if pg == 0x50 then some .qmg else if pg == 0x60 || pg == 0x61 then some (.hbm (Fin.ofNat 2 (pg - 0x60)))
    else if pg == 0x70 then some .sns else if pg == 0x78 then some .tim else if pg == 0x80 then some .vlt
    else if pg == 0x88 then some .drb else if pg == 0x90 then some .hrb else if pg == 0x98 then some .boot else none
  match p with
  | some p => outState s (execFaultInj p v s)
  | none => s.headW true (0x1000 * pg + 0x2C) id

/-- A write of an RWS register (13 R369, 14 R390, R391): LOCK bars it, an island that is off does not. -/
def State.stagedWrite (s : State) (off : Nat) (mask v : Word) : State :=
  if off < 0x1000000 && s.locked off then (s.bump (pPci + 0x114)).raise pPci 2 else s.stage1 off mask v

/-- A write of a header register (14 R386). -/
def State.headWrite (s : State) (pg o : Nat) (v : Word) : State :=
  let pb := 0x1000 * pg
  if o == 0x14 then s.evtEnable true pb v
  else if o == 0x18 then s.evtClear true pb v
  else if o == 0x1C then s.evtForce true pb v
  else if o == 0x24 then s.faultEnable true pb v
  else if o == 0x28 then s.faultClear true pb v
  else if o == 0x2C then s.hostInj pg v
  else if o == 0x34 then s.lockWrite true pb v
  else if o == 0 || o == 4 || o == 0x30 then (if s.locked pb then s.headW true (pb + o) id else s)
  else if (o == 0xC && pg == 0) || o == 0x10 || o == 0x20 || o == 0x40 || o == 0x44 then s.headW true (pb + o) id
  else s

/-- A dword write in a page (00 R8, R9, 14 R385 to R391). -/
def State.pageWrite (s : State) (pg o : Nat) (v : Word) : State :=
  if pg == 5 then s.msixTable (o / 16) (o % 16 / 4) v
  else match pageRows pg with
    | none => s
    | some (rows, _) =>
      if fwField pg o then s.fwWrite
      else if o < 0x80 then s.headWrite pg o v
      else match s.command pg o v with
        | some t => t
        | none =>
          match findRow rows o with
          | some r => if r.acc == .rws then s.stagedWrite (0x1000 * pg + o) r.mask v
            else s.headW true (0x1000 * pg + o) (·.rowWrite pg o r v)
          | none => s

/-- A dword write of the register BAR: windows take staged words only; the context window is firmware's. -/
def State.dwordWrite (s : State) (off : Nat) (v : Word) : State :=
  if off < 0x1000000 then s.pageWrite (off / 0x1000) (off % 0x1000) v
  else match stagedMask off with
    | some m => s.stagedWrite off m v
    | none => if 0x1400000 ≤ off && off < 0x14C0000 then s.fwWrite else s

/-- A write request (14 R383): 4 bytes aligned, or 8 bytes aligned as the lower dword then the upper. -/
def State.hostWrite (s : State) (off size : Nat) (v : DWord) : State :=
  if s.hostGone || 0x4000000 ≤ off then s
  else if size == 4 && off % 4 == 0 then s.dwordWrite off (v.setWidth 32)
  else if size == 8 && off % 8 == 0 then (s.dwordWrite off (v.setWidth 32)).dwordWrite (off + 4) ((v >>> 32).setWidth 32)
  else s.accessErr off

/-- REGISTER_WRITE (00 R8, 14 R383). -/
def execRegisterWrite (off : Word) (size : Nat) (v : DWord) (s : State) : Host.Outcome State Fault Refusal :=
  .next (s.hostWrite off.toNat size v)

/-- STAGED_WRITE (13 R369): the write of an RWS field or a staged window word. -/
def execStagedWrite (off v : Word) (s : State) : Host.Outcome State Fault Refusal :=
  .next (s.hostWrite off.toNat 4 (v.setWidth 64))

/-! COPY descriptors (14 R400). -/

/-- Code of a descriptor that is not executed: 2 for LEN, alignment or a reserved field, 1 for a range beyond the BAR. -/
def copyCode (d : CopyDesc) : Nat :=
  let len := d.len.toNat
  if len < 4 || 131072 < len || len % 4 != 0 || d.hostAddr.toNat % 4 != 0 || d.barOff.toNat % 4 != 0 || 4 ≤ d.dflags.toNat then 2
  else if 0x4000000 < d.barOff.toNat + len then 1 else 0

/-- The dword writes of a copy to the BAR, while the ring runs: how many were made. -/
def State.copyIn (s : State) (r off : Nat) : List Word → Nat × State
  | [] => (0, s)
  | w :: t =>
    if !s.ringOn r then (0, s)
    else
      let (n, s1) := (s.dwordWrite off w).copyIn r (off + 4) t
      (n + 1, s1)

/-- The dword reads of a copy from the BAR. -/
def State.copyOut (s : State) (r off : Nat) : Nat → List Word × State
  | 0 => ([], s)
  | n + 1 =>
    if !s.ringOn r then ([], s)
    else
      let (v, s1) := s.regRead off
      let (l, s2) := s1.copyOut r (off + 4) n
      (v :: l, s2)

/-- The descriptor's result in host memory, HEAD, the counters, the vector, and the stop for a code other than 0. -/
def State.copyDone (s : State) (r : Nat) (entry : Nat) (d : CopyDesc) (code bytes : Nat) : State :=
  let s1 := s.emit (.hostWrite (BitVec.ofNat 64 (entry + 24)) [w32 (code + 2 ^ 31), w32 bytes])
  if code == 4 then s1
  else
    let head := (s1.reg (pRing r + 0x10C)).toNat
    let s2 := ((s1.setReg (pRing r + 0x10C) (w32 ((head + 1) % 65536))).bump (pRing r + 0x11C)).cntAdd (pRgrp (r / 8) + 0x104) bytes
    let s3 := if bit d.dflags 1 then s2.ringVec r else s2
    if code == 0 then s3 else s3.ringStop r (if code == 3 then 3 else 1)

/-- The ring of a group whose turn it is: the next busy one after the ring that had the last turn (14 R399). -/
def State.ringNext (s : State) (q : Nat) : Option Nat :=
  ((List.range 8).map (fun i => 8 * q + (tget s.pci.turn q 7 + 1 + i) % 8)).find? s.ringBusy

/-- A ring of its group has its turn. -/
def State.ringTurn (s : State) (r : Nat) : State := s.withPci { s.pci with turn := tput s.pci.turn (r / 8) (r % 8) }

/-- COPY_DESCRIPTOR (14 R400): the descriptor at HEAD, with the words that the host memory held or, after a host access
error, those moved before it. The state stays where another ring of the group has its turn (R399). A ring that a dword access resets or disables ends the descriptor with code 4. -/
def execCopyDescriptor (r : Fin 64) (d : CopyDesc) (host : List Word) (hostErr : Bool) (s : State) :
    Host.Outcome State Fault Refusal :=
  let c := s.reg (pRing r.val + 0x108)
  let base := (s.reg (pRing r.val + 0x100)).toNat + 2 ^ 32 * (s.reg (pRing r.val + 0x104)).toNat
  let entry := base + 32 * ((s.reg (pRing r.val + 0x10C)).toNat % ringSize c)
  if s.ringNext (r.val / 8) != some r.val || s.hostGone || !s.pci.busMaster then .next s
  else
    let s := s.ringTurn r.val
    let bad := copyCode d
    let n := d.len.toNat / 4
    if bad != 0 then .next (s.copyDone r.val entry d bad 0)
    else if bit d.dflags 0 then
      let m := if hostErr then min host.length n else n
      let (l, s1) := s.copyOut r.val d.barOff.toNat m
      let s2 := if l.isEmpty then s1 else s1.emit (.hostWrite d.hostAddr l)
      .next (s2.copyDone r.val entry d (if !s2.ringOn r.val then 4 else if hostErr then 3 else 0) (4 * l.length))
    else if !hostErr && host.length != n then .next s
    else
      let (k, s1) := s.copyIn r.val d.barOff.toNat (host.take n)
      .next (s1.copyDone r.val entry d (if !s1.ringOn r.val then 4 else if hostErr then 3 else 0) (4 * k))

end Sys2Proof.Machine
end

