-- ==== Sys2Proof/Machine/Mem.lean ====
section
/-! DEFINITION. Loads and stores, gathers, saves and restores (07 R189 to R192, R201 to R203; 08 R226, R227, R245; 09 R267,
R268). -/
namespace Sys2Proof.Machine

/-- The base of a mode that updates it. -/
def updated : Addr → Option Nat
  | .postInc b _ => some b.val
  | .preDec b => some b.val
  | _ => none

/-- The displacement mode, which takes an extension word (08 R222). -/
def isDisp : Addr → Bool
  | .disp _ _ => true
  | _ => false

/-- A mode 3 access whose index is its base and that writes the base (08 R227). -/
def selfIndexed (a : Addr) (writes : List Nat) : Bool :=
  match a with
  | .index b i _ => b == i && writes.contains (regS b.val)
  | _ => false

/-- A scalar load of a size; LD.D loads the pair rt, rt + 1. -/
def State.loadOp (s : State) (w : At) (rt : Reg) (a : Addr) (size : Nat) (signed : Bool) : State :=
  let ws := if size == 8 then [regS rt, regS (rt + 1)] else [regS rt]
  s.op w { mN := 1, reads := addrReads a, writes := ws ++ addrWrites a, bad := updated a == some rt.val || (size == 8 && rt.val % 2 == 1) || selfIndexed a ws, ext := isDisp a }
    (fun s x =>
      let ad := addrAt a x size
      (s.dataFault w.core x ad size false, .load (.s rt) size signed ad :: addrActs a x size, s))

def execLdB (w : At) (rt : Reg) (a : Addr) (s : State) : Host.Outcome State Fault Refusal := .next (s.loadOp w rt a 1 true)
def execLdBu (w : At) (rt : Reg) (a : Addr) (s : State) : Host.Outcome State Fault Refusal := .next (s.loadOp w rt a 1 false)
def execLdH (w : At) (rt : Reg) (a : Addr) (s : State) : Host.Outcome State Fault Refusal := .next (s.loadOp w rt a 2 true)
def execLdHu (w : At) (rt : Reg) (a : Addr) (s : State) : Host.Outcome State Fault Refusal := .next (s.loadOp w rt a 2 false)
def execLdW (w : At) (rt : Reg) (a : Addr) (s : State) : Host.Outcome State Fault Refusal := .next (s.loadOp w rt a 4 false)
def execLdD (w : At) (rt : Reg) (a : Addr) (s : State) : Host.Outcome State Fault Refusal := .next (s.loadOp w rt a 8 false)

/-- A scalar store of a size. -/
def State.storeOp (s : State) (w : At) (rt : Reg) (a : Addr) (size : Nat) : State :=
  let rs := if size == 8 then [regS rt, regS (rt + 1)] else [regS rt]
  s.op w { mN := 1, store := true, reads := rs ++ addrReads a, writes := addrWrites a, bad := size == 8 && rt.val % 2 == 1, ext := isDisp a }
    (fun s x =>
      let ad := addrAt a x size
      let b := if size == 8 then leBytes 4 (x.rs rt).toNat ++ leBytes 4 (x.rs (rt + 1)).toNat else leBytes size (x.rs rt).toNat
      (s.dataFault w.core x ad size true, .store ad b :: addrActs a x size, s))

def execStB (w : At) (rt : Reg) (a : Addr) (s : State) : Host.Outcome State Fault Refusal := .next (s.storeOp w rt a 1)
def execStH (w : At) (rt : Reg) (a : Addr) (s : State) : Host.Outcome State Fault Refusal := .next (s.storeOp w rt a 2)
def execStW (w : At) (rt : Reg) (a : Addr) (s : State) : Host.Outcome State Fault Refusal := .next (s.storeOp w rt a 4)
def execStD (w : At) (rt : Reg) (a : Addr) (s : State) : Host.Outcome State Fault Refusal := .next (s.storeOp w rt a 8)

/-- VLD.Q. -/
def execVldQ (w : At) (vt : VReg) (a : Addr) (s : State) : Host.Outcome State Fault Refusal :=
  .next (s.op w { mN := 1, only := 1, reads := addrReads a, writes := regV vt :: addrWrites a, ext := isDisp a }
    (fun s x =>
      let ad := addrAt a x 16
      (s.dataFault w.core x ad 16 false, .load (.v vt) 16 false ad :: addrActs a x 16, s)))

/-- VST.Q. -/
def execVstQ (w : At) (vt : VReg) (a : Addr) (s : State) : Host.Outcome State Fault Refusal :=
  .next (s.op w { mN := 1, only := 1, store := true, reads := regV vt :: addrReads a, writes := addrWrites a, ext := isDisp a }
    (fun s x =>
      let ad := addrAt a x 16
      (s.dataFault w.core x ad 16 true, .store ad (leBytes 16 (x.rv vt).toNat) :: addrActs a x 16, s)))

/-- VGATH.H (09 R267): 16 indices from the pair vi. -/
def execVgathH (w : At) (vd : VReg) (sn : Reg) (vi : VReg) (s : State) : Host.Outcome State Fault Refusal :=
  .next (s.pureOp w { mN := 1, only := 1, serial := true, slow := true, reads := [regS sn, regV vi, regV (vi.val + 1)], writes := [regV vd, regV (vd.val + 1), regX 2], bad := vd.val % 2 == 1 || vi.val % 2 == 1 }
    (fun x => [.gather vd (x.rs sn) ((List.range 16).map (fun i => hLane (x.rv (vi.val + i / 8)) (i % 8)))]))

/-- The registers that a restore writes, for R223. -/
def restWrites (upper : Bool) : List Nat := halfCodes upper ++ (if upper then [regX 8] else (List.range 8).map regX)

/-- A save or a restore of a half (07 R191); a save is ILLEGAL while the running context is sealed, in a handler too (R192). -/
def State.halfOp (s : State) (w : At) (upper save : Bool) : State :=
  s.op w { mN := 1, only := 1, serial := true, slow := true, micro := true, writes := if save then [] else restWrites upper }
    (fun s _ =>
      let n := match w.core with | .engine e => e.val | .harbour _ => 0
      (if save && s.sealedNow n then some (1, 0) else none, [.routine (.half upper save)], s))

def execSavel (w : At) (s : State) : Host.Outcome State Fault Refusal := .next (s.halfOp w false true)
def execSaveu (w : At) (s : State) : Host.Outcome State Fault Refusal := .next (s.halfOp w true true)
def execRestl (w : At) (s : State) : Host.Outcome State Fault Refusal := .next (s.halfOp w false false)
def execRestu (w : At) (s : State) : Host.Outcome State Fault Refusal := .next (s.halfOp w true false)

end Sys2Proof.Machine
end

