-- ==== Sys2Proof/Machine/Sys.lean ====
section
/-! DEFINITION. System operations, machine-check bank access and the Traim-S operations (08 R237, R238, R246, R248; 13
R353). -/
namespace Sys2Proof.Machine

/-- An engine's system operation in an S slot. -/
def State.sysE (s : State) (w : At) (ctl : Bool) (op : SysOp) : State :=
  s.pureOp w { sN := 1, ctl := ctl, only := 1 } (fun _ => [.sys op])

/-- NOP takes no slot. -/
def execNop (w : At) (s : State) : Host.Outcome State Fault Refusal := .next (s.pureOp w {} (fun _ => []))

def execDint (w : At) (s : State) : Host.Outcome State Fault Refusal := .next (s.sysE w false .dint)
def execEint (w : At) (s : State) : Host.Outcome State Fault Refusal := .next (s.sysE w false .eint)

/-- SWI: line 14 or 15. -/
def execSwi (w : At) (n : Byte) (s : State) : Host.Outcome State Fault Refusal :=
  .next (s.pureOp w { sN := 1, only := 1, bad := n != 14 && n != 15 } (fun _ => [.sys (.swi n.toNat)]))

/-- BRK stands alone. -/
def execBrk (w : At) (s : State) : Host.Outcome State Fault Refusal :=
  .next (s.pureOp w { sN := 1, alone := true } (fun _ => [.sys .brk]))

def execSyncW (w : At) (s : State) : Host.Outcome State Fault Refusal := .next (s.pureOp w { sN := 1 } (fun _ => [.sys .sync]))
def execIflush (w : At) (s : State) : Host.Outcome State Fault Refusal := .next (s.pureOp w { sN := 1 } (fun _ => [.sys .iflush]))

/-- PFLUSH clears the predictor (07 R209); the branch-target buffer of Traim-S holds nothing that changes a value (R210). -/
def execPflush (w : At) (s : State) : Host.Outcome State Fault Refusal := .next (s.pureOp w { sN := 1 } (fun _ => [.sys .pflush]))

def execPbar (w : At) (n : Byte) (s : State) : Host.Outcome State Fault Refusal := .next (s.sysE w false (.pbar n.toNat))

def execDcwb (w : At) (ra : Reg) (s : State) : Host.Outcome State Fault Refusal :=
  .next (s.pureOp w { sN := 1, only := 1, reads := [regS ra] } (fun x => [.sys (.dcwb (x.rs ra))]))
def execDcinv (w : At) (ra : Reg) (s : State) : Host.Outcome State Fault Refusal :=
  .next (s.pureOp w { sN := 1, only := 1, reads := [regS ra] } (fun x => [.sys (.dcinv (x.rs ra))]))

def execReti (w : At) (s : State) : Host.Outcome State Fault Refusal := .next (s.sysE w true .reti)
def execMret (w : At) (s : State) : Host.Outcome State Fault Refusal := .next (s.sysE w true .mret)

/-- LCLR (08 R234). -/
def execLclr (w : At) (n : Fin 4) (s : State) : Host.Outcome State Fault Refusal :=
  .next (s.pureOp w { sN := 1, only := 1 } (fun _ => [.lclr n, .sys .lclr]))

def execEnd (w : At) (s : State) : Host.Outcome State Fault Refusal := .next (s.sysE w true .end_)
def execYield (w : At) (s : State) : Host.Outcome State Fault Refusal := .next (s.sysE w true .yield)

/-- FPBAR (09 R275). -/
def execFpbar (w : At) (s : State) : Host.Outcome State Fault Refusal := .next (s.pureOp w { sN := 1 } (fun _ => [.sys .fpbar]))

/-! Machine-check bank access (08 R238). -/

/-- ILLEGAL outside a machine-check handler. -/
def State.mcOnly (s : State) (c : Core) : Option (Nat × Word) :=
  match c with
  | .engine n => if (s.eng n.val).mc then none else some (1, 0)
  | .harbour _ => some (1, 0)

/-- The s register of a bank: where no context occupies it, what MCWR wrote or a clear left, and else a free value, which stays
(log entry 95). -/
def State.bankGet (s : State) (c : Core) (x : Ctx) (b r : Nat) : Word × State :=
  match c with
  | .engine n =>
    let e := s.eng n.val
    if b == 7 || !e.mc then (x.rs r, s)
    else match (s.eng n.val).ctxs.find? (fun c => c.2.hasBank && c.2.bank == b) with
      | some (_, y) => (y.rs r, s)
      | none =>
        if e.bankS.any (fun l => l.1 == 32 * b + r) then (tget e.bankS (32 * b + r) 0, s)
        else (Config.freeWord s.free, s.drawn.setEng n.val { e with bankS := tput e.bankS (32 * b + r) (Config.freeWord s.free) })
  | .harbour _ => (0, s)

/-- MCRD. -/
def execMcrd (w : At) (rd : Reg) (bank : Fin 8) (rs : Reg) (s : State) : Host.Outcome State Fault Refusal :=
  .next (s.op w { sN := 1, only := 1, writes := [regS rd] } (fun s x =>
    let (v, s1) := s.bankGet w.core x bank rs
    (s.mcOnly w.core, [.set (.s rd) (.w v)], s1)))

/-- MCWR: local rs to register rd of the bank. -/
def execMcwr (w : At) (rs : Reg) (bank : Fin 8) (rd : Reg) (s : State) : Host.Outcome State Fault Refusal :=
  .next (s.op w { sN := 1, only := 1, reads := [regS rs], writes := if bank == 7 then [regS rd] else [] } (fun s x =>
    (s.mcOnly w.core, if bank == 7 then [.set (.s rd) (.w (x.rs rs))] else [.sys (.mcwr bank rd (x.rs rs))], s)))

/-! Traim-S only (08 R248, 13 R353). -/

/-- What a pair may not do at task level. -/
def State.fwOnly (s : State) (c : Core) : Option (Nat × Word) :=
  match c with
  | .harbour h => if s.firmware h.val then none else some (1, 0)
  | .engine _ => none

def execEcall (w : At) (s : State) : Host.Outcome State Fault Refusal := .next (s.pureOp w { sN := 1, only := 2 } (fun _ => [.sys .ecall]))
def execEret (w : At) (s : State) : Host.Outcome State Fault Refusal :=
  .next (s.op w { sN := 1, only := 2 } (fun s _ => (s.fwOnly w.core, [.sys .eret], s)))
def execWfi (w : At) (s : State) : Host.Outcome State Fault Refusal :=
  .next (s.op w { sN := 1, only := 2 } (fun s _ => (s.fwOnly w.core, [.sys .wfi], s)))

/-- CSRR: registers 6, 7 and 10 at task level too. -/
def execCsrr (w : At) (rd : Reg) (n : Fin 32) (s : State) : Host.Outcome State Fault Refusal :=
  .next (s.op w { sN := 1, only := 2, writes := [regS rd], bad := decide (20 < n.val) } (fun s _ =>
    (if n == 6 || n == 7 || n == 10 then none else s.fwOnly w.core, [.sys (.csrr rd n)], s)))

/-- CSRW. -/
def execCsrw (w : At) (n : Fin 32) (ra : Reg) (s : State) : Host.Outcome State Fault Refusal :=
  .next (s.op w { sN := 1, only := 2, reads := [regS ra], bad := decide (20 < n.val) } (fun s x =>
    (s.fwOnly w.core, [.sys (.csrw n (x.rs ra))], s)))

end Sys2Proof.Machine
end

