-- ==== Sys2Proof/Machine/Tap.lean ====
section
/-! DEFINITION. The TAP (17 R457): boundary scan, and debug as the lifecycle permits (13 R364). -/
namespace Sys2Proof.Machine

/-- The debug instructions are open (13 R364, R378). -/
def State.debugOpen (s : State) : Bool :=
  bit (s.reg (pBoot + 0x11C)) 0 && decide (s.dev.dstate ≠ .cold) && !s.dev.lhOnly

/-- Debug access cannot reach a sealed context (06 R169): its regions in the D-RAM of engine n read and write nothing. -/
def State.sealedCell (s : State) (a : Nat) : Bool :=
  (List.range 192).any (fun n => decide (spDram n ≤ a) && decide (a < spDram (n + 1)) && (s.sealedAt n (a - spDram n + 0x10000)).isSome)

/-- A sealed context runs on engine n. Halt and step leave the engine alone then, and debug access to its memory reads 0: DESIGN
CHOICE, the manual says only that debug access cannot reach the context (log entry 90). -/
def State.sealedRun (s : State) (n : Nat) : Bool :=
  match (s.eng n).run with
  | some c => (s.ctx n c).sealed_
  | none => false

/-- EXTEST drives the balls while RESET_N is asserted; TEST_MODE is tied to VSS (17 R441). -/
def State.tapDrive (s : State) (drive : Option (List Bool)) : State := s.withDev { s.dev with extest := drive }

/-- A debug halt of an engine, which wakes a sleeping island (15 R413). -/
def State.debugHalt (s : State) (n : Nat) : State :=
  if s.islOff (193 + n / 8) then s
  else
    let s1 := if s.pst (1 + n) == 0 then s.setPst (1 + n) 2 else s
    s1.engCtrl n 1

/-- TAP_INSTRUCTION (17 R457): any instruction but EXTEST under its conditions leaves the balls; SAMPLE and the bypass
register change nothing else. -/
def execTapInstruction (op : TapOp) (s : State) : Host.Outcome State Fault Refusal :=
  let s0 := s.tapDrive none
  match op with
  | .extest drive => .next (if s.dev.resetN then s.tapDrive (some drive) else s0)
  | .sample | .bypass => .next s0
  | .haltEngine n => .next (if s.debugOpen && !s.sealedRun n.val then s0.debugHalt n.val else s0)
  | .stepEngine n =>
    .next (if s.debugOpen && s.engHalted n.val && !s.sealedRun n.val then s0.setEng n.val { s0.eng n.val with step := true } else s0)
  | .haltHarbour h => .next (if s.debugOpen then s0.setHc h.val { s0.hc h.val with halted := true } else s0)
  | .stepHarbour h =>
    .next (if s.debugOpen && (s.hc h.val).halted then s0.setHc h.val { s0.hc h.val with step := true } else s0)
  | .memRead a => .next (if s.debugOpen then s0.emit (.read (if s.sealedCell a then 0 else (memRead s.mem a).setWidth 64)) else s0)
  | .memWrite a v => .next (if s.debugOpen && !s.sealedCell a then s0.withMem (memWrite s0.mem a v) else s0)

end Sys2Proof.Machine
end

