-- ==== Sys2Proof/Machine/Vec.lean ====
section
/-! DEFINITION. Vector, MAC, modular, NTT and multi-word operations (09 R251 to R264). -/
namespace Sys2Proof.Machine

/-- A lane operation on va and the second source, into vd. -/
def State.vecOp (s : State) (w : At) (fp : Bool) (vd va : VReg) (b : VSrc) (extra : List Nat) (g : Ctx → Vec → Vec → Vec × Nat) : State :=
  s.op w { vN := 1, only := 1, fp := fp, reads := regV va :: vReads b ++ extra, writes := regV vd :: vWrites b, vmem := vIsMem b }
    (fun s x =>
      let n := match w.core with | .engine e => e.val | .harbour _ => 0
      let (v, flt, upd, s1) := s.vSrc n x b
      let r := g x (x.rv va) v
      (flt, .late (.v vd) (.v r.1) r.2 :: upd, s1))

/-- A lane operation that sets no flag. -/
def State.vecI (s : State) (w : At) (vd va : VReg) (b : VSrc) (g : Vec → Vec → Vec) : State :=
  s.vecOp w false vd va b [] (fun _ p q => (g p q, 0))

def execVaddH (w : At) (vd va : VReg) (b : VSrc) (s : State) : Host.Outcome State Fault Refusal :=
  .next (s.vecI w vd va b (fun p q => ofH (fun i => hLane p i + hLane q i)))
def execVsubH (w : At) (vd va : VReg) (b : VSrc) (s : State) : Host.Outcome State Fault Refusal :=
  .next (s.vecI w vd va b (fun p q => ofH (fun i => hLane p i + 65536 - hLane q i)))
def execVand (w : At) (vd va : VReg) (b : VSrc) (s : State) : Host.Outcome State Fault Refusal := .next (s.vecI w vd va b (· &&& ·))
def execVor (w : At) (vd va : VReg) (b : VSrc) (s : State) : Host.Outcome State Fault Refusal := .next (s.vecI w vd va b (· ||| ·))
def execVxor (w : At) (vd va : VReg) (b : VSrc) (s : State) : Host.Outcome State Fault Refusal := .next (s.vecI w vd va b (· ^^^ ·))
def execVsllH (w : At) (vd va : VReg) (b : VSrc) (s : State) : Host.Outcome State Fault Refusal :=
  .next (s.vecI w vd va b (fun p q => ofH (fun i => let k := hLane q i % 256; if 16 ≤ k then 0 else hLane p i * 2 ^ k)))
def execVsraH (w : At) (vd va : VReg) (b : VSrc) (s : State) : Host.Outcome State Fault Refusal :=
  .next (s.vecI w vd va b (fun p q => ofH (fun i => wrapN 16 (hInt p i / 2 ^ (min (hLane q i % 256) 16)))))
def execVaddW (w : At) (vd va : VReg) (b : VSrc) (s : State) : Host.Outcome State Fault Refusal :=
  .next (s.vecI w vd va b (fun p q => ofW (fun i => wLane p i + wLane q i)))
def execVsubW (w : At) (vd va : VReg) (b : VSrc) (s : State) : Host.Outcome State Fault Refusal :=
  .next (s.vecI w vd va b (fun p q => ofW (fun i => wLane p i - wLane q i)))

/-- Byte j of a vector. -/
def bLane (v : Vec) (j : Nat) : Nat := v.toNat / 2 ^ (8 * j) % 256

def execVshuf (w : At) (vd va : VReg) (b : VSrc) (s : State) : Host.Outcome State Fault Refusal :=
  .next (s.vecI w vd va b (fun p q => BitVec.ofNat 128 (packNat 8 ((List.range 16).map (fun j =>
    if 128 ≤ bLane q j then 0 else bLane p (bLane q j % 16))))))

/-- VBCAST.H. -/
def execVbcastH (w : At) (vd : VReg) (sa : Reg) (s : State) : Host.Outcome State Fault Refusal :=
  .next (s.pureOp w { vN := 1, only := 1, reads := [regS sa], writes := [regV vd] } (fun x => [.late (.v vd) (.v (ofH (fun _ => (x.rs sa).toNat))) 0]))

/-! The MAC lanes (09 R252 to R254). -/

/-- Wraps a lane to 40 bits: OV when it does. -/
def acc40 (i : Int) : Int × Bool := (sgn 40 (wrapN 40 i), decide (i < -(2 ^ 39)) || decide (2 ^ 39 ≤ i))

/-- The lanes of an accumulation: the exact sums, wrapped, and OV. -/
def accLanes (f : Nat → Int) : List Int × Nat :=
  ((List.range 8).map (fun i => (acc40 (f i)).1), if (List.range 8).any (fun i => (acc40 (f i)).2) then fOV else 0)

/-- VMUL.H, VMAC.H and VMSU.H. -/
def State.macOp (s : State) (w : At) (ad : AReg) (va : VReg) (b : VSrc) (g : Int → Int → Int) : State :=
  s.op w { vN := 1, only := 1, reads := regV va :: vReads b, writes := regA ad :: vWrites b, vmem := vIsMem b }
    (fun s x =>
      let n := match w.core with | .engine e => e.val | .harbour _ => 0
      let (v, flt, upd, s1) := s.vSrc n x b
      let old := x.chain ad
      let r := accLanes (fun i => g (old.getD i 0) (hInt (x.rv va) i * hInt v i))
      (flt, .late (.acc ad) (.a r.1) r.2 :: upd, s1))

def execVmacH (w : At) (ad : AReg) (va : VReg) (b : VSrc) (s : State) : Host.Outcome State Fault Refusal := .next (s.macOp w ad va b (fun o p => o + p))
def execVmsuH (w : At) (ad : AReg) (va : VReg) (b : VSrc) (s : State) : Host.Outcome State Fault Refusal := .next (s.macOp w ad va b (fun o p => o - p))
def execVmulH (w : At) (ad : AReg) (va : VReg) (b : VSrc) (s : State) : Host.Outcome State Fault Refusal := .next (s.macOp w ad va b (fun _ p => p))

/-- VACLR. -/
def execVaclr (w : At) (ad : AReg) (s : State) : Host.Outcome State Fault Refusal :=
  .next (s.pureOp w { vN := 1, only := 1, writes := [regA ad] } (fun _ => [.late (.acc ad) (.a (List.replicate 8 0)) 0]))

/-- A lane shifted right by k, rounded half up when RND, and saturated to n bits (09 R254). -/
def accShift (n k : Nat) (rnd : Bool) (l : Int) : Int × Bool :=
  let r := (l + (if rnd && 0 < k then 2 ^ (k - 1) else 0)) / 2 ^ k
  let hi : Int := 2 ^ (n - 1) - 1
  if hi < r then (hi, true) else if r < -(2 ^ (n - 1)) then (-(2 ^ (n - 1)), true) else (r, false)

/-- VACST.H. -/
def execVacstH (w : At) (vd : VReg) (aa : AReg) (k : Fin 32) (rnd : Bool) (s : State) : Host.Outcome State Fault Refusal :=
  .next (s.pureOp w { vN := 1, only := 1, reads := [regA aa], writes := [regV vd] } (fun x =>
    let r := fun i => accShift 16 k.val rnd ((x.racc aa).getD i 0)
    [.late (.v vd) (.v (ofH (fun i => wrapN 16 (r i).1))) (if (List.range 8).any (fun i => (r i).2) then fSAT else 0)]))

/-- VACST.W into the pair vd. -/
def execVacstW (w : At) (vd : VReg) (aa : AReg) (k : Fin 32) (rnd : Bool) (s : State) : Host.Outcome State Fault Refusal :=
  .next (s.pureOp w { vN := 1, only := 1, reads := [regA aa], writes := [regV vd, regV (vd.val + 1)], bad := vd.val % 2 == 1 } (fun x =>
    let r := fun i => accShift 32 k.val rnd ((x.racc aa).getD i 0)
    [.late (.v vd) (.v (ofW (fun i => wInt (r i).1))) (if (List.range 8).any (fun i => (r i).2) then fSAT else 0),
     .late (.v (vd.val + 1)) (.v (ofW (fun i => wInt (r (4 + i)).1))) 0]))

/-! Modular arithmetic (09 R255 to R258). -/

/-- The modular sum or difference with its one correction. -/
def modAdd (vq : Word) (r : Int) : Nat :=
  let q : Int := vqQ vq
  wrapN 16 (if q ≤ r then r - q else if r < 0 then r + q else r)

/-- A modular operation: 0 in every lane and OV under an invalid vq. -/
def State.modOp (s : State) (w : At) (vd va : VReg) (b : VSrc) (g : Word → Int → Int → Nat) : State :=
  s.vecOp w false vd va b [regX 8] (fun x p q =>
    if vqOk x.regs.vq then (ofH (fun i => g x.regs.vq (hInt p i) (hInt q i)), 0) else (0, fOV))

def execVmontH (w : At) (vd va : VReg) (b : VSrc) (s : State) : Host.Outcome State Fault Refusal := .next (s.modOp w vd va b mont)
def execVbarrH (w : At) (vd va : VReg) (s : State) : Host.Outcome State Fault Refusal := .next (s.modOp w vd va (.reg va) (fun q a _ => barrett q a))
def execVmaddH (w : At) (vd va : VReg) (b : VSrc) (s : State) : Host.Outcome State Fault Refusal := .next (s.modOp w vd va b (fun q a c => modAdd q (a + c)))
def execVmsubH (w : At) (vd va : VReg) (b : VSrc) (s : State) : Host.Outcome State Fault Refusal := .next (s.modOp w vd va b (fun q a c => modAdd q (a - c)))

/-- The first halfword of a range that lies outside D-RAM or the data regions. -/
def State.outside (s : State) (n : Nat) (x : Ctx) (a k : Nat) : Option Word :=
  (List.range k).findSome? (fun i =>
    let p := (a + 2 * i) % 2 ^ 32
    if dram p && ((s.eng n).mc || x.inData p 2) then none else some (w32 p))

/-- One half of a layer: butterflies 64h to 64h + 63, by a micro-routine; 0 and OV under an invalid vq. -/
def State.nttOp (s : State) (w : At) (sn : Reg) (k : Nat) (inverse : Bool) : State :=
  s.op w { vN := 1, only := 1, serial := true, slow := true, micro := true, reads := [regS sn], bad := decide (13 < k) } (fun s x =>
    let n := match w.core with | .engine e => e.val | .harbour _ => 0
    let a := (x.rs sn).toNat
    if a % 16 != 0 then (some (3, x.rs sn), [], s)
    else match s.outside n x a 256 with
      | some p => (some (3, p), [], s)
      | none => match s.outside n x 0x1FF00 128 with
        | some p => (some (3, p), [], s)
        | none =>
          if !vqOk x.regs.vq then (none, [.flag fOV], s)
          else (none, [.routine (.ntt inverse sn k)], s))

def execVnttL (w : At) (sn : Reg) (n : Fin 16) (s : State) : Host.Outcome State Fault Refusal := .next (s.nttOp w sn n.val false)
def execVinttL (w : At) (sn : Reg) (n : Fin 16) (s : State) : Host.Outcome State Fault Refusal := .next (s.nttOp w sn n.val true)

/-! Multi-word arithmetic (09 R263, R264). -/

/-- −N^−1 modulo 2^256 for an odd N, by Newton's iteration. -/
def negInv256 (N : Nat) : Nat :=
  let inv := (List.range 8).foldl (fun y _ => y * (2 + 2 ^ 256 - N * y % 2 ^ 256) % 2 ^ 256) N
  (2 ^ 256 - inv) % 2 ^ 256

/-- T × 2^−256 modulo N, for T below N × 2^256. -/
def redc (T N : Nat) : Nat :=
  let m := T % 2 ^ 256 * negInv256 N % 2 ^ 256
  let t := (T + m * N) / 2 ^ 256
  if N ≤ t then t - N else t

/-- The result of a reduction: 0 and OV for an even N; free where the manual states none: a wrong n0′, or T not below
N × 2^256. -/
def State.reduce (s : State) (x : Ctx) (T : Nat) : Nat × Nat × State :=
  let N := x.pair 14
  if N % 2 == 0 then (0, fOV, s)
  else if negInv256 N % 2 ^ 32 == (wLane (x.rv 13) 0).toNat && T < N * 2 ^ 256 then (redc T N, 0, s)
  else (Config.freeNat s.free % 2 ^ 256, 0, s.drawn)

/-- A microcoded reduction of what a function takes from the registers named. -/
def State.multiOp (s : State) (w : At) (vd : VReg) (bad : Bool) (srcs : List Nat) (T : Ctx → Nat) : State :=
  let rs := srcs ++ [13, 14, 15]
  s.op w { vN := 1, only := 1, slow := true, micro := true, reads := rs.map regV, writes := [regV vd, regV (vd.val + 1)], bad := bad || vd.val % 2 == 1 || decide (10 < vd.val) } (fun s x =>
    let r := s.reduce x (T x)
    (none, [.long (.v2 vd) (.v2 (BitVec.ofNat 128 r.1) (BitVec.ofNat 128 (r.1 / 2 ^ 128))) r.2.1 (rs.map (fun i => (i, x.rv i)))], r.2.2))

/-- MMUL.W. -/
def execMmulW (w : At) (vd va vb : VReg) (s : State) : Host.Outcome State Fault Refusal :=
  .next (s.multiOp w vd (va.val % 2 == 1 || vb.val % 2 == 1) [va.val, va.val + 1, vb.val, vb.val + 1] (fun x => x.pair va * x.pair vb))

/-- MRED.W: va is v0, v4 or v8. -/
def execMredW (w : At) (vd va : VReg) (s : State) : Host.Outcome State Fault Refusal :=
  .next (s.multiOp w vd (va.val % 4 != 0 || va.val == 12) [va.val, va.val + 1, va.val + 2, va.val + 3] (fun x => x.pair va + 2 ^ 256 * x.pair (va.val + 2)))

/-! Moves between v and s registers (09 R271). -/

/-- MVSV.W: word lane of vd := ra. -/
def execMvsvW (w : At) (vd : VReg) (lane : Fin 4) (ra : Reg) (s : State) : Host.Outcome State Fault Refusal :=
  .next (s.pureOp w { vN := 1, only := 1, reads := [regS ra, regV vd], writes := [regV vd] } (fun x =>
    [.late (.v vd) (.v (ofW (fun i => if i == lane.val then x.rs ra else wLane (x.rv vd) i))) 0]))

/-- MVVS.W: rd := word lane of va. -/
def execMvvsW (w : At) (rd : Reg) (va : VReg) (lane : Fin 4) (s : State) : Host.Outcome State Fault Refusal :=
  .next (s.pureOp w { vN := 1, only := 1, reads := [regV va], writes := [regS rd] } (fun x => [.late (.s rd) (.w (wLane (x.rv va) lane.val)) 0]))

end Sys2Proof.Machine
end

