-- ==== Sys2Proof/Machine/Dispatch.lean ====
section
/-! DEFINITION. The dispatch: one arm per command, each a direct call of its meaning. -/
namespace Sys2Proof.Machine

/-- The effect of a command on everything but the queue. -/
def exec (i : Instr) (s : State) : Host.Outcome State Fault Refusal :=
  match i with
  | .powerOn k => Sys2Proof.Machine.execPowerOn k s
  | .resetNRelease => Sys2Proof.Machine.execResetNRelease s
  | .bootStageDone o => Sys2Proof.Machine.execBootStageDone o s
  | .asxonStartHoldEnd => Sys2Proof.Machine.execAsxonStartHoldEnd s
  | .zeroizeNAssert => Sys2Proof.Machine.execZeroizeNAssert s
  | .tamperCheck n sns => Sys2Proof.Machine.execTamperCheck n sns s
  | .tamperTrip sensor => Sys2Proof.Machine.execTamperTrip sensor s
  | .zeroizeComplete readBackZero => Sys2Proof.Machine.execZeroizeComplete readBackZero s
  | .mainPowerFail rails => Sys2Proof.Machine.execMainPowerFail rails s
  | .lighthousePowerLoss => Sys2Proof.Machine.execLighthousePowerLoss s
  | .railOutOfRange r => Sys2Proof.Machine.execRailOutOfRange r s
  | .lclkFallback => Sys2Proof.Machine.execLclkFallback s
  | .lclkRestored => Sys2Proof.Machine.execLclkRestored s
  | .clockMonitorFail src pll => Sys2Proof.Machine.execClockMonitorFail src pll s
  | .tempSample quarterC sensor => Sys2Proof.Machine.execTempSample quarterC sensor s
  | .perstNAssert => Sys2Proof.Machine.execPerstNAssert s
  | .pcieHotReset => Sys2Proof.Machine.execPcieHotReset s
  | .pcieLinkDown => Sys2Proof.Machine.execPcieLinkDown s
  | .functionLevelReset => Sys2Proof.Machine.execFunctionLevelReset s
  | .ember v => Sys2Proof.Machine.execEmber v s
  | .emberDone copiesOk retainedOk ms => Sys2Proof.Machine.execEmberDone copiesOk retainedOk ms s
  | .emberSlow => Sys2Proof.Machine.execEmberSlow s
  | .unitResetEngine n => Sys2Proof.Machine.execUnitResetEngine n s
  | .unitResetKiln k => Sys2Proof.Machine.execUnitResetKiln k s
  | .unitResetEncryptLane n => Sys2Proof.Machine.execUnitResetEncryptLane n s
  | .unitResetDecryptLane n => Sys2Proof.Machine.execUnitResetDecryptLane n s
  | .unitResetHomeGroup g => Sys2Proof.Machine.execUnitResetHomeGroup g s
  | .unitResetStraitGroup g => Sys2Proof.Machine.execUnitResetStraitGroup g s
  | .unitResetHarbourPair h => Sys2Proof.Machine.execUnitResetHarbourPair h s
  | .unitResetHostInterface => Sys2Proof.Machine.execUnitResetHostInterface s
  | .unitResetDone u => Sys2Proof.Machine.execUnitResetDone u s
  | .lockstepMismatch h => Sys2Proof.Machine.execLockstepMismatch h s
  | .pairBack h => Sys2Proof.Machine.execPairBack h s
  | .faultLineAssert p bit chans => Sys2Proof.Machine.execFaultLineAssert p bit chans s
  | .sealCmd v => Sys2Proof.Machine.execSealCmd v s
  | .causeClear => Sys2Proof.Machine.execCauseClear s
  | .collectorSelftest inputsOk driveA driveB => Sys2Proof.Machine.execCollectorSelftest inputsOk driveA driveB s
  | .proofArm v => Sys2Proof.Machine.execProofArm v s
  | .proofArmExpiry => Sys2Proof.Machine.execProofArmExpiry s
  | .faultInj p v => Sys2Proof.Machine.execFaultInj p v s
  | .unseal tag => Sys2Proof.Machine.execUnseal tag s
  | .homeIngressFrame p f => Sys2Proof.Machine.execHomeIngressFrame p f s
  | .pauseExpiry p pri => Sys2Proof.Machine.execPauseExpiry p pri s
  | .admissionDecision p => Sys2Proof.Machine.execAdmissionDecision p s
  | .frameAcceptance p => Sys2Proof.Machine.execFrameAcceptance p s
  | .homeHoldFetch c ue => Sys2Proof.Machine.execHomeHoldFetch c ue s
  | .sendDataFrame c cut lg ue => Sys2Proof.Machine.execSendDataFrame c cut lg ue s
  | .spareSwitchIn d n => Sys2Proof.Machine.execSpareSwitchIn d n s
  | .unitWarm d n => Sys2Proof.Machine.execUnitWarm d n s
  | .leakGuardSelftest d n detected => Sys2Proof.Machine.execLeakGuardSelftest d n detected s
  | .holdingBufferRelease c => Sys2Proof.Machine.execHoldingBufferRelease c s
  | .keySlotRewrite d n c slot kcvOk => Sys2Proof.Machine.execKeySlotRewrite d n c slot kcvOk s
  | .heldKeyWriteComplete d c => Sys2Proof.Machine.execHeldKeyWriteComplete d c s
  | .epochPromotion c => Sys2Proof.Machine.execEpochPromotion c s
  | .straitIngressFrame p bytes fcsOk lg => Sys2Proof.Machine.execStraitIngressFrame p bytes fcsOk lg s
  | .frameReleased p ue => Sys2Proof.Machine.execFrameReleased p ue s
  | .homeEgressSelect p => Sys2Proof.Machine.execHomeEgressSelect p s
  | .ackTimer c => Sys2Proof.Machine.execAckTimer c s
  | .ackRefresh g => Sys2Proof.Machine.execAckRefresh g s
  | .ackFrameFlush g => Sys2Proof.Machine.execAckFrameFlush g s
  | .nackRetry c pn => Sys2Proof.Machine.execNackRetry c pn s
  | .retransmit c rd => Sys2Proof.Machine.execRetransmit c rd s
  | .tailTimer c rd => Sys2Proof.Machine.execTailTimer c rd s
  | .keepaliveTimer p => Sys2Proof.Machine.execKeepaliveTimer p s
  | .pathDownTimeout p => Sys2Proof.Machine.execPathDownTimeout p s
  | .pathUp g => Sys2Proof.Machine.execPathUp g s
  | .strandTimeout g => Sys2Proof.Machine.execStrandTimeout g s
  | .resyncResend g => Sys2Proof.Machine.execResyncResend g s
  | .wpSwitch p => Sys2Proof.Machine.execWpSwitch p s
  | .wpSwitchConnected p => Sys2Proof.Machine.execWpSwitchConnected p s
  | .forceToProtect p => Sys2Proof.Machine.execForceToProtect p s
  | .forceToWorking p => Sys2Proof.Machine.execForceToWorking p s
  | .clearForce p => Sys2Proof.Machine.execClearForce p s
  | .waitToRestoreExpiry p => Sys2Proof.Machine.execWaitToRestoreExpiry p s
  | .closePeer g => Sys2Proof.Machine.execClosePeer g s
  | .hardExpiry c => Sys2Proof.Machine.execHardExpiry c s
  | .rekeyDue c => Sys2Proof.Machine.execRekeyDue c s
  | .refreshDue c => Sys2Proof.Machine.execRefreshDue c s
  | .ratchetDue c => Sys2Proof.Machine.execRatchetDue c s
  | .portRekeyDue g => Sys2Proof.Machine.execPortRekeyDue g s
  | .heldKeyingResume g => Sys2Proof.Machine.execHeldKeyingResume g s
  | .exchangeRetry xid => Sys2Proof.Machine.execExchangeRetry xid s
  | .keyingBackoffExpiry g => Sys2Proof.Machine.execKeyingBackoffExpiry g s
  | .busyRetry g chan => Sys2Proof.Machine.execBusyRetry g chan s
  | .nextRepeat g => Sys2Proof.Machine.execNextRepeat g s
  | .prkErase xid => Sys2Proof.Machine.execPrkErase xid s
  | .kpGo n v => Sys2Proof.Machine.execKpGo n v s
  | .pairingTimeout x0 => Sys2Proof.Machine.execPairingTimeout x0 s
  | .keyPolicySet tag word mask => Sys2Proof.Machine.execKeyPolicySet tag word mask s
  | .anchorSet tag g ec pq => Sys2Proof.Machine.execAnchorSet tag g ec pq s
  | .imkGet tag => Sys2Proof.Machine.execImkGet tag s
  | .saImport tag blob => Sys2Proof.Machine.execSaImport tag blob s
  | .attest tag nonce => Sys2Proof.Machine.execAttest tag nonce s
  | .identProvision tag subject => Sys2Proof.Machine.execIdentProvision tag subject s
  | .identCertSet tag cert => Sys2Proof.Machine.execIdentCertSet tag cert s
  | .identGet tag => Sys2Proof.Machine.execIdentGet tag s
  | .zeroize confirm => Sys2Proof.Machine.execZeroize confirm s
  | .rekey tag g chan => Sys2Proof.Machine.execRekey tag g chan s
  | .sensePolicySet tag word mask => Sys2Proof.Machine.execSensePolicySet tag word mask s
  | .lifecycleAdvance tag target confirm => Sys2Proof.Machine.execLifecycleAdvance tag target confirm s
  | .integratorKeySet tag n hash => Sys2Proof.Machine.execIntegratorKeySet tag n hash s
  | .integratorKeyRevoke tag n => Sys2Proof.Machine.execIntegratorKeyRevoke tag n s
  | .floorSet tag which ver => Sys2Proof.Machine.execFloorSet tag which ver s
  | .fwInfo tag => Sys2Proof.Machine.execFwInfo tag s
  | .fwWrite tag slot off bytes => Sys2Proof.Machine.execFwWrite tag slot off bytes s
  | .fwVerify tag slot => Sys2Proof.Machine.execFwVerify tag slot s
  | .storeWrite tag off bytes => Sys2Proof.Machine.execStoreWrite tag off bytes s
  | .imagesReload tag => Sys2Proof.Machine.execImagesReload tag s
  | .logRead tag start => Sys2Proof.Machine.execLogRead tag start s
  | .greenOpen v => Sys2Proof.Machine.execGreenOpen v s
  | .greenAbort v => Sys2Proof.Machine.execGreenAbort v s
  | .fire v => Sys2Proof.Machine.execFire v s
  | .refire v => Sys2Proof.Machine.execRefire v s
  | .fireChecksDone => Sys2Proof.Machine.execFireChecksDone s
  | .portSwitchPoint side p => Sys2Proof.Machine.execPortSwitchPoint side p s
  | .generationSwitchDone ns => Sys2Proof.Machine.execGenerationSwitchDone ns s
  | .stagedWrite off v => Sys2Proof.Machine.execStagedWrite off v s
  | .registerWrite off size v => Sys2Proof.Machine.execRegisterWrite off size v s
  | .rcRead off => Sys2Proof.Machine.execRcRead off s
  | .counterLowRead off => Sys2Proof.Machine.execCounterLowRead off s
  | .tsfPop side p => Sys2Proof.Machine.execTsfPop side p s
  | .ppsInNsRead => Sys2Proof.Machine.execPpsInNsRead s
  | .tempMaxRead => Sys2Proof.Machine.execTempMaxRead s
  | .rndDataRead k a => Sys2Proof.Machine.execRndDataRead k a s
  | .cntClear v => Sys2Proof.Machine.execCntClear v s
  | .portCntClear side g v => Sys2Proof.Machine.execPortCntClear side g v s
  | .mmClear d n v => Sys2Proof.Machine.execMmClear d n v s
  | .lockWrite p v => Sys2Proof.Machine.execLockWrite p v s
  | .evtPendClear p v => Sys2Proof.Machine.execEvtPendClear p v s
  | .evtForce p v => Sys2Proof.Machine.execEvtForce p v s
  | .evtEnWrite p v => Sys2Proof.Machine.execEvtEnWrite p v s
  | .faultPendClear p v => Sys2Proof.Machine.execFaultPendClear p v s
  | .hostRouteWrite n v => Sys2Proof.Machine.execHostRouteWrite n v s
  | .msixMessage v => Sys2Proof.Machine.execMsixMessage v s
  | .ringEnable r v => Sys2Proof.Machine.execRingEnable r v s
  | .copyDoorbell r v => Sys2Proof.Machine.execCopyDoorbell r v s
  | .copyDescriptor r d host hostErr => Sys2Proof.Machine.execCopyDescriptor r d host hostErr s
  | .islCmdUp x0 => Sys2Proof.Machine.execIslCmdUp x0 s
  | .islCmdDown x0 => Sys2Proof.Machine.execIslCmdDown x0 s
  | .powerHoldDone x0 => Sys2Proof.Machine.execPowerHoldDone x0 s
  | .holdLimitExpiry x0 => Sys2Proof.Machine.execHoldLimitExpiry x0 s
  | .islandWakeDone x0 => Sys2Proof.Machine.execIslandWakeDone x0 s
  | .islandSwitchTimeout x0 => Sys2Proof.Machine.execIslandSwitchTimeout x0 s
  | .engineSleep n => Sys2Proof.Machine.execEngineSleep n s
  | .engineWake n => Sys2Proof.Machine.execEngineWake n s
  | .kilnPllStop k => Sys2Proof.Machine.execKilnPllStop k s
  | .deepIdleEnter => Sys2Proof.Machine.execDeepIdleEnter s
  | .deepIdleLeave => Sys2Proof.Machine.execDeepIdleLeave s
  | .eclkSelWrite k v => Sys2Proof.Machine.execEclkSelWrite k v s
  | .eclkStepDone k => Sys2Proof.Machine.execEclkStepDone k s
  | .todStep a v => Sys2Proof.Machine.execTodStep a v s
  | .todLoad a v => Sys2Proof.Machine.execTodLoad a v s
  | .rateWrite a v => Sys2Proof.Machine.execRateWrite a v s
  | .ppsOutEdge => Sys2Proof.Machine.execPpsOutEdge s
  | .ppsInEdge => Sys2Proof.Machine.execPpsInEdge s
  | .ppsMiss => Sys2Proof.Machine.execPpsMiss s
  | .retireCmd h v => Sys2Proof.Machine.execRetireCmd h v s
  | .hbmScrub h f => Sys2Proof.Machine.execHbmScrub h f s
  | .lighthouseScrub f => Sys2Proof.Machine.execLighthouseScrub f s
  | .engineScrub n iram f => Sys2Proof.Machine.execEngineScrub n iram f s
  | .shmemScrub k f => Sys2Proof.Machine.execShmemScrub k f s
  | .controlStoreCheck k f => Sys2Proof.Machine.execControlStoreCheck k f s
  | .drbgReseed x0 => Sys2Proof.Machine.execDrbgReseed x0 s
  | .healthTestFail t => Sys2Proof.Machine.execHealthTestFail t s
  | .qTailDoorbell h k q v => Sys2Proof.Machine.execQTailDoorbell h k q v s
  | .jobDispatch k => Sys2Proof.Machine.execJobDispatch k s
  | .jobTimeout n ctx => Sys2Proof.Machine.execJobTimeout n ctx s
  | .resume h n ctx => Sys2Proof.Machine.execResume h n ctx s
  | .kill h n ctx => Sys2Proof.Machine.execKill h n ctx s
  | .engDoorbell h k v => Sys2Proof.Machine.execEngDoorbell h k v s
  | .timerCmpMatch k => Sys2Proof.Machine.execTimerCmpMatch k s
  | .dmaGo k ch a => Sys2Proof.Machine.execDmaGo k ch a s
  | .dmaStop k ch a => Sys2Proof.Machine.execDmaStop k ch a s
  | .dmaResume k ch a => Sys2Proof.Machine.execDmaResume k ch a s
  | .dmaEntryDone k ch memErr => Sys2Proof.Machine.execDmaEntryDone k ch memErr s
  | .hashStart k h a v => Sys2Proof.Machine.execHashStart k h a v s
  | .hashDone k h => Sys2Proof.Machine.execHashDone k h s
  | .hsRelease k h a v => Sys2Proof.Machine.execHsRelease k h a v s
  | .halt n v => Sys2Proof.Machine.execHalt n v s
  | .interruptLevel1 n line => Sys2Proof.Machine.execInterruptLevel1 n line s
  | .interruptLevel2 n line => Sys2Proof.Machine.execInterruptLevel2 n line s
  | .machineCheck n cause addr bank => Sys2Proof.Machine.execMachineCheck n cause addr bank s
  | .contextFault n code addr => Sys2Proof.Machine.execContextFault n code addr s
  | .fpTrap n => Sys2Proof.Machine.execFpTrap n s
  | .contextFill n ctx => Sys2Proof.Machine.execContextFill n ctx s
  | .longOpComplete n => Sys2Proof.Machine.execLongOpComplete n s
  | .dintLimit n => Sys2Proof.Machine.execDintLimit n s
  | .probeReqTimer p => Sys2Proof.Machine.execProbeReqTimer p s
  | .probeLost p seq => Sys2Proof.Machine.execProbeLost p seq s
  | .sensingBatch g skews => Sys2Proof.Machine.execSensingBatch g skews s
  | .batchMiss g => Sys2Proof.Machine.execBatchMiss g s
  | .senseLost g => Sys2Proof.Machine.execSenseLost g s
  | .learningEnd g => Sys2Proof.Machine.execLearningEnd g s
  | .alarmHoldoffEnd g => Sys2Proof.Machine.execAlarmHoldoffEnd g s
  | .eqSnapshot l codes => Sys2Proof.Machine.execEqSnapshot l codes s
  | .opticsFastPoll x0 r => Sys2Proof.Machine.execOpticsFastPoll x0 r s
  | .opticsSlowPoll x0 r => Sys2Proof.Machine.execOpticsSlowPoll x0 r s
  | .pauseRepeat p => Sys2Proof.Machine.execPauseRepeat p s
  | .srcMaskAge c p => Sys2Proof.Machine.execSrcMaskAge c p s
  | .linkBringupStep side p success => Sys2Proof.Machine.execLinkBringupStep side p success s
  | .alignmentTimeout side p => Sys2Proof.Machine.execAlignmentTimeout side p s
  | .linkUp side p => Sys2Proof.Machine.execLinkUp side p s
  | .linkDown side p => Sys2Proof.Machine.execLinkDown side p s
  | .ptpTxTimestamp side p m => Sys2Proof.Machine.execPtpTxTimestamp side p m s
  | .otnSourceLost side g defects => Sys2Proof.Machine.execOtnSourceLost side g defects s
  | .sealBlockRx c lane block field => Sys2Proof.Machine.execSealBlockRx c lane block field s
  | .sealBlockTx c lane block => Sys2Proof.Machine.execSealBlockTx c lane block s
  | .nop w => Sys2Proof.Machine.execNop w s
  | .add w rd ra rb => Sys2Proof.Machine.execAdd w rd ra rb s
  | .sub w rd ra rb => Sys2Proof.Machine.execSub w rd ra rb s
  | .and w rd ra rb => Sys2Proof.Machine.execAnd w rd ra rb s
  | .or w rd ra rb => Sys2Proof.Machine.execOr w rd ra rb s
  | .xor w rd ra rb => Sys2Proof.Machine.execXor w rd ra rb s
  | .andn w rd ra rb => Sys2Proof.Machine.execAndn w rd ra rb s
  | .sll w rd ra rb => Sys2Proof.Machine.execSll w rd ra rb s
  | .srl w rd ra rb => Sys2Proof.Machine.execSrl w rd ra rb s
  | .sra w rd ra rb => Sys2Proof.Machine.execSra w rd ra rb s
  | .ror w rd ra rb => Sys2Proof.Machine.execRor w rd ra rb s
  | .rol w rd ra rb => Sys2Proof.Machine.execRol w rd ra rb s
  | .slt w rd ra rb => Sys2Proof.Machine.execSlt w rd ra rb s
  | .sltu w rd ra rb => Sys2Proof.Machine.execSltu w rd ra rb s
  | .min w rd ra rb => Sys2Proof.Machine.execMin w rd ra rb s
  | .max w rd ra rb => Sys2Proof.Machine.execMax w rd ra rb s
  | .minu w rd ra rb => Sys2Proof.Machine.execMinu w rd ra rb s
  | .maxu w rd ra rb => Sys2Proof.Machine.execMaxu w rd ra rb s
  | .adds w rd ra rb => Sys2Proof.Machine.execAdds w rd ra rb s
  | .subs w rd ra rb => Sys2Proof.Machine.execSubs w rd ra rb s
  | .neg w rd ra => Sys2Proof.Machine.execNeg w rd ra s
  | .negs w rd ra => Sys2Proof.Machine.execNegs w rd ra s
  | .abs w rd ra => Sys2Proof.Machine.execAbs w rd ra s
  | .abss w rd ra => Sys2Proof.Machine.execAbss w rd ra s
  | .addc w rd ra rb => Sys2Proof.Machine.execAddc w rd ra rb s
  | .subc w rd ra rb => Sys2Proof.Machine.execSubc w rd ra rb s
  | .clz w rd ra => Sys2Proof.Machine.execClz w rd ra s
  | .popc w rd ra => Sys2Proof.Machine.execPopc w rd ra s
  | .brev w rd ra => Sys2Proof.Machine.execBrev w rd ra s
  | .bswap w rd ra => Sys2Proof.Machine.execBswap w rd ra s
  | .addi w rd ra imm => Sys2Proof.Machine.execAddi w rd ra imm s
  | .andi w rd ra imm => Sys2Proof.Machine.execAndi w rd ra imm s
  | .ori w rd ra imm => Sys2Proof.Machine.execOri w rd ra imm s
  | .xori w rd ra imm => Sys2Proof.Machine.execXori w rd ra imm s
  | .slti w rd ra imm => Sys2Proof.Machine.execSlti w rd ra imm s
  | .sltiu w rd ra imm => Sys2Proof.Machine.execSltiu w rd ra imm s
  | .slli w rd ra n => Sys2Proof.Machine.execSlli w rd ra n s
  | .srli w rd ra n => Sys2Proof.Machine.execSrli w rd ra n s
  | .srai w rd ra n => Sys2Proof.Machine.execSrai w rd ra n s
  | .rori w rd ra n => Sys2Proof.Machine.execRori w rd ra n s
  | .li w rd imm => Sys2Proof.Machine.execLi w rd imm s
  | .mov w rd ra => Sys2Proof.Machine.execMov w rd ra s
  | .div w rd ra rb => Sys2Proof.Machine.execDiv w rd ra rb s
  | .divu w rd ra rb => Sys2Proof.Machine.execDivu w rd ra rb s
  | .rem w rd ra rb => Sys2Proof.Machine.execRem w rd ra rb s
  | .remu w rd ra rb => Sys2Proof.Machine.execRemu w rd ra rb s
  | .mvs w rd n => Sys2Proof.Machine.execMvs w rd n s
  | .mvts w n ra => Sys2Proof.Machine.execMvts w n ra s
  | .estclr w => Sys2Proof.Machine.execEstclr w s
  | .beq w ra rb disp => Sys2Proof.Machine.execBeq w ra rb disp s
  | .bne w ra rb disp => Sys2Proof.Machine.execBne w ra rb disp s
  | .blt w ra rb disp => Sys2Proof.Machine.execBlt w ra rb disp s
  | .bge w ra rb disp => Sys2Proof.Machine.execBge w ra rb disp s
  | .bltu w ra rb disp => Sys2Proof.Machine.execBltu w ra rb disp s
  | .bgeu w ra rb disp => Sys2Proof.Machine.execBgeu w ra rb disp s
  | .beqz w ra disp => Sys2Proof.Machine.execBeqz w ra disp s
  | .bnez w ra disp => Sys2Proof.Machine.execBnez w ra disp s
  | .dbnz w ra disp => Sys2Proof.Machine.execDbnz w ra disp s
  | .j w disp => Sys2Proof.Machine.execJ w disp s
  | .call w disp => Sys2Proof.Machine.execCall w disp s
  | .callr w ra => Sys2Proof.Machine.execCallr w ra s
  | .jr w ra => Sys2Proof.Machine.execJr w ra s
  | .ret w => Sys2Proof.Machine.execRet w s
  | .loop w level count endDisp => Sys2Proof.Machine.execLoop w level count endDisp s
  | .rpt w count => Sys2Proof.Machine.execRpt w count s
  | .dint w => Sys2Proof.Machine.execDint w s
  | .eint w => Sys2Proof.Machine.execEint w s
  | .swi w n => Sys2Proof.Machine.execSwi w n s
  | .brk w => Sys2Proof.Machine.execBrk w s
  | .syncW w => Sys2Proof.Machine.execSyncW w s
  | .iflush w => Sys2Proof.Machine.execIflush w s
  | .pflush w => Sys2Proof.Machine.execPflush w s
  | .pbar w n => Sys2Proof.Machine.execPbar w n s
  | .dcwb w ra => Sys2Proof.Machine.execDcwb w ra s
  | .dcinv w ra => Sys2Proof.Machine.execDcinv w ra s
  | .reti w => Sys2Proof.Machine.execReti w s
  | .mret w => Sys2Proof.Machine.execMret w s
  | .lclr w n => Sys2Proof.Machine.execLclr w n s
  | .end_ w => Sys2Proof.Machine.execEnd w s
  | .yield w => Sys2Proof.Machine.execYield w s
  | .fpbar w => Sys2Proof.Machine.execFpbar w s
  | .ecall w => Sys2Proof.Machine.execEcall w s
  | .eret w => Sys2Proof.Machine.execEret w s
  | .wfi w => Sys2Proof.Machine.execWfi w s
  | .csrr w rd n => Sys2Proof.Machine.execCsrr w rd n s
  | .csrw w n ra => Sys2Proof.Machine.execCsrw w n ra s
  | .harbourTrap h cause tval => Sys2Proof.Machine.execHarbourTrap h cause tval s
  | .mcrd w rd bank rs => Sys2Proof.Machine.execMcrd w rd bank rs s
  | .mcwr w rs bank rd => Sys2Proof.Machine.execMcwr w rs bank rd s
  | .ldB w rt a => Sys2Proof.Machine.execLdB w rt a s
  | .ldBu w rt a => Sys2Proof.Machine.execLdBu w rt a s
  | .ldH w rt a => Sys2Proof.Machine.execLdH w rt a s
  | .ldHu w rt a => Sys2Proof.Machine.execLdHu w rt a s
  | .ldW w rt a => Sys2Proof.Machine.execLdW w rt a s
  | .ldD w rt a => Sys2Proof.Machine.execLdD w rt a s
  | .stB w rt a => Sys2Proof.Machine.execStB w rt a s
  | .stH w rt a => Sys2Proof.Machine.execStH w rt a s
  | .stW w rt a => Sys2Proof.Machine.execStW w rt a s
  | .stD w rt a => Sys2Proof.Machine.execStD w rt a s
  | .vldQ w vt a => Sys2Proof.Machine.execVldQ w vt a s
  | .vstQ w vt a => Sys2Proof.Machine.execVstQ w vt a s
  | .vgathH w vd sn vi => Sys2Proof.Machine.execVgathH w vd sn vi s
  | .savel w => Sys2Proof.Machine.execSavel w s
  | .saveu w => Sys2Proof.Machine.execSaveu w s
  | .restl w => Sys2Proof.Machine.execRestl w s
  | .restu w => Sys2Proof.Machine.execRestu w s
  | .vaddH w vd va b => Sys2Proof.Machine.execVaddH w vd va b s
  | .vsubH w vd va b => Sys2Proof.Machine.execVsubH w vd va b s
  | .vand w vd va b => Sys2Proof.Machine.execVand w vd va b s
  | .vor w vd va b => Sys2Proof.Machine.execVor w vd va b s
  | .vxor w vd va b => Sys2Proof.Machine.execVxor w vd va b s
  | .vsllH w vd va b => Sys2Proof.Machine.execVsllH w vd va b s
  | .vsraH w vd va b => Sys2Proof.Machine.execVsraH w vd va b s
  | .vaddW w vd va b => Sys2Proof.Machine.execVaddW w vd va b s
  | .vsubW w vd va b => Sys2Proof.Machine.execVsubW w vd va b s
  | .vshuf w vd va b => Sys2Proof.Machine.execVshuf w vd va b s
  | .vbcastH w vd sa => Sys2Proof.Machine.execVbcastH w vd sa s
  | .vmacH w ad va b => Sys2Proof.Machine.execVmacH w ad va b s
  | .vmsuH w ad va b => Sys2Proof.Machine.execVmsuH w ad va b s
  | .vmulH w ad va b => Sys2Proof.Machine.execVmulH w ad va b s
  | .vaclr w ad => Sys2Proof.Machine.execVaclr w ad s
  | .vacstH w vd aa k rnd => Sys2Proof.Machine.execVacstH w vd aa k rnd s
  | .vacstW w vd aa k rnd => Sys2Proof.Machine.execVacstW w vd aa k rnd s
  | .vmontH w vd va b => Sys2Proof.Machine.execVmontH w vd va b s
  | .vbarrH w vd va => Sys2Proof.Machine.execVbarrH w vd va s
  | .vmaddH w vd va b => Sys2Proof.Machine.execVmaddH w vd va b s
  | .vmsubH w vd va b => Sys2Proof.Machine.execVmsubH w vd va b s
  | .vnttL w sn n => Sys2Proof.Machine.execVnttL w sn n s
  | .vinttL w sn n => Sys2Proof.Machine.execVinttL w sn n s
  | .fadd w fd fa fb => Sys2Proof.Machine.execFadd w fd fa fb s
  | .fsub w fd fa fb => Sys2Proof.Machine.execFsub w fd fa fb s
  | .fmul w fd fa fb => Sys2Proof.Machine.execFmul w fd fa fb s
  | .fma w fd fa fb => Sys2Proof.Machine.execFma w fd fa fb s
  | .fmin w fd fa fb => Sys2Proof.Machine.execFmin w fd fa fb s
  | .fmax w fd fa fb => Sys2Proof.Machine.execFmax w fd fa fb s
  | .fdiv w fd fa fb => Sys2Proof.Machine.execFdiv w fd fa fb s
  | .fsqrt w fd fa => Sys2Proof.Machine.execFsqrt w fd fa s
  | .fcvtWS w rd fa => Sys2Proof.Machine.execFcvtWS w rd fa s
  | .fcvtSW w fd ra => Sys2Proof.Machine.execFcvtSW w fd ra s
  | .fcmp w rd fa fb c => Sys2Proof.Machine.execFcmp w rd fa fb c s
  | .vfadd w vd va b => Sys2Proof.Machine.execVfadd w vd va b s
  | .vfsub w vd va b => Sys2Proof.Machine.execVfsub w vd va b s
  | .vfmul w vd va b => Sys2Proof.Machine.execVfmul w vd va b s
  | .vfma w vd va b => Sys2Proof.Machine.execVfma w vd va b s
  | .mul w rd ra rb => Sys2Proof.Machine.execMul w rd ra rb s
  | .mulh w rd ra rb => Sys2Proof.Machine.execMulh w rd ra rb s
  | .mulhu w rd ra rb => Sys2Proof.Machine.execMulhu w rd ra rb s
  | .mvsf w fd ra => Sys2Proof.Machine.execMvsf w fd ra s
  | .mvfs w rd fa => Sys2Proof.Machine.execMvfs w rd fa s
  | .mvsvW w vd lane ra => Sys2Proof.Machine.execMvsvW w vd lane ra s
  | .mvvsW w rd va lane => Sys2Proof.Machine.execMvvsW w rd va lane s
  | .mmulW w vd va vb => Sys2Proof.Machine.execMmulW w vd va vb s
  | .mredW w vd va => Sys2Proof.Machine.execMredW w vd va s
  | .perstNRelease => Sys2Proof.Machine.execPerstNRelease s
  | .pcieLinkUp speed width => Sys2Proof.Machine.execPcieLinkUp speed width s
  | .pcieConfigWrite msixEn fnMask busMaster d3hot => Sys2Proof.Machine.execPcieConfigWrite msixEn fnMask busMaster d3hot s
  | .otnSourceReturn side g => Sys2Proof.Machine.execOtnSourceReturn side g s
  | .startupTestsPassed => Sys2Proof.Machine.execStartupTestsPassed s
  | .lostSlotPoll x0 r => Sys2Proof.Machine.execLostSlotPoll x0 r s
  | .ppsOutPulseEnd => Sys2Proof.Machine.execPpsOutPulseEnd s
  | .tapInstruction op => Sys2Proof.Machine.execTapInstruction op s

end Sys2Proof.Machine
end

