-- ==== Sys2Proof/Safety.lean ====
section
/-! DEFINITION. What a safe run is, and when a core executes a command undisturbed, in the terms statements use. -/
namespace Sys2Proof

/-- A step that goes on. -/
def Completes (o : Host.Outcome Machine.State Machine.Fault Machine.Refusal) : Prop := ∃ t, o = .next t

/-- The memory of a state has its canonical form. -/
def MemOk (s : Machine.State) : Prop := Machine.Memory.wf s.mem = true

/-- No run of k steps from s stops with a fault or a refusal. -/
def SafeFor (s : Machine.State) : Nat → Prop
  | 0 => True
  | k + 1 => ∃ t, Machine.step s = .next t ∧ SafeFor t k

end Sys2Proof

namespace Sys2Proof.Machine

/-- Engine n runs context c outside handlers, at the start of a bundle, with no result, store, repeat, routine or
trap under way and no loop ending here. -/
structure Calm (s : State) (n c : Nat) : Prop where
  runs : s.engRuns n = true
  mc : (s.eng n).mc = false
  run : (s.eng n).run = some c
  shadow : (s.eng n).shadowIn = false
  bundle : (s.eng n).bundle = {}
  stbuf : (s.eng n).stbuf = []
  pend : (s.ctx n c).pend = []
  longs : (s.ctx n c).longs = []
  trap : (s.ctx n c).fpTrap = 0
  rpt : (s.ctx n c).rpt = none
  micro : (s.ctx n c).micro = none
  micros : (s.eng n).ctxs.any (fun e => e.2.micro.isSome) = false
  routine : (s.ctx n c).routine = none
  ending : (s.ctx n c).ending = []

/-- The context after a bundle of k words, at the next bundle. -/
def Ctx.past (x : Ctx) (k : Nat) : Ctx :=
  { x with pc := x.pc + w32 (4 * k), brkAt := if x.brkAt = some x.pc then none else x.brkAt }

/-- The context after a bundle that goes on at t. -/
def Ctx.off (x : Ctx) (t : Word) : Ctx := { x with pc := t, brkAt := if x.brkAt = some x.pc then none else x.brkAt }

/-- The engine when a bundle of context c begins. -/
def Engine.fresh (e : Engine) (c : Nat) : Engine := { e with bundle := {}, step := false }.setCtx c (e.ctx c)

/-- The state that the memory operations of a bundle of context c find. -/
def State.begun (s : State) (n c : Nat) : State := s.setEng n ((s.eng n).fresh c)

/-- The engine after a bundle of context c, which leaves it as x and jumps where taken; `cond` counts the conditional branches. The
repeat cache follows (09 R266). -/
def Engine.after (e : Engine) (c : Nat) (x : Ctx) (cond : Nat) (taken : Bool) : Engine :=
  ({ e with bundle := {}, step := false, pbar := e.pbar - cond, dint := e.dint.map (· - 1) }.track (e.ctx c) taken).setCtx c x

/-- The same for a bundle that does not jump. -/
def Engine.done (e : Engine) (c : Nat) (x : Ctx) (cond : Nat) : Engine := e.after c x cond false

/-- The state after a bundle of k words of context c that makes no unaligned access, with conditional branches of the outcomes given,
leaves engine n as e: the front end has taken it (07 R184, R208, R218). -/
def State.passes (s : State) (n c k : Nat) (branches : List Bool) (e : Engine) : State :=
  (s.ran n (s.ctx n c) k branches 0).setEng n e

/-- Pair h executes, at the start of a bundle. -/
structure HcCalm (s : State) (h : Nat) : Prop where
  runs : s.hcRuns h = true
  bundle : (s.hc h).bundle = {}

/-- The pair after a bundle of k words that leaves its registers as r. -/
def Harbour.done (e : Harbour) (r : Regs) (k : Nat) : Harbour :=
  { e with regs := r, pc := e.pc + w32 (4 * k), bundle := {}, step := false, waiting := false }

/-- An operation that is a bundle of its own, of m words at most, does f to the running context of a calm engine, and nothing else but
go on to the next bundle; f learns whether fixed-count mode is on. An operation that may take an extension word has m = 2 (08 R222). -/
def OnEngineIn (m : Nat) (mk : At → Instr) (cond : Nat) (f : Bool → Ctx → Ctx) : Prop :=
  ∀ (s : State) (n : Fin 192) (c k : Nat), Calm s n c → k ≤ m → s.fetchFault n (s.ctx n c) k = none →
    exec (mk { core := .engine n, more := false, words := k }) s =
      .next (s.passes n c k (List.replicate cond false) ((s.eng n).done c ((f (s.fixedOn n) (s.ctx n c)).past k) cond))

/-- The same for an operation of one word. -/
def OnEngine (mk : At → Instr) (cond : Nat) (f : Bool → Ctx → Ctx) : Prop := OnEngineIn 1 mk cond f

/-- The same for an operation on the FP file that the running context owns. -/
def OnFpOwner (mk : At → Instr) (f : Bool → Ctx → Ctx) : Prop :=
  ∀ (s : State) (n : Fin 192) (c k : Nat), Calm s n c → (s.eng n).fpOwner = some c → k ≤ 1 → s.fetchFault n (s.ctx n c) k = none →
    exec (mk { core := .engine n, more := false, words := k }) s =
      .next (s.passes n c k [] ((s.eng n).done c ((f (s.fixedOn n) (s.ctx n c)).past k) 0))

/-- The same for a harbour pair, which finds each result at its next bundle (08 R247). -/
def OnHarbourIn (m : Nat) (mk : At → Instr) (f : Ctx → Ctx) : Prop :=
  ∀ (s : State) (h : Fin 2) (k : Nat), HcCalm s h → 1 ≤ k → k ≤ m → s.inTask h (s.hc h).pc.toNat (4 * k) = true →
    exec (mk { core := .harbour h, more := false, words := k }) s =
      .next (s.setHc h ((s.hc h).done (f (s.hcCur h)).regs k))

/-- The same for an operation of one word. -/
def OnHarbour (mk : At → Instr) (f : Ctx → Ctx) : Prop := OnHarbourIn 1 mk f

/-- On either core. -/
def OnBoth (mk : At → Instr) (f : Bool → Ctx → Ctx) : Prop := OnEngine mk 0 f ∧ OnHarbour mk (f true)

/-- On either core, of an operation that may take an extension word. -/
def OnBothExt (mk : At → Instr) (f : Bool → Ctx → Ctx) : Prop := OnEngineIn 2 mk 0 f ∧ OnHarbourIn 2 mk (f true)

/-- A context with s register r written. -/
def Ctx.putS (x : Ctx) (r : Nat) (v : Word) : Ctx := { x with regs := { x.regs with s := x.regs.s.set r v } }

/-- A context with bits of ESTAT set: OV 1, SAT 2, DZ 4. -/
def Ctx.sticky (x : Ctx) (b : Nat) : Ctx := { x with regs := { x.regs with estat := x.regs.estat ||| w32 b } }

/-- A result that the third bundle reads, with its flags; at once in fixed-count mode (07 R197, R207). -/
def Ctx.later (x : Ctx) (fixed : Bool) (p : Pend) : Ctx :=
  if fixed then x.land p else { x with pend := x.pend ++ [{ p with age := 2 }] }

/-- A long result, with its flags; at once in fixed-count mode (07 R199, R207). -/
def Ctx.slowly (x : Ctx) (fixed : Bool) (p : Pend) : Ctx :=
  if fixed then x.land p else { x with longs := x.longs ++ [p] }

/-- A command completes, and the state it leaves has a property. -/
def Leaves (c : Instr) (s : State) (P : State → Prop) : Prop := ∃ t, exec c s = .next t ∧ P t

/-- A command completes with a named operation f as its last part, and the state that f finds has a property. -/
def LeavesBy (f : State → State) (c : Instr) (s : State) (P : State → Prop) : Prop := ∃ u, exec c s = .next (f u) ∧ P u

/-- Nothing bars a host write at a BAR offset: neither the device state, nor LOCK, nor an island that is off. -/
def State.hostOpen (s : State) (off : Nat) : Prop := s.hostGone = false ∧ s.barred off = none

/-- Event bit b of the page at pb is set. -/
def State.ev (s : State) (pb b : Nat) : Prop := bit (s.reg (pb + 0x10)) b = true

/-- Fault bit b of the page at pb is set. -/
def State.ft (s : State) (pb b : Nat) : Prop := bit (s.reg (pb + 0x20)) b = true

/-- What a read has returned. -/
def State.gave (s : State) (v : Word) : Prop := s.out.getLast? = some (.read (v.setWidth 64))

end Sys2Proof.Machine
end

