-- ==== Sys2Proof/Certificates/Slice0/Obligations.lean ====
section
/-! DEFINITION. What is stated for the provers: the parts and words that statements are written in, and the statements, each a
definition under Obligations. -/
namespace Sys2Proof.Claims

open Sys2Proof.Machine

/-- A scalar operation of two source registers whose result the next bundle reads. -/
def Gives3 (mk : At → Reg → Reg → Reg → Instr) (g : Word → Word → Word) : Prop :=
  ∀ rd ra rb : Reg, OnBoth (mk · rd ra rb) (fun _ x => x.putS rd.val (g (x.rs ra.val) (x.rs rb.val)))

/-- A scalar operation of one source register. -/
def Gives2 (mk : At → Reg → Reg → Instr) (g : Word → Word) : Prop :=
  ∀ rd ra : Reg, OnBoth (mk · rd ra) (fun _ x => x.putS rd.val (g (x.rs ra.val)))

/-- A scalar operation of a register and an immediate, which may take an extension word (08 R222). -/
def GivesI (mk : At → Reg → Reg → Word → Instr) (g : Word → Word → Word) : Prop :=
  ∀ (rd ra : Reg) (i : Word), OnBothExt (mk · rd ra i) (fun _ x => x.putS rd.val (g (x.rs ra.val) i))

/-- A shift or rotate by an immediate. -/
def GivesN (mk : At → Reg → Reg → Byte → Instr) (g : Word → Nat → Word) : Prop :=
  ∀ (rd ra : Reg) (n : Byte), OnBoth (mk · rd ra n) (fun _ x => x.putS rd.val (g (x.rs ra.val) n.toNat))

/-- A three-register operation with ESTAT bits. -/
def Gives3F (mk : At → Reg → Reg → Reg → Instr) (g : Word → Word → Word × Nat) : Prop :=
  ∀ rd ra rb : Reg, OnBoth (mk · rd ra rb)
    (fun _ x => (x.putS rd.val (g (x.rs ra.val) (x.rs rb.val)).1).sticky (g (x.rs ra.val) (x.rs rb.val)).2)

/-- A two-register operation with ESTAT bits. -/
def Gives2F (mk : At → Reg → Reg → Instr) (g : Word → Word × Nat) : Prop :=
  ∀ rd ra : Reg, OnBoth (mk · rd ra) (fun _ x => (x.putS rd.val (g (x.rs ra.val)).1).sticky (g (x.rs ra.val)).2)

/-- An integer saturated to 32 bits, with SAT. -/
def sat32 (i : Int) : Word × Nat :=
  (BitVec.ofInt 32 (max (-2147483648) (min 2147483647 i)), if -2147483648 ≤ i ∧ i ≤ 2147483647 then 0 else 2)

/-- The saturating and flag-setting scalar operations (08 R240): OV is 1, SAT is 2. -/
def SaturatingResultsPart : Prop :=
  Gives3F .adds (fun a b => sat32 (a.toInt + b.toInt)) ∧ Gives3F .subs (fun a b => sat32 (a.toInt - b.toInt)) ∧
  Gives2F .neg (fun a => (-a, if a = 0x80000000 then 1 else 0)) ∧ Gives2F .negs (fun a => sat32 (-a.toInt)) ∧
  Gives2F .abs (fun a => (if a.msb then -a else a, if a = 0x80000000 then 1 else 0)) ∧
  Gives2F .abss (fun a => sat32 a.toInt.natAbs)

/-- A context with the carry register written. -/
def withCy (x : Ctx) (c : Bool) : Ctx := { x with regs := { x.regs with cy := c } }

/-- ADDC and SUBC (09 R262), on either core. -/
def CarryChainPart : Prop := ∀ rd ra rb : Reg,
  OnBoth (.addc · rd ra rb) (fun _ x =>
    let sum := (x.rs ra.val).toNat + (x.rs rb.val).toNat + x.regs.cy.toNat
    withCy (x.putS rd.val (BitVec.ofNat 32 sum)) (decide (2 ^ 32 ≤ sum))) ∧
  OnBoth (.subc · rd ra rb) (fun _ x =>
    let b := (x.rs rb.val).toNat + x.regs.cy.toNat
    withCy (x.putS rd.val (BitVec.ofInt 32 ((x.rs ra.val).toNat - b : Int))) (decide ((x.rs ra.val).toNat < b)))

/-- A V-slot multiply of s registers: the third bundle reads the result; a harbour pair's next bundle does. -/
def GivesMul (mk : At → Reg → Reg → Reg → Instr) (g : Word → Word → Word) : Prop :=
  ∀ rd ra rb : Reg, OnBoth (mk · rd ra rb)
    (fun fixed x => x.later fixed { dst := some (.s rd.val), val := .w (g (x.rs ra.val) (x.rs rb.val)) })

/-- A divide: a long operation with its ESTAT bits. -/
def GivesDiv (mk : At → Reg → Reg → Reg → Instr) (g : Word → Word → Word × Nat) : Prop :=
  ∀ rd ra rb : Reg, OnBoth (mk · rd ra rb) (fun fixed x =>
    x.slowly fixed { dst := some (.s rd.val), val := .w (g (x.rs ra.val) (x.rs rb.val)).1, flags := (g (x.rs ra.val) (x.rs rb.val)).2 })

/-- What MVS reads on an engine that runs context c (08 R242). -/
def specialOf (n c : Nat) (x : Ctx) (i : Nat) : Word :=
  match i with
  | 0 => x.regs.estat
  | 1 => if x.regs.cy then 1 else 0
  | 2 => x.regs.vprog
  | 3 => x.fpstat
  | 8 => x.regs.vq
  | 9 => BitVec.ofNat 32 c
  | 10 => BitVec.ofNat 32 n
  | i => (x.regs.loops.getD (i - 4) {}).count

/-- What MVTS writes on an engine: reserved bits stay 0. -/
def specialSet (x : Ctx) (i : Nat) (v : Word) : Ctx :=
  match i with
  | 0 => { x with regs := { x.regs with estat := v &&& 7 } }
  | 1 => withCy x (v.getLsbD 0)
  | 2 => { x with regs := { x.regs with vprog := v &&& 31 } }
  | 3 => { x with fpstat := v &&& 0x3FFFB }
  | 8 => { x with regs := { x.regs with vq := v } }
  | i => { x with regs := { x.regs with loops := x.regs.loops.modify (i - 4) (fun l => { l with count := v }) } }

/-- A control operation of m words at most: f on the registers, and the target when it branches. -/
def Jumps (m : Nat) (mk : At → Instr) (cond : Nat) (f : Ctx → Ctx) (t : Ctx → Option Word) : Prop :=
  (∀ (s : State) (n : Fin 192) (c k : Nat), Calm s n c → k ≤ m → s.fetchFault n (s.ctx n c) k = none →
    exec (mk { core := .engine n, more := false, words := k }) s = .next
      (match t (s.ctx n c) with
       | some a => s.passes n c k (List.replicate cond true) ((s.eng n).after c ((f (s.ctx n c)).off a) cond true)
       | none => s.passes n c k (List.replicate cond false) ((s.eng n).done c ((f (s.ctx n c)).past k) cond))) ∧
  (∀ (s : State) (h : Fin 2) (k : Nat), HcCalm s h → 1 ≤ k → k ≤ m → s.inTask h (s.hc h).pc.toNat (4 * k) = true →
    exec (mk { core := .harbour h, more := false, words := k }) s = .next (s.setHc h
      (match t (s.hcCur h) with
       | some a => { (s.hc h).done (f (s.hcCur h)).regs k with pc := a }
       | none => (s.hc h).done (f (s.hcCur h)).regs k)))

/-- A branch on two registers, which may take an extension word (08 R222). -/
def Branches (mk : At → Reg → Reg → Word → Instr) (p : Word → Word → Bool) : Prop :=
  ∀ (ra rb : Reg) (d : Word), Jumps 2 (mk · ra rb d) 1 id (fun x => if p (x.rs ra.val) (x.rs rb.val) then some (x.pc + 4 * d) else none)

/-- The count operand of LOOP and RPT. -/
def countIs (x : Ctx) : Count → Word
  | .imm n => BitVec.ofNat 32 n
  | .reg r => x.rs r.val

/-- LOOP with a count other than 0 makes its level active with the next bundle as its start (08 R232); with a count of 0 it
goes on after the end bundle, whose length the model reads from memory; RPT latches bits [7:0] of its count for the next
bundle (R235); LCLR makes its level inactive and empties the repeat cache (R234, 09 R266). -/
def LoopOperationsPart : Prop :=
  ∀ (s : State) (n : Fin 192) (c k : Nat), Calm s n c → k ≤ 1 → s.fetchFault n (s.ctx n c) k = none →
    let x := s.ctx n c
    let w : At := { core := .engine n, more := false, words := k }
    (∀ (lv : Fin 4) (cnt : Count) (d : Fin 2048), d.val ≠ 0 →
      let stop := x.pc + 4 * BitVec.ofNat 32 d.val
      let lp : LoopLv := { active := decide (countIs x cnt ≠ 0), count := countIs x cnt, start := x.pc + BitVec.ofNat 32 (4 * k), stop := stop, order := x.regs.loopNext }
      let y := { x with regs := { x.regs with loops := x.regs.loops.set lv.val lp, loopNext := x.regs.loopNext + 1 } }
      exec (.loop w lv cnt d) s = .next (s.passes n c k [] (if countIs x cnt ≠ 0 then (s.eng n).done c (y.past k) 0
        else (s.eng n).after c (y.off (s.bundleAfter n stop)) 0 true))) ∧
    (∀ cnt : Count, exec (.rpt w cnt) s = .next (s.passes n c k [] ((s.eng n).done c
      ({ x with rpt := some ((countIs x cnt).toNat % 256), rptPc := x.pc }.past k) 0))) ∧
    (∀ lv : Fin 4, exec (.lclr w lv) s = .next (s.passes n c k []
      { (s.eng n).done c ({ x with regs := { x.regs with loops := x.regs.loops.modify lv.val (fun l => { l with active := false }) } }.past k) 0 with rep := [], repBody := none }))

/-- The end test of a level (08 R233), where one active level ends at the bundle: the count falls by one; the loop goes back to
its start unless the count is then 0, and then the level becomes inactive. The bundle is one NOP. -/
def LoopEndTestPart : Prop :=
  ∀ (s : State) (n : Fin 192) (c k lv : Nat) (l : LoopLv), (s.ctx n c).regs.loops[lv]? = some l → (s.ctx n c).ending = [lv] →
    Calm (s.setCtx n c { s.ctx n c with regs := { (s.ctx n c).regs with loops := [] } }) n c → k ≤ 1 → s.fetchFault n (s.ctx n c) k = none →
    ∃ t, exec (.nop { core := .engine n, more := false, words := k }) s = .next t ∧
      (t.ctx n c).pc = (if l.count = 1 then (s.ctx n c).pc + BitVec.ofNat 32 (4 * k) else l.start) ∧
      (t.ctx n c).regs = { (s.ctx n c).regs with
        loops := (s.ctx n c).regs.loops.set lv { l with count := l.count - 1, active := if l.count = 1 then false else l.active } }

/-- Each execution of the bundle after an RPT (08 R235): with executions left the PC stays and one is used up, at the last the
next bundle follows; a count of 0 passes over the bundle, whose operation does nothing. -/
def RepeatTargetPart : Prop :=
  ∀ (s : State) (n : Fin 192) (c k : Nat) (rd ra : Reg) (i : Word) (j : Nat), (s.ctx n c).rpt = some j →
    Calm (s.setCtx n c { s.ctx n c with rpt := none }) n c → k ≤ 2 → s.fetchFault n (s.ctx n c) k = none →
    ∃ t, exec (.addi { core := .engine n, more := false, words := k } rd ra i) s = .next t ∧
      (t.ctx n c).regs = (if j = 0 then (s.ctx n c).regs else ((s.ctx n c).putS rd.val ((s.ctx n c).rs ra.val + i)).regs) ∧
      (t.ctx n c).rpt = (if 2 ≤ j then some (j - 1) else none) ∧
      (t.ctx n c).pc = (if 2 ≤ j then (s.ctx n c).pc else (s.ctx n c).pc + BitVec.ofNat 32 (4 * k))

/-- What stands in front of the pipeline (07 R208, R209, R218), as a bundle of context x passes: a counter that has selected bundles
counts it and one that has selected unaligned accesses counts those, unless the running context is sealed; an unbarred branch shifts its
outcome into the history, and without a tagged match moves a counter of the base table; PBAR keeps branches from both. -/
def FrontEndPart : Prop :=
  ∀ (s : State) (n : Nat) (x : Ctx) (k u : Nat),
    (∀ (l : List Bool) (i v : Nat), s.sealedNow n = false → (s.front n).perf[i]? = some v →
      (s.perfSel n i = 2 → ((s.ran n x k l u).front n).perf[i]? = some ((v + 1) % 2 ^ 64)) ∧
      (s.perfSel n i = 0x0A → ((s.ran n x k l u).front n).perf[i]? = some ((v + u) % 2 ^ 64)) ∧
      (s.perfSel n i = 0 → ((s.ran n x k l u).front n).perf[i]? = some v)) ∧
    (∀ taken : Bool, s.strict n x = false → x.ending = [] → (s.eng n).pbar = 0 →
      ((s.ran n x k [taken] u).front n).hist = (2 * (s.front n).hist + taken.toNat) % 2 ^ 62 ∧
      ((s.front n).matching x.pc.toNat = none → ((s.ran n x k [taken] u).front n).base =
        tput (s.front n).base (baseOf x.pc.toNat)
          (if taken then min (tget (s.front n).base (baseOf x.pc.toNat) 0 + 1) 3 else tget (s.front n).base (baseOf x.pc.toNat) 0 - 1))) ∧
    (∀ l : List Bool, x.ending = [] → l.length ≤ (s.eng n).pbar →
      ((s.ran n x k l u).front n).hist = (s.front n).hist ∧ ((s.ran n x k l u).front n).base = (s.front n).base ∧
      ((s.ran n x k l u).front n).tagged = (s.front n).tagged)

/-- The address of an access of n bytes (08 R226). -/
def addressOf (x : Ctx) (n : Nat) : Addr → Word
  | .disp b d => x.rs b.val + d
  | .postInc b _ => x.rs b.val
  | .preDec b => x.rs b.val - BitVec.ofNat 32 n
  | .index b i m => x.rs b.val + x.rs i.val <<< m.val

/-- The registers with the base that the address updates. -/
def based (x : Ctx) (n : Nat) : Addr → Ctx
  | .postInc b k => x.putS b.val (x.rs b.val + if k = 0 then BitVec.ofNat 32 n else k)
  | .preDec b => x.putS b.val (x.rs b.val - BitVec.ofNat 32 n)
  | _ => x

/-- The address updates none of the registers named, and is not indexed by its own base where that is written: forms that R223 and
R227 forbid are left out. -/
def keepsOut (l : List Nat) : Addr → Prop
  | .postInc b _ => b.val ∉ l
  | .preDec b => b.val ∉ l
  | .index b i _ => b = i → b.val ∉ l
  | .disp _ _ => True

/-- Words of an operation with a memory address, at most: a displacement may take an extension word (08 R222). -/
def wordsOf : Addr → Nat
  | .disp _ _ => 2
  | _ => 1

/-- Unaligned accesses that an access of n bytes counts as (07 R203, R218). -/
def splitOf (a : Word) (n : Nat) : Nat := if a.toNat % n = 0 then 0 else 1

/-- Results into registers, that the third bundle reads (long: that a long operation gives). -/
def results (x : Ctx) (fixed long : Bool) (l : List (Dst × Val)) : Ctx :=
  l.foldl (fun x r => if long then x.slowly fixed { dst := some r.1, val := r.2 } else x.later fixed { dst := some r.1, val := r.2 }) x

/-- A load: it reads what State.engLoad gives, or State.hcLoad on a pair. -/
def Loads (mk : At → Addr → Instr) (n : Nat) (ds : List Nat) (res : List Byte → List (Dst × Val)) : Prop :=
  ∀ (s s1 : State) (e : Fin 192) (c k : Nat) (a : Addr) (b : List Byte) (long : Bool), keepsOut ds a →
    Calm s e c → k ≤ wordsOf a → s.fetchFault e (s.ctx e c) k = none → s.engFault e (s.ctx e c) (addressOf (s.ctx e c) n a) n = none →
    ((s.ran e (s.ctx e c) k [] (splitOf (addressOf (s.ctx e c) n a) n)).begun e c).engLoad e (addressOf (s.ctx e c) n a) n = some (b, long, s1) →
    exec (mk { core := .engine e, more := false, words := k } a) s =
      .next (s1.setEng e ((s1.eng e).done c ((results (based (s.ctx e c) n a) (s.fixedOn e) long (res b)).past k) 0))

/-- The same on a harbour pair. -/
def LoadsHc (mk : At → Addr → Instr) (n : Nat) (ds : List Nat) (res : List Byte → List (Dst × Val)) : Prop :=
  ∀ (s : State) (h : Fin 2) (k : Nat) (a : Addr), keepsOut ds a → HcCalm s h → 1 ≤ k → k ≤ wordsOf a → s.inTask h (s.hc h).pc.toNat (4 * k) = true →
    let ad := addressOf (s.hcCur h) n a
    s.hcFault h ad n false = none →
    let r := (s.setHc h { s.hc h with bundle := {}, step := false, waiting := false }).hcLoad h ad n
    exec (mk { core := .harbour h, more := false, words := k } a) s =
      .next (r.2.setHc h { r.2.hc h with regs := (results (based (s.hcCur h) n a) true false (res r.1)).regs, pc := (s.hc h).pc + BitVec.ofNat 32 (4 * k) })

/-- The bytes of an access, least significant first, as a word. -/
def leWord (b : List Byte) : Word := BitVec.ofNat 32 (leNat b)

/-- The aligned parts of n bytes at a, lower first (07 R203). -/
def partsOf (a n : Nat) : List (Nat × Nat) := if a % n = 0 then [(a, n)] else [(a, n - a % n), ((a + (n - a % n)) % 2 ^ 32, a % n)]

/-- What an engine reads with an empty store buffer (07 R184, R185, R203): in I-RAM, D-RAM and fixed-count mode the bytes of
memory; through the data cache an aligned access leaves its line in the cache and reads the line. A line that was not there
is read from memory. -/
def LoadedValuesPart : Prop :=
  ∀ (s : State) (e n : Nat) (a : Word), (s.eng e).stbuf = [] → n ∈ [1, 2, 4, 8, 16] → kilnSpace a.toNat = false →
    ((s.fixedOn e = true ∨ ∀ p ∈ partsOf a.toNat n, cached p.1 = false) →
      s.engLoad e a n = some ((partsOf a.toNat n).flatMap (fun p => s.getEng e p.1 p.2), false, s)) ∧
    (s.fixedOn e = false → cached a.toNat = true → a.toNat % n = 0 →
      ∃ l s1, s.engLoad e a n = some (cut l.bytes (a.toNat % 32) n, false, s1) ∧ l ∈ (s1.eng e).dcache ∧ l.addr = a.toNat / 32 * 32 ∧
        (l ∈ (s.eng e).dcache ∨ (l.bytes = s1.getEng e l.addr 32 ∧ l.dirty = false)))

/-- The engine state e after a store of b at a: in the store buffer, or in memory in I-RAM and in fixed-count mode (07 R201). -/
def storeIn (s : State) (n : Nat) (e : Engine) (a : Word) (b : List Byte) : State :=
  let m := a.toNat % b.length
  let l := if m = 0 then [(a.toNat, b)] else [(a.toNat, b.take (b.length - m)), ((a.toNat + (b.length - m)) % 2 ^ 32, b.drop (b.length - m))]
  if s.fixedOn n || decide (a.toNat < 0x8000) then (l.foldl (fun s p => s.putEng n p.1 p.2) s).setEng n e
  else s.setEng n { e with stbuf := e.stbuf ++ l.map (fun p => { addr := p.1, bytes := p.2 }) }

/-- A store outside kiln register space. -/
def Stores (mk : At → Addr → Instr) (n : Nat) (v : Ctx → List Byte) : Prop :=
  ∀ (s : State) (e : Fin 192) (c k : Nat) (a : Addr), Calm s e c → k ≤ wordsOf a → s.fetchFault e (s.ctx e c) k = none →
    let ad := addressOf (s.ctx e c) n a
    s.engFault e (s.ctx e c) ad n = none → kilnSpace ad.toNat = false →
    exec (mk { core := .engine e, more := false, words := k } a) s =
      .next (storeIn (s.ran e (s.ctx e c) k [] (splitOf ad n)) e ((s.eng e).done c ((based (s.ctx e c) n a).past k) 0) ad (v (s.ctx e c)))

/-- The same on a harbour pair, outside the register BAR. -/
def StoresHc (mk : At → Addr → Instr) (n : Nat) (v : Ctx → List Byte) : Prop :=
  ∀ (s : State) (h : Fin 2) (k m : Nat) (a : Addr), HcCalm s h → 1 ≤ k → k ≤ wordsOf a → s.inTask h (s.hc h).pc.toNat (4 * k) = true →
    let ad := addressOf (s.hcCur h) n a
    s.hcFault h ad n true = none → hcReg ad.toNat = false → hcAddr h ad.toNat = some m →
    exec (mk { core := .harbour h, more := false, words := k } a) s =
      .next ((s.mput m (v (s.hcCur h))).setHc h ((s.hc h).done (based (s.hcCur h) n a).regs k))

/-- A buffered store outside the cached regions reaches memory at the next bundle that has no V memory operand; until then a
load that it covers reads the buffer (07 R201, R202). -/
def StoreBufferPart : Prop :=
  (∀ (s : State) (n : Nat) (p : StBuf) (t : List StBuf), (s.eng n).stbuf = p :: t → cached p.addr = false →
    s.drainN n 1 = (s.putEng n p.addr p.bytes).setEng n { s.eng n with stbuf := t }) ∧
  (∀ (s : State) (n a m : Nat) (t : List StBuf) (p : StBuf), (s.eng n).stbuf = t ++ [p] → p.addr ≤ a → a + m ≤ p.addr + p.bytes.length → 0 < m →
    s.loadPart n a m = (cut p.bytes (a - p.addr) m, s)) ∧
  (∀ (s : State) (n : Fin 192) (c k : Nat) (p : StBuf), Calm (s.setEng n { s.eng n with stbuf := [] }) n c → (s.eng n).stbuf = [p] → cached p.addr = false →
    k ≤ 1 → s.fetchFault n (s.ctx n c) k = none →
    exec (.nop { core := .engine n, more := false, words := k }) s =
      .next (((s.ran n (s.ctx n c) k [] 0).putEng n p.addr p.bytes).setEng n ((({ s.eng n with stbuf := [] } : Engine)).done c ((s.ctx n c).past k) 0)))

/-- TIMER_CMP is read and written through kiln register space: the read is a long operation (07 R199, 10 R286). -/
def KilnSpaceAccessPart : Prop :=
  ∀ (s : State) (n : Fin 192) (c k : Nat) (rt b : Reg), Calm s n c → k ≤ 2 → s.fetchFault n (s.ctx n c) k = none →
    (s.ctx n c).rs b.val = 0x08000110 → s.engFault n (s.ctx n c) 0x08000110 4 = none →
    exec (.ldW { core := .engine n, more := false, words := k } rt (.disp b 0)) s =
      .next (s.passes n c k [] ((s.eng n).done c (((s.ctx n c).slowly (s.fixedOn n) { dst := some (.s rt.val), val := .w (s.reg (pKln (n.val / 8) + 0x110)) }).past k) 0)) ∧
    exec (.stW { core := .engine n, more := false, words := k } rt (.disp b 0)) s =
      .next (((s.ran n (s.ctx n c) k [] 0).setReg (pKln (n.val / 8) + 0x110) ((s.ctx n c).rs rt.val)).setEng n ((s.eng n).done c ((s.ctx n c).past k) 0))

/-- Engine n of a calm state after a bundle of k words that changes no register. -/
def passed (s : State) (n c k : Nat) : Engine := (s.eng n).done c ((s.ctx n c).past k) 0

/-- The system operations that only change the engine and what stands in front of it (08 R237, 07 R209): DINT, EINT, SWI, PFLUSH,
PBAR, NOP, FPBAR with no FP result in flight, and the cache operations; caches are off under deterministic and fixed-count mode. -/
def SystemOperationsPart : Prop :=
  ∀ (s : State) (n : Fin 192) (c k : Nat), Calm s n c → k ≤ 1 → s.fetchFault n (s.ctx n c) k = none →
    let w : At := { core := .engine n, more := false, words := k }
    let e := passed s n c k
    let f := (s.passes n c k [] e).front n
    exec (.nop w) s = .next (s.passes n c k [] e) ∧ exec (.fpbar w) s = .next (s.passes n c k [] e) ∧
    exec (.pflush w) s = .next ((s.passes n c k [] e).setFront n { f with base := [], tagged := [], hist := 0 }) ∧
    exec (.dint w) s = .next (s.passes n c k [] { e with dint := some 256 }) ∧ exec (.eint w) s = .next (s.passes n c k [] { e with dint := none }) ∧
    (∀ b : Byte, exec (.pbar w b) s = .next (s.passes n c k [] { e with pbar := if b = 0 then e.pbar else b.toNat })) ∧
    (∀ b : Byte, b = 14 ∨ b = 15 → exec (.swi w b) s = .next (s.passes n c k [] { e with lines := if e.lines.contains b.toNat then e.lines else e.lines ++ [b.toNat] })) ∧
    (∀ ra : Reg, s.strict n (s.ctx n c) = true → exec (.dcwb w ra) s = .next (s.passes n c k [] e) ∧ exec (.dcinv w ra) s = .next (s.passes n c k [] e)) ∧
    (∀ ra : Reg, s.strict n (s.ctx n c) = false →
      let a := ((s.ctx n c).rs ra.val).toNat / 32 * 32
      exec (.dcinv w ra) s = .next (s.passes n c k [] { e with dcache := e.dcache.filter (fun l => l.addr != a) }) ∧
      ((∀ l ∈ e.dcache, l.addr ≠ a) → exec (.dcwb w ra) s = .next (s.passes n c k [] e)) ∧
      (∀ l, e.dcache.find? (fun l => l.addr == a) = some l → exec (.dcwb w ra) s =
        let r := s.ran n (s.ctx n c) k [] 0
        .next ((if l.dirty then r.putEng n a l.bytes else r).setEng n { e with dcache := e.dcache.map (fun m => if m.addr = a then { m with dirty := false } else m) })))

/-- SYNC.W and IFLUSH drain the store buffer, and IFLUSH empties the instruction cache and the repeat cache (08 R237, 09 R266):
stores outside the cached regions reach memory in order. -/
def StoreDrainsPart : Prop :=
  ∀ (s : State) (n : Fin 192) (c k : Nat), Calm (s.setEng n { s.eng n with stbuf := [] }) n c → k ≤ 1 → s.fetchFault n (s.ctx n c) k = none →
    (∀ p ∈ (s.eng n).stbuf, cached p.addr = false) →
    let w : At := { core := .engine n, more := false, words := k }
    let m := (s.eng n).stbuf.foldl (fun (s : State) p => s.putEng n p.addr p.bytes) (s.ran n (s.ctx n c) k [] 0)
    let e := { passed s n c k with stbuf := [] }
    exec (.syncW w) s = .next (m.setEng n e) ∧
    exec (.iflush w) s = .next ((m.setFront n { m.front n with icache := [] }).setEng n { e with rep := [], repBody := none })

/-- SAVEL, SAVEU, RESTL and RESTU start a serialising routine (07 R190, R191, 08 R245, 09 R277), on the half as the bundle finds it
and the PC it leaves, or on the bytes of the save area, zeros when its valid bit is 0; a save in a sealed context is ILLEGAL (R192). -/
def SavesAndRestoresPart : Prop :=
  ∀ (s : State) (n : Fin 192) (c k m : Nat), Calm s n c → k ≤ 1 → s.fetchFault n (s.ctx n c) k = none → (s.ctx n c).save ≠ 0 → s.engAddr n (s.ctx n c).save = some m →
    let x := s.ctx n c
    let w : At := { core := .engine n, more := false, words := k }
    let starts := fun (upper save : Bool) (img : List Byte) =>
      s.passes n c k [] ((s.eng n).done c { x.past k with routine := some { kind := .half upper save, img := img } } 0)
    (x.sealed_ = false →
      exec (.savel w) s = .next (starts false true { x with pc := x.pc + BitVec.ofNat 32 (4 * k) }.lowerImage) ∧
      exec (.saveu w) s = .next (starts true true (x.regs.upperImage ++ leBytes 4 x.regs.vq.toNat))) ∧
    (x.sealed_ = true → ∀ i, i = .savel w ∨ i = .saveu w → ∃ t, exec i s = .next t ∧ (t.ctx n c).st = 4 ∧ (t.ctx n c).fault = 0x101 ∧ (s.kiln.jobs = [] → t.mem = (s.dropRegions n c).mem)) ∧
    exec (.restl w) s = .next (starts false false (if (s.mword (m + 4)).getLsbD 8 then s.mget (m + 8) 248 else List.replicate 248 0)) ∧
    exec (.restu w) s = .next (starts true false (if (s.mword (m + 4)).getLsbD 9 then s.mget (m + 0x100) 512 ++ s.mget (m + 0x344) 4 else List.replicate 516 0))

/-- A save or restore that LONG_OP_COMPLETE finds not yet begun (07 R190, R191, 08 R245): the save has written its bytes and the valid bit,
the restore every register of its half but not the PC; the next operation of the engine finds the routine complete as well. -/
def RoutinesCompletePart : Prop :=
  (∀ (s : State) (n : Fin 192) (c m : Nat) (x : Ctx) (upper : Bool) (img : List Byte), s.ctx n c = { x with routine := some { kind := .half upper true, img := img } } →
    (s.eng n).mc = false → (s.eng n).run = some c → (s.eng n).shadowIn = false → s.engRuns n = true → s.engAddr n x.save = some m →
    img.length = (if upper then 516 else 248) → x.routine = none →
    let fl := setFld (setFld (s.mword (m + 4)) 0 6 c) (if upper then 9 else 8) 1 1
    let whole := ((s.mput (m + if upper then 0x100 else 8) (img.take 512)).mput (m + 0x344) (img.drop 512)).mputW (m + 4) fl
    ∃ mem, exec (.longOpComplete n) s = .next ((s.withMem mem).setCtx n c x) ∧ ∀ b, memRead mem b = memRead whole.mem b) ∧
  (∀ (s : State) (n : Fin 192) (c : Nat) (x : Ctx) (upper : Bool) (img : List Byte), s.ctx n c = { x with routine := some { kind := .half upper false, img := img } } →
    (s.eng n).mc = false → (s.eng n).run = some c → (s.eng n).shadowIn = false → s.engRuns n = true →
    img.length = (if upper then 516 else 248) → x.micro = none → x.routine = none → (upper = false → (wordAt img 2).getLsbD 12 = false) →
    exec (.longOpComplete n) s = .next (s.setCtx n c (x.withHalf upper img false))) ∧
  (∀ (s : State) (n : Fin 192) (c k : Nat), s.engRuns n = true → Calm (s.finishRoutine n) n c → k ≤ 1 →
    let w : At := { core := .engine n, more := false, words := k }
    exec (.nop w) s = exec (.nop w) (s.finishRoutine n))

/-- The registers of a half come back from what a save of it wrote (07 R190, R191). -/
def SavedHalfReadsBackPart : Prop :=
  ∀ (s : State) (n c m : Nat), let x := s.ctx n c
    x.save ≠ 0 → s.engAddr n x.save = some m → x.micro = none → x.regs.s.length = 32 → x.regs.v.length = 16 → x.regs.loops.length = 4 →
    x.regs.acc.length = 4 → (∀ l ∈ x.regs.acc, l.length = 8 ∧ ∀ i ∈ l, -(2 ^ 39) ≤ i ∧ i < 2 ^ 39) →
    x.regs.estat.toNat < 8 → x.regs.vprog.toNat < 32 → c < 64 →
    (((s.saveHalf n c x.save false).loadHalf n c false true).ctx n c).regs = x.regs ∧ (((s.saveHalf n c x.save false).loadHalf n c false true).ctx n c).pc = x.pc ∧
    (((s.saveHalf n c x.save true).loadHalf n c true true).ctx n c).regs = x.regs

/-- Engine n runs its machine-check handler, at the start of a bundle, with nothing under way. -/
structure McCalm (s : State) (n : Nat) : Prop where
  runs : s.engRuns n = true
  mc : (s.eng n).mc = true
  bundle : (s.eng n).bundle = {}
  stbuf : (s.eng n).stbuf = []
  pend : (s.eng n).mcCtx.pend = []
  longs : (s.eng n).mcCtx.longs = []
  rpt : (s.eng n).mcCtx.rpt = none
  micro : (s.eng n).mcCtx.micro = none
  routine : (s.eng n).mcCtx.routine = none
  micros : (s.eng n).ctxs.any (fun e => e.2.micro.isSome) = false
  ending : (s.eng n).mcCtx.ending = []

/-- The engine after a bundle of the machine-check handler, which leaves bank 7 as x. -/
def mcDone (e : Engine) (x : Ctx) : Engine :=
  { ({ e with bundle := {}, step := false, dint := e.dint.map (· - 1) }.track e.mcCtx false) with mcCtx := x }

/-- The state after such a bundle of k words leaves engine n as e. -/
def mcNext (s : State) (n k : Nat) (e : Engine) : State := (s.ran n (s.eng n).mcCtx k [] 0).setEng n e

/-- MCRD, MCWR and MRET (08 R238, 07 R190, R215): the handler reads and writes the s registers of an occupied bank and of bank 7; of a
bank that no context occupies, MCRD reads what MCWR wrote, or a value that then stays. Anywhere else MCRD and MCWR are ILLEGAL. MRET goes
back, poisoned contexts are FAULTED with POISON, and a spill that found no save area is tried again. -/
def MachineCheckHandlerPart : Prop :=
  (∀ (s : State) (n : Fin 192) (k : Nat), McCalm s n → k ≤ 1 → s.fetchFault n (s.eng n).mcCtx k = none →
    let w : At := { core := .engine n, more := false, words := k }
    let x := (s.eng n).mcCtx
    (∀ rd rs : Reg, exec (.mcrd w rd 7 rs) s = .next (mcNext s n k (mcDone (s.eng n) ((x.putS rd.val (x.rs rs.val)).past k))) ∧
      exec (.mcwr w rs 7 rd) s = .next (mcNext s n k (mcDone (s.eng n) ((x.putS rd.val (x.rs rs.val)).past k)))) ∧
    (∀ (rd rs : Reg) (b : Fin 8) (c : Nat) (y : Ctx), b.val ≠ 7 → (s.eng n).ctxs.find? (fun e => e.2.hasBank && e.2.bank == b.val) = some (c, y) →
      exec (.mcrd w rd b rs) s = .next (mcNext s n k (mcDone (s.eng n) ((x.putS rd.val (y.rs rs.val)).past k))) ∧
      exec (.mcwr w rs b rd) s = .next (mcNext s n k ((mcDone (s.eng n) (x.past k)).setCtx c ((s.ctx n c).putS rd.val (x.rs rs.val))))) ∧
    (∀ (rd rs : Reg) (b : Fin 8), b.val ≠ 7 → (s.eng n).ctxs.find? (fun e => e.2.hasBank && e.2.bank == b.val) = none →
      exec (.mcwr w rs b rd) s = .next (mcNext s n k { mcDone (s.eng n) (x.past k) with bankS := tput (s.eng n).bankS (32 * b.val + rd.val) (x.rs rs.val) }) ∧
      ((∃ e ∈ (s.eng n).bankS, e.1 = 32 * b.val + rs.val) → exec (.mcrd w rd b rs) s =
        .next (mcNext s n k (mcDone (s.eng n) ((x.putS rd.val (tget (s.eng n).bankS (32 * b.val + rs.val) 0)).past k)))) ∧
      ((∀ e ∈ (s.eng n).bankS, e.1 ≠ 32 * b.val + rs.val) → ∃ v, exec (.mcrd w rd b rs) s =
        .next (mcNext s.drawn n k { mcDone (s.eng n) ((x.putS rd.val v).past k) with bankS := tput (s.eng n).bankS (32 * b.val + rs.val) v }))) ∧
    ((s.eng n).retry = none → ∃ t, exec (.mret w) s = .next t ∧ (t.eng n).mc = false ∧
      (∀ c < 64, (s.ctx n c).poisoned = true → (t.ctx n c).st = 4 ∧ (t.ctx n c).fault = 8) ∧
      ((∀ c < 64, (s.ctx n c).poisoned = false) → (s.eng n).run.isSome = true → (t.eng n).run = (s.eng n).run ∧ (t.eng n).ctxs = (s.eng n).ctxs)) ∧
    (∀ d, (s.eng n).retry = some (.fill d) → LeavesBy (fun u => u.fill n d) (.mret w) s (fun u => (u.eng n).mc = false ∧ (u.eng n).retry = none)) ∧
    ((s.eng n).retry = some .job → LeavesBy (fun u => u.dispatch (n.val / 8)) (.mret w) s (fun u => (u.eng n).mc = false ∧ (u.eng n).retry = none))) ∧
  (∀ (s : State) (n : Fin 192) (c k : Nat), Calm s n c → k ≤ 1 → s.fetchFault n (s.ctx n c) k = none → ∀ (rd rs : Reg) (b : Fin 8) i,
    i = .mcrd { core := .engine n, more := false, words := k } rd b rs ∨ i = .mcwr { core := .engine n, more := false, words := k } rs b rd →
    ∃ t, exec i s = .next t ∧ (t.ctx n c).st = 4 ∧ (t.ctx n c).fault = 0x101 ∧ (t.ctx n c).faultPc = (s.ctx n c).pc)

/-- A trap of pair h with IE or at task level (13 R354): what it saves and where it goes. -/
def trapped (s : State) (h : Nat) (cause : Nat) (tval epc : Word) (t : State) : Prop :=
  t.csr h 2 = epc ∧ t.csr h 3 = BitVec.ofNat 32 cause ∧ t.csr h 4 = tval ∧ (t.hc h).pc = s.csr h 1 ∧
  t.csr h 0 = (if (s.csr h 0).getLsbD 0 then 9 else 1) + (if (s.csr h 0).getLsbD 1 then 4 else 0) ∧
  (t.hc h).regs = (s.hc h).regs ∧ t.mem = s.mem

/-- The state after the system operation of a bundle of k words on pair h found its registers and its next PC. -/
def hcPassed (s : State) (h k : Nat) : State := s.setHc h ((s.hc h).done (s.hc h).regs k)

/-- CSRR, CSRW and WFI at firmware level, and what is ILLEGAL at task level (13 R353): CSRW keeps reserved bits 0 and changes no
read-only register. CYCLE counts are free (log entry 14). -/
def ControlRegistersPart : Prop :=
  ∀ (s : State) (h : Fin 2) (k : Nat), HcCalm s h → k = 1 → s.inTask h (s.hc h).pc.toNat (4 * k) = true →
    let w : At := { core := .harbour h, more := false, words := k }
    let put := fun (rd : Reg) (v : Word) => s.setHc h ((s.hc h).done { (s.hc h).regs with s := (s.hc h).regs.s.set rd.val v } k)
    (∀ (rd : Reg) (i : Fin 32), i.val ≤ 20 → s.firmware h = true ∨ i.val = 7 ∨ i.val = 10 → i.val ≠ 6 → i.val ≠ 7 → i.val ≠ 9 →
      exec (.csrr w rd i) s = .next (put rd (s.csr h i.val))) ∧
    (∀ rd : Reg, exec (.csrr w rd 7) s = .next (put rd (s.hc h).cycleLatch)) ∧
    (∀ rd : Reg, ∃ c t, exec (.csrr w rd 6) s = .next t ∧ (t.hc h).cycleLatch = BitVec.ofNat 32 (c / 2 ^ 32) ∧
      (t.hc h).regs.s = (s.hc h).regs.s.set rd.val (BitVec.ofNat 32 c) ∧ (t.hc h).csr = (s.hc h).csr ∧ t.mem = s.mem) ∧
    (s.firmware h = true →
      (∀ rd : Reg, ∃ v, exec (.csrr w rd 9) s = .next (put rd v) ∧ ∀ l < 32, v.getLsbD l = s.hcLine h l) ∧
      (∀ (i : Fin 32) (ra : Reg), i.val ≤ 20 → ∃ t, exec (.csrw w i ra) s = .next t ∧ (t.hc h).pc = (s.hc h).pc + BitVec.ofNat 32 (4 * k) ∧
        (t.hc h).regs = (s.hc h).regs ∧ t.mem = s.mem ∧ (∀ j, j ≠ i.val → t.csr h j = s.csr h j) ∧
        t.csr h i.val = (let v := (s.hcCur h).rs ra.val
          if i = 0 then v &&& 0xF else if i = 1 then v &&& 0xFFFFFFFC else if i = 3 then v &&& 0xFF else if i = 12 then v &&& 1
          else if i = 6 ∨ i = 7 ∨ i = 9 ∨ i = 10 ∨ i = 11 then s.csr h i.val else v)) ∧
      (exec (.wfi w) s = .next (if s.hcWake h then hcPassed s h k else s.setHc h { (s.hc h).done (s.hc h).regs k with waiting := true }))) ∧
    (s.firmware h = false → ∀ i, (∃ (r : Fin 32) (ra : Reg), i = .csrw w r ra ∧ r.val ≤ 20) ∨ (∃ (rd : Reg) (r : Fin 32), i = .csrr w rd r ∧ r.val ≤ 20 ∧ r.val ≠ 6 ∧ r.val ≠ 7 ∧ r.val ≠ 10) ∨
        i = .wfi w ∨ i = .eret w → ∃ t, exec i s = .next t ∧ trapped s h 1 0 (s.hc h).pc t)

/-- What runs on one core only is ILLEGAL on the other (08 R246, R248, R223 rule 7). -/
def OtherCoreIllegalPart : Prop :=
  (∀ (s : State) (h : Fin 2) (k : Nat), HcCalm s h → k = 1 ∨ k = 2 → s.inTask h (s.hc h).pc.toNat (4 * k) = true →
    ((s.csr h 0).getLsbD 0 = false ∨ (s.csr h 0).getLsbD 1 = true) →
    let w : At := { core := .harbour h, more := false, words := k }
    ∀ i ∈ [Instr.rpt w (.imm 1), .loop w 0 (.imm 1) 1, .lclr w 0, .dint w, .eint w, .swi w 14, .pbar w 0, .dcwb w 0, .dcinv w 0, .reti w, .mret w, .end_ w,
        .yield w, .savel w, .saveu w, .restl w, .restu w, .vaclr w 0, .vbcastH w 0 0, .vacstH w 0 0 0 false, .fadd w 0 0 0, .fma w 0 0 0, .mmulW w 0 0 0, .mredW w 0 0,
        .vgathH w 0 0 0, .mcrd w 0 0 0, .mcwr w 0 0 0, .vmacH w 0 0 (.reg 0)],
      ∃ t, exec i s = .next t ∧ trapped s h 1 0 (s.hc h).pc t) ∧
  (∀ (s : State) (n : Fin 192) (c k : Nat), Calm s n c → k ≤ 4 → s.fetchFault n (s.ctx n c) k = none →
    let w : At := { core := .engine n, more := false, words := k }
    ∀ i, i = .ecall w ∨ i = .eret w ∨ i = .wfi w ∨ (∃ rd r, i = .csrr w rd r) ∨ (∃ r ra, i = .csrw w r ra) →
      ∃ t, exec i s = .next t ∧ (t.ctx n c).st = 4 ∧ (t.ctx n c).fault = 0x101 ∧ (t.ctx n c).faultPc = (s.ctx n c).pc)

/-- An interrupt that is due and not deferred (07 R211 to R213): level 1 goes to INT_VEC in the same bank with the shadow copies,
and level 2 to the handler context that INT_CTX names, here a resident one. -/
def InterruptEntryPart : Prop :=
  ∀ (s : State) (n : Fin 192) (c : Nat) (l : Fin 16), Calm s n c → s.engHalted n = false → (s.eng n).dint = none ∨ (s.eng n).dint = some 0 → (s.ctx n c).sealed_ = false →
    (s.eng n).level2 = false →
    let due := fun (one : Bool) (i : Nat) => (s.reg (pEng n + 0x134)).getLsbD i && ((s.reg (pEng n + 0x138)).getLsbD i == one) && s.lineUp n i
    (due true l = true → (∀ i < l.val, due true i = false) → ∃ t, exec (.interruptLevel1 n l) s = .next t ∧
      (t.eng n).shadowIn = true ∧ (t.eng n).retPc = (s.ctx n c).pc ∧ (t.eng n).run = some c ∧ (t.eng n).shadow = (s.eng n).shadow ∧
      (t.ctx n c).pc = s.reg (pEng n + 0x180 + 4 * l.val) ∧ (t.ctx n c).regs = (s.ctx n c).regs ∧ t.mem = s.mem) ∧
    (let h := (s.reg (pEng n + 0x140 + 4 * l.val)).toNat % 64
     due false l = true → (∀ i < 16, due true i = false) → (∀ i < l.val, due false i = false) → h ≠ c → (s.ctx n h).st = 2 →
      ∃ t, exec (.interruptLevel2 n l) s = .next t ∧ (t.eng n).level2 = true ∧ (t.eng n).level2From = some c ∧ (t.eng n).run = some h ∧
        (t.ctx n h).st = 3 ∧ (t.ctx n h).regs = (s.ctx n h).regs ∧ (t.ctx n h).pc = (s.ctx n h).pc ∧
        (t.ctx n c).st = 2 ∧ (t.ctx n c).regs = (s.ctx n c).regs ∧ (t.ctx n c).pc = (s.ctx n c).pc ∧ t.mem = s.mem) ∧
    ((s.eng n).dint = some 0 → due true l = true → (∀ i < l.val, due true i = false) → ∃ t, exec (.dintLimit n) s = .next t ∧
      (t.eng n).shadowIn = true ∧ (t.eng n).dint = none ∧ (t.ctx n c).pc = s.reg (pEng n + 0x180 + 4 * l.val))

/-- A machine check (07 R215): the three registers, and bank 7 at MC_VEC with the context untouched but for its poison; a second
one, or MC_VEC = 0, halts the engine. -/
def MachineChecksPart : Prop :=
  ∀ (s : State) (n : Fin 192) (c : Nat) (cause : Byte) (addr : Word) (bank : Fin 8), Calm s n c → s.engHalted n = false → 2 ≤ cause.toNat → cause.toNat ≤ 4 →
    ∃ t, exec (.machineCheck n cause addr bank) s = .next t ∧ t.reg (pEng n + 0x124) = addr ∧ t.reg (pEng n + 0x128) = (s.ctx n c).pc ∧
      (s.reg (pEng n + 0x11C) ≠ 0 → t.reg (pEng n + 0x120) = BitVec.ofNat 32 (cause.toNat + 256 * (c % 64)) ∧
        (t.eng n).mc = true ∧ (t.eng n).mcCtx.pc = s.reg (pEng n + 0x11C) ∧ (t.eng n).run = some c ∧ (t.ctx n c).poisoned = true ∧
        (t.ctx n c).regs = (s.ctx n c).regs ∧ (t.ctx n c).pc = (s.ctx n c).pc ∧ t.mem = s.mem) ∧
      (s.reg (pEng n + 0x11C) = 0 → t.reg (pEng n + 0x120) = BitVec.ofNat 32 (cause.toNat + 256 * (c % 64) + 16384) ∧
        (t.eng n).halted = true ∧ (t.eng n).mc = false ∧ (t.eng n).run = none ∧ (t.reg (pEng n + 0x20)).getLsbD 0 = true)

/-- A context fault (07 R214): FAULTED with the code, the address and the PC, ENG_EV_CTX_FAULT, and the job of a context whose fault is
not restartable ends, as the state of a sealed one does (06 R169, 10 R295); the FP trap is imprecise and, unless the context is sealed,
restartable (09 R274). -/
def ContextFaultsPart : Prop :=
  (∀ (s : State) (n : Fin 192) (c : Nat) (code : Byte) (addr : Word), Calm s n c → code.toNat ∈ [1, 2, 3, 4, 5, 7, 9] →
    ∃ t, exec (.contextFault n code addr) s = .next t ∧ (t.ctx n c).st = 4 ∧ (t.ctx n c).fault = code.toNat + 256 ∧ (t.eng n).run ≠ some c ∧ (t.reg (pEng n + 0x10)).getLsbD 0 = true ∧
      ((s.ctx n c).sealed_ = false → (t.ctx n c).faultAddr = addr ∧ (t.ctx n c).faultPc = (s.ctx n c).pc ∧ (t.ctx n c).regs = (s.ctx n c).regs ∧
        (t.ctx n c).pc = (s.ctx n c).pc) ∧
      ((s.ctx n c).sealed_ = true → (t.ctx n c).regs = Regs.zero) ∧ ((t.ctx n c).restart = true ↔ code.toNat ∈ [2, 3, 4, 7]) ∧
      (code.toNat ∈ [2, 3, 4, 7] → t.kiln.jobs = s.kiln.jobs) ∧
      (code.toNat ∈ [1, 5] → t.kiln.jobs = s.kiln.jobs.filter (fun j => !(j.kiln == n.val / 8 && j.engine == n.val % 8 && j.ctx == c)))) ∧
  (∀ (s : State) (n : Fin 192) (c : Nat) (x : Nat), Calm (s.setCtx n c { s.ctx n c with fpTrap := 0 }) n c → (s.ctx n c).fpTrap = x → 0 < x → x < 32 →
    ∃ t, exec (.fpTrap n) s = .next t ∧ (t.ctx n c).st = 4 ∧ (t.ctx n c).fault = 6 ∧ (t.ctx n c).faultPc = (s.ctx n c).pc ∧ (t.ctx n c).fpTrap = (s.ctx n c).heldTrap ∧
      (t.ctx n c).fpstat = setFld (s.ctx n c).fpstat 13 5 x ∧
      ((s.ctx n c).sealed_ = false → (t.ctx n c).restart = true ∧ (t.ctx n c).pc = (s.ctx n c).pc ∧ (t.ctx n c).regs = (s.ctx n c).regs) ∧
      ((s.ctx n c).sealed_ = true → (t.ctx n c).restart = false))

/-- CONTEXT_FILL reads both halves of a spilled context into a free bank (07 R188, R191); the oldest long operation completes
into its register with its flags (R199); results in their shadow reach the third bundle (R197, R198). -/
def FillsAndResultsPart : Prop :=
  (∀ (s : State) (n : Fin 192) (c : Fin 64) (d : Nat), s.awake n = true → (s.eng n).mc = false → (s.eng n).run = some d → d ≠ c.val → (s.ctx n c).st = 1 → (s.eng n).freeBanks ≠ [] →
    ∃ t b, exec (.contextFill n c) s = .next t ∧ b ∈ (s.eng n).freeBanks ∧ (t.ctx n c).st = 2 ∧ (t.ctx n c).bank = b ∧
      t.reg (pEng n + 0x118) = (if s.reg (pEng n + 0x118) = 0xFFFFFFFF then t.reg (pEng n + 0x118) else s.reg (pEng n + 0x118) + 1) ∧
      (t.ctx n c).regs = (((s.loadHalf n c false true).loadHalf n c true true).ctx n c).regs ∧ (t.eng n).run = some d ∧ t.mem = s.mem) ∧
  (∀ (s : State) (n : Fin 192) (c : Nat) (p : Pend) (t : List Pend), s.engRuns n = true → (s.eng n).mc = false → (s.eng n).shadowIn = false → (s.eng n).run = some c → (s.ctx n c).routine = none → (s.ctx n c).longs = p :: t →
    exec (.longOpComplete n) s = .next (s.setCtx n c ({ s.ctx n c with longs := t }.land p))) ∧
  (∀ (s : State) (n : Fin 192) (c k : Nat) (p : Pend), Calm (s.setCtx n c { s.ctx n c with pend := [] }) n c → (s.ctx n c).pend = [p] → s.fixedOn n = false → k ≤ 1 → s.fetchFault n (s.ctx n c) k = none →
    exec (.nop { core := .engine n, more := false, words := k }) s = .next (s.passes n c k [] ((s.eng n).done c
      ((if p.age ≤ 1 then { s.ctx n c with pend := [] }.land { p with age := 0 } else { s.ctx n c with pend := [{ p with age := p.age - 1 }] }).past k) 0)))

/-- A serialising routine under way (09 R277 to R281). A level-1 interrupt finds it after some of its steps, and suspends it unless it was
done; at the resumption with unchanged operands it goes on where it stood; a parity error of the control store abandons it, and what its
steps have changed stays. -/
def InterruptedRoutinesPart : Prop :=
  (∀ (s : State) (n : Fin 192) (c : Nat) (l : Fin 16) (x : Ctx) (r : Run), s.ctx n c = { x with routine := some r } → Calm (s.setCtx n c x) n c → r.step ≤ r.kind.steps →
    s.engHalted n = false → (s.eng n).dint = none → x.sealed_ = false →
    let due := fun (i : Nat) => (s.reg (pEng n + 0x134)).getLsbD i && (s.reg (pEng n + 0x138)).getLsbD i && s.lineUp n i
    due l = true → (∀ i < l.val, due i = false) → ∃ t j, exec (.interruptLevel1 n l) s = .next t ∧ (t.eng n).shadowIn = true ∧ (t.eng n).run = some c ∧
      t.mem = (s.drawn.routineSteps n r j).1.mem ∧ (t.ctx n c).routine = none ∧
      (r.step + j = r.kind.steps ∨ r.step + j < r.kind.steps ∧ ∃ m, (t.ctx n c).micro = some m ∧ m.known = true ∧ m.run = some (s.drawn.routineSteps n r j).2)) ∧
  (∀ (s : State) (n : Nat) (x : Ctx) (m : Micro) (r : Run), x.micro = some m → m.run = some r → m.known = true →
    let y := { x with micro := none }
    s.routineInputs n y r.kind = m.seen → s.resumeMicro n x = ({ y with routine := some { r with img := s.routineBytes n y r.kind } }, s)) ∧
  (∀ (s : State) (n : Fin 192) (c : Nat) (x : Ctx) (r : Run) (addr : Word) (bank : Fin 8), s.ctx n c = { x with routine := some r } → Calm (s.setCtx n c x) n c →
    s.engHalted n = false → s.reg (pEng n + 0x11C) ≠ 0 →
    ∃ t j, exec (.machineCheck n 2 addr bank) s = .next t ∧ (t.eng n).mc = true ∧ (t.ctx n c).routine = none ∧ (t.ctx n c).micro = none ∧
      (t.ctx n c).poisoned = true ∧ t.mem = (s.drawn.routineSteps n r j).1.mem)

/-- Lane i of w bits (09 R251). -/
def lane (w : Nat) (v : Vec) (i : Nat) : BitVec w := v.extractLsb' (w * i) w

/-- A V operation whose target, value and flags R relates to the registers and its second source: a register, or the 128 bits that
State.vMem reads at the aligned address, with 16 added under INC (08 R228). The third bundle reads the result. -/
def VOp (mk : At → VSrc → Instr) (R : Ctx → Vec → Dst → Val → Nat → Prop) : Prop :=
  ∀ (s : State) (n : Fin 192) (c k : Nat), Calm s n c → (s.ctx n c).regs.v.length = 16 → k ≤ 1 → s.fetchFault n (s.ctx n c) k = none →
    let x := s.ctx n c
    let w : At := { core := .engine n, more := false, words := k }
    (∀ vb : VReg, ∃ d v fl, R x (x.rv vb.val) d v fl ∧
      exec (mk w (.reg vb)) s = .next (s.passes n c k [] ((s.eng n).done c ((x.later (s.fixedOn n) { dst := some d, val := v, flags := fl }).past k) 0))) ∧
    (∀ (r : Reg) (inc : Bool) (q : Vec) (s1 : State),
      let a := (x.rs r.val).toNat / 16 * 16
      s.engFault n x (BitVec.ofNat 32 a) 16 = none → s.vMem n x a inc = (q, s1) → ∃ d v fl, R x q d v fl ∧
        exec (mk w (.mem r inc)) s = .next (s1.passes n c k [] ((s1.eng n).done c
          (((if inc then x.putS r.val (x.rs r.val + 16) else x).later (s.fixedOn n) { dst := some d, val := v, flags := fl }).past k) 0)))

/-- What a V memory operand reads in D-RAM with an empty store buffer: outside a loop body that the repeat cache records, the 16 bytes of
memory; in one, an INC operand is read for the next iteration too, and a bundle that issues from the cache takes what was read so (09
R266). -/
def vRead : Prop := ∀ (s : State) (n : Nat) (x : Ctx) (a : Nat) (inc : Bool), (s.eng n).stbuf = [] → 0x10000 ≤ a → a + 16 < 0x20000 →
  let bytes := fun a => BitVec.ofNat 128 (leNat (s.getEng n a 16))
  (inc = false ∨ x.body = none → s.vMem n x a inc = (bytes a, s)) ∧
  (inc = true → x.body.isSome = true →
    ((s.vMem n x a inc).2.eng n).ahead x.pc.toNat (a + 16) = some (bytes (a + 16)) ∧
    (∀ r v, (s.eng n).inBody x = some r → r.on = true → (s.eng n).ahead x.pc.toNat a = some v → (s.vMem n x a inc).1 = v) ∧
    ((∀ r, (s.eng n).inBody x = some r → r.on = false) → (s.vMem n x a inc).1 = bytes a))

/-- A lane operation that sets no flag. -/
def Lanes (w m : Nat) (vd va : VReg) (g : BitVec w → BitVec w → BitVec w) (x : Ctx) (q : Vec) (d : Dst) (v : Val) (fl : Nat) : Prop :=
  d = .v vd.val ∧ fl = 0 ∧ ∃ r, v = .v r ∧ ∀ i < m, lane w r i = g (lane w (x.rv va.val) i) (lane w q i)

/-- A signed lane. -/
def sLane (v : Vec) (i : Nat) : Int := (lane 16 v i).toInt

/-- The MAC operations (09 R252, R253): exact sums, wrapped to 40 bits, with OV when a sum lies outside. -/
def Macs (ad : AReg) (va : VReg) (g : Int → Int → Int) (x : Ctx) (q : Vec) (d : Dst) (v : Val) (fl : Nat) : Prop :=
  let e := fun i => g ((x.racc ad.val).getD i 0) (sLane (x.rv va.val) i * sLane q i)
  d = .acc ad.val ∧ v = .a ((List.range 8).map (fun i => (BitVec.ofInt 40 (e i)).toInt)) ∧
  fl = if ∃ i < 8, e i < -(2 ^ 39) ∨ 2 ^ 39 ≤ e i then 1 else 0

/-- An accumulator lane moved out: shifted, rounded half up under RND, saturated to m bits (09 R254). -/
def movedOut (m : Nat) (k : Nat) (rnd : Bool) (a : Int) : Int × Bool :=
  let r := (a + if rnd ∧ 0 < k then 2 ^ (k - 1) else 0).shiftRight k
  (max (-(2 ^ (m - 1))) (min (2 ^ (m - 1) - 1) r), decide (r < -(2 ^ (m - 1)) ∨ 2 ^ (m - 1) ≤ r))

/-- The accumulator operations (09 R252, R254). -/
def AccumulatorsPart : Prop :=
  (∀ (ad : AReg) (va : VReg), VOp (.vmulH · ad va ·) (Macs ad va (fun _ p => p)) ∧ VOp (.vmacH · ad va ·) (Macs ad va (fun a p => a + p)) ∧
    VOp (.vmsuH · ad va ·) (Macs ad va (fun a p => a - p))) ∧
  (∀ (s : State) (n : Fin 192) (c k : Nat), Calm s n c → k ≤ 1 → s.fetchFault n (s.ctx n c) k = none →
    let x := s.ctx n c
    let w : At := { core := .engine n, more := false, words := k }
    let after := fun (y : Ctx) => Host.Outcome.next (s.passes n c k [] ((s.eng n).done c (y.past k) 0))
    let fx := s.fixedOn n
    (∀ ad : AReg, exec (.vaclr w ad) s = after (x.later fx { dst := some (.acc ad.val), val := .a (List.replicate 8 0) })) ∧
    (∀ (vd : VReg) (aa : AReg) (sh : Fin 32) (rnd : Bool),
      let o := fun m i => movedOut m sh.val rnd ((x.racc aa.val).getD i 0)
      (∃ r, (∀ i < 8, sLane r i = (o 16 i).1) ∧ exec (.vacstH w vd aa sh rnd) s =
        after (x.later fx { dst := some (.v vd.val), val := .v r, flags := if (List.range 8).any (fun i => (o 16 i).2) then 2 else 0 })) ∧
      (vd.val % 2 = 0 → ∃ lo hi, (∀ i < 4, (lane 32 lo i).toInt = (o 32 i).1 ∧ (lane 32 hi i).toInt = (o 32 (4 + i)).1) ∧ exec (.vacstW w vd aa sh rnd) s =
        after ((x.later fx { dst := some (.v vd.val), val := .v lo, flags := if (List.range 8).any (fun i => (o 32 i).2) then 2 else 0 }).later fx { dst := some (.v (vd.val + 1)), val := .v hi }))))

/-- The chained accumulator operand (09 R253): while one multiply result for the accumulator is in flight, VMAC.H adds onto it. -/
def AccumulatorChainPart : Prop :=
  ∀ (s : State) (n : Fin 192) (c k : Nat) (ad : AReg) (va vb : VReg) (p : Pend) (l : List Int), Calm (s.setCtx n c { s.ctx n c with pend := [] }) n c →
    (s.ctx n c).pend = [p] → p.dst = some (.acc ad.val) → p.val = .a l → p.age = 2 → k ≤ 1 → s.fetchFault n (s.ctx n c) k = none → s.fixedOn n = false →
    ∃ t, exec (.vmacH { core := .engine n, more := false, words := k } ad va (.reg vb)) s = .next t ∧
      (t.ctx n c).regs = (s.ctx n c).regs ∧ ∃ q : Pend, (t.ctx n c).pend = [{ p with age := 1 }, q] ∧ q.dst = some (.acc ad.val) ∧
        q.val = .a ((List.range 8).map (fun i => (BitVec.ofInt 40 (l.getD i 0 + sLane ((s.ctx n c).rv va.val) i * sLane ((s.ctx n c).rv vb.val) i)).toInt))

/-- The modulus, its inverse, and what makes vq valid (09 R255). -/
def validVq (q : Word) : Prop :=
  let m := q.toNat % 2 ^ 16
  m % 2 = 1 ∧ 3 ≤ m ∧ m < 2 ^ 15 ∧ m * (q.toNat / 2 ^ 16) % 2 ^ 16 = 1

/-- A modular lane operation: 0 and OV under an invalid vq (09 R255). -/
def Modular (vd va : VReg) (P : Int → Int → Int → Int → Prop) (x : Ctx) (q : Vec) (d : Dst) (v : Val) (fl : Nat) : Prop :=
  d = .v vd.val ∧ (¬validVq x.regs.vq → v = .v 0 ∧ fl = 1) ∧
  (validVq x.regs.vq → fl = 0 ∧ ∃ r, v = .v r ∧ ∀ i < 8, P (x.regs.vq.toNat % 2 ^ 16 : Nat) (sLane (x.rv va.val) i) (sLane q i) (sLane r i))

/-- 16 bits of an integer, as a signed number. -/
def s16 (i : Int) : Int := (BitVec.ofInt 16 i).toInt

/-- The Montgomery product and Barrett's reduction of 09 R256 and R257 as formulas. -/
def montgomery (vq : Word) (a b : Int) : Int :=
  let u := s16 (a * b * (vq.toNat / 2 ^ 16 : Nat))
  s16 ((a * b - u * (vq.toNat % 2 ^ 16 : Nat)) / 2 ^ 16)
def barrettOf (vq : Word) (a : Int) : Int :=
  let q : Nat := vq.toNat % 2 ^ 16
  s16 (a - q * ((((2 ^ 26 + q / 2) / q : Nat) * a + 2 ^ 25) / 2 ^ 26))

/-- Butterfly jb of a forward layer (09 R259) and of an inverse one (R260), with whether an addition wrapped so far. -/
def butterfly (inv : Bool) (vq : Word) (zeta : List Int) (L : Nat) (p : List Int × Bool) (jb : Nat) : List Int × Bool :=
  let len := if inv then 2 * 2 ^ L else 128 / 2 ^ L
  let g := jb / len
  let j := 2 * len * g + jb % len
  let f := fun i => p.1.getD i 0
  let wraps := fun i => decide (s16 i ≠ i)
  if inv then
    let sum := f j + f (j + len)
    let dif := f (j + len) - f j
    ((p.1.set j (barrettOf vq (s16 sum))).set (j + len) (montgomery vq (zeta.getD (2 ^ (7 - L) - 1 - g) 0) (s16 dif)), p.2 || wraps sum || wraps dif)
  else
    let t := montgomery vq (zeta.getD (2 ^ L + g) 0) (f (j + len))
    ((p.1.set (j + len) (s16 (f j - t))).set j (s16 (f j + t)), p.2 || wraps (f j - t) || wraps (f j + t))

/-- An FP result and its flags in FPSTAT.FLAGS (NV 8, DZ 16, OF 32, UF 64, IX 128), read by the third bundle. -/
def fpLater (fixed : Bool) (x : Ctx) (d : Dst) (r : Word × Nat) : Ctx := x.later fixed { dst := some d, val := .w r.1, flags := r.2 }

/-- The rounding mode in FPSTAT. -/
def rounding (x : Ctx) : Nat := x.fpstat.toNat % 4

/-- Boundary results: the operation on the owner's registers with these operands gives the result and flags. -/
def FpGives (mk : At → FReg → FReg → FReg → Instr) (dst : Nat → Dst) (src : Ctx → Nat → Word) (long : Bool) (l : List (Word × Word × Nat × Word × Nat)) : Prop :=
  ∀ a b rm r fl, (a, b, rm, r, fl) ∈ l → ∀ (s : State) (n : Fin 192) (c k : Nat) (fd fa fb : FReg), Calm s n c → (s.eng n).fpOwner = some c → k ≤ 1 →
    s.fetchFault n (s.ctx n c) k = none → src (s.ctx n c) fa.val = a → src (s.ctx n c) fb.val = b → rounding (s.ctx n c) = rm →
    let p : Pend := { dst := some (dst fd.val), val := .w r, flags := fl }
    exec (mk { core := .engine n, more := false, words := k } fd fa fb) s = .next (s.passes n c k [] ((s.eng n).done c
      ((if long then (s.ctx n c).slowly (s.fixedOn n) p else (s.ctx n c).later (s.fixedOn n) p).past k) 0))

/-- Rows of the table whose rounding mode is any. -/
def inAny (l : List (Word × Word × Word × Nat)) : List (Word × Word × Nat × Word × Nat) :=
  l.flatMap (fun e => [(e.1, e.2.1, 0, e.2.2), (e.1, e.2.1, 1, e.2.2), (e.1, e.2.1, 2, e.2.2), (e.1, e.2.1, 3, e.2.2)])

/-- What a cold reset leaves of s: the fuses, the floors, the device unique keys and the SPI NOR; everything else stands as
after reset, and LAST_RESET names the cause (15 R421, R422). -/
def ColdAs (s t : State) (code : Nat) : Prop :=
  t.dev.dstate = .cold ∧ (∀ off, t.reg off = if off = 0xB10C then w32 code else resetOf s.dev.h48 off) ∧
    t.boot.fuses = s.boot.fuses ∧ t.boot.intKeys = s.boot.intKeys ∧ t.boot.fwFloor = s.boot.fwFloor ∧
    t.boot.patchFloor = s.boot.patchFloor ∧ t.vault.duk = s.vault.duk ∧ t.vault.idk = [] ∧ t.slots = [] ∧ t.portSlots = [] ∧
    t.chans = [] ∧ t.peers = [] ∧ t.engines = [] ∧
    ∀ a, memRead t.mem a = if spNor ≤ a ∧ a < spMailbox then memRead s.mem a else 0

/-- 15 R421, R422, 17 R445: power-on and RESET_N put the device in COLD with LAST_RESET 1 and 2, a loss of the Lighthouse's
supply with 1: fuses, floors, unique keys and SPI NOR stand, registers, memory and the other stores named in ColdAs are as
after reset. The release of RESET_N in COLD with ZEROIZE_N high goes to BOOT with the start hold on, the rails in CLK and PWR on
and DEV_EV_STATE raised. -/
def ColdResetsPart : Prop := ∀ s : State,
  Leaves (.powerOn .powerOn) s (ColdAs s · 1) ∧ Leaves (.powerOn .resetN) s (ColdAs s · 2) ∧
  Leaves .lighthousePowerLoss s (ColdAs s · 1) ∧
  (s.dev.dstate = .cold → s.dev.zeroBall = false → Leaves .resetNRelease s fun t =>
    t.dev.dstate = .boot ∧ t.dev.resetN = false ∧ t.dev.startHold = true ∧ t.reg 0xA100 = 0x3F ∧ t.reg 0xA104 = 0xFFFFFF ∧
      t.reg 0x810C = 0x1FFF ∧ t.ev 0 0)

/-- 15 R423, R424, 14 R384, 16 R437, R438: in BOOT, STAGED or PROTECT, no Ember reset running and not Lighthouse-only, the write of
the code to EMBER and, with HOT_EMBER set, a PCIe hot reset start an Ember reset (emberStart, with cause 3 and 4); an UNSEAL
that nothing forbids answers status 0 and triggers one with cause 5. A hot reset with HOT_EMBER clear resets the host
interface only. An Ember reset not complete in time raises RST's fault 0. Its start puts boot in the ROM, in fixed-count mode.
The completion of one begun in STAGED, its copies good and its firmware up, ends it, sets EMBER_MS and LAST_RESET and
returns to STAGED, or PROTECT where a peer is keyed; then resynchronisation, the event and the exchanges due. -/
def EmberResetsPart : Prop := ∀ s : State,
  (s.hostOpen 0xB100 → s.dev.ember = none → s.dev.dstate = .boot ∨ s.dev.dstate = .staged ∨ s.dev.dstate = .protect →
    s.dev.lhOnly = false → exec (.ember 0x454D4252) s = .next (s.emberStart 3)) ∧
  (s.dev.ember = none → s.dev.dstate = .boot ∨ s.dev.dstate = .staged ∨ s.dev.dstate = .protect →
    s.dev.lhOnly = false → bit (s.reg 0x4100) 0 = true → exec .pcieHotReset s = .next (s.emberStart 4)) ∧
  (s.dev.dstate ≠ .cold → bit (s.reg 0x4100) 0 = false → exec .pcieHotReset s = .next s.hostReset) ∧
  (∀ tag, s.alive 0 = true → s.stage ≠ 0xE → s.dev.dstate = .sealed → bit (s.reg 0xC10C) 3 = false →
    bit (s.reg 0xC10C) 4 = false → s.saf.active = [] →
      exec (.unseal tag) s = .next ((s.respond 0 7 tag 0 0 []).emberTrigger 5)) ∧
  (∀ code, Leaves (.emberSlow) { s with dev := { s.dev with ember := some { from_ := .boot, code := code } } } fun t => t.ft 0xB000 0) ∧
  (∀ code, (s.emberStart code).stage = 1 ∧ (s.emberStart code).reg 0x98114 = 1) ∧
  (∀ e ms, s.dev.ember = some e → e.from_ = .staged → e.sealedIn = false → s.dev.dstate = .boot → s.boot.inSvc = [] →
    s.stage = 6 → s.gen.phase = 0 →
      LeavesBy (fun u => (u.emberPeers.raise 0xB000 0).keyScanAll) (.emberDone true true ms) s fun u =>
        u.dev.ember = none ∧ u.reg 0xB114 = ms ∧ u.reg 0xB10C = w32 e.code ∧
          u.dev.dstate = if s.peerKeyed = 0 then .staged else .protect)

/-- 15 R405, R406, R408, R409, R411, 17 R443, R445, 16 R432, outside COLD. A failure of main rails leaves Lighthouse-only, SEAL_N low,
no Ember reset, engines, key slots, identity or PRKs, DRB not serving and the rails' VMON bits clear. A rail out of
range clears its bit, then SAF's fault 0. LCLK falls back and comes back with an event each. A failed monitor of an ECLK faults CLK
and takes the kiln out of service, of the PCIe reference resets the host interface, of HCLK is a SEAL cause. A write of
ECLK_SEL shows, and outside a step and a hot cap a new choice starts a step, which ends with the choice and an
event. A sample shows, with its sensor, raises TEMP_MAX, sets the hot bit from 100.0 °C and clears it below 95.0 °C; reaching 110.0 °C
is SAF's fault 1, and a sample that stays above it no second one. A read of TEMP_MAX gives it and sets it to TEMP. -/
def SuppliesAndClocksPart : Prop := ∀ s : State, s.dev.dstate ≠ .cold →
  (∀ rails, Leaves (.mainPowerFail rails) s fun t => t.dev.lhOnly = true ∧ t.dev.ember = none ∧ t.engines = [] ∧ t.slots = [] ∧
    t.sealN = true ∧ t.portSlots = [] ∧ t.vault.idk = [] ∧ t.vault.prks = [] ∧ t.vault.drbUp = false ∧
      t.reg 0x810C = w32 ((s.reg 0x810C).toNat &&& (0x1FFF - rails.toNat))) ∧
  (∀ r, LeavesBy (·.fault 0xC000 0) (.railOutOfRange r) s fun u => fld (u.reg 0x810C) r 1 = 0) ∧
  (fld (s.reg 0x8100) 0 1 = 0 → Leaves .lclkFallback s fun t => fld (t.reg 0x8100) 0 1 = 1 ∧ t.ev 0x8000 0) ∧
  (fld (s.reg 0x8100) 0 1 = 1 → Leaves .lclkRestored s fun t => fld (t.reg 0x8100) 0 1 = 0 ∧ t.ev 0x8000 1) ∧
  (∀ k : Fin 24, LeavesBy (·.leaveService k 0x14) (.clockMonitorFail (.kilnEclk k) false) s fun u => u.ft 0xA000 0 ∧ fld (u.reg 0xA108) k 1 = 1) ∧
  LeavesBy State.hostReset (.clockMonitorFail .pcieRef false) s (fun u => u.ft 0xA000 0 ∧ fld (u.reg 0xA100) 5 1 = 0 ∧ fld (u.reg 0xA108) 29 1 = 1) ∧
  (∀ pll, LeavesBy (·.sealFault (44 + b2n pll) (s.saf.injected.contains (0xA000, b2n pll))) (.clockMonitorFail .hclk pll) s fun u =>
    u.ft 0xA000 (b2n pll) ∧ fld (u.reg 0xA100) 0 1 = 0) ∧
  (∀ (k : Fin 24) v, s.hostOpen (0xA140 + 4 * k) → Leaves (.eclkSelWrite k v) s fun t => t.reg (0xA140 + 4 * k) = v &&& 3 ∧
    (fld (s.reg (0xA1A0 + 4 * k)) 2 1 = 0 → fld (s.reg 0x8100) 2 1 = 0 → fld v 0 2 ≠ fld (s.reg (0xA1A0 + 4 * k)) 0 2 →
      fld (t.reg (0xA1A0 + 4 * k)) 2 1 = 1 ∧ tget t.kiln.stepTo k 3 = fld v 0 2)) ∧
  (∀ k : Fin 24, fld (s.reg (0xA1A0 + 4 * k)) 2 1 = 1 → Leaves (.eclkStepDone k) s fun t => t.ev 0xA000 0 ∧
    fld (t.reg (0xA1A0 + 4 * k)) 0 2 = tget s.kiln.stepTo k 3 % 4) ∧
  (∀ (q : Int) sensor, -2048 ≤ q → q < 440 → Leaves (.tempSample q sensor) s fun t =>
    sgn 12 (fld (t.reg 0x8104) 0 12) = q ∧ fld (t.reg 0x8104) 16 8 = sensor.toNat ∧
      sgn 12 (fld (t.reg 0x8108) 0 12) = max (sgn 12 (fld (s.reg 0x8108) 0 12)) q ∧
      fld (t.reg 0x8100) 2 1 = if 400 ≤ q then 1 else if q < 380 then 0 else fld (s.reg 0x8100) 2 1) ∧
  (∀ (q : Int) sensor, 440 ≤ q → q < 2048 → 440 ≤ sgn 12 (fld (s.reg 0x8104) 0 12) → Leaves (.tempSample q sensor) s fun t =>
    t.saf = s.saf ∧ sgn 12 (fld (t.reg 0x8104) 0 12) = q) ∧
  (∀ (q : Int) sensor, 440 ≤ q → q < 2048 → sgn 12 (fld (s.reg 0x8104) 0 12) < 440 → LeavesBy (·.fault 0xC000 1) (.tempSample q sensor) s fun u => fld (u.reg 0x8100) 2 1 = 1) ∧
  Leaves .tempMaxRead s (fun t => t.gave (s.reg 0x8108) ∧ t.reg 0x8108 = w32 (fld (s.reg 0x8104) 0 12))

/-- 11 R310, R311, R312: the owner of ToD steps it by a signed count of ns, with an event, loads it (a write with bit 31 set to a
time in range) and sets its rate; a rate of an agent inside the device that does not own it is dropped. PPS_OUT rises while it is on,
and falls at its pulse's end. While PPS_IN is on, an edge is captured in ToD with VALID and an event unless it follows one by less than
half a second, which changes nothing; a missing edge is an event. A read of the capture's ns gives it and clears VALID. -/
def TimeOfDayPart : Prop := ∀ (s : State) (a : Agent),
  (∀ v : Word, s.todOwner a = true → (a = .host → s.hostOpen 0x78114) → Leaves (.todStep a v) s fun t =>
    (t.dev.tod : Int) = (s.dev.tod + sreg v * 2 ^ 40) % (2 ^ 48 * 10 ^ 9 * 2 ^ 40) ∧ t.ev 0x78000 2) ∧
  (∀ v, s.todOwner a = true → (a = .host → s.hostOpen 0x78120) → Leaves (.todLoad a v) s fun t =>
    t.reg 0x78120 = v &&& 0x3FFFFFFF ∧ (bit v 31 = false → t.dev.tod = s.dev.tod) ∧
      (bit v 31 = true → fld v 0 30 < 10 ^ 9 → t.todNs = fld v 0 30 ∧
        t.todSec = (s.reg 0x78118).toNat + 2 ^ 32 * fld (s.reg 0x7811C) 0 16)) ∧
  (∀ v, s.todOwner a = true → (a = .host → s.hostOpen 0x78124) → Leaves (.rateWrite a v) s fun t => t.reg 0x78124 = v ∧ t.dev.tod = s.dev.tod) ∧
  (∀ v, s.todOwner a = false → a ≠ .host → exec (.rateWrite a v) s = .next s) ∧
  (bit (s.lv 0x78128) 0 = true → Leaves .ppsOutEdge s fun t => t.dev.ppsOut = true ∧ t.out.getLast? = some (.pps true)) ∧
  (s.dev.ppsOut = true → Leaves .ppsOutPulseEnd s fun t => t.dev.ppsOut = false ∧ t.out.getLast? = some (.pps false)) ∧
  (bit (s.lv 0x78128) 1 = true → (∀ u ∈ s.dev.ppsLast, u + 500000000 ≤ s.dev.mono) → Leaves .ppsInEdge s fun t =>
    fld (t.reg 0x7812C) 0 30 = s.todNs ∧ bit (t.reg 0x7812C) 31 = true ∧ t.reg 0x78130 = w32 s.todSec ∧ t.ev 0x78000 0 ∧
      t.dev.ppsLast = some s.dev.mono) ∧
  (∀ u, bit (s.lv 0x78128) 1 = true → s.dev.ppsLast = some u → s.dev.mono < u + 500000000 → exec .ppsInEdge s = .next s) ∧
  (bit (s.lv 0x78128) 1 = true → Leaves .ppsMiss s fun t => t.ev 0x78000 1) ∧
  Leaves .ppsInNsRead s (fun t => t.gave (s.reg 0x7812C) ∧ t.reg 0x7812C = s.reg 0x7812C &&& 0x7FFFFFFF)

/-- 14 R380, R381, R384, R397, R403, 15 R422, outside COLD: PERST_N and the loss of a link that was up leave LINK, the routes and (of
PERST_N) MSI-X Enable and the doorbells as after reset, firmware's routes standing; the loss is an event. A function-level reset empties
the routes and the MSI-X table and leaves a link that is up. PERST_N released only releases the ball. A link that trains shows
speed, width and up, a change with an event. A configuration write sets MSI-X Enable, Function Mask, Bus Master Enable and the
power state and no register or route; the identity that the function then presents has the IDs, the class code, the step as
revision and the power state. -/
def HostLinkPart : Prop := ∀ s : State,
  (s.dev.dstate ≠ .cold → Leaves .perstNAssert s fun t => t.dev.perstN = true ∧ t.pci.msixEn = false ∧ t.pci.routes = [] ∧ t.reg 0x4104 = resetOf s.dev.h48 0x4104 ∧
    t.pci.fwRoutes = s.pci.fwRoutes ∧ (∀ r : Fin 64, t.reg (0xB0108 + 0x1000 * r) = resetOf s.dev.h48 (0xB0108 + 0x1000 * r))) ∧
  Leaves .perstNRelease s (fun t => t = s.withDev { s.dev with perstN := false }) ∧
  (s.dev.dstate ≠ .cold → bit (s.reg 0x4104) 8 = true → Leaves .pcieLinkDown s fun t =>
    t.reg 0x4104 = resetOf s.dev.h48 0x4104 ∧ t.pci.routes = [] ∧ t.ev 0x4000 5) ∧
  (s.dev.dstate ≠ .cold → Leaves .functionLevelReset s fun t => t.pci.routes = [] ∧ t.pci.table = [] ∧
    (bit (s.reg 0x4104) 8 = true → t.reg 0x4104 = s.reg 0x4104)) ∧
  (∀ (speed : Fin 6) (width : Fin 5), s.dev.dstate ≠ .cold → s.dev.perstN = false → s.dev.lhOnly = false →
    Leaves (.pcieLinkUp speed width) s fun t => fld (t.reg 0x4104) 0 3 = speed ∧ fld (t.reg 0x4104) 3 3 = width ∧ bit (t.reg 0x4104) 8 = true ∧
      (s.reg 0x4104 ≠ t.reg 0x4104 → t.ev 0x4000 5)) ∧
  (∀ en mask master d3, Leaves (.pcieConfigWrite en mask master d3) s fun t => t.pci.msixEn = en ∧ t.pci.fnMask = mask ∧
    t.pci.busMaster = master ∧ t.pci.d3hot = d3 ∧ t.pci.routes = s.pci.routes ∧ t.regs = s.regs ∧
    ∀ i ∈ t.configIdentity, i.vendor = 0x1F4B ∧ i.device = 0x3200 ∧ i.classCode = 0x108000 ∧ i.headerType = 0 ∧
      i.revision = fld (s.reg 0x100) 16 8 ∧ i.d3hot = d3)

/-- The unit is in its reset, one more than before (15 R425). -/
def UnitTaken (s t : State) (type i : Nat) : Prop :=
  (256 * type + i ∈ t.dev.units) ∧ t.dev.units.length = s.dev.units.length + 1

/-- 15 R425, R426, 13 R352: where UNIT_RESET may be written, outside COLD, with no Ember reset and the unit not yet resetting: an
engine's reset ends its contexts with 0x12 and clears it, a kiln's takes it out of service and clears its engines, each shown in
progress; a kiln whose island is off refuses, with an event. A lane unit's reset empties its key cache and clears FAILED; a port
group's takes its ports down and clears their first counter; a pair's takes it out of service, HC1's dropping the exchanges; the host
interface's empties the routes. The host interface's, done, shows so with an event and its count. A pair whose halves
disagree for the first time leaves service with HC's fault; a pair that comes back runs from cleared registers, with its recoveries
counted, then the event, the kilns that waited for it and the exchanges due. A kiln stays in its reset while a pair is out. -/
def UnitResetsPart : Prop := ∀ s : State,
  (∀ (n : Fin 192), s.hostOpen 0xB104 → s.dev.dstate ≠ .cold → s.dev.ember = none → s.islOff (193 + n / 8) = false →
    256 + n.val ∉ s.dev.units → LeavesBy (·.clearEngine n) (.unitResetEngine n) s fun u => ∃ v, u = v.endAll n 0x12 ∧ UnitTaken s v 1 n ∧
      v.reg 0xB108 = w32 (1 + 256 * n.val + 0x20000)) ∧
  (∀ (k : Fin 24), s.hostOpen 0xB104 → s.dev.dstate ≠ .cold → s.dev.ember = none → s.islOff (193 + k) = false →
    512 + k.val ∉ s.dev.units → LeavesBy (·.clearKiln k) (.unitResetKiln k) s fun u => ∃ v, u = (List.range 8).foldl (fun s e => s.clearEngine (8 * k + e)) (v.leaveService k 0x14) ∧
      UnitTaken s v 2 k ∧ v.reg 0xB108 = w32 (2 + 256 * k.val + 0x20000)) ∧
  (∀ (k : Fin 24), s.hostOpen 0xB104 → s.dev.dstate ≠ .cold → s.islOff (193 + k) = true →
    Leaves (.unitResetKiln k) s fun t => t.reg 0xB108 = w32 (2 + 256 * k.val + 0x10000) ∧ t.ev 0xB000 2) ∧
  (∀ (n : Fin 9), s.hostOpen 0xB104 → s.dev.dstate ≠ .cold → s.dev.ember = none → 768 + n.val ∉ s.dev.units →
    Leaves (.unitResetEncryptLane n) s fun t => (t.laneU 0 n).resetting = true ∧ (t.laneU 0 n).loaded = false ∧ fld (t.reg (0x30100 + 0x1000 * n)) 4 1 = 0) ∧
  (∀ (n : Fin 9), s.hostOpen 0xB104 → s.dev.dstate ≠ .cold → s.dev.ember = none → 1024 + n.val ∉ s.dev.units →
    Leaves (.unitResetDecryptLane n) s fun t => (t.laneU 1 n).resetting = true ∧ (t.laneU 1 n).loaded = false ∧ fld (t.reg (0x44100 + 0x1000 * n)) 4 1 = 0) ∧
  (∀ (g : Fin 8), s.hostOpen 0xB104 → s.dev.dstate ≠ .cold → s.dev.ember = none → 1280 + g.val ∉ s.dev.units →
    Leaves (.unitResetHomeGroup g) s fun t => ∀ i : Fin 4, (t.port false (4 * g + i)).step = 0 ∧ t.cnt64 (pcOff false (4 * g + i) 0) = 0) ∧
  (∀ (g : Fin 8), s.hostOpen 0xB104 → s.dev.dstate ≠ .cold → s.dev.ember = none → 1536 + g.val ∉ s.dev.units →
    Leaves (.unitResetStraitGroup g) s fun t => ∀ i : Fin 4, (t.port true (4 * g + i)).step = 0 ∧ t.cnt64 (pcOff true (4 * g + i) 0) = 0) ∧
  (∀ (h : Fin 2), s.hostOpen 0xB104 → s.dev.dstate ≠ .cold → s.dev.ember = none → 1792 + h.val ∉ s.dev.units →
    Leaves (.unitResetHarbourPair h) s fun t => t.hcUp h = false ∧ 1792 + h.val ∈ t.dev.units ∧ (h.val = 1 → t.vault.xchs = [])) ∧
  (s.hostOpen 0xB104 → s.dev.dstate ≠ .cold → s.dev.ember = none → 2048 ∉ s.dev.units →
    Leaves .unitResetHostInterface s fun t => t.pci.routes = [] ∧ 2048 ∈ t.dev.units ∧ t.reg 0xB108 = w32 (8 + 0x20000)) ∧
  (2048 ∈ s.dev.units → Leaves (.unitResetDone .hostIf) s fun t => 2048 ∉ t.dev.units ∧ t.reg 0xB108 = 8 ∧ t.ev 0xB000 1 ∧
    ((s.reg 0xB118).toNat + 1 < 2 ^ 32 → t.reg 0xB118 = s.reg 0xB118 + 1)) ∧
  (∀ h : Fin 2, s.dev.dstate ≠ .cold → s.hcUp h = true → (s.hc h).lockFaults = [] → Leaves (.lockstepMismatch h) s fun t =>
    t.hcUp h = false ∧ t.ft 0x90000 h ∧ (t.hc h).lockFaults = [s.dev.mono]) ∧
  (∀ h : Fin 2, s.hcUp h = false → s.boot.inSvc = [] → LeavesBy (fun u => (u.raise 0x90000 2).kilnsBack.keyScanAll) (.pairBack h) s fun u =>
    u.hcUp h = true ∧ (u.hc h).recoveries = (s.hc h).recoveries + 1 ∧ (u.hc h).regs = Regs.zero ∧ fld (u.csr h 11) 0 1 = 1) ∧
  (∀ k : Fin 24, s.mayReload = false → exec (.unitResetDone (.kiln k)) s = .next s)

/-- The device is in BOOT, STAGED or PROTECTED. -/
def Running (s : State) : Prop := s.dev.dstate = .boot ∨ s.dev.dstate = .staged ∨ s.dev.dstate = .protect

/-- 16 R433 to R437, 17 R443: the code in SEAL_CMD seals (seal_ with kind 3), another value does nothing. An entry of a running device
ends in SEALED with SEAL_N low. A cause that comes while SEALED goes into SEAL_FIRST where that is empty, and leaves it where it is not; SEAL_CUR
it takes over in the LCLK cycle of the entry alone, and where it ranks higher (both but for an injection that meets the genuine fault).
The end of the last cause empties the causes, with the event, and changes no state of the device. With nothing injected, a passed
collector self-test is counted; one whose inputs pass and a drive does not keeps what it found and is then SAF's fault 4. -/
def SealedStatePart : Prop := ∀ s : State,
  (s.hostOpen 0xC104 → exec (.sealCmd 0x5345414C) s = .next (s.seal_ 3 0 false)) ∧
  (∀ v, s.hostOpen 0xC104 → v ≠ 0x5345414C → exec (.sealCmd v) s = .next s) ∧
  (∀ kind detail inj, Running s → (s.seal_ kind detail inj).dev.dstate = .sealed ∧ (s.seal_ kind detail inj).sealN = true) ∧
  (∀ kind detail inj, s.dev.dstate = .sealed → s.causeMet kind detail inj = false → bit (s.reg 0xC110) 15 = false → (s.seal_ kind detail inj).reg 0xC110 = sealReason kind detail inj) ∧
  (∀ kind detail inj, s.dev.dstate = .sealed → s.causeMet kind detail inj = false → bit (s.reg 0xC110) 15 = true → (s.seal_ kind detail inj).reg 0xC110 = s.reg 0xC110) ∧
  (∀ kind detail inj n d, s.dev.dstate = .sealed → s.causeMet kind detail inj = false → s.saf.entry = some (n, d) →
    (s.seal_ kind detail inj).reg 0xC108 = if n = s.lclk ∧ sealRank kind detail < reasonRank (s.reg 0xC108) then sealReason kind detail inj
      else s.reg 0xC108) ∧
  (s.saf.active ≠ [] → Leaves .causeClear s fun t => t.saf.active = [] ∧ t.ev 0xC000 4 ∧ t.dev = s.dev) ∧
  (s.saf.injected = [] → Leaves (.collectorSelftest true true true) s fun t => t.saf.collectorOk = true ∧ t.reg 0xC11C = s.reg 0xC11C + 1) ∧
  (∀ a b, s.saf.injected = [] → a = false ∨ b = false → LeavesBy (·.fault 0xC000 4) (.collectorSelftest true a b) s fun u =>
    u.saf.collectorOk = true ∧ u.saf.driveA = a ∧ u.saf.driveB = b ∧ u.regs = s.regs)

/-- 06 R180, 06 R182, 16 R431, R432, 17 R459, R460: ZEROIZE_N in COLD only shows on its ball; in every other state it leaves the
device ZEROIZED, SEAL_N low, with the identity key, anchors, PRKs, chain keys, import key and every key slot erased, and then the
ports' XOFF settled. A trip outside COLD sets SAF's fault bit 2 and zeroizes with reason 2 where policy bit 2 says so, else it
seals with kind 4 and the sensor, the cause 62 active. A tamper channel that reads what it drove has no mismatch; a first
mismatch counts one and does no more; a second in a row starts its count again and is the trip of its channel. The end of
zeroization clears it, sets ZDONE and shows its reason, with VLT's event 3; stores that did not read back as zero are VLT's
fault 1. -/
def TamperAndZeroizePart : Prop := ∀ s : State,
  (s.dev.dstate = .cold → Leaves .zeroizeNAssert s fun t => t = s.withDev { s.dev with zeroBall := true }) ∧
  (s.dev.dstate ≠ .cold → LeavesBy State.xoffAll .zeroizeNAssert s fun u => u.dev.dstate = .zeroized ∧ u.sealN = true ∧ u.vault.idk = [] ∧ u.vault.anchors = [] ∧
    u.vault.prks = [] ∧ u.vault.chains = [] ∧ u.vault.imkPriv = [] ∧ u.slots = [] ∧ u.portSlots = []) ∧
  (∀ sensor : Fin 7, s.dev.dstate ≠ .cold → s.vault.policy.getLsbD 2 = true → LeavesBy (·.zeroize_ 2 false) (.tamperTrip sensor) s fun u => u.ft 0xC000 2) ∧
  (∀ sensor : Fin 7, s.dev.dstate ≠ .cold → s.vault.policy.getLsbD 2 = false → LeavesBy (·.seal_ 4 sensor false) (.tamperTrip sensor) s fun u =>
    u.ft 0xC000 2 ∧ 62 ∈ u.saf.active) ∧
  (∀ (n : Fin 4) sns, s.dev.tampDriven.length = 4 → s.dev.tampRun.length = 4 → s.dev.tampDriven.getD n false = sns → Leaves (.tamperCheck n sns) s fun t =>
    t.dev.tampRun.getD n 9 = 0 ∧ t.dev.dstate = s.dev.dstate ∧ t.saf = s.saf) ∧
  (∀ (n : Fin 4) sns, s.dev.tampRun.length = 4 → s.dev.tampDriven.getD n false ≠ sns → s.dev.tampRun.getD n 9 = 0 → Leaves (.tamperCheck n sns) s fun t =>
    t.dev.tampRun.getD n 9 = 1 ∧ t.dev.dstate = s.dev.dstate ∧ t.saf = s.saf) ∧
  (∀ (n : Fin 4) sns, s.dev.tampRun.length = 4 → s.dev.tampDriven.getD n false ≠ sns → s.dev.tampRun.getD n 9 = 1 →
    LeavesBy (·.tamper n false) (.tamperCheck n sns) s fun u => u.dev.tampRun.getD n 9 = 0) ∧
  (∀ r ok, s.dev.zeroing = some r → Leaves (.zeroizeComplete ok) s fun t => t.dev.zeroing = none ∧ fld (t.reg 0x80100) 2 1 = 1 ∧
    fld (t.reg 0x80100) 8 8 = r % 256 ∧ t.ev 0x80000 3 ∧ (ok = false → t.ft 0x80000 1))

/-- 16 R430, R431, R440, 03 R72, outside COLD: a fault that is not SEAL-class sets its bit and changes no state of the device; one of
a running device that is SEAL-class seals it. A fault line of CFG, LHS, PWR, RST and BOOT is that fault; lines 0 and 1 of an encrypt unit and
0 of a decrypt unit fault and squelch the unit, line 1 counting ECHO_CNT; an engine's line 0 also halts the engine, a
kiln's line 2 takes the kiln out of service. The code in PROOF_ARM arms injection, and its expiry disarms it. An armed injection of
QMG's fault 0 waits for the next word; unarmed it is refused, with SAF's event 3 and a count. -/
def FaultLinesPart : Prop := ∀ s : State, s.dev.dstate ≠ .cold →
  (∀ pb b n, evNum pb b = some n → ftClass n ≠ 2 → b < 32 → pb < 0xB0000 ∨ 0x100000 ≤ pb → (s.fault pb b).ft pb b ∧ (s.fault pb b).dev = s.dev) ∧
  (∀ pb b n, evNum pb b = some n → ftClass n = 2 → Running s → (s.fault pb b).dev.dstate = .sealed) ∧
  (∀ (p : Page) (b : Fin 6) chans, (p, b) ∈ [(.cfg, 0), (.lhs, 0), (.lhs, 1), (.pwr, 0), (.rst, 0), (.boot, 0)] →
    exec (.faultLineAssert p b chans) s = .next (s.fault (pageOff p) b)) ∧
  (∀ (n : Fin 9) (b : Fin 2), exec (.faultLineAssert (.cphE n) (b.castLE (by decide)) []) s =
    .next ((if b.val = 1 then (s.fault (0x30000 + 0x1000 * n) b).bump (0x30118 + 0x1000 * n) else s.fault (0x30000 + 0x1000 * n) b).squelch 0 n true)) ∧
  (∀ (n : Fin 9) (b : Fin 2), b.val = 0 → exec (.faultLineAssert (.cphD n) (b.castLE (by decide)) []) s = .next ((s.fault (0x44000 + 0x1000 * n) b).squelch 1 n true)) ∧
  (∀ n : Fin 192, exec (.faultLineAssert (.eng n) 0 []) s = .next ((s.fault (pEng n) 0).haltEngine n)) ∧
  (∀ k : Fin 24, exec (.faultLineAssert (.kln k) 2 []) s = .next ((s.fault (pKln k) 2).leaveService k 0x14)) ∧
  (∀ v, s.hostOpen 0xC118 → Leaves (.proofArm v) s fun t => t.saf.proofArmed = (s.saf.proofArmed || v == 0x50524F46) ∧ t.saf.active = s.saf.active ∧ t.regs = s.regs) ∧
  Leaves .proofArmExpiry s (fun t => t.saf.proofArmed = false ∧ t.saf.injected = s.saf.injected ∧ t.regs = s.regs) ∧
  (s.hostOpen 0x5002C → s.saf.proofArmed = true → Leaves (.faultInj .qmg 1) s fun t => (0x50000, 0) ∈ t.saf.injected ∧ t.regs = s.regs ∧ t.dev = s.dev) ∧
  (s.hostOpen 0x5002C → s.saf.proofArmed = false → Leaves (.faultInj .qmg 1) s fun t => t.saf = s.saf ∧ t.ev 0xC000 3 ∧
    ((s.reg 0xC128).toNat + 1 < 2 ^ 32 → t.reg 0xC128 = s.reg 0xC128 + 1))

/-- 05 R131 to R133, 07 R195, 09 R282, 10 R287, 15 R404, outside COLD and with nothing injected: RETIRE_CMD retires a pseudo-channel
in service of a stack that is on, with HBM's event 1. A scrub pass of an HBM stack that is on and in use adds its corrected
errors to CE_CNT, counts the pass and raises its events. A Lighthouse scrub counts corrected errors; an uncorrectable one is LHS's fault
0. An uncorrectable error is a fault 1 or 2 of an awake engine, and fault 1 of a kiln that is on, whose corrected errors are counted. A
control store's ROM error is kept against its kiln; one in patch RAM leaves a kiln without one in service while HC1 serves; a clean check changes nothing. -/
def ScrubsPart : Prop := ∀ s : State, s.dev.dstate ≠ .cold → s.saf.injected = [] →
  (∀ (h : Fin 2) v, s.hostOpen (0x60108 + 0x1000 * h) → s.hbmOn h = true → bit v 8 = true → fld (s.reg (0x60100 + 0x1000 * h)) (fld v 0 5) 1 = 0 →
    Leaves (.retireCmd h v) s fun t => fld (t.reg (0x60100 + 0x1000 * h)) (fld v 0 5) 1 = 1 ∧ t.ev (0x60000 + 0x1000 * h) 1) ∧
  (∀ (h : Fin 2) n, s.hbmOn h = true → bit (s.reg (0x60118 + 0x1000 * h)) 0 = true → (s.reg (0x6010C + 0x1000 * h)).toNat + n < 2 ^ 32 →
    Leaves (.hbmScrub h ⟨n, [], [], [], []⟩) s fun t => t.reg (0x6010C + 0x1000 * h) = s.reg (0x6010C + 0x1000 * h) + w32 n ∧
      t.reg (0x6011C + 0x1000 * h) = s.reg (0x6011C + 0x1000 * h) + 1 ∧ t.ev (0x60000 + 0x1000 * h) 2 ∧ (0 < n → t.ev (0x60000 + 0x1000 * h) 0)) ∧
  (∀ n, (s.reg 0x8110).toNat + n < 2 ^ 32 → Leaves (.lighthouseScrub (.corrected n)) s fun t => t.reg 0x8110 = s.reg 0x8110 + w32 n ∧ t.dev = s.dev) ∧
  (∀ a, exec (.lighthouseScrub (.uncorrectable a)) s = .next (s.fault 0x8000 0)) ∧
  (∀ (n : Fin 192) iram a, s.awake n = true → Leaves (.engineScrub n iram (.uncorrectable a)) s fun t => t.ft (pEng n) (if iram then 2 else 1)) ∧
  (∀ (k : Fin 24) n, s.islOff (193 + k) = false → (s.reg (0x100128 + 0x10000 * k)).toNat + n < 2 ^ 32 →
    Leaves (.shmemScrub k (.corrected n)) s fun t => t.reg (0x100128 + 0x10000 * k) = s.reg (0x100128 + 0x10000 * k) + w32 n ∧ t.dev = s.dev) ∧
  (∀ (k : Fin 24) a, s.islOff (193 + k) = false → Leaves (.shmemScrub k (.uncorrectable a)) s fun t => t.ft (pKln k) 1) ∧
  (∀ (k : Fin 24) a, s.islOff (193 + k) = false → a < 2048 → Leaves (.controlStoreCheck k (.uncorrectable a)) s fun t => k.val ∈ t.kiln.parity) ∧
  (∀ (k : Fin 24) a, s.islOff (193 + k) = false → 2048 ≤ a → k.val ∉ s.kiln.parity → s.hcUp 1 = true → Leaves (.controlStoreCheck k (.uncorrectable a)) s fun t => t.reg (0x100104 + 0x10000 * k) = 3) ∧
  (∀ k : Fin 24, exec (.controlStoreCheck k .clean) s = .next s)

/-- A command for island i may be taken: the page is open, the main supplies stand and no Ember reset runs. -/
def IslOpen (s : State) (i : Nat) : Prop := s.hostOpen 0x9100 ∧ s.dev.lhOnly = false ∧ s.dev.ember = none ∧ s.cmdIsland i = true

/-- A write of the header at BAR offset o, which LOCK does not bar, reaches its page. -/
def HeaderOpen (s : State) (o : Nat) : Prop :=
  s.hostGone = false ∧ o < 0x100000 ∧ (s.dev.h48 = true ∨ o / 0x1000 ≠ 0x61) ∧ s.islOff (islandAt o) = false

/-- A register of block page pg at offset o that the host may write in place: its row, no header, no command, no field of
firmware, and neither LOCK nor an island that is off bars it. -/
def RowOpen (s : State) (pg o : Nat) (r : Row) : Prop :=
  s.hostOpen (0x1000 * pg + o) ∧ (o % 4 = 0 ∧ 0x80 ≤ o ∧ o < 0x1000 ∧ pg < 0xA0 ∧ pg ≠ 5) ∧ (∃ q i, pageRows pg = some (q, i) ∧ findRow q o = some r) ∧
    fwField pg o = false ∧ (∀ v, s.command pg o v = none)

/-- 00 R8, R9, 02 R54, 13 R369, 14 R383, R390, R391: host accesses. A write of a plain RW register of a block page that is open stores
the bits it has, of a W1C one clears those written as 1, of an RO or RC one changes nothing; a write that is not 4 or 8 aligned bytes is
rejected, with its address, an event and a count. A staged write changes its word of the green copy alone, and is counted with an
event where no copy is open. A read gives what the register shows; of the four RC registers named it clears that one alone. A read
of a channel counter's low word gives it and latches its high word. CNT_CLEAR zeroes the counters of the channel it names, or all. -/
def RegisterAccessPart : Prop := ∀ s : State,
  (∀ pg o (r : Row) (v : Word), RowOpen s pg o r → r.acc = .rw → pg ≠ 0x90 → pg ≠ 0x78 →
    Leaves (.registerWrite (w32 (0x1000 * pg + o)) 4 (v.setWidth 64)) s fun t => t = s.setReg (0x1000 * pg + o) (v &&& r.mask)) ∧
  (∀ pg o (r : Row) (v : Word), RowOpen s pg o r → r.acc = .w1c →
    Leaves (.registerWrite (w32 (0x1000 * pg + o)) 4 (v.setWidth 64)) s fun t =>
      t = s.setReg (0x1000 * pg + o) (s.reg (0x1000 * pg + o) &&& ~~~(v &&& r.mask))) ∧
  (∀ pg o (r : Row) (v : Word), RowOpen s pg o r → r.acc = .ro ∨ r.acc = .rc →
    exec (.registerWrite (w32 (0x1000 * pg + o)) 4 (v.setWidth 64)) s = .next s) ∧
  (∀ (off : Word) size v, s.hostGone = false → off.toNat < 0x4000000 → ¬(size = 4 ∧ off.toNat % 4 = 0) → ¬(size = 8 ∧ off.toNat % 8 = 0) →
    Leaves (.registerWrite off size v) s fun t => t.reg 0x410C = off ∧ t.ev 0x4000 0 ∧ t.gen = s.gen ∧
      ((s.reg 0x4108).toNat + 1 < 2 ^ 32 → t.reg 0x4108 = s.reg 0x4108 + 1)) ∧
  (∀ (off v : Word) m, s.hostGone = false → off.toNat < 0x4000000 → 0x1000000 ≤ off.toNat → off.toNat % 4 = 0 → stagedMask off.toNat = some m → s.gen.phase = 1 →
    Leaves (.stagedWrite off v) s fun t => t.gv off.toNat = v &&& m ∧ t.gen.live = s.gen.live ∧ t.regs = s.regs ∧
      ∀ o, o ≠ off.toNat → t.gv o = s.gv o) ∧
  (∀ (off v : Word) m, s.hostGone = false → off.toNat < 0x4000000 → 0x1000000 ≤ off.toNat → off.toNat % 4 = 0 → stagedMask off.toNat = some m → s.gen.phase ≠ 1 →
    Leaves (.stagedWrite off v) s fun t => t.gen = s.gen ∧ t.ev 0x1000 3 ∧ ((s.reg 0x1120).toNat + 1 < 2 ^ 32 → t.reg 0x1120 = s.reg 0x1120 + 1)) ∧
  (∀ off : Word, s.hostGone = false → off.toNat < 0x4000000 → off.toNat % 4 = 0 → Leaves (.rcRead off) s fun t => t.gave (s.peek off.toNat)) ∧
  (∀ off : Word, s.hostGone = false → off ∈ [0x8110#32, 0x9114#32, 0x9118#32, 0x911C#32] → Leaves (.rcRead off) s fun t => t.gave (s.reg off.toNat) ∧ t.reg off.toNat = 0 ∧
    ∀ o, o ≠ off.toNat → t.reg o = s.reg o) ∧
  (∀ (c n : Nat) , s.hostGone = false → s.islOff 251 = false → c < 8192 → n < 16 → Leaves (.counterLowRead (w32 (ccOff c n))) s fun t =>
    t.gave (w32 (s.cnt64 (ccOff c n))) ∧ tget t.latch (ccOff c n + 4) 0 = w32 (s.cnt64 (ccOff c n) / 2 ^ 32) ∧ t.cnt = s.cnt) ∧
  (∀ (v : Word) (c n : Nat), s.hostOpen 0x20128 → c < 8192 → n < 16 → Leaves (.cntClear v) s fun t =>
    t.cnt64 (ccOff c n) = if bit v 31 = true ∨ fld v 0 13 = c then 0 else s.cnt64 (ccOff c n))

/-- 17 R457, 13 R364, 06 R169, 07 R218: the TAP. EXTEST drives the balls while RESET_N is asserted, and not otherwise; SAMPLE only
releases them. While debug is open, an engine that runs no sealed context is halted and, halted, steps; a harbour core is halted where
it stands; a byte outside every sealed context reads as memory has it and is written alone. A write while debug is closed, or to a
sealed context's D-RAM, changes no memory. ENG.CTRL halts an engine with an event and lets it go on with the next context. -/
def DebugPart : Prop := ∀ s : State,
  (∀ l, Leaves (.tapInstruction (.extest l)) s fun t => t.dev.extest = if s.dev.resetN then some l else none) ∧
  Leaves (.tapInstruction .sample) s (fun t => t = s.withDev { s.dev with extest := none }) ∧
  (∀ n : Fin 192, s.debugOpen = true → s.sealedRun n = false → s.islOff (193 + n.val / 8) = false → Leaves (.tapInstruction (.haltEngine n)) s fun t => fld (t.reg (pEng n + 0x104)) 0 1 = 1) ∧
  (∀ n : Fin 192, s.debugOpen = true → s.sealedRun n = false → s.engHalted n = true → Leaves (.tapInstruction (.stepEngine n)) s fun t => (t.eng n).step = true ∧ t.regs = s.regs) ∧
  (∀ h : Fin 2, s.debugOpen = true → Leaves (.tapInstruction (.haltHarbour h)) s fun t => (t.hc h).halted = true ∧ (t.hc h).pc = (s.hc h).pc) ∧
  (∀ a, s.debugOpen = true → s.sealedCell a = false → Leaves (.tapInstruction (.memRead a)) s fun t => t.out.getLast? = some (.read ((memRead s.mem a).setWidth 64)) ∧ t.mem = s.mem) ∧
  (∀ a v, s.debugOpen = true → s.sealedCell a = false → Memory.wf s.mem = true → Leaves (.tapInstruction (.memWrite a v)) s fun t => memRead t.mem a = v ∧
    ∀ b, b ≠ a → memRead t.mem b = memRead s.mem b) ∧
  (∀ a v, s.debugOpen = false ∨ s.sealedCell a = true → Leaves (.tapInstruction (.memWrite a v)) s fun t => t.mem = s.mem) ∧
  (∀ (n : Fin 192) v, s.barred (pEng n + 0x104) = none → fld (s.reg (pEng n + 0x104)) 0 1 = 0 → bit v 0 = true → Leaves (.halt n v) s fun t =>
    fld (t.reg (pEng n + 0x104)) 0 1 = 1 ∧ t.ev (pEng n) 2) ∧
  (∀ (n : Fin 192) v, s.barred (pEng n + 0x104) = none → fld (s.reg (pEng n + 0x104)) 0 1 = 1 → bit v 0 = false →
    LeavesBy (·.runNext n) (.halt n v) s fun u => u = s.release n)

/-- Home port p takes frames: it is up, in an Ethernet mode, and no frame is arriving on it. -/
def HomeOpen (s : State) (p : Fin 32) : Prop :=
  s.portUp false p = true ∧ modeOtn (s.mode false (p / 4)) = false ∧ s.dev.lhOnly = false ∧ s.dev.ember = none ∧ (s.port false p).arr = none

/-- 12 R335 to R337, 02 R48 to R51, R55, 05 R137, R138: a frame that ends on a home port that is up, in an Ethernet mode and idle. A runt
is counted and no more. A good PAUSE frame is counted and pauses the port, or, with quanta 0, ends its pause, where it honours PAUSE. A
good frame that PTP does not trap, outside a switch, is counted with its bytes and arrives for the channel that
classification names; one classified to be dropped, within MAX_LEN, is counted in its channel. A pause expires of the port or of one
priority alone. While a port is in XOFF by PAUSE alone a repeat sends PAUSE with the quanta and counts it; by PFC it sends the
priorities in XOFF with the quanta. A source that ages leaves the channel's mask, and then the ports' XOFF is settled. -/
def HomeIngressPart : Prop := ∀ (s : State) (p : Fin 32),
  (∀ h, HomeOpen s p → lenOf h.bytes < 64 → Leaves (.homeIngressFrame p h) s fun t =>
    t.cnt64 (pcOff false p 3) = (s.cnt64 (pcOff false p 3) + 1) % 2 ^ 64 ∧ t.ports = s.ports ∧ t.chans = s.chans) ∧
  (∀ h, HomeOpen s p → 64 ≤ lenOf h.bytes → lenOf h.bytes ≤ 10240 → h.fcsOk = true → beNat (cut h.bytes 12 2) = 0x8808 →
    beNat (cut h.bytes 14 2) = 1 → fld (s.pcfg false false p) 0 2 = 1 → s.gen.phase ≠ 3 → Leaves (.homeIngressFrame p h) s fun t =>
      t.cnt64 (pcOff false p 5) = (s.cnt64 (pcOff false p 5) + 1) % 2 ^ 64 ∧ (t.port false p).paused = (beNat (cut h.bytes 16 2) != 0) ∧ t.chans = s.chans) ∧
  (∀ h c miss, HomeOpen s p → 64 ≤ lenOf h.bytes → lenOf h.bytes ≤ 10240 → h.fcsOk = true → beNat (cut h.bytes 12 2) ≠ 0x8808 →
    s.gen.phase ≠ 3 → bit (s.pcfg false false p) 4 = false → s.classify false p h.bytes = (1, c, miss) → Leaves (.homeIngressFrame p h) s fun t =>
      t.cnt64 (pcOff false p 0) = (s.cnt64 (pcOff false p 0) + 1) % 2 ^ 64 ∧
        t.cnt64 (pcOff false p 1) = (s.cnt64 (pcOff false p 1) + lenOf h.bytes) % 2 ^ 64 ∧
          (t.port false p).arr = some { bytes := s.tcIn false p h.bytes, fcsOk := true, chan := c } ∧ t.chans = s.chans) ∧
  (∀ h c miss, HomeOpen s p → 64 ≤ lenOf h.bytes → lenOf h.bytes ≤ 10240 → h.fcsOk = true → beNat (cut h.bytes 12 2) ≠ 0x8808 →
    s.gen.phase ≠ 3 → bit (s.pcfg false false p) 4 = false → s.classify false p h.bytes = (0, c, miss) → lenOf h.bytes ≤ s.maxLen false c → c < 8192 →
      Leaves (.homeIngressFrame p h) s fun t => t.cnt64 (ccOff c 4) = (s.cnt64 (ccOff c 4) + 1) % 2 ^ 64 ∧ (t.port false p).arr = none) ∧
  Leaves (.pauseExpiry p none) s (fun t => (t.port false p).paused = false ∧ (t.port false p).pfcPaused = (s.port false p).pfcPaused) ∧
  (∀ i : Fin 8, Leaves (.pauseExpiry p (some i)) s fun t => nbit (t.port false p).pfcPaused i = false ∧ (t.port false p).paused = (s.port false p).paused) ∧
  ((s.port false p).xoffPause = true → (s.port false p).xoffPfc = 0 → s.portUp false p = true → Leaves (.pauseRepeat p) s fun t =>
    t.out.getLast? = some (.pause p false 0 [fld (s.lv 0x50114) 0 16]) ∧ t.cnt64 (pcOff false p 10) = (s.cnt64 (pcOff false p 10) + 1) % 2 ^ 64) ∧
  ((s.port false p).xoffPfc ≠ 0 → (s.port false p).xoffPfc < 256 → s.portUp false p = true → Leaves (.pauseRepeat p) s fun t =>
    t.out.getLast? = some (.pause p true (s.port false p).xoffPfc (pfcTimes (s.port false p).xoffPfc (fld (s.lv 0x50114) 0 16)))) ∧
  (∀ c : Fin 8192, LeavesBy State.xoffAll (.srcMaskAge c p) s fun u => nbit (u.chan c).srcMask p = false ∧ (u.chan c).q = (s.chan c).q)

/-- The port stands in the live generation and its island is on. -/
def PortOn (s : State) (b : Bool) (p : Fin 32) : Prop := s.portExists b p = true ∧ s.pst (217 + 8 * b2n b + p / 4) = 1

/-- 12 R331, R343, R344, R349: bring-up of a port that stands in the live generation with its island on. Step 0 passes to 1, step 1 to 2, 3 or 4
by the auto-negotiation and link-training bits, a failed 2 goes back to 1 with its flag and an event, 3 goes on to 4 or back to 1 with
its flag, 4 passes to 5 and, out of time, back to 1; 5 comes up as 6 with an event; with wrong PIDs neither goes on. A home link lost goes back to 1, unpaused, counted
and with its event, then the arriving frame is cut; a strait link lost the same way, then its path is checked. PCLR zeroes the first 18
counters of the ports that it names, and no other port's of the group. -/
def PortLinksPart : Prop := ∀ (s : State) (side : Side) (p : Fin 32),
  (PortOn s (sideB side) p → (s.port (sideB side) p).step = 0 → Leaves (.linkBringupStep side p true) s fun t => (t.port (sideB side) p).step = 1) ∧
  (PortOn s (sideB side) p → (s.port (sideB side) p).step = 1 → Leaves (.linkBringupStep side p true) s fun t => (t.port (sideB side) p).step =
    if bit (s.lv (pPort (sideB side) (p / 4) + 0x100)) 5 then 2 else if bit (s.lv (pPort (sideB side) (p / 4) + 0x100)) 6 then 3 else 4) ∧
  (PortOn s (sideB side) p → (s.port (sideB side) p).step = 2 → Leaves (.linkBringupStep side p false) s fun t =>
    (t.port (sideB side) p).step = 1 ∧ (t.port (sideB side) p).anFail = true ∧ t.ev (pPort (sideB side) (p / 4)) 2) ∧
  (∀ ok, PortOn s (sideB side) p → (s.port (sideB side) p).step = 3 → Leaves (.linkBringupStep side p ok) s fun t =>
    (t.port (sideB side) p).step = (if ok then 4 else 1) ∧ (t.port (sideB side) p).ltFail = !ok) ∧
  (PortOn s (sideB side) p → (s.port (sideB side) p).step = 4 → s.pidBad (sideB side) (p / 4) = false → Leaves (.linkBringupStep side p true) s fun t => (t.port (sideB side) p).step = 5) ∧
  ((s.port (sideB side) p).step = 4 ∨ (s.port (sideB side) p).step = 5 → s.pidBad (sideB side) (p / 4) = true →
    exec (.linkBringupStep side p true) s = .next s ∧ exec (.linkUp side p) s = .next s) ∧
  ((s.port (sideB side) p).step = 4 → Leaves (.alignmentTimeout side p) s fun t => (t.port (sideB side) p).step = 1) ∧
  ((s.port (sideB side) p).step = 5 → s.portExists (sideB side) p = true → s.pidBad (sideB side) (p / 4) = false → Leaves (.linkUp side p) s fun t =>
    (t.port (sideB side) p).step = 6 ∧ t.ev (pPort (sideB side) (p / 4)) 0) ∧
  ((s.port false p).step = 6 → LeavesBy (·.cutArrival p) (.linkDown .home p) s fun u => (u.port false p).step = 1 ∧
    (u.port false p).paused = false ∧ u.cnt64 (pcOff false p 16) = (s.cnt64 (pcOff false p 16) + 1) % 2 ^ 64 ∧ u.ev (pHpt (p / 4)) 1) ∧
  ((s.port true p).step = 6 → LeavesBy (fun u => (u.pathCheck (p / 4)).startKeying (s.home_ (p / 4))) (.linkDown .strait p) s fun u =>
    (u.port true p).step = 1 ∧ u.cnt64 (pcOff true p 16) = (s.cnt64 (pcOff true p 16) + 1) % 2 ^ 64 ∧ u.ev (pSpt (p / 4)) 1) ∧
  (∀ (g : Fin 8) (i : Fin 4) v n, s.hostOpen (pPort (sideB side) g + 0x10C) → n < 18 → Leaves (.portCntClear side g v) s fun t =>
    t.cnt64 (pcOff (sideB side) (4 * g + i) n) = if bit v i then 0 else s.cnt64 (pcOff (sideB side) (4 * g + i) n))

/-- A source of an OTN group is lost for the frame's defects that send ODU-AIS. -/
def OtnLost (d : Word) : Prop := d &&& 0x17 ≠ 0

/-- 12 R341, R346 to R348: OTN sources and PTP. Defects of an OTN group that send no ODU-AIS show in its register with an event and change no
port; one that does shows and marks the source lost, until it returns and the register clears. A two-step PTP message of HC0 that may
leave is sent, and its FIFO takes its fields and the ToD, with an event; a FIFO of 16 stays and shows the overflow. A pop drops the
oldest entry and the overflow mark, and gives the high word of the latched stamp. -/
def OtnAndPtpPart : Prop := ∀ s : State,
  (∀ side (g : Fin 8) d, modeOtn (s.mode (sideB side) g) = true → d &&& 0x17 = 0 → Leaves (.otnSourceLost side g d) s fun t =>
    t.reg (pPort (sideB side) g + 0x180) = d &&& 0x1F3F ∧ t.ev (pPort (sideB side) g) 4 ∧ t.ports = s.ports) ∧
  (∀ side (g : Fin 8) d, modeOtn (s.mode (sideB side) g) = true → OtnLost d → Leaves (.otnSourceLost side g d) s fun t =>
    t.reg (pPort (sideB side) g + 0x180) = d &&& 0x1F3F ∧ (t.port (sideB side) (4 * g)).srcLost = true) ∧
  (∀ side (g : Fin 8), (s.port (sideB side) (4 * g)).srcLost = true → Leaves (.otnSourceReturn side g) s fun t =>
    t.reg (pPort (sideB side) g + 0x180) = 0 ∧ (t.port (sideB side) (4 * g)).srcLost = false) ∧
  (∀ side (p : Fin 32) m, s.portUp (sideB side) p = true → s.txOpen = true → s.hcUp 0 = true → modeOtn (s.mode (sideB side) (p / 4)) = false → m.oneStep = false →
    (s.port (sideB side) p).tsf.length < 16 → Leaves (.ptpTxTimestamp side p m) s fun t =>
      (t.port (sideB side) p).tsf = (s.port (sideB side) p).tsf ++ [{ seqId := m.seqId.toNat, msgType := m.msgType.toNat, domain := m.domain.toNat, tod := s.dev.tod }] ∧
        .frame (sideB side) p m.bytes false ∈ t.out ∧ t.ev (pPort (sideB side) (p / 4)) 3) ∧
  (∀ side (p : Fin 32) m, s.portUp (sideB side) p = true → s.txOpen = true → s.hcUp 0 = true → modeOtn (s.mode (sideB side) (p / 4)) = false → m.oneStep = false →
    (s.port (sideB side) p).tsf.length = 16 → Leaves (.ptpTxTimestamp side p m) s fun t =>
      (t.port (sideB side) p).tsf = (s.port (sideB side) p).tsf ∧ (t.port (sideB side) p).tsfOver = true ∧ t.out.getLast? = some (.frame (sideB side) p m.bytes false)) ∧
  (∀ side (p : Fin 32) m, s.hcUp 0 = false → exec (.ptpTxTimestamp side p m) s = .next s) ∧
  (∀ side (p : Fin 32), Leaves (.tsfPop side p) s fun t => (t.port (sideB side) p).tsf = (s.port (sideB side) p).tsf.drop 1 ∧
    (t.port (sideB side) p).tsfOver = false ∧ t.gave (stampWords (s.port (sideB side) p).tsfLatch).2.2)

/-- Cells that an arriving frame of a channel reserves (05 R119). -/
def reservation (s : State) (c : Nat) : Nat := cdiv (s.maxLen false c + 60) 256

/-- 05 R119 to R121, R134, 02 R55: a frame of the live generation that arrives on a home port. Admission refuses it for the state of a
channel neither ACTIVE nor HELD; of an ACTIVE Assured channel that does not drain, outside SEALED, it refuses it for space where the
share lacks the cells of the channel's longest frame, and else, where the pool has them, reserves them, and then settles the
watermarks. At its end a good frame that was admitted joins the queue of its ACTIVE channel, counted with its bytes, its reservation
given back; one refused for the state, or beyond MAX_LEN, is counted so and does not join; one with a bad FCS joins and counts
nowhere in its channel; these end a cut-through begun. -/
def AdmissionPart : Prop := ∀ (s : State) (p : Fin 32) (a : Arriving), (s.port false p).arr = some a → a.newGen = false →
  (a.decided = false → (s.chan a.chan).st ≠ .active → (s.chan a.chan).st ≠ .held → Leaves (.admissionDecision p) s fun t =>
    (t.port false p).arr = some { a with decided := true, refused := 2 } ∧ t.chans = s.chans) ∧
  (a.decided = false → s.isSealed = false → (s.chan a.chan).st = .active → bit (s.txw false a.chan 0) 16 = false →
    fld (s.txw false a.chan 0) 1 2 = 0 → fld (s.txw false a.chan 0) 3 2 = 0 →
    4096 * fld (s.txw false a.chan 2) 0 16 < (s.chan a.chan).occ + reservation s a.chan → Leaves (.admissionDecision p) s fun t =>
      (t.port false p).arr = some { a with decided := true, refused := 3 } ∧ t.chans = s.chans) ∧
  (a.decided = false → s.isSealed = false → (s.chan a.chan).st = .active → bit (s.txw false a.chan 0) 16 = false →
    fld (s.txw false a.chan 0) 1 2 = 0 → fld (s.txw false a.chan 0) 3 2 = 0 →
    (s.chan a.chan).occ + reservation s a.chan ≤ 4096 * fld (s.txw false a.chan 2) 0 16 → s.poolOcc + reservation s a.chan ≤ s.poolOf false →
      LeavesBy (·.settle a.chan) (.admissionDecision p) s fun u => (u.chan a.chan).resv = (s.chan a.chan).resv + reservation s a.chan ∧
        ∃ on, (u.port false p).arr = some { a with decided := true, resv := reservation s a.chan, onChip := on }) ∧
  (a.decided = true → a.fcsOk = true → lenOf a.bytes ≤ s.maxLen false a.chan → a.refused = 0 → s.isSealed = false → (s.chan a.chan).st = .active →
    bit (s.txw false a.chan 0) 16 = false → a.cutPn = none → a.chan < 8192 → LeavesBy (·.settle a.chan) (.frameAcceptance p) s fun u =>
      (u.chan a.chan).q.map (·.bytes) = (s.chan a.chan).q.map (·.bytes) ++ [a.bytes] ∧ (u.chan a.chan).resv = (s.chan a.chan).resv - a.resv ∧
        u.cnt64 (ccOff a.chan 0) = (s.cnt64 (ccOff a.chan 0) + 1) % 2 ^ 64 ∧
          u.cnt64 (ccOff a.chan 1) = (s.cnt64 (ccOff a.chan 1) + lenOf a.bytes) % 2 ^ 64 ∧ (u.port false p).arr = none) ∧
  (a.decided = true → a.fcsOk = true → lenOf a.bytes ≤ s.maxLen false a.chan → a.refused = 2 → LeavesBy (fun u => (u.stompCut a.chan a).settle a.chan) (.frameAcceptance p) s fun u =>
    (u.chan a.chan).q = (s.chan a.chan).q ∧ (u.chan a.chan).resv = (s.chan a.chan).resv - a.resv ∧
      u.cnt64 (ccOff a.chan 2) = (s.cnt64 (ccOff a.chan 2) + 1) % 2 ^ 64) ∧
  (a.decided = true → a.fcsOk = true → s.maxLen false a.chan < lenOf a.bytes → LeavesBy (fun u => (u.stompCut a.chan a).settle a.chan) (.frameAcceptance p) s fun u =>
    (u.chan a.chan).q = (s.chan a.chan).q ∧ u.cnt64 (ccOff a.chan 7) = (s.cnt64 (ccOff a.chan 7) + 1) % 2 ^ 64) ∧
  (a.decided = true → a.fcsOk = false → LeavesBy (fun u => (u.stompCut a.chan a).settle a.chan) (.frameAcceptance p) s fun u =>
    (u.chan a.chan).q = (s.chan a.chan).q ∧ u.cnt = s.cnt)

/-- Channel c may send the first frame of its queue now, on unit n: it is on chip, neither a replay nor a retransmission waits, the
port's round picks the channel, and no injection stands. -/
def MaySend (s : State) (c n : Nat) (f : QFrame) (rest : List QFrame) : Prop :=
  (s.chan c).q = f :: rest ∧ f.onChip = true ∧ (s.chan c).flight.any (·.replay) = false ∧ (s.chan c).marked = none ∧
    s.mayEncrypt c f.bytes = true ∧ s.unitFor 0 c = some n ∧ (s.turnOf (s.txPort c) c (straitLen f.fmt (lenOf f.bytes))).isSome = true ∧
    s.saf.injected = []

/-- What follows a frame sent: a channel at the end of its PNs closes, its watermarks settle, and a closed one is keyed again. -/
def afterSend (s : State) (c : Nat) (u : State) : State := s.rescan ((u.pnLimit c).settle c) c

/-- Record r is the lowest one marked, the port's round picks the channel for it, and it can be read. -/
def MayResend (s : State) (c : Nat) (r : Ret) (o : Nat) : Prop :=
  s.resendAllowed c = true ∧ (s.chan c).marked = some r ∧ (s.turnOf (s.txPort c) c (r.len + 4)).isSome = true ∧
    s.lostAt [] (s.ringChunks c r) = none ∧ s.fetchRet c r.pn = some o

/-- The strait frame of the record at offset o of the ring of channel c. -/
def storedFrame (s : State) (c o : Nat) (r : Ret) : List Byte := s.ringGet c ((o + 24) % (s.chan c).ring) r.len

/-- The counter at offset o has counted one; where it overflows, what it shows is no rule of the manual (log entry 7). -/
def Counted (s t : State) (o : Nat) : Prop := s.reg o ≠ 0xFFFFFFFF → t.reg o = s.reg o + 1

/-- Strait port p takes a frame b: it is up, in an Ethernet mode, the frame's length is in range, and it is neither a MAC control frame
nor a PTP message that the port answers. -/
def StraitOpen (s : State) (p : Fin 32) (b : List Byte) : Prop :=
  s.portUp true p = true ∧ s.dev.lhOnly = false ∧ s.dev.ember = none ∧ modeOtn (s.mode true (p / 4)) = false ∧
    64 ≤ lenOf b ∧ lenOf b ≤ 10280 ∧ beNat (cut b 12 2) ≠ 0x8808 ∧ bit (s.pcfg (s.newGen true p) true p) 4 = false

/-- A frame with the EtherType in force is a data frame of channel c whose header stands (04 R85 to R87), and a decrypt unit serves the
channel. -/
def DataFrame (s : State) (p : Fin 32) (c : Nat) (b : List Byte) : Prop :=
  s.isSealed = false ∧ beNat (cut b 12 2) = (s.lv 0x40100).toNat ∧ beNat (cut b 14 1) = 0x11 ∧ hchk (b.take 34) = cut b 34 2 ∧
    cut b 32 2 = [0, 0] ∧ 100 ≤ b.length ∧ beNat (cut b 16 2) % 8192 = c ∧ s.dataChan (p / 4) c = true ∧ s.unitFor 1 c ≠ none

/-- The frames of the group that unit n of direction d has taken over go again, or are decrypted (03 R75). -/
def roleFrames (d n : Nat) (s : State) : State :=
  (s.chans.map (·.1)).foldl (fun s c =>
    if s.unitFor d c == some n then (if d == 0 then s.replayChan n c else s.unwait c (fun f => !(s.slot 1 c (f.epoch % 2)).bad))
    else s) s

/-- 03 R56, R67, R74 to R76, R82: the warm spare takes the group of the failed unit that waits with the lowest group, which then carries
no role; the switch-in is counted with its event, and then the group's frames go again. A loaded, repaired unit becomes the
spare where no group waits, and takes the waiting group else. A leak-guard test that detects is counted and changes nothing of
the device; one that does not seals a PROTECTED device, faults the unit and latches the first such unit in LG_FAIL. A key slot rewritten
with its check value right is used again, a decrypt unit's waiting frames then going on; one whose value stays wrong marks its encrypt
unit FAILED with both faults and the squelch event. MM_CLEAR with bit 0 clears the capture's VALID and no other bit. -/
def CipherUnitsPart : Prop := ∀ (s : State) (d : Dir) (n : Fin 9),
  (∀ k, s.spare (dirN d) = some k → s.lowestWaiting (dirN d) = some n.val → LeavesBy (roleFrames (dirN d) k) (.spareSwitchIn d n) s fun u =>
    fld (u.reg (pLane (dirN d) k + 0x100)) 0 4 = fld (s.reg (pLane (dirN d) n + 0x100)) 0 4 ∧ bit (u.reg (pLane (dirN d) k + 0x100)) 4 = false ∧
      fld (u.reg (pLane (dirN d) n + 0x100)) 0 4 = 15 ∧ u.reg (pLane (dirN d) k + 0x104) = s.reg (pLane (dirN d) k + 0x104) + 1 ∧
        u.ev (pLane (dirN d) k) 1 ∧ u.chans = s.chans) ∧
  (bit (s.reg (pLane (dirN d) n + 0x100)) 5 = false → (s.laneU (dirN d) n).loaded = true → fld (s.reg (pLane (dirN d) n + 0x100)) 0 4 = 15 →
    s.lowestWaiting (dirN d) = none → Leaves (.unitWarm d n) s fun t => t.reg (pLane (dirN d) n + 0x100) = 0x1F ∧
      (t.laneU (dirN d) n).resetting = false ∧ t.spare (dirN d) ≠ none) ∧
  (∀ m, bit (s.reg (pLane (dirN d) n + 0x100)) 5 = false → (s.laneU (dirN d) n).loaded = true → (s.laneU (dirN d) n).resetting = true →
    s.lowestWaiting (dirN d) = some m → LeavesBy (roleFrames (dirN d) n) (.unitWarm d n) s fun u =>
      fld (u.reg (pLane (dirN d) n + 0x100)) 0 4 = fld (s.reg (pLane (dirN d) m + 0x100)) 0 4 ∧ u.ev (pLane (dirN d) n) 1 ∧
        (u.laneU (dirN d) n).resetting = false) ∧
  (s.islOff (laneIsland (dirN d) n) = false → s.saf.injected = [] → Leaves (.leakGuardSelftest d n true) s fun t =>
    t.reg (pLane (dirN d) n + 0x104) = s.reg (pLane (dirN d) n + 0x104) + 1 ∧ t.dev = s.dev) ∧
  (s.islOff (laneIsland (dirN d) n) = false → s.dev.dstate = .protect → Leaves (.leakGuardSelftest d n false) s fun t =>
    t.dev.dstate = .sealed ∧ t.ft (pLane (dirN d) n) 2 ∧
      t.reg 0xC120 = if bit (s.reg 0xC120) 31 then s.reg 0xC120 else w32 (2 ^ 31 + 16 * dirN d + n)) ∧
  (∀ (c : Fin 8192) (b : Fin 2), (s.slot 0 c b).bad = true →
    exec (.keySlotRewrite .enc n c b true) s = .next (s.setSlot 0 c b { s.slot 0 c b with bad := false })) ∧
  (∀ (c : Fin 8192) (b : Fin 2), (s.slot 1 c b).bad = true → LeavesBy (·.unwait c (fun f => f.epoch % 2 == b.val)) (.keySlotRewrite .dec n c b true) s fun u =>
    u = s.setSlot 1 c b { s.slot 1 c b with bad := false }) ∧
  (∀ (c : Fin 8192) (b : Fin 2), (s.slot 0 c b).bad = true → Leaves (.keySlotRewrite .enc n c b false) s fun t =>
    bit (t.reg (pLane 0 n + 0x100)) 5 = true ∧ t.ft (pLane 0 n) 0 ∧ t.ft (pLane 0 n) 4 ∧ t.ev (pLane 0 n) 0 ∧ (t.slot 0 c b).bad = false) ∧
  (∀ v, s.hostOpen (pLane (dirN d) n + 0x13C) → Leaves (.mmClear d n v) s fun t =>
    t.reg (pLane (dirN d) n + 0x130) = if bit v 0 then s.reg (pLane (dirN d) n + 0x130) &&& 0xFFFFDFFF else s.reg (pLane (dirN d) n + 0x130))

/-- A Stream channel of which unit n carries lane l sends its next block: the channel runs, the payload has the lane's size, and the
twins agree. -/
def StreamSends (s : State) (c : Nat) (l n : Nat) (k : LaneBlock) : Prop :=
  s.streamOn c = true ∧ k.payload.length = s.laneBytes c l ∧ k.payload ≠ [] ∧ s.unitOf 0 (s.spg c) (l == 1) = some n ∧ k.lg = .agree ∧
    s.saf.injected = []

/-- A Stream channel that receives takes a block of lane l, of the lane's size, on which the twins agree. -/
def StreamTakes (s : State) (c : Nat) (l : Nat) (k : LaneBlock) : Prop :=
  s.isStream c = true ∧ s.rxEn c = true ∧ s.txOpen = true ∧ (s.chan c).st ≠ .closed ∧ k.payload.length = s.laneBytes c l ∧ k.payload ≠ [] ∧
    k.lg = .agree ∧ s.saf.injected = []

/-- 02 R54, 03 R62, R63, R69, R73, 06 R177, 12 R340: seal blocks of one lane. Lane 0 sends a block sealed under the number and epoch
announced, its field with the next number and the tag of the block before, the other GCC bytes as 0 and the overhead unchanged,
the group's TTI, and counts the payload and the source's BIP-8 errors; the first block of a channel has a number from DRB, and so has the block after a promotion, in its
epoch. Lane 1 takes the number and epochs of lane 0. A disagreement of the twins voids the tag and marks the unit FAILED. A received
block that was announced leaves decrypted, with GCC as 0, any other as zeros, counted; its announcement is taken where the key
is held. A tag other than the field carries is noted for sensing with an event. Of a lane that no unit carries zeros leave and no tag
is kept (the model's choice, log entry 86), and a TTI that three multiframes in a row carry is taken into TTI_RX. A block of another size changes nothing. -/
def StreamBlocksPart : Prop := ∀ (s : State) (c : Fin 8192) (x : LaneBlock),
  (∀ n b k, StreamSends s c 0 n x → (s.stream 0 c 0).block = some b → (s.stream 0 c 0).epoch = (s.chan c).curEpoch →
    s.epochKey 0 c (s.stream 0 c 0).epoch = some k → Leaves (.sealBlockTx c 0 x) s fun t =>
      (t.stream 0 c 0).cur = some b ∧ (t.stream 0 c 0).block = some ((b + 1) % 2 ^ 64) ∧ (t.stream 0 c 0).opens = false ∧
        t.cnt64 (ccOff c 1) = (s.cnt64 (ccOff c 1) + x.payload.length) % 2 ^ 64 ∧
        ∃ ct, Crypto.gcmSeal k.key (ivOf k.salt 0 b) (blockAad b (s.stream 0 c 0).epoch 0) x.payload = (ct, (t.stream 0 c 0).prevTag) ∧
          t.out = s.out ++ [.otn true (s.spg c) "LANE0"
            (ct ++ s.laneGcc c 0 ((s.stream 0 c 0).field ((b + 1) % 2 ^ 64) (s.stream 0 c 0).epoch false) ++ x.ohd ++ s.ttiTx true (s.spg c))] ∧
        t.cnt64 (pcOff false (4 * s.streamHpg c) 14) = (s.cnt64 (pcOff false (4 * s.streamHpg c) 14) + x.sm.bip) % 2 ^ 64) ∧
  (∀ n k, StreamSends s c 0 n x → (s.stream 0 c 0).block = none → s.drbServes 2 = true → s.epochKey 0 c (s.chan c).curEpoch = some k →
    Leaves (.sealBlockTx c 0 x) s fun t => ∃ b, (t.stream 0 c 0).cur = some b ∧ (t.stream 0 c 0).block = some ((b + 1) % 2 ^ 64)) ∧
  (∀ n b k, StreamSends s c 0 n x → (s.stream 0 c 0).block = some b → (s.chan c).curEpoch ≠ 0 → (s.chan c).curEpoch ≠ (s.stream 0 c 0).epoch →
    s.drbServes 2 = true → s.epochKey 0 c (s.stream 0 c 0).epoch = some k → Leaves (.sealBlockTx c 0 x) s fun t =>
      (t.stream 0 c 0).cur = some b ∧ (t.stream 0 c 0).epoch = (s.chan c).curEpoch ∧ (t.stream 0 c 0).opens = true) ∧
  (∀ n b nb k, StreamSends s c 1 n x → (s.stream 0 c 0).cur = some b → (s.stream 0 c 0).block = some nb →
    s.epochKey 0 c (s.stream 0 c 0).curEpoch = some k → Leaves (.sealBlockTx c 1 x) s fun t =>
      (t.stream 0 c 1).cur = some b ∧ (t.stream 0 c 1).block = some nb ∧ (t.stream 0 c 1).epoch = (s.stream 0 c 0).epoch) ∧
  (∀ n b k w, StreamSends s c 0 n x → (s.stream 0 c 0).block = some b → s.epochKey 0 c (s.stream 0 c 0).epoch = some k →
    Leaves (.sealBlockTx c 0 { x with lg := .mismatch w }) s fun t => (t.stream 0 c 0).cur = some b ∧ (t.stream 0 c 0).prevVoid = true ∧
      bit (t.reg (pLane 0 n + 0x100)) 5 = true) ∧
  (∀ (l : Fin 2) field n b k, StreamTakes s c l x → s.unitOf 1 (s.spg c) (l == 1) = some n → s.knownBlock c l = some (b, k) →
    Leaves (.sealBlockRx c l x field) s fun t => (t.stream 1 c l).cur = some b ∧
      .otn false (s.streamHpg c) (laneName l)
        ((Crypto.gcmOpen k.key (ivOf k.salt l b) (blockAad b (s.stream 1 c l).epoch l) x.payload []).1 ++ s.laneGcc c l [] ++ x.ohd ++ s.ttiTx false (s.streamHpg c)) ∈ t.out) ∧
  (∀ (l : Fin 2) field n, StreamTakes s c l x → s.unitOf 1 (s.spg c) (l == 1) = some n → (s.stream 1 c l).block = none →
    Leaves (.sealBlockRx c l x field) s fun t => Counted s t (pLane 1 n + 0x140) ∧
      .otn false (s.streamHpg c) (laneName l) (List.replicate x.payload.length 0 ++ s.laneGcc c l [] ++ x.ohd ++ s.ttiTx false (s.streamHpg c)) ∈ t.out ∧
        ((t.stream 1 c l).block = some (beNat (cut field 16 8)) ↔ (s.epochKey 1 c (beNat (cut field 24 2))).isSome = true)) ∧
  (∀ (l : Fin 2) field n, StreamTakes s c l x → s.unitOf 1 (s.spg c) (l == 1) = some n → (s.stream 1 c l).prevTag ≠ [] →
    (s.stream 1 c l).prevTag ≠ field.take 16 → nbit (beNat (cut field 26 2)) 1 = false → Leaves (.sealBlockRx c l x field) s fun t =>
      (t.sense (s.spg c)).authHit = true ∧ t.ev (pLane 1 n) 4) ∧
  (∀ (l : Fin 2) field, StreamTakes s c l x → s.unitOf 1 (s.spg c) (l == 1) = none → Leaves (.sealBlockRx c l x field) s fun t =>
    .otn false (s.streamHpg c) (laneName l) (List.replicate x.payload.length 0 ++ s.laneGcc c l [] ++ x.ohd ++ s.ttiTx false (s.streamHpg c)) ∈ t.out ∧
      (t.stream 1 c l).prevTag = [] ∧ (l.val = 0 → ∀ v, x.sm.tti = [v, v, v] → ∀ i : Fin 16, t.reg (pSpt (s.spg c) + 0x240 + 4 * i) = wordAt v i)) ∧
  (∀ l : Fin 2, x.payload.length ≠ s.laneBytes c l → exec (.sealBlockTx c l x) s = .next s ∧ ∀ field, exec (.sealBlockRx c l x field) s = .next s)

/-- 04 R92, R101, R103, R109, R112, R114, 01 R29, R30: ack timers and paths. Of an ACTIVE Assured channel, the ack timer sends an ACK
record where the last PN released or the credit is not the one last sent, and does nothing where both are; a refresh sends it within
the span after a change. A flush takes the first 64 waiting records. A NACK retry of a PN that stays missing notes its time, is
counted and sends an ACK too. A keepalive of a keyed peer leaves on a path port and takes the port's next PN. A path's time-out forgets
that the port was heard and that the key is new, and then checks the path. A path whose conditions hold comes up: a stranded peer
makes its landfall with the event and resynchronises; for another peer nothing of it changes before keying starts. A JOINED or LANDFALL
peer without a path is stranded at this time with its event, with no exchange left and its frames kept; one with a path is
not. -/
def PathsAndAcksPart : Prop := ∀ s : State,
  (∀ c : Fin 8192, s.assured c = true → (s.chan c).st = .active → (s.chan c).ackSent + 1 ≠ (s.chan c).rxNext ∨ (s.chan c).ackLimit ≠ s.climitOf c →
    Leaves (.ackTimer c) s fun t => (t.chan c).ackSent = (s.chan c).rxNext - 1 ∧ (t.chan c).ackLimit = s.climitOf c ∧ (t.chan c).q = (s.chan c).q) ∧
  (∀ c : Fin 8192, (s.chan c).ackSent + 1 = (s.chan c).rxNext → (s.chan c).ackLimit = s.climitOf c → exec (.ackTimer c) s = .next s) ∧
  (∀ (g : Fin 8) (c : Fin 8192), c.val ∈ s.peerChans (s.home_ g) s.assured → (s.chan c).st = .active →
    s.dev.mono ≤ (s.chan c).ackChange + fld (s.lv 0x4011C) 16 8 * 1000000 → Leaves (.ackRefresh g) s fun t =>
      (t.chan c).ackSent = (s.chan c).rxNext - 1 ∧ (t.chan c).ackFrames = 0) ∧
  (∀ g : Fin 8, Leaves (.ackFrameFlush g) s fun t => (t.peer (s.home_ g)).acks = (s.peer (s.home_ g)).acks.drop 64 ∧ t.chans = s.chans) ∧
  (∀ (c : Fin 8192) pn, s.assured c = true → (s.chan c).st = .active → (s.chan c).nacked.any (fun e => e.1 == pn) = true → (s.chan c).rxHand ≤ pn →
    pn ∉ (s.chan c).marks → (s.chan c).voids = [] → Leaves (.nackRetry c pn) s fun t => (pn, s.dev.mono) ∈ (t.chan c).nacked ∧
      t.cnt64 (ccOff c 15) = (s.cnt64 (ccOff c 15) + 1) % 2 ^ 64 ∧ (t.chan c).ackSent = (s.chan c).rxNext - 1) ∧
  (∀ p : Fin 32, (s.peer (s.home_ (p / 4))).portEpoch ≠ 0 → p.val ∈ s.pathPorts (p / 4) → s.txOpen = true → s.portUp true p = true → s.dev.startHold = false →
    (s.pslot 0 (s.home_ (p / 4)) ((s.peer (s.home_ (p / 4))).portEpoch % 2)).valid = true →
      (s.pslot 0 (s.home_ (p / 4)) ((s.peer (s.home_ (p / 4))).portEpoch % 2)).epoch = (s.peer (s.home_ (p / 4))).portEpoch →
        Leaves (.keepaliveTimer p) s fun t => (∃ b, t.out = s.out ++ [.frame true p b false]) ∧
          (t.peer (s.home_ (p / 4))).portPn = (s.peer (s.home_ (p / 4))).portPn + 1) ∧
  (∀ p : Fin 32, LeavesBy (·.pathCheck (p / 4)) (.pathDownTimeout p) s fun u =>
    nbit (u.path (p / 4)).heard (p % 4) = false ∧ (u.path (p / 4)).keyedAt = none ∧ (u.path (p / 4)).up = (s.path (p / 4)).up) ∧
  (∀ g : Fin 8, (s.path g).up = false → s.pathCond g = true → (s.peer (s.home_ g)).sub = .stranded →
    LeavesBy (·.startResync (s.home_ g)) (.pathUp g) s fun u => (u.path g).up = true ∧ (u.peer (s.home_ g)).sub = .landfall ∧ u.ev 0x40000 1) ∧
  (∀ g : Fin 8, (s.path g).up = false → s.pathCond g = true → (s.peer (s.home_ g)).sub ≠ .stranded →
    LeavesBy (·.startKeying (s.home_ g)) (.pathUp g) s fun u => (u.path g).up = true ∧ u.peers = s.peers ∧
      ∀ n : Fin 4, (u.port true (4 * g + n)).done = 0) ∧
  (∀ g : Fin 8, (s.peer (s.home_ g)).sub = .joined ∨ (s.peer (s.home_ g)).sub = .landfall → s.anyPath (s.home_ g) = false →
    LeavesBy (fun u => (u.strandCheck (s.home_ g)).tally) (.strandTimeout g) s fun u => (u.peer (s.home_ g)).sub = .stranded ∧
      (u.peer (s.home_ g)).strandAt = s.dev.mono ∧ (u.peer (s.home_ g)).resync = false ∧ (∀ x ∈ u.vault.xchs, x.g ≠ s.home_ g) ∧
        u.ev 0x40000 0 ∧ ∀ c, (u.chan c).q = (s.chan c).q ∧ (u.chan c).ret = (s.chan c).ret ∧ (u.chan c).rq = (s.chan c).rq) ∧
  (∀ g : Fin 8, s.anyPath (s.home_ g) = true → exec (.strandTimeout g) s = .next s)

/-- 04 R110, R111, R113, R115: resynchronisation and working/protect switchover. A resend in an exchange whose records are all
confirmed sends DONE again until the peer's has come; with one unconfirmed record and no DONE sent, that record. With the transmit
path down and the other group's up, a switch starts the connection of the other group, or is remembered while one connects. A
connected switch takes effect, is counted (of a peer without keys, in its saturating counter) with its event, and of a keyed peer
starts resynchronisation. A force with both paths up is remembered and connects the group it names unless that carries already;
clearing it does no more. Wait-to-restore's expiry connects the working group where revert counts, and does nothing under a
force. CLOSE_PEER closes every channel of the peer, before those due are keyed again. -/
def SwitchoverPart : Prop := ∀ s : State,
  (∀ g : Fin 8, (s.peer (s.home_ g)).resync = true → (∀ c ∈ s.covered (s.home_ g), (s.chan c).unconfirmed = false) →
    (s.peer (s.home_ g)).doneSent = true → (s.peer (s.home_ g)).doneGot = false → exec (.resyncResend g) s = .next (s.sendDone (s.home_ g) false)) ∧
  (∀ (g : Fin 8) c, (s.peer (s.home_ g)).resync = true → (s.peer (s.home_ g)).doneSent = false →
    (s.covered (s.home_ g)).filter (fun c => (s.chan c).unconfirmed) = [c] →
      exec (.resyncResend g) s = .next (s.portFrame (s.home_ g) 5 false ([1, 0, 0, 1] ++ s.chanRec c))) ∧
  (∀ (p : Fin 4) w g rev, s.wpPair p = some (w, g, rev) → (s.peer w).onProtect = false → (s.peer w).connecting = none →
    (s.path w).up = false → (s.path g).up = true → exec (.wpSwitch p) s = .next (s.setPeer w { s.peer w with connecting := some true })) ∧
  (∀ (p : Fin 4) w g rev, s.wpPair p = some (w, g, rev) → (s.peer w).onProtect = true → (s.peer w).connecting = none →
    (s.path g).up = false → (s.path w).up = true → exec (.wpSwitch p) s = .next (s.setPeer w { s.peer w with connecting := some false })) ∧
  (∀ (p : Fin 4) w g rev, s.wpPair p = some (w, g, rev) → (s.peer w).connecting ≠ none → (s.peer w).onProtect = false →
    (s.path w).up = false → (s.path g).up = true → exec (.wpSwitch p) s = .next (s.setPeer w { s.peer w with switchNext := true })) ∧
  (∀ (p : Fin 4) w g rev b, s.wpPair p = some (w, g, rev) → (s.peer w).connecting = some b → (s.peer w).sub.keyed = false → (s.peer w).switchNext = false →
    Leaves (.wpSwitchConnected p) s fun t => (t.peer w).onProtect = b ∧ (t.peer w).connecting = none ∧ t.ev 0x40000 3 ∧
      (t.reg (0x40200 + 0x40 * w + 0x34)).toNat = min ((s.reg (0x40200 + 0x40 * w + 0x34)).toNat + 1) (2 ^ 32 - 1)) ∧
  (∀ (p : Fin 4) w g rev b, s.wpPair p = some (w, g, rev) → (s.peer w).connecting = some b → (s.peer w).sub.keyed = true → (s.peer w).switchNext = false →
    LeavesBy (·.startResync w) (.wpSwitchConnected p) s fun u => (u.peer w).onProtect = b ∧ (u.peer w).connecting = none ∧ u.ev 0x40000 3) ∧
  (∀ (p : Fin 4) w g rev, s.hostOpen 0x40124 → s.wpPair p = some (w, g, rev) → (s.peer w).connecting = none → (s.path w).up = true →
    (s.path g).up = true → Leaves (.forceToProtect p) s fun t => (t.peer w).force = 1 ∧
      (t.peer w).connecting = (if (s.peer w).onProtect then none else some true)) ∧
  (∀ (p : Fin 4) w g rev, s.hostOpen 0x40124 → s.wpPair p = some (w, g, rev) → (s.peer w).connecting = none → (s.path w).up = true →
    (s.path g).up = true → Leaves (.forceToWorking p) s fun t => (t.peer w).force = 2 ∧
      (t.peer w).connecting = (if (s.peer w).onProtect then some false else none)) ∧
  (∀ (p : Fin 4) w g rev, s.hostOpen 0x40124 → s.wpPair p = some (w, g, rev) →
    exec (.clearForce p) s = .next (s.setPeer w { s.peer w with force := 0 })) ∧
  (∀ (p : Fin 4) w g, s.wpPair p = some (w, g, true) → (s.peer w).force = 0 → (s.peer w).onProtect = true → (s.path w).up = true →
    (s.peer w).connecting = none → exec (.waitToRestoreExpiry p) s = .next (s.setPeer w { s.peer w with connecting := some false })) ∧
  (∀ (p : Fin 4) w g rev, s.wpPair p = some (w, g, rev) → (s.peer w).force ≠ 0 → exec (.waitToRestoreExpiry p) s = .next s) ∧
  (∀ g : Fin 8, s.hostOpen 0x40128 → LeavesBy (·.keyScan (s.home_ g)) (.closePeer g) s fun u =>
    ∀ c ∈ s.peerChans (s.home_ g) (fun _ => true), (u.chan c).st = .closed)

/-- An exchange of channel c, or of the peer, may start with peer w now. -/
def MayStart (s : State) (w : Nat) (c : Option Nat) : Prop :=
  s.mayKey = true ∧ s.running < 4096 ∧ ∀ x ∈ s.vault.xchs, x.g = w → x.phase ≠ 3 → x.chan ≠ c ∧ x.chan ≠ none

/-- An exchange of this device with peer w has started. -/
def Started (t : State) (w : Nat) (c : Option Nat) : Prop := ∃ x ∈ t.vault.xchs, x.g = w ∧ x.chan = c ∧ x.init = true ∧ x.phase = 0

/-- Channel c of peer w takes part in exchanges (06 R151). -/
def Keyable (s : State) (c w : Nat) : Prop := s.chEn c = true ∧ (s.asxon c = true ∨ s.isStream c = true) ∧ s.home_ (s.spg c) = w

/-- A scheduled rekey of channel c may fall due: REKEY_S is not 0, or it is the retry of a failed one (06 R156, R164). -/
def RekeyOn (s : State) (c : Nat) : Prop := fld (s.txw false c 3) 0 16 ≠ 0 ∨ s.vault.retry.contains c = true

/-- 06 R150, R156 to R158, R161, R164 to R167: exchanges and what becomes due. Where an exchange may start with a JOINED peer, a rekey
(with REKEY_S not 0, or for a retry), a refresh and a port rekey each start one; a rekey with REKEY_S 0 and no retry does nothing. A
rekey or refresh of a STRANDED or LANDFALL peer is held; of a peer not JOINED a port rekey and a resume do nothing; of a JOINED one a
resume holds no rekey or ratchet step any more, and then starts those due. Hard expiry closes the channel with its frames dropped. An
exchange sent six times fails with reason 5 and an event; one sent less often sends its HELLO or FINISH again and counts that. The end of
a backoff lets keying start. A busy exchange, while keys flow, is no longer busy and starts; else it waits. NEXT_REPEAT sends an
unanswered record, and nothing where none is. PRK_ERASE erases the PRKs of the exchange that are answered or 10 s old, and
keeps every other. -/
def ExchangesPart : Prop := ∀ s : State,
  (∀ (c : Fin 8192) w, Keyable s c w → (s.peer w).sub = .joined → MayStart s w (some c) → RekeyOn s c → Leaves (.rekeyDue c) s fun t => Started t w (some c.val)) ∧
  (∀ (c : Fin 8192) w, Keyable s c w → (s.peer w).sub = .joined → MayStart s w (some c) → Leaves (.refreshDue c) s fun t => Started t w (some c.val)) ∧
  (∀ (c : Fin 8192) w, Keyable s c w → (s.peer w).sub = .stranded ∨ (s.peer w).sub = .landfall →
    (RekeyOn s c → exec (.rekeyDue c) s = .next (s.setChan c { s.chan c with rekeyHeld := true })) ∧
      exec (.refreshDue c) s = .next (s.setChan c { s.chan c with rekeyHeld := true })) ∧
  (∀ c : Fin 8192, ¬ RekeyOn s c → exec (.rekeyDue c) s = .next s) ∧
  (∀ g : Fin 8, (s.peer (s.home_ g)).sub = .joined → MayStart s (s.home_ g) none → Leaves (.portRekeyDue g) s fun t => Started t (s.home_ g) none) ∧
  (∀ g : Fin 8, (s.peer (s.home_ g)).sub ≠ .joined → exec (.portRekeyDue g) s = .next s ∧ exec (.heldKeyingResume g) s = .next s) ∧
  (∀ g : Fin 8, (s.peer (s.home_ g)).sub = .joined → LeavesBy (·.keyScan (s.home_ g)) (.heldKeyingResume g) s fun u =>
    ∀ c ∈ s.peerChans (s.home_ g) (fun _ => true), (u.chan c).rekeyHeld = false ∧ (u.chan c).ratchetHeld = false) ∧
  (∀ (c : Fin 8192) w, (s.chan c).st ≠ .closed → s.home_ (s.spg c) = w → LeavesBy (·.keyScan w) (.hardExpiry c) s fun u =>
    (u.chan c).st = .closed ∧ (u.chan c).q = [] ∧ (u.chan c).ret = []) ∧
  (∀ xid x, s.vault.xchs.find? (fun x => x.xid == xid && x.init) = some x → 6 ≤ x.sends → Leaves (.exchangeRetry xid) s fun t =>
    (∀ y ∈ t.vault.xchs, y.xid = xid → y.g ≠ x.g) ∧ t.ev 0x80000 0 ∧ t.reg 0x80128 = w32 (5 + 256 * x.g + 2048 * x.chan.getD 0)) ∧
  (∀ xid x, s.vault.xchs.find? (fun x => x.xid == xid && x.init) = some x → x.sends < 6 → x.phase = 0 →
    LeavesBy (·.control x.g 0x10 x.hello) (.exchangeRetry xid) s fun u => { x with sends := x.sends + 1 } ∈ u.vault.xchs ∧ u.peers = s.peers) ∧
  (∀ xid x, s.vault.xchs.find? (fun x => x.xid == xid && x.init) = some x → x.sends < 6 → x.phase ≠ 0 →
    LeavesBy (·.control x.g 0x12 x.finish) (.exchangeRetry xid) s fun u => { x with sends := x.sends + 1 } ∈ u.vault.xchs ∧ u.peers = s.peers) ∧
  (∀ g : Fin 8, LeavesBy (·.startKeying (s.home_ g)) (.keyingBackoffExpiry g) s fun u => (u.peer (s.home_ g)).backing = false ∧ u.vault = s.vault) ∧
  (∀ (g : Fin 8) (c : Option (Fin 8192)), s.vault.busy.contains (s.home_ g, c.map (·.val)) = true → s.keysFlow (s.home_ g) = true →
    LeavesBy (·.startXch (s.home_ g) (c.map (·.val))) (.busyRetry g c) s fun u => (s.home_ g, c.map (·.val)) ∉ u.vault.busy ∧ u.vault.xchs = s.vault.xchs) ∧
  (∀ (g : Fin 8) (c : Option (Fin 8192)), s.keysFlow (s.home_ g) = false → exec (.busyRetry g c) s = .next s) ∧
  (∀ g : Fin 8, (∀ c ∈ s.peerChans (s.home_ g) (fun _ => true), (s.chan c).nextSent = 0) → exec (.nextRepeat g) s = .next s) ∧
  (∀ (g : Fin 8) c, (s.peerChans (s.home_ g) (fun _ => true)).filter (fun c => (s.chan c).nextSent != 0) = [c] → s.keysFlow (s.home_ g) = true →
    (s.slot 0 c ((s.chan c).nextSent % 2)).ratchet = false ∨ s.covering (s.home_ g) c = false → exec (.nextRepeat g) s = .next (s.control (s.home_ g) 0x14 ([0, 1] ++ s.nextRec c))) ∧
  (∀ xid, Leaves (.prkErase xid) s fun t => t.chans = s.chans ∧ (∀ p ∈ t.vault.prks, ¬ (p.xid = xid ∧ p.done = true ∧ (p.waiting = [] ∨ p.doneAt + 10000000000 ≤ s.dev.mono))) ∧
    ∀ p ∈ s.vault.prks, p.xid ≠ xid ∨ p.done = false → p ∈ t.vault.prks)

/-- 03 R66, R68, R70, 06 R151, R159, R161, R163, 04 R112: key slots. A held write whose slot is free is written there with its epoch and
key and is held no longer; then its records go and a KEYING peer may join. With none free the command does nothing. Of a running
Asxon or Stream channel whose peer is neither STRANDED nor LANDFALL, the other slot, valid, confirmed and of the next epoch, becomes
current, the PN going on, the old slot no longer confirmed, and a ratchet key is counted; of a STRANDED or LANDFALL peer nothing
changes. A ratchet step of a channel in use is held while the peer is STRANDED or LANDFALL; of a JOINED one that nothing holds back, it
writes the key derived from the chain key into the slot of the next epoch, unanswered as yet, and keeps the next chain key, before the
NEXT record goes. -/
def KeySlotsPart : Prop := ∀ (s : State) (c : Fin 8192),
  (∀ d h, s.vault.heldWrites.find? (fun h => h.enc == decide (d = Dir.enc) && h.chan == c.val && !s.slotHeld (decide (d = Dir.enc)) c h.epoch) = some h →
    s.saf.injected = [] → LeavesBy (fun u => (u.afterPut h).joinCheck (s.home_ (s.spg c))) (.heldKeyWriteComplete d c) s fun u => h ∉ u.vault.heldWrites ∧
      (u.slot (dirN d) c (h.epoch % 2)).valid = true ∧ (u.slot (dirN d) c (h.epoch % 2)).epoch = h.epoch ∧
        (u.slot (dirN d) c (h.epoch % 2)).key = h.data.take 32) ∧
  (∀ d, s.vault.heldWrites.find? (fun h => h.enc == decide (d = Dir.enc) && h.chan == c.val && !s.slotHeld (decide (d = Dir.enc)) c h.epoch) = none →
    exec (.heldKeyWriteComplete d c) s = .next s) ∧
  (∀ k, (s.chan c).curEpoch ≠ 0 → s.slot 0 c (1 - (s.chan c).cur) = k → k.valid = true → k.confirmed = true → k.epoch = nextEpoch (s.chan c).curEpoch → (s.chan c).st ≠ .closed →
    s.macsec c = false → (s.peer (s.home_ (s.spg c))).sub ≠ .stranded → (s.peer (s.home_ (s.spg c))).sub ≠ .landfall →
      LeavesBy (·.activate c) (.epochPromotion c) s fun u => (u.chan c).cur = 1 - (s.chan c).cur ∧ (u.chan c).curEpoch = k.epoch ∧
        (u.chan c).txNext = (s.chan c).txNext ∧ (u.slot 0 c (1 - (u.chan c).cur)).confirmed = false ∧ (if k.ratchet then Counted s u 0x80120 else u.reg 0x80120 = s.reg 0x80120)) ∧
  (s.macsec c = false → (s.peer (s.home_ (s.spg c))).sub = .stranded ∨ (s.peer (s.home_ (s.spg c))).sub = .landfall →
    exec (.epochPromotion c) s = .next s) ∧
  (∀ w, Keyable s c w → (s.chan c).curEpoch ≠ 0 → (s.slot 0 c (s.chan c).cur).firstAt.isSome = true → (s.peer w).sub = .stranded ∨ (s.peer w).sub = .landfall →
    exec (.ratchetDue c) s = .next (s.setChan c { s.chan c with ratchetHeld := true })) ∧
  (∀ w e dir ck, Keyable s c w → e = nextEpoch (s.chan c).curEpoch → (s.chan c).curEpoch ≠ 0 → (s.slot 0 c (s.chan c).cur).firstAt.isSome = true →
    (s.peer w).sub = .joined → (s.chan c).nextSent = 0 → s.vault.heldWrites = [] → (∀ x ∈ s.vault.xchs, x.g = w → x.chan ≠ none ∧ x.chan ≠ some c.val) →
      tget s.vault.chains (chainIx false c 0) (0, 0, []) = (e, dir, ck) → ck ≠ [] → s.slotHeld true c e = false → s.saf.injected = [] →
        LeavesBy (·.sendNexts w [c.val]) (.ratchetDue c) s fun u => (u.slot 0 c (e % 2)).epoch = e ∧ (u.slot 0 c (e % 2)).valid = true ∧
          (u.slot 0 c (e % 2)).ratchet = true ∧ (u.slot 0 c (e % 2)).key = (epochOkm ck dir 2 c e).take 32 ∧ (u.chan c).nextSent = e ∧
            tget u.vault.chains (chainIx false c 0) (0, 0, []) = (nextEpoch e, dir, cut (epochOkm ck dir 2 c e) 44 48))

/-- Channel c of the mailbox has answered the request at its head: the response, its slot, its event and the new head (13 R365). -/
def Answers (c code : Nat) (tag : Half) (status reason : Nat) (payload : List Byte) (s t : State) : Prop :=
  .response c (fld (s.reg (0x90104 + 0x20 * c)) 0 6 % 32)
    ([by8 code, by8 status] ++ leBytes 2 tag.toNat ++ leBytes 4 payload.length ++ [by8 reason] ++ List.replicate 7 0 ++ payload) ∈ t.out ∧
  t.ev 0x90000 c ∧ fld (t.reg (0x90104 + 0x20 * c)) 0 6 = (fld (s.reg (0x90104 + 0x20 * c)) 0 6 + 1) % 64

/-- The vault keeper takes a command: HC1 serves, and the lifecycle permits it. -/
def KeeperOpen (s : State) (code : Nat) : Prop := s.alive 1 = true ∧ s.forbids code = false

/-- 06 R148, R149, R171, R174, R179 to R181, 11 R327: the vault keeper, while HC1 serves and the lifecycle permits. KEY_POLICY_SET stores
the masked policy, ANCHOR_SET the anchor of its group unless it is locked or of a wrong length; IMK_GET, ATTEST and IDENT_GET
answer what they read with the vault unchanged; IDENT_PROVISION, without an identity and with a key slot and entropy, makes one, and
with an identity is refused; IDENT_CERT_SET stores the certificate. ZEROIZE with its code zeroizes with reason 3, with another
changes neither vault nor device. SENSE_POLICY_SET stores masked policies unless one would be 3. While HC1 does not serve nothing
changes. -/
def VaultKeeperPart : Prop := ∀ (s : State) (tag : Half),
  (∀ word mask, KeeperOpen s 0x40 → 60 ≤ fld (masked s.vault.policy word mask) 16 16 → Leaves (.keyPolicySet tag word mask) s fun t =>
    Answers 1 0x40 tag 0 0 [] s t ∧ t.vault.policy = (masked s.vault.policy word mask &&& 0xFFFF003F) ||| (s.vault.policy &&& 2)) ∧
  (∀ g ec pq, KeeperOpen s 0x41 → bit s.vault.policy 1 = false → g < 8#8 → ec.length = 65 → pq.length = 1952 → Leaves (.anchorSet tag g ec pq) s fun t =>
    Answers 1 0x41 tag 0 0 [] s t ∧ tget t.vault.anchors g.toNat [] = ec ++ pq) ∧
  (∀ g ec pq, KeeperOpen s 0x41 → bit s.vault.policy 1 = true → ec.length = 65 → pq.length = 1952 → Leaves (.anchorSet tag g ec pq) s fun t =>
    (∃ r, Answers 1 0x41 tag 1 r [] s t) ∧ t.vault = s.vault) ∧
  (∀ ec pq g, KeeperOpen s 0x41 → ec.length ≠ 65 → Leaves (.anchorSet tag g ec pq) s fun t => Answers 1 0x41 tag 1 0x82 [] s t ∧ t.vault = s.vault) ∧
  (KeeperOpen s 0x42 → Leaves (.imkGet tag) s fun t => ∃ sig : List Byte, sig.length = 64 ∧ Answers 1 0x42 tag 0 0 (s.vault.imkPub ++ s.imkId ++ sig) s t ∧ t.vault = s.vault) ∧
  (∀ nonce, s.alive 1 = true → nonce.length = 32 → Leaves (.attest tag nonce) s fun t => ∃ sig : List Byte, sig.length = 64 ∧
    Answers 1 0x44 tag 0 0 (s.report nonce ++ sig) s t ∧ t.vault = s.vault) ∧
  (∀ subject, KeeperOpen s 0x45 → s.vault.idk = [] → s.vault.duk.length < 4 → s.entropy = true → s.dev.dstate ≠ .zeroized →
    Leaves (.identProvision tag subject) s fun t => (∃ p, Answers 1 0x45 tag 0 0 p s t) ∧ t.vault.idk.length = 3076 ∧
      t.vault.dukCur = s.vault.duk.length ∧ t.vault.duk.length = s.vault.duk.length + 1 ∧ t.vault.cert = []) ∧
  (∀ subject, KeeperOpen s 0x45 → s.vault.idk ≠ [] → Leaves (.identProvision tag subject) s fun t => (∃ r, Answers 1 0x45 tag 1 r [] s t) ∧ t.vault = s.vault) ∧
  (∀ cert, KeeperOpen s 0x46 → s.vault.idk ≠ [] → cert.length ≤ 4096 → Leaves (.identCertSet tag cert) s fun t =>
    Answers 1 0x46 tag 0 0 [] s t ∧ t.vault = { s.vault with cert := cert }) ∧
  (KeeperOpen s 0x47 → Leaves (.identGet tag) s fun t => Answers 1 0x47 tag 0 0 s.vault.cert s t ∧ t.vault = s.vault) ∧
  (s.alive 1 = true → s.life = 3 → Leaves (.identGet tag) s fun t => Answers 1 0x47 tag 1 0x83 [] s t ∧ t.vault = s.vault) ∧
  (s.alive 1 = false → exec (.identGet tag) s = .next s) ∧
  (KeeperOpen s 0x48 → exec (.zeroize 0x5A5AA5A5) s = .next ((s.headOn 1).zeroize_ 3 false)) ∧
  (∀ confirm, KeeperOpen s 0x48 → confirm ≠ 0x5A5AA5A5 → Leaves (.zeroize confirm) s fun t => t.vault = s.vault ∧ t.dev = s.dev) ∧
  (∀ word mask, KeeperOpen s 0x4A → (∀ i : Fin 16, fld (masked s.vault.sense word mask) (2 * i) 2 ≠ 3) → Leaves (.sensePolicySet tag word mask) s fun t =>
    Answers 1 0x4A tag 0 0 [] s t ∧ t.vault.sense = masked s.vault.sense word mask ∧ t.reg 0x70120 = masked s.vault.sense word mask) ∧
  (∀ word mask (i : Fin 16), KeeperOpen s 0x4A → fld (masked s.vault.sense word mask) (2 * i) 2 = 3 → Leaves (.sensePolicySet tag word mask) s fun t =>
    (∃ r, Answers 1 0x4A tag 1 r [] s t) ∧ t.vault = s.vault)

/-- 06 R150, R167, R172, R173, R181, 13 R355, R364, R368: SA_IMPORT of a blob that passes puts its key in the slot it names; one that fails
is answered with why, one in SEALED with status 2, no slot changed. REKEY starts the peer's or the channel's exchange, is held for a
STRANDED or LANDFALL peer, and answers 2 where none may start. LIFECYCLE_ADVANCE burns the step that is next, to RETURNED
erasing the vault, and no other. INTEGRATOR_KEY_SET takes a free slot once; a revocation stands. FLOOR_SET raises the floor it
names up to the version that runs, and no other way. -/
def KeysAndLifecyclePart : Prop := ∀ (s : State) (tag : Half),
  (∀ blob, KeeperOpen s 0x43 → blob.length = 1721 → s.entropy = true → s.isSealed = false → s.dev.dstate ≠ .zeroized → blobOk blob = true →
    s.slotHeld (leNat (cut blob 1 1) == 1) (leNat (cut blob 2 2) % 8192) (leNat (cut blob 4 1)) = false → s.saf.injected = [] →
      Leaves (.saImport tag blob) s fun t => (s.importCheck blob).1 = 0 → Answers 1 0x43 tag 0 0 [] s t ∧
        (t.slot (b2n (leNat (cut blob 1 1) != 1)) (leNat (cut blob 2 2) % 8192) (leNat (cut blob 4 1) % 2)).key = (s.importCheck blob).2.take 32) ∧
  (∀ blob, KeeperOpen s 0x43 → blob.length = 1721 → s.entropy = true → s.isSealed = false → s.dev.dstate ≠ .zeroized → blobOk blob = true →
    (s.importCheck blob).1 ≠ 0 → Leaves (.saImport tag blob) s fun t => Answers 1 0x43 tag 1 (s.importCheck blob).1 [] s t ∧ t.slots = s.slots ∧ t.ev 0x80000 2) ∧
  (∀ blob, KeeperOpen s 0x43 → blob.length = 1721 → s.isSealed = true → Leaves (.saImport tag blob) s fun t => Answers 1 0x43 tag 2 0 [] s t ∧ t.slots = s.slots) ∧
  (∀ g, KeeperOpen s 0x49 → g < 8#8 → (s.peer (s.home_ g.toNat)).sub = .joined → s.mayKey = true → s.vault.xchs = [] → Leaves (.rekey tag g 0xFFFF) s fun t =>
    Answers 1 0x49 tag 0 0 [] s t ∧ ∃ x ∈ t.vault.xchs, x.g = s.home_ g.toNat ∧ x.chan = none ∧ x.init = true) ∧
  (∀ g, KeeperOpen s 0x49 → g < 8#8 → (s.peer (s.home_ g.toNat)).sub = .stranded ∨ (s.peer (s.home_ g.toNat)).sub = .landfall →
    Leaves (.rekey tag g 0xFFFF) s fun t => Answers 1 0x49 tag 0 0 [] s t ∧ (t.peer (s.home_ g.toNat)).rekeyHeld = true ∧ t.vault = s.vault) ∧
  (∀ g c, KeeperOpen s 0x49 → g < 8#8 → c < 8192#16 → s.chEn c.toNat = true → s.asxon c.toNat = true → s.home_ (s.spg c.toNat) = s.home_ g.toNat →
    (s.peer (s.home_ g.toNat)).sub = .joined → s.mayKey = true → s.vault.xchs = [] → Leaves (.rekey tag g c) s fun t =>
      Answers 1 0x49 tag 0 0 [] s t ∧ ∃ x ∈ t.vault.xchs, x.chan = some c.toNat ∧ x.init = true) ∧
  (∀ g, KeeperOpen s 0x49 → g < 8#8 → (s.peer (s.home_ g.toNat)).sub = .joined → s.mayKey = false → Leaves (.rekey tag g 0xFFFF) s fun t =>
    Answers 1 0x49 tag 2 0 [] s t ∧ t.vault = s.vault) ∧
  (∀ confirm, s.alive 1 = true → lifeOf s.boot.fuses = 1 → Leaves (.lifecycleAdvance tag 2 confirm) s fun t =>
    Answers 1 0x4B tag 0 0 [] s t ∧ t.boot.fuses = s.boot.fuses + 1) ∧
  (s.alive 1 = true → lifeOf s.boot.fuses = 2 → Leaves (.lifecycleAdvance tag 3 0xA5A55A5A) s fun t =>
    t.boot.fuses = s.boot.fuses + 2 ∧ t.vault.dukRetired = [0, 1, 2, 3] ∧ t.dev.dstate = .zeroized ∧ t.slots = []) ∧
  (∀ target confirm, s.alive 1 = true → target.toNat ≤ lifeOf s.boot.fuses → Leaves (.lifecycleAdvance tag target confirm) s fun t =>
    (∃ r, Answers 1 0x4B tag 1 r [] s t) ∧ t.boot = s.boot ∧ t.vault = s.vault) ∧
  (∀ n hash, s.alive 1 = true → s.life ≠ 3 → n < 4#8 → hash.length = 32 → s.boot.intKeys.any (fun e => e.1 == n.toNat) = false →
    Leaves (.integratorKeySet tag n hash) s fun t => Answers 1 0x4C tag 0 0 [] s t ∧ tget t.boot.intKeys n.toNat [] = hash) ∧
  (∀ n hash, s.alive 1 = true → s.life ≠ 3 → hash.length = 32 → s.boot.intKeys.any (fun e => e.1 == n.toNat) = true →
    Leaves (.integratorKeySet tag n hash) s fun t => (∃ r, Answers 1 0x4C tag 1 r [] s t) ∧ t.boot = s.boot) ∧
  (∀ n, s.alive 1 = true → n < 4#8 → Leaves (.integratorKeyRevoke tag n) s fun t => Answers 1 0x4D tag 0 0 [] s t ∧ n.toNat ∈ t.boot.intRevoked) ∧
  (∀ ver, s.alive 1 = true → ver.toNat ≤ (s.reg 0x98108).toNat → ver.toNat ≤ 64 → s.boot.fwFloor ≤ ver.toNat → Leaves (.floorSet tag 0 ver) s fun t =>
    Answers 1 0x4E tag 0 0 [] s t ∧ t.boot.fwFloor = ver.toNat ∧ t.boot.patchFloor = s.boot.patchFloor) ∧
  (∀ ver, s.alive 1 = true → ver.toNat ≤ (s.reg 0x98110).toNat → ver.toNat ≤ 64 → s.boot.patchFloor ≤ ver.toNat → Leaves (.floorSet tag 1 ver) s fun t =>
    Answers 1 0x4E tag 0 0 [] s t ∧ t.boot.patchFloor = ver.toNat ∧ t.boot.fwFloor = s.boot.fwFloor) ∧
  (∀ ver, s.alive 1 = true → ver.toNat < s.boot.fwFloor ∨ (s.reg 0x98108).toNat < ver.toNat → Leaves (.floorSet tag 0 ver) s fun t =>
    (∃ r, Answers 1 0x4E tag 1 r [] s t) ∧ t.boot = s.boot)

/-- 13 R356, R357, R360, R367, 10 R308: HC0's commands, while it serves. FW_INFO answers 24 bytes. FW_WRITE and STORE_WRITE put the bytes
where they name, outside RECOVERY and (FW_WRITE) the active slot; STORE_WRITE is refused in RECOVERY. FW_VERIFY answers 1, 2 or 3 for a
format, a floor or (outside RECOVERY) a signature that fails, else 0. IMAGES_RELOAD answers and leaves every context FREE. LOG_READ answers
whole records, and nothing while HC0 does not serve. -/
def ManagementPart : Prop := ∀ (s : State) (tag : Half),
  (s.alive 0 = true → Leaves (.fwInfo tag) s fun t => ∃ p : List Byte, p.length = 24 ∧ Answers 0 1 tag 0 0 p s t ∧ t.boot = s.boot) ∧
  (∀ n off bytes, s.alive 0 = true → s.stage ≠ 0xE → n.toNat ≤ 1 → n.toNat ≠ fld (s.reg 0x98100) 8 1 → off.toNat % 4096 = 0 →
    off.toNat + bytes.length ≤ 0x800000 → bytes.length ≤ 65504 → MemOk s → Leaves (.fwWrite tag n off bytes) s fun t =>
      Answers 0 2 tag 0 0 [] s t ∧ memBytes t.mem (norSlot n.toNat + off.toNat) bytes.length = bytes) ∧
  (∀ n off bytes, s.alive 0 = true → s.stage ≠ 0xE → n.toNat = fld (s.reg 0x98100) 8 1 → bytes.length ≤ 65504 →
    Leaves (.fwWrite tag n off bytes) s fun t => Answers 0 2 tag 1 0x85 [] s t) ∧
  (∀ off bytes, s.alive 0 = true → s.stage ≠ 0xE → off.toNat + bytes.length ≤ 0x1000000 → bytes.length ≤ 65512 → MemOk s →
    Leaves (.storeWrite tag off bytes) s fun t => Answers 0 4 tag 0 0 [] s t ∧ memBytes t.mem (norStore + off.toNat) bytes.length = bytes) ∧
  (∀ off bytes, s.alive 0 = true → s.stage = 0xE → Leaves (.storeWrite tag off bytes) s fun t => Answers 0 4 tag 1 0x81 [] s t) ∧
  (∀ n, s.alive 0 = true → n.toNat ≤ 1 → (s.fwFormat n.toNat).1 = false → Leaves (.fwVerify tag n) s fun t => Answers 0 3 tag 1 1 [] s t) ∧
  (∀ n, s.alive 0 = true → n.toNat ≤ 1 → (s.fwFormat n.toNat).1 = true → (s.mword (norSlot n.toNat + 8)).toNat < s.boot.fwFloor →
    Leaves (.fwVerify tag n) s fun t => Answers 0 3 tag 1 2 [] s t) ∧
  (∀ n, s.alive 0 = true → n.toNat ≤ 1 → (s.fwFormat n.toNat).1 = true → s.boot.fwFloor ≤ (s.mword (norSlot n.toNat + 8)).toNat → s.stage ≠ 0xE →
    Leaves (.fwVerify tag n) s fun t => t.boot = s.boot ∧
      if s.signedOk 0 (s.mget (norSlot n.toNat) (s.fwFormat n.toNat).2) then Answers 0 3 tag 0 0 [] s t else Answers 0 3 tag 1 3 [] s t) ∧
  (s.alive 0 = true → s.stage ≠ 0xE → Leaves (.imagesReload tag) s fun t => (∃ slot bytes, .response 0 slot bytes ∈ t.out) ∧ t.ev 0x90000 0 ∧
    ∀ (n : Fin 192) (c : Fin 64), (t.ctx n c).st = 0) ∧
  (∀ start, s.alive 0 = true → s.stage ≠ 0xE → Leaves (.logRead tag start) s fun t => ∃ p : List Byte, p.length % 16 = 0 ∧ p.length ≤ 65520 ∧
    Answers 0 6 tag 0 0 p s t) ∧
  (∀ start, s.alive 0 = false → exec (.logRead tag start) s = .next s)

/-- Base of queue q of kiln k. -/
def queueAt (k q : Nat) : Nat := pKln k + 0x140 + 0x20 * q

/-- The entry at the head of queue q of kiln k may be taken (10 R291, R292): the queue runs, is not empty and has a completion record free,
the device is not SEALED where the queue is a secret one, and the entry is e. -/
def HeadIs (s : State) (k q : Nat) (e : List Byte) : Prop :=
  bit (s.reg (queueAt k q + 8)) 8 = true ∧ s.reg (queueAt k q + 0x0C) ≠ s.reg (queueAt k q + 0x10) ∧
    s.taken k q + tget s.kiln.recs (4 * k + q) 0 < 2 ^ fld (s.reg (queueAt k q + 8)) 0 4 ∧ (s.isSealed = true → q < 2) ∧
      (s.ringAddr k ((s.reg (queueAt k q)).toNat + 64 * (s.reg (queueAt k q + 0x0C)).toNat)).map (fun a => s.mget a 64) = some e

/-- 10 R286, R288 to R297, 07 R219: jobs and contexts. A doorbell of the queue's owner, before a firing and with both indexes within the queue,
moves its tail; another harbour's is dropped and counted in IGNORED_WR. A kiln that may dispatch takes the head of the highest
queue that gives it work; one that may not does nothing. An entry that breaks the format completes with 0x13; another one, an
engine and a bank being free, becomes a READY or RESIDENT context with the entry's pc and s1, recorded as a job. A job with a
time limit that runs out leaves its context FREE and raises its event. RESUME of an unsealed FAULTED restartable context makes
it RESIDENT at its faulting pc, its registers kept, and the engine then picks what to run; of a context that is not FAULTED it
does nothing. KILL leaves a context FREE; of a FREE one it does nothing. An ENG doorbell raises line 5 of its engines, and the
timer's match line 6 of each engine. -/
def JobsAndContextsPart : Prop := ∀ (s : State) (k : Fin 24),
  (∀ (h : Fin 2) (q : Fin 4) v, s.islOff (193 + k) = false → h.val = q / 2 → s.gen.held = [] → fld v 0 10 < 2 ^ fld (s.reg (queueAt k q + 8)) 0 4 →
    fld (s.reg (queueAt k q + 0x14)) 0 10 < 2 ^ fld (s.reg (queueAt k q + 8)) 0 4 → Leaves (.qTailDoorbell h k q v) s fun t =>
      t.reg (queueAt k q + 0x10) = v &&& 0x3FF) ∧
  (∀ (h : Fin 2) (q : Fin 4) v, s.islOff (193 + k) = false → h.val ≠ q / 2 → Leaves (.qTailDoorbell h k q v) s fun t =>
    t.reg (queueAt k q + 0x10) = s.reg (queueAt k q + 0x10) ∧ (s.reg (pKln k + 0x124) ≠ 0xFFFFFFFF → t.reg (pKln k + 0x124) = s.reg (pKln k + 0x124) + 1)) ∧
  (∀ q : Fin 4, s.mayDispatch k = true → (∀ r : Fin 4, q < r → s.takeJob k r = none) → (s.takeJob k q).isSome = true →
    exec (.jobDispatch k) s = .next ((s.takeJob k q).getD s)) ∧
  (s.mayDispatch k = false → exec (.jobDispatch k) s = .next s) ∧
  (∀ (q : Fin 4) e, HeadIs s k q e → jobBreach q e = true → s.takeJob k q =
    some ((s.setReg (queueAt k q + 0x0C) (w32 (((s.reg (queueAt k q + 0x0C)).toNat + 1) % 2 ^ fld (s.reg (queueAt k q + 8)) 0 4))).complete k q (wordAt e 0) 0x13 0 0 0 0)) ∧
  (∀ (q : Fin 4) e n, HeadIs s k q e → jobBreach q e = false → s.engineFor k (fld (wordAt e 1) 8 8) (bit (wordAt e 1) 0) = some n → (s.eng n).freeBanks ≠ [] →
    ∃ u c, s.takeJob k q = some u ∧ (s.ctx n c).st = 0 ∧ ((u.ctx n c).st = 2 ∨ (u.ctx n c).st = 3) ∧ (u.ctx n c).pc = wordAt e 2 ∧
      (u.ctx n c).regs.s.getD 1 0 = wordAt e 13 ∧ (u.ctx n c).sealed_ = bit (wordAt e 1) 0 ∧ (u.kiln.jobs.map (·.id)).getLast? = some (wordAt e 0)) ∧
  (∀ (n : Fin 192) (c : Fin 64), s.kiln.jobs.any (fun j => j.kiln == n.val / 8 && j.engine == n.val % 8 && j.ctx == c.val && j.timeout != 0) = true →
    Leaves (.jobTimeout n c) s fun t => (t.ctx n c).st = 0 ∧ t.ev (pKln (n / 8)) 7 ∧ ∀ j ∈ t.kiln.jobs, ¬ (j.kiln = n / 8 ∧ j.engine = n % 8 ∧ j.ctx = c)) ∧
  (∀ (h : Fin 2) (n : Fin 192) (c : Fin 64), (s.ctx n c).st = 4 → (s.ctx n c).restart = true → (s.ctx n c).sealed_ = false →
    LeavesBy (·.runNext n) (.resume h n c) s fun u => (u.ctx n c).st = 2 ∧ (u.ctx n c).pc = (s.ctx n c).faultPc ∧ (u.ctx n c).regs = (s.ctx n c).regs) ∧
  (∀ (h : Fin 2) (n : Fin 192) (c : Fin 64), (s.ctx n c).st ≠ 4 → exec (.resume h n c) s = .next s) ∧
  (∀ (h : Fin 2) (n : Fin 192) (c : Fin 64), (s.ctx n c).st ≠ 0 → Leaves (.kill h n c) s fun t => (t.ctx n c).st = 0) ∧
  (∀ (h : Fin 2) (n : Fin 192) (c : Fin 64), (s.ctx n c).st = 0 → exec (.kill h n c) s = .next s) ∧
  (∀ (h : Fin 2) v (e : Fin 8), s.islOff (193 + k) = false → bit v e = true → Leaves (.engDoorbell h k v) s fun t =>
    5 ∈ (t.eng (8 * k + e)).lines ∧ t.reg (pKln k + 0x114) = s.reg (pKln k + 0x114) ||| (v &&& 0xFF)) ∧
  (∀ e : Fin 8, s.islOff (193 + k) = false → Leaves (.timerCmpMatch k) s fun t => 6 ∈ (t.eng (8 * k + e)).lines)

/-- 10 R299 to R303, R309: DMA channels and the hash co-unit. A channel started by an agent that may runs its list from the first entry for that
agent as owner, and by another one nothing changes; a harbour's STOP stops a running channel where it stands, and RESUME by an
agent that may lets it go on. An entry that cannot be read stops it with kind 6, and one that breaks a rule with that rule's
kind, with the event and no byte moved; another one between two stretches of memory that do not overlap moves its bytes, and the
last of a list ends it. A session that another agent holds does not start. One started is owned, holds no input yet, and is busy
if its settings are legal, in error if not. One of SHA-2 or SHA-3 kind whose input is complete shows its digest in HS_OUT and is
done; before that HASH_DONE does nothing. Release clears the session. -/
def DmaAndHashPart : Prop := ∀ (s : State) (k : Fin 24) (a : Agent),
  (∀ ch : Fin 8, s.islOff (193 + k) = false → s.dmaBarred k ch a = false → Leaves (.dmaGo k ch a) s fun t => t.reg (dmaReg k ch + 8) = 1 ∧
    t.reg (dmaReg k ch + 0x10) = 0 ∧ (t.dma k ch).list = (s.reg (dmaReg k ch)).toNat ∧ (t.dma k ch).idx = 0 ∧ (t.dma k ch).owner = (s.owner a).1) ∧
  (∀ ch : Fin 8, s.islOff (193 + k) = false → s.dmaBarred k ch a = true → Leaves (.dmaGo k ch a) s fun t => t.reg (dmaReg k ch + 8) = s.reg (dmaReg k ch + 8) ∧ t.kiln = s.kiln) ∧
  (∀ (ch : Fin 8) (h : Fin 2), s.islOff (193 + k) = false → fld (s.reg (dmaReg k ch + 8)) 0 2 = 1 → a = .harbour h → Leaves (.dmaStop k ch a) s fun t =>
    fld (t.reg (dmaReg k ch + 8)) 0 2 = 3 ∧ fld (t.reg (dmaReg k ch + 8)) 2 2 = 2 ∧ (t.dma k ch).idx = (s.dma k ch).idx) ∧
  (∀ ch : Fin 8, s.islOff (193 + k) = false → fld (s.reg (dmaReg k ch + 8)) 0 2 = 3 → s.dmaBarred k ch a = false → Leaves (.dmaResume k ch a) s fun t =>
    fld (t.reg (dmaReg k ch + 8)) 0 2 = 1 ∧ t.kiln = s.kiln) ∧
  (∀ (ch : Fin 8) err, s.islOff (193 + k) = false → fld (s.reg (dmaReg k ch + 8)) 0 2 = 1 → s.dmaEntry k ch = none → Leaves (.dmaEntryDone k ch err) s fun t =>
    fld (t.reg (dmaReg k ch + 8)) 0 2 = 3 ∧ fld (t.reg (dmaReg k ch + 8)) 2 2 = 1 ∧ fld (t.reg (dmaReg k ch + 8)) 4 4 = 6 ∧ t.ev (pKln k) 4 ∧ t.mem = s.mem) ∧
  (∀ (ch : Fin 8) err e, s.islOff (193 + k) = false → fld (s.reg (dmaReg k ch + 8)) 0 2 = 1 → s.dmaEntry k ch = some e →
    s.dmaCheck k (s.dma k ch) (wordAt e 0).toNat (wordAt e 1).toNat (fld (wordAt e 2) 0 24) (wordAt e 3).toNat ≠ 0 → Leaves (.dmaEntryDone k ch err) s fun t =>
      fld (t.reg (dmaReg k ch + 8)) 0 2 = 3 ∧ t.ev (pKln k) 4 ∧ t.mem = s.mem ∧ fld (t.reg (dmaReg k ch + 8)) 4 4 =
        s.dmaCheck k (s.dma k ch) (wordAt e 0).toNat (wordAt e 1).toNat (fld (wordAt e 2) 0 24) (wordAt e 3).toNat) ∧
  (∀ (ch : Fin 8) e sa da, s.islOff (193 + k) = false → fld (s.reg (dmaReg k ch + 8)) 0 2 = 1 → s.dmaEntry k ch = some e →
    s.dmaCheck k (s.dma k ch) (wordAt e 0).toNat (wordAt e 1).toNat (fld (wordAt e 2) 0 24) (wordAt e 3).toNat = 0 →
      kilnFifo (wordAt e 0).toNat = none → kilnFifo (wordAt e 1).toNat = none → s.dmaAddr k (s.dma k ch).owner (wordAt e 0).toNat = some sa →
        s.dmaAddr k (s.dma k ch).owner (wordAt e 1).toNat = some da → sa + fld (wordAt e 2) 0 24 ≤ da ∨ da + fld (wordAt e 2) 0 24 ≤ sa →
          Leaves (.dmaEntryDone k ch false) s fun t => t.mem = memPut s.mem da (memBytes s.mem sa (fld (wordAt e 2) 0 24)) ∧
            fld (t.reg (dmaReg k ch + 8)) 0 2 = (if bit (wordAt e 3) 0 then 2 else 1) ∧
              (t.dma k ch).idx = (if bit (wordAt e 3) 0 then (s.dma k ch).idx else (s.dma k ch).idx + 1)) ∧
  (∀ (h : Fin 4) v, s.islOff (193 + k) = false → s.hashForeign k h a = false → bit v 24 = true → Leaves (.hashStart k h a v) s fun t =>
    t.hash k h = { owner := some (s.owner a), sealed_ := s.agentSealed a } ∧ t.reg (hashReg k h) = v &&& 0xFFFFFF ∧
      bit (t.reg (hashReg k h + 0x10)) 0 = hashOk v (s.reg (hashReg k h + 8)) ∧ bit (t.reg (hashReg k h + 0x10)) 2 = !hashOk v (s.reg (hashReg k h + 8))) ∧
  (∀ (h : Fin 4) v, s.islOff (193 + k) = false → s.hashForeign k h a = true → Leaves (.hashStart k h a v) s fun t => t.kiln = s.kiln ∧ t.reg (hashReg k h) = s.reg (hashReg k h)) ∧
  (∀ (h : Fin 4) (i : Fin 16), bit (s.reg (hashReg k h + 0x10)) 0 = true → s.hashNeed k h ≤ (s.hash k h).input.length → fld (s.reg (hashReg k h)) 4 2 = 0 →
    fld (s.reg (hashReg k h)) 0 4 ≤ 4 → bit (s.reg (hashReg k h)) 7 = false → 4 * i.val < digestLen (fld (s.reg (hashReg k h)) 0 4) →
      Leaves (.hashDone k h) s fun t => fld (t.reg (hashReg k h + 0x10)) 0 3 = 2 ∧
        t.reg (hashReg k h + 0x40 + 4 * i) = wordAt (digest (fld (s.reg (hashReg k h)) 0 4) (s.hash k h).input) i) ∧
  (∀ h : Fin 4, (s.hash k h).input.length < s.hashNeed k h → exec (.hashDone k h) s = .next s) ∧
  (∀ (h : Fin 4) v, s.islOff (193 + k) = false → s.hashForeign k h a = false → bit v 0 = true → Leaves (.hsRelease k h a v) s fun t =>
    t.hash k h = {} ∧ t.reg (hashReg k h) = 0 ∧ t.reg (hashReg k h + 0x10) = 0)

/-- Every kind of alarm has the action LOG (11 R327). -/
def LogOnly (s : State) : Prop := s.vault.sense = 0

/-- 11 R314 to R318, R323 to R325, R327 to R329: probes and batches. Where a port probes and fewer than 1,024 of its REQs wait, its timer
remembers the REQ by the port's SEQ, moves SEQ on and takes an OFF group to LEARNING; what follows is the frame's sending. A lost
probe leaves the outstanding ones and is counted for its port and group. A batch of a group that is not OFF, its path down,
forgets the hits and counts its ports anew; with its path up, all actions LOG, it counts its ports anew; in SUSPENDED the
reference port's round trip, if measured, stands in RTT. A missed batch counts and raises its event. SENSE_LOST is latched and
shown in LAST_ALARM: with LOG the device's state stays, with SEAL the device is then sealed for kind 11 of the group. Learning
ends ARMED with its event, the tracked baseline the learned one and the asymmetry ASYM_PS. With 1,088 probes complete and the
path up, ALARM_HOLDOFF_END takes a group that was ARMED to ARMED, all actions LOG, and another to LEARNING. -/
def ProbesAndBatchesPart : Prop := ∀ (s : State) (g : Fin 8),
  (∀ p : Fin 32, s.probes p = false → exec (.probeReqTimer p) s = .next s) ∧
  (∀ p : Fin 32, s.probes p = true → (s.port true p).reqs.length < 1024 →
    LeavesBy (·.portFrameOn (s.home_ (p / 4)) p 4 false (probeBody 1 p (s.port true p).seq 0 0 0)) (.probeReqTimer p) s fun u =>
      (u.port true p).reqs.map (·.1) = (s.port true p).reqs.map (·.1) ++ [(s.port true p).seq] ∧
        (u.port true p).seq = ((s.port true p).seq + 1) % 2 ^ 64 ∧ u.senseMode (p / 4) = if s.senseMode (p / 4) = 0 then 1 else s.senseMode (p / 4)) ∧
  (∀ (p : Fin 32) n, (s.port true p).reqs.any (fun e => e.1 == n) = true → Leaves (.probeLost p n) s fun t => (∀ e ∈ (t.port true p).reqs, e.1 ≠ n) ∧
    (t.port true p).lostNow = (s.port true p).lostNow + 1 ∧ Counted s t (0x70200 + 0x40 * (p / 4) + 0x2C)) ∧
  (∀ (p : Fin 32) n, (s.port true p).reqs.any (fun e => e.1 == n) = false → exec (.probeLost p n) s = .next s) ∧
  (∀ skews, s.senseMode g = 0 → exec (.sensingBatch g skews) s = .next s) ∧
  (∀ skews, s.senseMode g ≠ 0 → s.senses_ = true → (s.path g).up = false → Leaves (.sensingBatch g skews) s fun t =>
    (t.sense g).hits = [] ∧ (t.sense g).authHit = false ∧ ∀ n : Fin 4, (t.port true (4 * g + n)).doneNow = 0 ∧ (t.port true (4 * g + n)).lostNow = 0) ∧
  (∀ skews, s.senseMode g ≠ 0 → s.senses_ = true → (s.path g).up = true → LogOnly s → Leaves (.sensingBatch g skews) s fun t =>
    (t.sense g).authHit = false ∧ ∀ n : Fin 4, (t.port true (4 * g + n)).doneNow = 0 ∧ (t.port true (4 * g + n)).lostNow = 0) ∧
  (∀ skews, s.senseMode g = 3 → s.senses_ = true → (s.path g).up = true → (s.port true (s.refPort g)).measure.isSome = true →
    Leaves (.sensingBatch g skews) s fun t => ∀ m, (s.port true (s.refPort g)).measure = some m →
      t.reg (0x70200 + 0x40 * g + 0x0C) = w32 ((near m.rtt % 2 ^ 64).toNat) ∧ t.reg (0x70200 + 0x40 * g + 0x10) = w32 ((near m.rtt % 2 ^ 64).toNat / 2 ^ 32)) ∧
  (s.senseMode g ≠ 0 → Leaves (.batchMiss g) s fun t => Counted s t 0x7012C ∧ t.ev 0x70000 2) ∧
  (s.senseMode g = 0 → exec (.batchMiss g) s = .next s ∧ exec (.senseLost g) s = .next s) ∧
  (s.senseMode g ≠ 0 → s.actionOf 11 = 0 → Leaves (.senseLost g) s fun t => bit (t.reg (0x70200 + 0x40 * g + 0x28)) 11 = true ∧
    t.reg 0x70124 = w32 (2 ^ 31 + 16 * g + 11) ∧ t.ev 0x70000 0 ∧ t.dev.dstate = s.dev.dstate) ∧
  (s.senseMode g ≠ 0 → s.actionOf 11 = 2 → LeavesBy (·.seal_ 2 (11 + 16 * g) false) (.senseLost g) s fun u =>
    bit (u.reg (0x70200 + 0x40 * g + 0x28)) 11 = true ∧ u.ev 0x70000 0) ∧
  (s.senseMode g = 1 → Leaves (.learningEnd g) s fun t => t.senseMode g = 2 ∧ t.ev 0x70000 1 ∧ (t.sense g).hits = [] ∧
    (t.sense g).tracked = (t.sense g).learned ∧ (t.sense g).asym = ofPs (sgn 32 (s.lv (0x70204 + 0x40 * g)).toNat)) ∧
  (s.senseMode g ≠ 1 → exec (.learningEnd g) s = .next s) ∧
  (s.senseMode g = 3 → (s.path g).up = true → 1088 ≤ (s.port true (s.refPort g)).done → (s.sense g).wasArmed = false →
    exec (.alarmHoldoffEnd g) s = .next (s.setSenseMode g 1)) ∧
  (s.senseMode g = 3 → (s.path g).up = true → 1088 ≤ (s.port true (s.refPort g)).done → (s.sense g).wasArmed = true → LogOnly s →
    Leaves (.alarmHoldoffEnd g) s fun t => t.senseMode g = 2) ∧
  ((s.port true (s.refPort g)).done < 1088 → exec (.alarmHoldoffEnd g) s = .next s)

/-- 11 R320 to R322: equalisers and optics. A snapshot's CTLE, VGA and first four taps stand in the lane's window, EQ_SHIFT being LOG. A fast
poll serves strait slots, a slow poll all; a slot that is not polled changes nothing. Of three fast polls in a row without an
answer the first two are only remembered, and the third, as the third slow one, marks the slot LOST with OPTICS_LOST raised, its
action LOG. A fast poll that is answered, all actions LOG, marks the slot PRESENT, counts it and shows the RX power of each lane
of the slot; a slow one shows temperature, supply and each lane's TX power, read most significant byte first (00 R6). A LOST
slot that answers is PRESENT again. -/
def EqualisersAndOpticsPart : Prop := ∀ s : State,
  (∀ (l : Fin 32) c, s.actionOf 3 = 0 → Leaves (.eqSnapshot l c) s fun t =>
    fld (t.reg (0x1500000 + 64 * l + 8)) 0 16 = c.ctle.toNat + 256 * c.vga.toNat ∧
      t.reg (0x1500000 + 64 * l + 12) = w32 (leNat ((List.range 4).map (fun i => c.dfe.getD i 0)))) ∧
  (∀ (i : Fin 32) r, s.slotPolled i = false → exec (.opticsFastPoll i r) s = .next s ∧ exec (.opticsSlowPoll i r) s = .next s) ∧
  (∀ i : Fin 32, s.slotPolled i = true → bit (s.optCfg i) 1 = false → (s.slotOf i).misses < 2 → Leaves (.opticsFastPoll i none) s fun t =>
    (t.slotOf i).misses = (s.slotOf i).misses + 1 ∧ t.regs = s.regs) ∧
  (∀ i : Fin 32, s.slotPolled i = true → bit (s.optCfg i) 1 = false → (s.slotOf i).misses = 2 → s.actionOf 10 = 0 → Leaves (.opticsFastPoll i none) s fun t =>
    t.reg (0x1510000 + 64 * i) = 2 ∧ t.ev 0x70000 3 ∧ t.ev 0x70000 0) ∧
  (∀ i : Fin 32, s.slotPolled i = true → (s.slotOf i).misses = 2 → s.actionOf 10 = 0 → Leaves (.opticsSlowPoll i none) s fun t =>
    t.reg (0x1510000 + 64 * i) = 2 ∧ t.ev 0x70000 3) ∧
  (∀ (i : Fin 32) r (n : Fin 8), s.slotPolled i = true → bit (s.optCfg i) 1 = false → LogOnly s → Leaves (.opticsFastPoll i (some r)) s fun t =>
    t.reg (0x1510000 + 64 * i) = 1 ∧ t.reg (0x1510038 + 64 * i) = s.reg (0x1510038 + 64 * i) + 1 ∧ (t.slotOf i).misses = 0 ∧
      (bit (s.optCfg i) (8 + n) = true → fld (t.reg (0x1510008 + 64 * i + 4 * (n / 2))) (16 * (n % 2)) 16 = (lanePower r.rx n % 65536).toNat)) ∧
  (∀ (i : Fin 32) r (n : Fin 8), s.slotPolled i = true → LogOnly s → Leaves (.opticsSlowPoll i (some r)) s fun t =>
    t.reg (0x1510000 + 64 * i) = 1 ∧ t.reg (0x1510004 + 64 * i) = w32 (beNat (r.lower.take 2) + 65536 * beNat (cut r.lower 2 2)) ∧
      (bit (s.optCfg i) (8 + n) = true → fld (t.reg (0x1510028 + 64 * i + 4 * (n / 2))) (16 * (n % 2)) 16 = (lanePower r.tx n % 65536).toNat)) ∧
  (∀ (i : Fin 32) r, bit (s.reg (0x1510000 + 64 * i)) 1 = true → s.slotOn i = true → Leaves (.lostSlotPoll i (some r)) s fun t =>
    t.reg (0x1510000 + 64 * i) = 1 ∧ (t.slotOf i).misses = 0 ∧ (t.slotOf i).answered = true) ∧
  (∀ (i : Fin 32) r, s.slotOn i = false → exec (.lostSlotPoll i r) s = .next s) ∧
  (∀ i : Fin 32, exec (.lostSlotPoll i none) s = .next s)

end Sys2Proof.Claims

open Sys2Proof Sys2Proof.Machine Sys2Proof.Claims

/-- The three-register scalar operations (08 R222 table 0x01, R241): the next bundle reads u32 results; nothing else of the
core changes but the PC. Shift amounts are bits [7:0] of rb; rotates use them modulo 32. -/
def Obligations.ScalarResults : Prop :=
  Gives3 .add (fun a b => a + b) ∧ Gives3 .sub (fun a b => a - b) ∧ Gives3 .and (fun a b => a &&& b) ∧
  Gives3 .or (fun a b => a ||| b) ∧ Gives3 .xor (fun a b => a ^^^ b) ∧ Gives3 .andn (fun a b => a &&& ~~~b) ∧
  Gives3 .sll (fun a b => if b.toNat % 256 < 32 then a <<< (b.toNat % 256) else 0) ∧
  Gives3 .srl (fun a b => if b.toNat % 256 < 32 then a >>> (b.toNat % 256) else 0) ∧
  Gives3 .sra (fun a b => a.sshiftRight (if b.toNat % 256 < 32 then b.toNat % 256 else 31)) ∧
  Gives3 .ror (fun a b => a.rotateRight (b.toNat % 32)) ∧ Gives3 .rol (fun a b => a.rotateLeft (b.toNat % 32)) ∧
  Gives3 .slt (fun a b => if a.slt b then 1 else 0) ∧ Gives3 .sltu (fun a b => if a.ult b then 1 else 0) ∧
  Gives3 .min (fun a b => if a.slt b then a else b) ∧ Gives3 .max (fun a b => if a.slt b then b else a) ∧
  Gives3 .minu (fun a b => if a.ult b then a else b) ∧ Gives3 .maxu (fun a b => if a.ult b then b else a)

/-- Immediate and two-operand scalar operations (08 R222 tables, R240, R241). -/
def Obligations.ImmediateResults : Prop :=
  GivesI .addi (fun a i => a + i) ∧ GivesI .andi (fun a i => a &&& i) ∧ GivesI .ori (fun a i => a ||| i) ∧
  GivesI .xori (fun a i => a ^^^ i) ∧ GivesI .slti (fun a i => if a.slt i then 1 else 0) ∧
  GivesI .sltiu (fun a i => if a.ult i then 1 else 0) ∧
  GivesN .slli (fun a n => if n < 32 then a <<< n else 0) ∧
  GivesN .srli (fun a n => if n < 32 then a >>> n else 0) ∧
  GivesN .srai (fun a n => a.sshiftRight (if n < 32 then n else 31)) ∧
  GivesN .rori (fun a n => a.rotateRight (n % 32)) ∧
  Gives2 .clz (fun a => BitVec.ofNat 32 ((List.range 32).takeWhile (fun i => !a.getLsbD (31 - i))).length) ∧
  Gives2 .popc (fun a => BitVec.ofNat 32 ((List.range 32).filter (fun i => a.getLsbD i)).length) ∧ Gives2 .brev BitVec.reverse ∧
  Gives2 .bswap (fun a => a.extractLsb' 0 8 ++ a.extractLsb' 8 8 ++ a.extractLsb' 16 8 ++ a.extractLsb' 24 8) ∧
  Gives2 .mov (fun a => a) ∧
  (∀ (rd : Reg) (i : Word), OnBothExt (.li · rd i) (fun _ x => x.putS rd.val i))

/-- The saturating and flag-setting scalar operations (08 R240): OV is 1, SAT is 2.
ADDC and SUBC (09 R262), on either core. -/
def Obligations.SaturatingAndCarry : Prop := SaturatingResultsPart ∧ CarryChainPart

/-- Multiplies and divides (08 R240, R246): OV 1, DZ 4. -/
def Obligations.MultiplyDivideResults : Prop :=
  GivesMul .mul (fun a b => a * b) ∧
  GivesMul .mulh (fun a b => BitVec.ofInt 32 (a.toInt * b.toInt / 2 ^ 32)) ∧
  GivesMul .mulhu (fun a b => BitVec.ofNat 32 (a.toNat * b.toNat / 2 ^ 32)) ∧
  GivesDiv .div (fun a b => if b = 0 then (0xFFFFFFFF, 4) else
    (BitVec.ofInt 32 (a.toInt.tdiv b.toInt), if a = 0x80000000 ∧ b = 0xFFFFFFFF then 1 else 0)) ∧
  GivesDiv .rem (fun a b => if b = 0 then (a, 4) else
    (BitVec.ofInt 32 (a.toInt.tmod b.toInt), if a = 0x80000000 ∧ b = 0xFFFFFFFF then 1 else 0)) ∧
  GivesDiv .divu (fun a b => if b = 0 then (0xFFFFFFFF, 4) else (a / b, 0)) ∧
  GivesDiv .remu (fun a b => if b = 0 then (a, 4) else (a % b, 0))

/-- MVS, MVTS and ESTCLR on an engine (08 R242, R240); FPSTAT for the owner of the FP file. On a pair ESTAT and cy are read
and written alike (its other registers: log entry 15). -/
def Obligations.SpecialRegisters : Prop :=
  (∀ (rd : Reg) (i : Fin 32) (s : State) (n : Fin 192) (c k : Nat), i.val ≤ 10 → Calm s n c → (i = 3 → (s.eng n).fpOwner = some c) → k ≤ 1 →
    s.fetchFault n (s.ctx n c) k = none →
    exec (.mvs { core := .engine n, more := false, words := k } rd i) s =
      .next (s.passes n c k [] ((s.eng n).done c (((s.ctx n c).putS rd.val (specialOf n.val c (s.ctx n c) i.val)).past k) 0))) ∧
  (∀ (i : Fin 32) (ra : Reg), i.val ≤ 8 →
    (if i = 3 then OnFpOwner else (OnEngine · 0)) (.mvts · i ra) (fun _ x => specialSet x i.val (x.rs ra.val))) ∧
  (∀ (rd : Reg) (i : Fin 32), i.val ≤ 1 → OnHarbour (.mvs · rd i) (fun x => x.putS rd.val (specialOf 0 0 x i.val))) ∧
  (∀ (i : Fin 32) (ra : Reg), i.val ≤ 1 → OnHarbour (.mvts · i ra) (fun x => specialSet x i.val (x.rs ra.val))) ∧
  OnBoth .estclr (fun _ x => { x with regs := { x.regs with estat := 0 } })

/-- Branches, jumps and DBNZ (08 R229 to R231): the target is the bundle's address plus 4 × displacement, JR's is ra, and
nothing but the PC changes, ra under DBNZ, and what stands in
front of the pipeline (07 R208). -/
def Obligations.BranchesAndJumps : Prop :=
  Branches .beq (fun a b => decide (a = b)) ∧ Branches .bne (fun a b => decide (a ≠ b)) ∧
  Branches .blt (fun a b => a.slt b) ∧ Branches .bge (fun a b => b.sle a) ∧
  Branches .bltu (fun a b => a.ult b) ∧ Branches .bgeu (fun a b => b.ule a) ∧
  (∀ (ra : Reg) (d : Word),
    Jumps 2 (.beqz · ra d) 1 id (fun x => if x.rs ra.val = 0 then some (x.pc + 4 * d) else none) ∧
    Jumps 2 (.bnez · ra d) 1 id (fun x => if x.rs ra.val ≠ 0 then some (x.pc + 4 * d) else none) ∧
    Jumps 2 (.dbnz · ra d) 1 (fun x => x.putS ra.val (x.rs ra.val - 1)) (fun x => if x.rs ra.val ≠ 1 then some (x.pc + 4 * d) else none) ∧
    Jumps 2 (.j · d) 0 id (fun x => some (x.pc + 4 * d)) ∧
    Jumps 1 (.jr · ra) 0 id (fun x => some (x.rs ra.val)))

/-- LOOP with a count other than 0 makes its level active with the next bundle as its start (08 R232); with a count of 0 it
goes on after the end bundle, whose length the model reads from memory; RPT latches bits [7:0] of its count for the next
bundle (R235); LCLR makes its level inactive and empties the repeat cache (R234, 09 R266).
The end test of a level (08 R233), where one active level ends at the bundle: the count falls by one; the loop goes back to
its start unless the count is then 0, and then the level becomes inactive. The bundle is one NOP.
Each execution of the bundle after an RPT (08 R235): with executions left the PC stays and one is used up, at the last the
next bundle follows; a count of 0 passes over the bundle, whose operation does nothing. -/
def Obligations.Loops : Prop := LoopOperationsPart ∧ LoopEndTestPart ∧ RepeatTargetPart

/-- The scalar loads and VLD.Q on every address that raises no fault (08 R226, R227; 07 R197): sign or zero extension, the pair of
LD.D, and the base update that the next bundle reads. -/
def Obligations.LoadOperations : Prop :=
  (∀ rt : Reg,
    let one := fun (v : List Byte → Word) (b : List Byte) => [((.s rt.val : Dst), (.w (v b) : Val))]
    (∀ mk n v, (mk, n, v) ∈ [((fun w a => Instr.ldB w rt a), 1, fun b => (BitVec.ofNat 8 (leNat b)).signExtend 32), (fun w a => .ldBu w rt a, 1, leWord),
        (fun w a => .ldH w rt a, 2, fun b => (BitVec.ofNat 16 (leNat b)).signExtend 32), (fun w a => .ldHu w rt a, 2, leWord), (fun w a => .ldW w rt a, 4, leWord)] →
      Loads mk n [rt.val] (one v) ∧ LoadsHc mk n [rt.val] (one v)) ∧
    (rt.val % 2 = 0 →
      let two := fun (b : List Byte) => [((.s rt.val : Dst), (.w (leWord (b.take 4)) : Val)), (.s (rt.val + 1), .w (leWord (b.drop 4)))]
      Loads (.ldD · rt ·) 8 [rt.val, rt.val + 1] two ∧ LoadsHc (.ldD · rt ·) 8 [rt.val, rt.val + 1] two)) ∧
  (∀ vt : VReg, Loads (.vldQ · vt ·) 16 [] (fun b => [(.v vt.val, .v (BitVec.ofNat 128 (leNat b)))]))

/-- What an engine reads with an empty store buffer (07 R184, R185, R203): in I-RAM, D-RAM and fixed-count mode the bytes of
memory; through the data cache an aligned access leaves its line in the cache and reads the line. A line that was not there
is read from memory.
TIMER_CMP is read and written through kiln register space: the read is a long operation (07 R199, 10 R286). -/
def Obligations.LoadedValues : Prop := LoadedValuesPart ∧ KilnSpaceAccessPart

/-- The stores (08 R226, 07 R201, R203): the bytes enter the store buffer, or memory; nothing else but the base and the PC
changes. Every byte of memory outside the stored ones reads as before. -/
def Obligations.StoreOperations : Prop :=
  (∀ rt : Reg, ∀ mk n, (mk, n) ∈ [((fun w a => Instr.stB w rt a), 1), (fun w a => .stH w rt a, 2), (fun w a => .stW w rt a, 4)] →
    Stores mk n (fun x => leBytes n (x.rs rt.val).toNat) ∧ StoresHc mk n (fun x => leBytes n (x.rs rt.val).toNat)) ∧
  (∀ rt : Reg, rt.val % 2 = 0 →
    let v := fun (x : Ctx) => leBytes 4 (x.rs rt.val).toNat ++ leBytes 4 (x.rs (rt.val + 1)).toNat
    Stores (.stD · rt ·) 8 v ∧ StoresHc (.stD · rt ·) 8 v) ∧
  (∀ vt : VReg, Stores (.vstQ · vt ·) 16 (fun x => leBytes 16 (x.rv vt.val).toNat)) ∧
  (∀ (s : State) (a b : Nat) (l : List Byte), memRead (s.mput a l).mem b = if a ≤ b ∧ b < a + l.length then l.getD (b - a) 0 else memRead s.mem b)

/-- A buffered store outside the cached regions reaches memory at the next bundle that has no V memory operand; until then a
load that it covers reads the buffer (07 R201, R202).
SYNC.W and IFLUSH drain the store buffer, and IFLUSH empties the instruction cache and the repeat cache (08 R237, 09 R266):
stores outside the cached regions reach memory in order. -/
def Obligations.StoreBuffering : Prop := StoreBufferPart ∧ StoreDrainsPart

/-- CALL and CALLR store the address of the next bundle at sp − 4 and branch; RET goes to the word at sp (08 R231). -/
def Obligations.Calls : Prop :=
  (∀ (s : State) (n : Fin 192) (c k : Nat) (ra : Reg) (d : Word), Calm s n c → k ≤ 2 → s.fetchFault n (s.ctx n c) k = none →
    let x := s.ctx n c
    let w : At := { core := .engine n, more := false, words := k }
    (let sp := x.rs 31 - 4
     s.engFault n x sp 4 = none → kilnSpace sp.toNat = false →
      let after := fun t => storeIn (s.ran n x k [] (splitOf sp 4)) n ((s.eng n).after c ((x.putS 31 sp).off t) 0 true) sp (leBytes 4 (x.pc + BitVec.ofNat 32 (4 * k)).toNat)
      exec (.call w d) s = .next (after (x.pc + 4 * d)) ∧ (k ≤ 1 → exec (.callr w ra) s = .next (after (x.rs ra.val)))) ∧
    (∀ b s1, k ≤ 1 → s.engFault n x (x.rs 31) 4 = none → kilnSpace (x.rs 31).toNat = false →
      ((s.ran n x k [] (splitOf (x.rs 31) 4)).begun n c).engLoad n (x.rs 31) 4 = some (b, false, s1) →
      exec (.ret w) s = .next (s1.setEng n ((s1.eng n).after c ((x.putS 31 (x.rs 31 + 4)).off (leWord b)) 0 true)))) ∧
  (∀ (s : State) (h : Fin 2) (k m : Nat) (ra : Reg) (d : Word), HcCalm s h → 1 ≤ k → k ≤ 2 → s.inTask h (s.hc h).pc.toNat (4 * k) = true →
    let x := s.hcCur h
    let w : At := { core := .harbour h, more := false, words := k }
    (let sp := x.rs 31 - 4
     s.hcFault h sp 4 true = none → hcReg sp.toNat = false → hcAddr h sp.toNat = some m →
      let after := fun t => (s.mput m (leBytes 4 (x.pc + BitVec.ofNat 32 (4 * k)).toNat)).setHc h { (s.hc h).done (x.putS 31 sp).regs k with pc := t }
      exec (.call w d) s = .next (after (x.pc + 4 * d)) ∧ (k = 1 → exec (.callr w ra) s = .next (after (x.rs ra.val)))) ∧
    (k = 1 → s.hcFault h (x.rs 31) 4 false = none → hcReg (x.rs 31).toNat = false → hcAddr h (x.rs 31).toNat = some m →
      exec (.ret w) s = .next (s.setHc h { (s.hc h).done (x.putS 31 (x.rs 31 + 4)).regs k with pc := leWord (s.mget m 4) })))

/-- The system operations that only change the engine and what stands in front of it (08 R237, 07 R209): DINT, EINT, SWI, PFLUSH,
PBAR, NOP, FPBAR with no FP result in flight, and the cache operations; caches are off under deterministic and fixed-count mode.
What stands in front of the pipeline (07 R208, R209, R218), as a bundle of context x passes: a counter that has selected bundles
counts it and one that has selected unaligned accesses counts those, unless the running context is sealed; an unbarred branch shifts its
outcome into the history, and without a tagged match moves a counter of the base table; PBAR keeps branches from both. -/
def Obligations.SystemOperations : Prop := SystemOperationsPart ∧ FrontEndPart

/-- VGATH.H (09 R267, R268): elements from VPROG on, and VPROG := 0; the fault of the first element outside D-RAM or the data
regions keeps the earlier ones. -/
def Obligations.Gathers : Prop :=
  ∀ (s : State) (n : Fin 192) (c k : Nat) (vd vi : VReg) (sn : Reg), Calm s n c → k ≤ 1 → s.fetchFault n (s.ctx n c) k = none →
    vd.val % 2 = 0 → vi.val % 2 = 0 → (s.ctx n c).regs.v.length = 16 →
    let x := s.ctx n c
    let first := if 16 ≤ x.regs.vprog.toNat then 0 else x.regs.vprog.toNat
    let elem := fun (y : Ctx) (r j : Nat) => (y.rv (r + j / 8)).extractLsb' (16 * (j % 8)) 16
    let addr := fun j => x.rs sn.val + 2 * (elem x vi.val j).setWidth 32
    let ok := fun j => dram ((addr j).toNat / 2 * 2) = true ∧ x.inData ((addr j).toNat / 2 * 2) 2 = true
    let value := fun j => BitVec.ofNat 16 (leNat (s.getEng n ((addr j).toNat / 2 * 2) 2))
    let w : At := { core := .engine n, more := false, words := k }
    ((∀ j, first ≤ j → j < 16 → ok j) → ∃ y : Ctx,
      (∀ j < 16, elem y vd.val j = if first ≤ j then value j else elem x vd.val j) ∧ (∀ r < 16, r / 2 ≠ vd.val / 2 → y.rv r = x.rv r) ∧
      exec (.vgathH w vd sn vi) s = .next (s.passes n c k [] ((s.eng n).done c
        ({ x with regs := { x.regs with v := y.regs.v, vprog := 0 } }.past k) 0))) ∧
    (∀ m, first ≤ m → m < 16 → (∀ j, first ≤ j → j < m → ok j) → ¬ok m →
      ∃ t, exec (.vgathH w vd sn vi) s = .next t ∧ (t.ctx n c).st = 4 ∧ (t.ctx n c).fault = 0x103 ∧ (t.ctx n c).faultPc = x.pc ∧ (t.ctx n c).faultAddr = addr m ∧
        (x.sealed_ = false → (t.ctx n c).restart = true ∧ (t.ctx n c).pc = x.pc ∧ (t.ctx n c).regs.vprog = BitVec.ofNat 32 m ∧ (t.ctx n c).regs.s = x.regs.s ∧
          ∀ j < 16, elem (t.ctx n c) vd.val j = if first ≤ j ∧ j < m then value j else elem x vd.val j))

/-- SAVEL, SAVEU, RESTL and RESTU start a serialising routine (07 R190, R191, 08 R245, 09 R277), on the half as the bundle finds it
and the PC it leaves, or on the bytes of the save area, zeros when its valid bit is 0; a save in a sealed context is ILLEGAL (R192).
The registers of a half come back from what a save of it wrote (07 R190, R191).
A save or restore that LONG_OP_COMPLETE finds not yet begun (07 R190, R191, 08 R245): the save has written its bytes and the valid bit,
the restore every register of its half but not the PC; the next operation of the engine finds the routine complete as well. -/
def Obligations.SavesAndRestores : Prop := SavesAndRestoresPart ∧ SavedHalfReadsBackPart ∧ RoutinesCompletePart

/-- BRK, END and YIELD (08 R237). -/
def Obligations.BreakEndYield : Prop :=
  ∀ (s : State) (n : Fin 192) (c k : Nat), Calm s n c → c < 64 → k ≤ 1 → s.fetchFault n (s.ctx n c) k = none →
    let x := s.ctx n c
    let w : At := { core := .engine n, more := false, words := k }
    (x.brkAt = some x.pc → exec (.brk w) s = .next (s.passes n c k [] (passed s n c k))) ∧
    (x.brkAt ≠ some x.pc → ∃ t, exec (.brk w) s = .next t ∧ (t.ctx n c).st = 4 ∧ (t.ctx n c).fault = 0x107 ∧ (t.ctx n c).faultPc = x.pc ∧ (t.eng n).run ≠ some c ∧
      (x.sealed_ = false → (t.ctx n c).restart = true ∧ (t.ctx n c).regs = x.regs ∧ (t.ctx n c).pc = x.pc)) ∧
    (∃ t, exec (.end_ w) s = .next t ∧ (t.ctx n c).st = 0 ∧ (t.eng n).run ≠ some c ∧
      t.kiln.jobs = s.kiln.jobs.filter (fun j => !(j.kiln == n.val / 8 && j.engine == n.val % 8 && j.ctx == c))) ∧
    (∃ t, exec (.yield w) s = .next t ∧ (t.ctx n c).regs = x.regs ∧ (t.ctx n c).pc = x.pc + BitVec.ofNat 32 (4 * k) ∧
      ((∃ d < 64, d ≠ c ∧ (s.ctx n d).st = 2 ∧ (s.ctx n d).parked = false) →
        (t.ctx n c).st = 2 ∧ (t.eng n).run ≠ some c) ∧
      ((∀ d < 64, d ≠ c → (s.ctx n d).st ≠ 2 ∨ (s.ctx n d).parked = true) → s.engHalted n = false → (t.eng n).run = some c ∧ (t.ctx n c).st = 3))

/-- RETI of a level-1 handler gives the bank its own s24 to s31 back and resumes (07 R212); RETI of a handler context
resumes the interrupted context, filled first where it was spilled meanwhile (R213); FP traps that waited for a level-1 handler are due
again. -/
def Obligations.InterruptReturns : Prop :=
  ∀ (s : State) (n : Fin 192) (c k : Nat) (e : Engine), c < 64 → k ≤ 1 →
    let w : At := { core := .engine n, more := false, words := k }
    (Calm (s.setEng n e) n c → s.eng n = { e with shadowIn := true } → s.fetchFault n (s.cur n) k = none → (e.ctx c).regs.s.length = 32 → e.shadow.length = 8 →
      ∃ t, exec (.reti w) s = .next t ∧ (t.eng n).shadowIn = false ∧ (t.eng n).run = some c ∧ (t.ctx n c).pc = e.retPc ∧
        (t.ctx n c).regs = (s.ctx n c).regs ∧ (t.ctx n c).fpTrap = (s.ctx n c).heldTrap ∧ (t.ctx n c).heldTrap = 0 ∧ (t.eng n).shadow = e.shadow ∧ t.mem = s.mem) ∧
    (∀ d, Calm s n c → (s.eng n).level2 = true → (s.eng n).level2From = some d → d ≠ c → (s.ctx n d).st = 2 → s.fetchFault n (s.ctx n c) k = none →
      ∃ t, exec (.reti w) s = .next t ∧ (t.eng n).run = some d ∧ (t.ctx n d).st = 3 ∧ (t.ctx n d).regs = (s.ctx n d).regs ∧ (t.ctx n d).pc = (s.ctx n d).pc ∧
        (t.ctx n c).st = 2 ∧ (t.ctx n c).parked = true ∧ (t.eng n).level2 = false ∧ t.mem = s.mem) ∧
    (∀ d, Calm s n c → (s.eng n).level2 = true → (s.eng n).level2From = some d → d ≠ c → d < 64 → (s.ctx n d).st = 1 → (s.eng n).freeBanks ≠ [] →
      s.fetchFault n (s.ctx n c) k = none →
      ∃ t, exec (.reti w) s = .next t ∧ (t.eng n).run = some d ∧ (t.ctx n d).st = 3 ∧ (t.ctx n c).st = 2 ∧ (t.ctx n c).parked = true ∧ (t.eng n).level2 = false)

/-- A machine check (07 R215): the three registers, and bank 7 at MC_VEC with the context untouched but for its poison; a second
one, or MC_VEC = 0, halts the engine.
MCRD, MCWR and MRET (08 R238, 07 R190, R215): the handler reads and writes the s registers of an occupied bank and of bank 7; of a
bank that no context occupies, MCRD reads what MCWR wrote, or a value that then stays. Anywhere else MCRD and MCWR are ILLEGAL. MRET goes
back, poisoned contexts are FAULTED with POISON, and a spill that found no save area is tried again. -/
def Obligations.MachineChecks : Prop := MachineChecksPart ∧ MachineCheckHandlerPart

/-- Traps of a harbour pair and the return from one: one that is taken saves EPC, CAUSE and TVAL, moves IE and PRIV into PIE and
PPRIV, enters firmware level with IE 0 and goes to TVEC; a trap at firmware level while IE is 0 is a lockstep fault; ERET
restores PRIV, IE and the PC (its effect on PIE and PPRIV is the model's reading). -/
def Obligations.HarbourTraps : Prop :=
  (∀ (s : State) (h : Fin 2) (k : Nat), HcCalm s h → k = 1 → s.inTask h (s.hc h).pc.toNat (4 * k) = true →
    let w : At := { core := .harbour h, more := false, words := k }
    let lost := (s.csr h 0).getLsbD 0 && !(s.csr h 0).getLsbD 1
    (lost = false → (∃ t, exec (.ecall w) s = .next t ∧ trapped s h 4 0 (s.hc h).pc t) ∧ (∃ t, exec (.brk w) s = .next t ∧ trapped s h 5 0 (s.hc h).pc t)) ∧
    (lost = true → exec (.ecall w) s = .next ((hcPassed s h k).lockstep h)) ∧
    (s.firmware h = true → ∃ t, exec (.eret w) s = .next t ∧ (t.hc h).pc = s.csr h 2 ∧
      (t.csr h 0).getLsbD 0 = (s.csr h 0).getLsbD 3 ∧ (t.csr h 0).getLsbD 1 = (s.csr h 0).getLsbD 2 ∧ (t.hc h).regs = (s.hc h).regs ∧ t.mem = s.mem)) ∧
  (∀ (s : State) (h : Fin 2) (l : Fin 32), HcCalm s h → (s.csr h 0).getLsbD 1 = true → (s.csr h 8).getLsbD l.val = true → s.hcLine h l = true →
    ∃ t, exec (.harbourTrap h (BitVec.ofNat 8 (0x20 + l.val)) 0) s = .next t ∧ trapped s h (0x20 + l.val) 0 (s.hc h).pc t) ∧
  (∀ (s : State) (h : Fin 2) (cause : Byte) (tval : Word), HcCalm s h → 1 ≤ cause.toNat → cause.toNat ≤ 6 → (s.hc h).waiting = false →
    ((s.csr h 0).getLsbD 0 = false ∨ (s.csr h 0).getLsbD 1 = true) →
    ∃ t, exec (.harbourTrap h cause tval) s = .next t ∧ trapped s h cause.toNat tval (s.hc h).pc t)

/-- CSRR, CSRW and WFI at firmware level, and what is ILLEGAL at task level (13 R353): CSRW keeps reserved bits 0 and changes no
read-only register. CYCLE counts are free (log entry 14).
What runs on one core only is ILLEGAL on the other (08 R246, R248, R223 rule 7). -/
def Obligations.ControlRegisters : Prop := ControlRegistersPart ∧ OtherCoreIllegalPart

/-- An interrupt that is due and not deferred (07 R211 to R213): level 1 goes to INT_VEC in the same bank with the shadow copies,
and level 2 to the handler context that INT_CTX names, here a resident one.
A serialising routine under way (09 R277 to R281). A level-1 interrupt finds it after some of its steps, and suspends it unless it was
done; at the resumption with unchanged operands it goes on where it stood; a parity error of the control store abandons it, and what its
steps have changed stays. -/
def Obligations.InterruptEntry : Prop := InterruptEntryPart ∧ InterruptedRoutinesPart

/-- A context fault (07 R214): FAULTED with the code, the address and the PC, ENG_EV_CTX_FAULT, and the job of a context whose fault is
not restartable ends, as the state of a sealed one does (06 R169, 10 R295); the FP trap is imprecise and, unless the context is sealed,
restartable (09 R274).
CONTEXT_FILL reads both halves of a spilled context into a free bank (07 R188, R191); the oldest long operation completes
into its register with its flags (R199); results in their shadow reach the third bundle (R197, R198). -/
def Obligations.ContextFaults : Prop := ContextFaultsPart ∧ FillsAndResultsPart

/-- The vector integer operations and moves (09 R251, R271). -/
def Obligations.VectorLanes : Prop :=
  vRead ∧
  (∀ vd va : VReg,
    VOp (.vaddH · vd va ·) (Lanes 16 8 vd va (· + ·)) ∧ VOp (.vsubH · vd va ·) (Lanes 16 8 vd va (· - ·)) ∧
    VOp (.vand · vd va ·) (Lanes 128 1 vd va (· &&& ·)) ∧ VOp (.vor · vd va ·) (Lanes 128 1 vd va (· ||| ·)) ∧ VOp (.vxor · vd va ·) (Lanes 128 1 vd va (· ^^^ ·)) ∧
    VOp (.vsllH · vd va ·) (Lanes 16 8 vd va (fun a b => a <<< (b.toNat % 256))) ∧
    VOp (.vsraH · vd va ·) (Lanes 16 8 vd va (fun a b => a.sshiftRight (b.toNat % 256))) ∧
    VOp (.vaddW · vd va ·) (Lanes 32 4 vd va (· + ·)) ∧ VOp (.vsubW · vd va ·) (Lanes 32 4 vd va (· - ·)) ∧
    VOp (.vshuf · vd va ·) (fun x q d v fl => d = .v vd.val ∧ fl = 0 ∧ ∃ r, v = .v r ∧
      ∀ j < 16, lane 8 r j = if (lane 8 q j).getLsbD 7 then 0 else lane 8 (x.rv va.val) ((lane 8 q j).toNat % 16))) ∧
  (∀ (s : State) (n : Fin 192) (c k : Nat), Calm s n c → k ≤ 1 → s.fetchFault n (s.ctx n c) k = none →
    let x := s.ctx n c
    let w : At := { core := .engine n, more := false, words := k }
    let after := fun (d : Dst) (v : Val) => Host.Outcome.next (s.passes n c k [] ((s.eng n).done c ((x.later (s.fixedOn n) { dst := some d, val := v }).past k) 0))
    (∀ (vd : VReg) (sa : Reg), ∃ r, (∀ i < 8, lane 16 r i = (x.rs sa.val).setWidth 16) ∧ exec (.vbcastH w vd sa) s = after (.v vd.val) (.v r)) ∧
    (∀ (vd : VReg) (l : Fin 4) (ra : Reg), ∃ r, (∀ i < 4, lane 32 r i = if i = l.val then x.rs ra.val else lane 32 (x.rv vd.val) i) ∧
      exec (.mvsvW w vd l ra) s = after (.v vd.val) (.v r)) ∧
    (∀ (rd : Reg) (va : VReg) (l : Fin 4), exec (.mvvsW w rd va l) s = after (.s rd.val) (.w (lane 32 (x.rv va.val) l.val))))

/-- The accumulator operations (09 R252, R254).
The chained accumulator operand (09 R253): while one multiply result for the accumulator is in flight, VMAC.H adds onto it. -/
def Obligations.Accumulators : Prop := AccumulatorsPart ∧ AccumulatorChainPart

/-- The modular operations (09 R256 to R258): a Montgomery product is congruent to a × b × 2^−16 and below q in magnitude where
|a × b| < q × 2^15; Barrett's reduction is congruent and within q of 0; a sum of operands in [0, q) is reduced. -/
def Obligations.ModularOperations : Prop :=
  (∀ vd va : VReg,
    VOp (.vmontH · vd va ·) (Modular vd va (fun q a b r => (65536 * r - a * b) % q = 0 ∧ ((a * b).natAbs < q * 2 ^ 15 → -q < r ∧ r < q))) ∧
    VOp (.vmaddH · vd va ·) (Modular vd va (fun q a b r => 0 ≤ a → a < q → 0 ≤ b → b < q → r = (a + b) % q)) ∧
    VOp (.vmsubH · vd va ·) (Modular vd va (fun q a b r => 0 ≤ a → a < q → 0 ≤ b → b < q → r = (a - b) % q))) ∧
  (∀ (s : State) (n : Fin 192) (c k : Nat) (vd va : VReg), Calm s n c → k ≤ 1 → s.fetchFault n (s.ctx n c) k = none → ∃ v fl,
    Modular vd va (fun q a _ r => (r - a) % q = 0 ∧ -q ≤ r ∧ r ≤ q ∧ (q = 3329 → -1664 ≤ r ∧ r ≤ 1664)) (s.ctx n c) ((s.ctx n c).rv va.val) (.v vd.val) v fl ∧
    exec (.vbarrH { core := .engine n, more := false, words := k } vd va) s = .next (s.passes n c k [] ((s.eng n).done c
      (((s.ctx n c).later (s.fixedOn n) { dst := some (.v vd.val), val := v, flags := fl }).past k) 0)))

/-- VNTT.L and VINTT.L with every coefficient and zeta in D-RAM and the data regions (09 R259 to R261, R277): the serialising routine of
step n starts, whose completion leaves the coefficients as the 64 butterflies of its half give them, with OV where one wraps; an invalid
vq writes nothing and sets OV; a misaligned address is a data fault in the model (the manual names no fault for it, which log entry 43
says). -/
def Obligations.NttLayers : Prop :=
  (∀ (s : State) (n : Fin 192) (c k : Nat) (sn : Reg) (step : Fin 16) (inv : Bool), Calm s n c → k ≤ 1 → s.fetchFault n (s.ctx n c) k = none → step.val ≤ 13 →
    let x := s.ctx n c
    let a := (x.rs sn.val).toNat
    let w : At := { core := .engine n, more := false, words := k }
    let i := if inv then Instr.vinttL w sn step else .vnttL w sn step
    let inside := fun b m => ∀ j < m, dram (b + 2 * j) = true ∧ x.inData (b + 2 * j) 2 = true
    (a % 16 = 0 → inside a 256 → inside 0x1FF00 128 →
      (¬validVq x.regs.vq → exec i s = .next (s.passes n c k [] ((s.eng n).done c ((x.sticky 1).past k) 0))) ∧
      (validVq x.regs.vq → exec i s = .next (s.passes n c k [] ((s.eng n).done c
        { x.past k with routine := some { kind := .ntt inv sn.val step.val } } 0)))) ∧
    (a % 16 ≠ 0 ∨ ¬inside a 256 ∨ ¬inside 0x1FF00 128 → ∃ t, exec i s = .next t ∧ (t.ctx n c).st = 4 ∧ (t.ctx n c).fault = 0x103 ∧ (s.kiln.jobs = [] → x.sealed_ = false → t.mem = s.mem))) ∧
  (∀ (s : State) (n : Fin 192) (c m : Nat) (x : Ctx) (sn : Reg) (step : Fin 16) (inv : Bool), s.ctx n c = { x with routine := some { kind := .ntt inv sn.val step.val } } →
    x.routine = none → (s.eng n).mc = false → (s.eng n).run = some c → (s.eng n).shadowIn = false → s.engRuns n = true → step.val ≤ 13 →
    let a := (x.rs sn.val).toNat
    let half := fun b j => (BitVec.ofNat 16 (leNat (s.getEng n (b + 2 * j) 2))).toInt
    0x10000 ≤ a → a + 512 ≤ 0x1FF00 → s.engAddr n a = some m →
    let r := ((List.range 64).map (fun j => j + 64 * (step.val % 2))).foldl (butterfly inv x.regs.vq ((List.range 128).map (half 0x1FF00)) (step.val / 2)) ((List.range 256).map (half a), false)
    ∃ mem, exec (.longOpComplete n) s = .next ((s.withMem mem).setCtx n c (if r.2 then x.sticky 1 else x)) ∧
      ∀ b, memRead mem b = memRead (s.mput m (r.1.flatMap (fun v => leBytes 2 (BitVec.ofInt 16 v).toNat))).mem b)

/-- MMUL.W and MRED.W (09 R263, R264): for an odd N, a right n0′ and T < N × 2^256 the pair receives T × 2^−256 mod N, below N; for
an even N it receives 0 with OV. Long operations. -/
def Obligations.MontgomeryReductions : Prop :=
  ∀ (s : State) (n : Fin 192) (c k : Nat) (vd va vb : VReg), Calm s n c → k ≤ 1 → s.fetchFault n (s.ctx n c) k = none → vd.val % 2 = 0 → vd.val ≤ 10 →
    let x := s.ctx n c
    let w : At := { core := .engine n, more := false, words := k }
    let pair := fun r => (x.rv r).toNat + 2 ^ 128 * (x.rv (r + 1)).toNat
    let N := pair 14
    let good := fun (i : Instr) (T : Nat) =>
      (N % 2 = 1 → (N * (lane 32 (x.rv 13) 0).toNat + 1) % 2 ^ 32 = 0 → T < N * 2 ^ 256 → ∃ lo hi src, exec i s = .next (s.passes n c k [] ((s.eng n).done c
          ((x.slowly (s.fixedOn n) { dst := some (.v2 vd.val), val := .v2 lo hi, src := src }).past k) 0)) ∧
        lo.toNat + 2 ^ 128 * hi.toNat < N ∧ (lo.toNat + 2 ^ 128 * hi.toNat) * 2 ^ 256 % N = T % N) ∧
      (N % 2 = 0 → ∃ src, exec i s = .next (s.passes n c k [] ((s.eng n).done c
          ((x.slowly (s.fixedOn n) { dst := some (.v2 vd.val), val := .v2 0 0, flags := 1, src := src }).past k) 0)))
    (va.val % 2 = 0 → vb.val % 2 = 0 → good (.mmulW w vd va vb) (pair va.val * pair vb.val)) ∧
    (va.val % 4 = 0 → va.val ≠ 12 → good (.mredW w vd va) (pair va.val + 2 ^ 256 * pair (va.val + 2)))

/-- The scalar FP operations of the context that owns the FP file (09 R270, R271, R273): the result and flags are those of fAdd, fMul
and so on, whose values other statements give; FDIV and FSQRT are long operations; the moves copy bits. -/
def Obligations.FpOperations : Prop :=
  (∀ fd fa fb : FReg,
    OnFpOwner (.fadd · fd fa fb) (fun fx x => fpLater fx x (.f fd.val) (fAdd (rounding x) (x.rf fa.val) (x.rf fb.val))) ∧
    OnFpOwner (.fsub · fd fa fb) (fun fx x => fpLater fx x (.f fd.val) (fSub (rounding x) (x.rf fa.val) (x.rf fb.val))) ∧
    OnFpOwner (.fmul · fd fa fb) (fun fx x => fpLater fx x (.f fd.val) (fMul (rounding x) (x.rf fa.val) (x.rf fb.val))) ∧
    OnFpOwner (.fmin · fd fa fb) (fun fx x => fpLater fx x (.f fd.val) (fMinMax false (x.rf fa.val) (x.rf fb.val))) ∧
    OnFpOwner (.fmax · fd fa fb) (fun fx x => fpLater fx x (.f fd.val) (fMinMax true (x.rf fa.val) (x.rf fb.val))) ∧
    OnFpOwner (.fdiv · fd fa fb) (fun fx x => let r := fDiv (rounding x) (x.rf fa.val) (x.rf fb.val); x.slowly fx { dst := some (.f fd.val), val := .w r.1, flags := r.2 }) ∧
    OnFpOwner (.fsqrt · fd fa) (fun fx x => let r := fSqrt (rounding x) (x.rf fa.val); x.slowly fx { dst := some (.f fd.val), val := .w r.1, flags := r.2 })) ∧
  (∀ (r : Reg) (f : FReg),
    OnFpOwner (.fcvtWS · r f) (fun fx x => fpLater fx x (.s r.val) (fToInt (rounding x) (x.rf f.val))) ∧
    OnFpOwner (.fcvtSW · f r) (fun fx x => fpLater fx x (.f f.val) (fOfInt (rounding x) (x.rs r.val))) ∧
    OnFpOwner (.mvsf · f r) (fun fx x => fpLater fx x (.f f.val) (x.rs r.val, 0)) ∧
    OnFpOwner (.mvfs · r f) (fun fx x => fpLater fx x (.s r.val) (x.rf f.val, 0))) ∧
  (∀ (rd : Reg) (fa fb : FReg) (c : Fin 4), OnFpOwner (.fcmp · rd fa fb c) (fun fx x => fpLater fx x (.s rd.val) (fCmp c.val (x.rf fa.val) (x.rf fb.val))))

/-- FMA and the four vector FP operations (09 R270): lanes as the scalar operations, flags the OR of the lanes. Whether
0 × ∞ + a quiet NaN raises NV is free, as IEEE 754 leaves it. -/
def Obligations.FpFusedAndVector : Prop :=
  (∀ (s : State) (n : Fin 192) (c k : Nat) (fd fa fb : FReg), Calm s n c → (s.eng n).fpOwner = some c → k ≤ 1 → s.fetchFault n (s.ctx n c) k = none →
    let x := s.ctx n c
    ∃ o t, exec (.fma { core := .engine n, more := false, words := k } fd fa fb) s = .next t ∧ { t with free := s.free } =
      s.passes n c k [] ((s.eng n).done c ((fpLater (s.fixedOn n) x (.f fd.val) (fFma o (rounding x) (x.rf fa.val) (x.rf fb.val) (x.rf fd.val))).past k) 0)) ∧
  (∀ (s : State) (n : Fin 192) (c k : Nat) (vd va vb : VReg), Calm s n c → (s.eng n).fpOwner = some c → (s.ctx n c).regs.v.length = 16 → k ≤ 1 → s.fetchFault n (s.ctx n c) k = none →
    let x := s.ctx n c
    let w : At := { core := .engine n, more := false, words := k }
    let word := fun (v : Vec) i => v.extractLsb' (32 * i) 32
    let gives := fun (i : Instr) (g : Nat → Word → Word → Word → Word × Nat) =>
      let r := fun j => g j (word (x.rv va.val) j) (word (x.rv vb.val) j) (word (x.rv vd.val) j)
      ∃ v t, (∀ j < 4, word v j = (r j).1) ∧ exec i s = .next t ∧ { t with free := s.free } = s.passes n c k [] ((s.eng n).done c ((x.later (s.fixedOn n)
        { dst := some (.v vd.val), val := .v v, flags := (r 0).2 ||| (r 1).2 ||| (r 2).2 ||| (r 3).2 }).past k) 0)
    gives (.vfadd w vd va (.reg vb)) (fun _ a b _ => fAdd (rounding x) a b) ∧ gives (.vfsub w vd va (.reg vb)) (fun _ a b _ => fSub (rounding x) a b) ∧
    gives (.vfmul w vd va (.reg vb)) (fun _ a b _ => fMul (rounding x) a b) ∧
    (∃ o : Nat → Bool, gives (.vfma w vd va (.reg vb)) (fun j a b d => fFma (o j) (rounding x) a b d)))

/-- NaNs, infinities and zeros (09 R271, R273). -/
def Obligations.FpSpecialValues : Prop :=
  ∀ (rm : Nat) (o : Bool) (a b c : Word),
    let nan := fun (w : Word) => (w.toNat / 2 ^ 23 % 256 = 255 ∧ w.toNat % 2 ^ 23 ≠ 0)
    let signalling := fun (w : Word) => nan w ∧ w.getLsbD 22 = false
    let isInf := fun (w : Word) => w = 0x7F800000 ∨ w = 0xFF800000
    let isZero := fun (w : Word) => w = 0 ∨ w = 0x80000000
    (nan a ∨ nan b → (fAdd rm a b).1 = 0x7FC00000 ∧ (fSub rm a b).1 = 0x7FC00000 ∧ (fMul rm a b).1 = 0x7FC00000 ∧ (fDiv rm a b).1 = 0x7FC00000 ∧ (fFma o rm a b c).1 = 0x7FC00000 ∧
      ((fAdd rm a b).2 = 8 ↔ signalling a ∨ signalling b) ∧ ((fMul rm a b).2 = 8 ↔ signalling a ∨ signalling b) ∧ ((fDiv rm a b).2 = 8 ↔ signalling a ∨ signalling b) ∧
      ∀ k < 4, (fCmp k a b).1 = (if k = 3 then 1 else 0) ∧ ((fCmp k a b).2 = 8 ↔ k = 1 ∨ k = 2 ∨ signalling a ∨ signalling b)) ∧
    (nan a → (fSqrt rm a).1 = 0x7FC00000 ∧ fToInt rm a = (0x7FFFFFFF, 8) ∧
      (fMinMax false a b).1 = (if b.toNat / 2 ^ 23 % 256 = 255 ∧ b.toNat % 2 ^ 23 ≠ 0 then 0x7FC00000 else b) ∧
      (fMinMax true b a).1 = (if b.toNat / 2 ^ 23 % 256 = 255 ∧ b.toNat % 2 ^ 23 ≠ 0 then 0x7FC00000 else b)) ∧
    (isInf a → isZero b → fMul rm a b = (0x7FC00000, 8) ∧ fMul rm b a = (0x7FC00000, 8)) ∧
    (isInf a → fAdd rm a (a ^^^ 0x80000000) = (0x7FC00000, 8) ∧ fSub rm a a = (0x7FC00000, 8) ∧ fAdd rm a a = (a, 0)) ∧
    (isZero a → isZero b → fDiv rm a b = (0x7FC00000, 8) ∧ fSqrt rm a = (a, 0) ∧ fCmp 0 a b = (1, 0) ∧ fCmp 1 a b = (0, 0) ∧ fCmp 2 a b = (1, 0)) ∧
    (¬nan a → ¬isZero a → a.getLsbD 31 = true → fSqrt rm a = (0x7FC00000, 8)) ∧
    (fMinMax false 0 0x80000000).1 = 0x80000000 ∧ (fMinMax true 0x80000000 0).1 = 0

/-- The FP32 boundary results of 09 R276. UF 64, IX 128, OF 32, DZ 16, NV 8; a one-operand row names its operand twice. -/
def Obligations.FpBoundaryResults : Prop :=
  FpGives .fmul .f Ctx.rf false [(1, 0x3F000000, 0, 0, 192), (1, 0x3F000000, 3, 1, 192), (0x80000001, 0x3F000000, 0, 0x80000000, 192), (1, 1, 0, 0, 192),
    (0x3F7FFFFF, 0x00800000, 0, 0x00800000, 192), (0x1F800001, 0x207FFFFE, 0, 0x00800000, 128), (0x7F7FFFFF, 0x40000000, 3, 0x7F800000, 160)] ∧
  FpGives .fadd .f Ctx.rf false (inAny [(1, 1, 2, 0)] ++ [(0x7F7FFFFF, 0x7F7FFFFF, 0, 0x7F800000, 160), (0x7F7FFFFF, 0x7F7FFFFF, 1, 0x7F7FFFFF, 160),
    (0x7F7FFFFF, 0x73000000, 0, 0x7F800000, 160), (0x7F7FFFFF, 0x72800000, 0, 0x7F7FFFFF, 128)]) ∧
  FpGives .fsub .f Ctx.rf false [(1, 1, 0, 0, 0), (1, 1, 2, 0x80000000, 0), (0x7F7FFFFF, 0xFF7FFFFF, 2, 0x7F7FFFFF, 160)] ∧
  FpGives .fdiv .f Ctx.rf true ([(1, 0x40000000, 0, 0, 192), (0x3F800000, 1, 0, 0x7F800000, 160), (0x7F7FFFFF, 0x3F000000, 0, 0x7F800000, 160)] ++
    inAny [(0x3F800000, 0, 0x7F800000, 16), (0x7F7FFFFF, 0x7F7FFFFF, 0x3F800000, 0)]) ∧
  FpGives (fun w d a _ => .fsqrt w d a) .f Ctx.rf true [(1, 1, 0, 0x1A3504F3, 128), (0x7F7FFFFF, 0x7F7FFFFF, 0, 0x5F7FFFFF, 128)] ∧
  FpGives (fun w d a _ => .fcvtWS w (d.castLE (by decide)) a) .s Ctx.rf false (inAny [(0x7F7FFFFF, 0x7F7FFFFF, 0x7FFFFFFF, 8)] ++ [(1, 1, 0, 0, 128), (1, 1, 3, 1, 128)]) ∧
  FpGives (fun w d a _ => .fcvtSW w d (a.castLE (by decide))) .f Ctx.rs false (inAny [(0x80000000, 0x80000000, 0xCF000000, 0)] ++ [(0x7FFFFFFF, 0x7FFFFFFF, 0, 0x4F000000, 128)]) ∧
  (∀ a b d r, (a, b, d, r) ∈ [((0x7F7FFFFF : Word), (0x40000000 : Word), (0xFF7FFFFF : Word), (0x7F7FFFFF : Word)), (0x7F7FFFFF, 0x7F7FFFFF, 0xFF800000, 0xFF800000), (1, 0x3F800000, 1, 2)] →
    ∀ (s : State) (n : Fin 192) (c k : Nat) (fd fa fb : FReg), Calm s n c → (s.eng n).fpOwner = some c → k ≤ 1 → s.fetchFault n (s.ctx n c) k = none →
      (s.ctx n c).rf fa.val = a → (s.ctx n c).rf fb.val = b → (s.ctx n c).rf fd.val = d →
      ∃ t, exec (.fma { core := .engine n, more := false, words := k } fd fa fb) s = .next t ∧ { t with free := s.free } =
        s.passes n c k [] ((s.eng n).done c (((s.ctx n c).later (s.fixedOn n) { dst := some (.f fd.val), val := .w r }).past k) 0))

/-- 15 R421, R422, 17 R445: power-on and RESET_N put the device in COLD with LAST_RESET 1 and 2, a loss of the Lighthouse's
supply with 1: fuses, floors, unique keys and SPI NOR stand, registers, memory and the other stores named in ColdAs are as
after reset. The release of RESET_N in COLD with ZEROIZE_N high goes to BOOT with the start hold on, the rails in CLK and PWR on
and DEV_EV_STATE raised.
15 R423, R424, 14 R384, 16 R437, R438: in BOOT, STAGED or PROTECT, no Ember reset running and not Lighthouse-only, the write of
the code to EMBER and, with HOT_EMBER set, a PCIe hot reset start an Ember reset (emberStart, with cause 3 and 4); an UNSEAL
that nothing forbids answers status 0 and triggers one with cause 5. A hot reset with HOT_EMBER clear resets the host
interface only. An Ember reset not complete in time raises RST's fault 0. Its start puts boot in the ROM, in fixed-count mode.
The completion of one begun in STAGED, its copies good and its firmware up, ends it, sets EMBER_MS and LAST_RESET and
returns to STAGED, or PROTECT where a peer is keyed; then resynchronisation, the event and the exchanges due. -/
def Obligations.Resets : Prop := ColdResetsPart ∧ EmberResetsPart

/-- 13 R359, R360, R361, 04 R115: where the device is neither COLD nor Lighthouse-only, a cold boot's ROM goes to FAILED if it
failed, else to STAGE1, taking the lifecycle of the fuses, showing the floors and starting the entropy source. STAGE1 goes to
RECOVERY where neither slot of the SPI NOR holds an image that may boot, and else to BIST with the version, digest and patch section
of the one that does, of two the one with the higher FW_VER, then the higher SEQ, then slot A; each slot that fails has its bit. BIST goes to LOAD; LOAD goes to WAIT_FIRE, with the boot time and BOOT_EV_READY. An Ember boot goes from ROM
to LOAD and on to LIVE with its boot time and BOOT_EV_READY. The end of the start hold clears the hold and then starts the exchanges due. -/
def Obligations.BootStages : Prop := ∀ (s : State) (o : BootOutcome),
  s.dev.dstate ≠ .cold → s.dev.lhOnly = false →
    (s.warmBoot = false → s.stage = 1 → o.stageFailed = true → Leaves (.bootStageDone o) s fun t => t.stage = 0xF ∧ t.ev 0x98000 0) ∧
    (s.warmBoot = false → s.stage = 1 → o.stageFailed = false → Leaves (.bootStageDone o) s fun t =>
      t.stage = 2 ∧ t.dev.lifecycle = lifeOf s.boot.fuses ∧ t.vault.drbSrc = true ∧
        t.reg 0x9810C = w32 (s.boot.fwFloor + 256 * s.boot.patchFloor)) ∧
    (s.warmBoot = false → s.stage = 2 → Leaves (.bootStageDone o) s fun t => t.ev 0x98000 0 ∧
      fld (t.reg 0x98104) 0 1 = b2n (s.slotImage 0).isNone ∧ fld (t.reg 0x98104) 1 1 = b2n (s.slotImage 1).isNone ∧
        match bootSlot (s.slotImage 0) (s.slotImage 1) with
        | some (n, f) => t.stage = 3 ∧ fld (t.reg 0x98100) 8 1 = n ∧ t.reg 0x98108 = w32 (fwVer f) ∧ t.boot.fwDigest = Crypto.sha256 f ∧
            t.boot.patch = fwPatch f
        | none => t.stage = 0xE ∧ fld (t.reg 0x98104) 7 1 = 1) ∧
    (∀ x y, bootSlot (some x) (some y) =
      if fwVer x < fwVer y ∨ (fwVer x = fwVer y ∧ fwSeq x < fwSeq y) then some (1, y) else some (0, x)) ∧
    (s.warmBoot = false → s.stage = 3 → Leaves (.bootStageDone o) s fun t => t.stage = 4 ∧ t.ev 0x98000 0) ∧
    (s.warmBoot = false → s.stage = 4 → LeavesBy State.keyScanAll (.bootStageDone o) s fun u =>
      u.stage = 5 ∧ u.reg 0x98118 = o.bootMs ∧ u.ev 0x98000 1) ∧
    (s.warmBoot = true → s.stage = 1 → Leaves (.bootStageDone o) s fun t => t.stage = 4) ∧
    (s.warmBoot = true → s.stage = 4 → Leaves (.bootStageDone o) s fun t =>
      t.stage = 6 ∧ t.reg 0x98118 = o.bootMs ∧ t.ev 0x98000 1) ∧
    LeavesBy State.keyScanAll .asxonStartHoldEnd s fun u => u = s.withDev { s.dev with startHold := false }

/-- 06 R176, R177, R178, outside COLD: where the source is neither dead nor stopped by a known-answer test (nor the device
Lighthouse-only), the passed start-up tests let every instance of DRB serve. A reseed is counted and clears the
instance's requests and stall while the source stands; without it instances 0 and 1 stall with DRB_EV_STALL's bit. A failed
known-answer test stops every instance, with its fault. A failed repetition test, fewer than two failures standing within the
hour, stops the source, counts and raises DRB's event 0 and fault 0; an adaptive one, two standing, stops it for good. -/
def Obligations.EntropySource : Prop := ∀ (s : State) (i : Fin 3), s.dev.dstate ≠ .cold →
  (s.vault.drbDead = false → s.vault.drbCast = false → s.dev.lhOnly = false → LeavesBy State.keyScanAll .startupTestsPassed s fun u =>
    u.vault.drbSrc = true ∧ u.vault.drbUp = true ∧ u.vault.drbStall = []) ∧
  (s.vault.drbCast = false → s.vault.drbSrc = true → s.vault.drbUp = true → Leaves (.drbgReseed i) s fun t =>
    t.reg 0x88108 = s.reg 0x88108 + 1 ∧ t.vault.drbReq = s.vault.drbReq.set i 0 ∧ i.val ∉ t.vault.drbStall) ∧
  (s.vault.drbCast = false → s.vault.drbSrc = false → i.val ≠ 2 → i.val ∉ s.vault.drbStall →
    Leaves (.drbgReseed i) s fun t => i.val ∈ t.vault.drbStall ∧ t.ev 0x88000 1) ∧
  LeavesBy (·.fault 0x88000 2) (.healthTestFail .knownAnswer) s (fun u => u.vault.drbCast = true ∧ u.vault.drbUp = false) ∧
  (s.recentFails.length < 2 → fld (s.reg 0x88104) 0 16 < 0xFFFF → Leaves (.healthTestFail .repetition) s fun t =>
    t.vault.drbSrc = false ∧ t.vault.drbDead = s.vault.drbDead ∧ fld (t.reg 0x88104) 0 16 = fld (s.reg 0x88104) 0 16 + 1 ∧
      t.ev 0x88000 0 ∧ t.ft 0x88000 0) ∧
  (2 ≤ s.recentFails.length → Leaves (.healthTestFail .adaptive) s fun t =>
    t.vault.drbSrc = false ∧ t.vault.drbDead = true ∧ t.ft 0x88000 1)

/-- 15 R405, R406, R408, R409, R411, 17 R443, R445, 16 R432, outside COLD. A failure of main rails leaves Lighthouse-only, SEAL_N low,
no Ember reset, engines, key slots, identity or PRKs, DRB not serving and the rails' VMON bits clear. A rail out of
range clears its bit, then SAF's fault 0. LCLK falls back and comes back with an event each. A failed monitor of an ECLK faults CLK
and takes the kiln out of service, of the PCIe reference resets the host interface, of HCLK is a SEAL cause. A write of
ECLK_SEL shows, and outside a step and a hot cap a new choice starts a step, which ends with the choice and an
event. A sample shows, with its sensor, raises TEMP_MAX, sets the hot bit from 100.0 °C and clears it below 95.0 °C; reaching 110.0 °C
is SAF's fault 1, and a sample that stays above it no second one. A read of TEMP_MAX gives it and sets it to TEMP.
11 R310, R311, R312: the owner of ToD steps it by a signed count of ns, with an event, loads it (a write with bit 31 set to a
time in range) and sets its rate; a rate of an agent inside the device that does not own it is dropped. PPS_OUT rises while it is on,
and falls at its pulse's end. While PPS_IN is on, an edge is captured in ToD with VALID and an event unless it follows one by less than
half a second, which changes nothing; a missing edge is an event. A read of the capture's ns gives it and clears VALID. -/
def Obligations.ClocksAndTime : Prop := SuppliesAndClocksPart ∧ TimeOfDayPart

/-- 14 R380, R381, R384, R397, R403, 15 R422, outside COLD: PERST_N and the loss of a link that was up leave LINK, the routes and (of
PERST_N) MSI-X Enable and the doorbells as after reset, firmware's routes standing; the loss is an event. A function-level reset empties
the routes and the MSI-X table and leaves a link that is up. PERST_N released only releases the ball. A link that trains shows
speed, width and up, a change with an event. A configuration write sets MSI-X Enable, Function Mask, Bus Master Enable and the
power state and no register or route; the identity that the function then presents has the IDs, the class code, the step as
revision and the power state.
15 R425, R426, 13 R352: where UNIT_RESET may be written, outside COLD, with no Ember reset and the unit not yet resetting: an
engine's reset ends its contexts with 0x12 and clears it, a kiln's takes it out of service and clears its engines, each shown in
progress; a kiln whose island is off refuses, with an event. A lane unit's reset empties its key cache and clears FAILED; a port
group's takes its ports down and clears their first counter; a pair's takes it out of service, HC1's dropping the exchanges; the host
interface's empties the routes. The host interface's, done, shows so with an event and its count. A pair whose halves
disagree for the first time leaves service with HC's fault; a pair that comes back runs from cleared registers, with its recoveries
counted, then the event, the kilns that waited for it and the exchanges due. A kiln stays in its reset while a pair is out. -/
def Obligations.HostAndUnitResets : Prop := HostLinkPart ∧ UnitResetsPart

/-- 16 R433 to R437, 17 R443: the code in SEAL_CMD seals (seal_ with kind 3), another value does nothing. An entry of a running device
ends in SEALED with SEAL_N low. A cause that comes while SEALED goes into SEAL_FIRST where that is empty, and leaves it where it is not; SEAL_CUR
it takes over in the LCLK cycle of the entry alone, and where it ranks higher (both but for an injection that meets the genuine fault).
The end of the last cause empties the causes, with the event, and changes no state of the device. With nothing injected, a passed
collector self-test is counted; one whose inputs pass and a drive does not keeps what it found and is then SAF's fault 4.
06 R180, 06 R182, 16 R431, R432, 17 R459, R460: ZEROIZE_N in COLD only shows on its ball; in every other state it leaves the
device ZEROIZED, SEAL_N low, with the identity key, anchors, PRKs, chain keys, import key and every key slot erased, and then the
ports' XOFF settled. A trip outside COLD sets SAF's fault bit 2 and zeroizes with reason 2 where policy bit 2 says so, else it
seals with kind 4 and the sensor, the cause 62 active. A tamper channel that reads what it drove has no mismatch; a first
mismatch counts one and does no more; a second in a row starts its count again and is the trip of its channel. The end of
zeroization clears it, sets ZDONE and shows its reason, with VLT's event 3; stores that did not read back as zero are VLT's
fault 1. -/
def Obligations.SealAndZeroize : Prop := SealedStatePart ∧ TamperAndZeroizePart

/-- 16 R430, R431, R440, 03 R72, outside COLD: a fault that is not SEAL-class sets its bit and changes no state of the device; one of
a running device that is SEAL-class seals it. A fault line of CFG, LHS, PWR, RST and BOOT is that fault; lines 0 and 1 of an encrypt unit and
0 of a decrypt unit fault and squelch the unit, line 1 counting ECHO_CNT; an engine's line 0 also halts the engine, a
kiln's line 2 takes the kiln out of service. The code in PROOF_ARM arms injection, and its expiry disarms it. An armed injection of
QMG's fault 0 waits for the next word; unarmed it is refused, with SAF's event 3 and a count.
05 R131 to R133, 07 R195, 09 R282, 10 R287, 15 R404, outside COLD and with nothing injected: RETIRE_CMD retires a pseudo-channel
in service of a stack that is on, with HBM's event 1. A scrub pass of an HBM stack that is on and in use adds its corrected
errors to CE_CNT, counts the pass and raises its events. A Lighthouse scrub counts corrected errors; an uncorrectable one is LHS's fault
0. An uncorrectable error is a fault 1 or 2 of an awake engine, and fault 1 of a kiln that is on, whose corrected errors are counted. A
control store's ROM error is kept against its kiln; one in patch RAM leaves a kiln without one in service while HC1 serves; a clean check changes nothing. -/
def Obligations.FaultsAndScrubs : Prop := FaultLinesPart ∧ ScrubsPart

/-- 15 R412 to R420, R426: where a command may be taken, an UP of an island that is off starts its wake, of one that is on is done at
once, of one that wakes is kept with its result; an island that takes no commands is refused by rule 1. A DOWN of an island that
is on and that no rule bars starts its hold, a kiln's with its engines' stores drained and the kiln out of service; a barred
one is refused with its rule. A commanded hold ends with the island off, at its limit with the abort's result and event; a
commanded wake ends with its result, each before a kept command is applied. A switch that takes too long is PWR's fault 0. An idle
engine sleeps, a sleeping one wakes if its kiln is on, a kiln whose engines sleep stops its PLL. Deep idle is entered with its
event where no pool and no key is in use, refused where a pool is; leaving it clears it and wakes the HBM islands' first. -/
def Obligations.Islands : Prop := ∀ s : State,
  (∀ i : Fin 260, IslOpen s i → s.pst i = 0 → Leaves (.islCmdUp i) s fun t => t.pst i = 2 ∧ (t.island i).cmd = true ∧ (t.island i).hostDown = false) ∧
  (∀ i : Fin 260, IslOpen s i → s.pst i = 1 → Leaves (.islCmdUp i) s fun t => t.pst i = 1 ∧ t.reg 0x9108 = w32 i ∧ t.ev 0x9000 0) ∧
  (∀ i : Fin 260, IslOpen s i → s.pst i = 2 → Leaves (.islCmdUp i) s fun t => (t.island i).kept = some true ∧ t.reg 0x9108 = w32 (i + 512 * 2)) ∧
  (∀ i : Fin 260, s.hostOpen 0x9100 → s.dev.lhOnly = false → s.dev.ember = none → s.cmdIsland i = false →
    Leaves (.islCmdUp i) s fun t => t.isl = s.isl ∧ t.reg 0x9108 = w32 (i + 512 + 4096) ∧ t.ev 0x9000 2) ∧
  (∀ i : Fin 260, 251 ≤ i.val → IslOpen s i → s.pst i = 1 → s.downRule i = 0 → Leaves (.islCmdDown i) s fun t =>
    t.pst i = 3 ∧ (t.island i).cmd = true ∧ (t.island i).hostDown = true) ∧
  (∀ k : Fin 24, IslOpen s (193 + k) → s.pst (193 + k) = 1 → s.downRule (193 + k) = 0 →
    LeavesBy (fun u => ((List.range 8).foldl (fun s e => s.drainStores (8 * k + e)) u).leaveService k 0x14)
      (.islCmdDown ⟨193 + k, by omega⟩) s fun u => u.pst (193 + k) = 3 ∧ (u.island (193 + k)).hostDown = true) ∧
  (∀ i : Fin 260, IslOpen s i → s.pst i = 0 ∨ s.pst i = 1 → s.downRule i ≠ 0 → Leaves (.islCmdDown i) s fun t =>
    t.isl = s.isl ∧ t.reg 0x9108 = w32 (i + 512 + 4096 * s.downRule i) ∧ t.ev 0x9000 2) ∧
  (∀ i : Fin 260, s.pst i = 3 → (s.island i).cmd = true → LeavesBy (·.applyKept i) (.powerHoldDone i) s fun u =>
    u.pst i = 0 ∧ (u.island i).cmd = false ∧ u.reg 0x9108 = w32 i ∧ u.ev 0x9000 0) ∧
  (∀ i : Fin 260, s.pst i = 3 → (s.island i).cmd = true → 251 ≤ i.val → LeavesBy (·.applyKept i) (.holdLimitExpiry i) s fun u =>
    u.pst i = 0 ∧ u.reg 0x9108 = w32 (i + 512 * 3) ∧ u.ev 0x9000 0 ∧ u.ev 0x9000 1) ∧
  (∀ i : Fin 260, s.pst i = 2 → (s.island i).cmd = true → LeavesBy (·.applyKept i) (.islandWakeDone i) s fun u =>
    u.reg 0x9108 = w32 i ∧ u.ev 0x9000 0 ∧ (251 ≤ i.val → u.pst i = 1)) ∧
  (∀ i : Fin 260, 2 ≤ s.pst i → exec (.islandSwitchTimeout i) s = .next ((s.fault 0x9000 0).islandFails i)) ∧
  (∀ n : Fin 192, s.awake n = true → s.engBusy n = false → Leaves (.engineSleep n) s fun t => t.pst (1 + n) = 0) ∧
  (∀ n : Fin 192, s.pst (1 + n) = 0 → s.islOff (193 + n / 8) = false → Leaves (.engineWake n) s fun t => t.pst (1 + n) = 2) ∧
  (∀ k : Fin 24, (∀ e : Fin 8, s.pst (1 + 8 * k + e) = 0) → s.islOff (193 + k) = false → Leaves (.kilnPllStop k) s fun t =>
    k.val ∈ t.kiln.pllOff ∧ fld (t.reg 0xA104) k 1 = 0) ∧
  (s.hostOpen 0x910C → s.dev.lhOnly = false → s.deepIdle = false → s.dev.ember = none → s.poolBusy = false → s.peerKeyed = 0 →
    Leaves .deepIdleEnter s fun t => t.reg 0x910C = 1 ∧ t.deepIdle = true ∧ t.ev 0x9000 3) ∧
  (s.hostOpen 0x910C → s.dev.lhOnly = false → s.deepIdle = false → s.poolBusy = true →
    Leaves .deepIdleEnter s fun t => t.deepIdle = false ∧ t.isl = s.isl ∧ t.ev 0x9000 2) ∧
  (s.hostOpen 0x910C → s.deepIdle = true → LeavesBy State.followGen .deepIdleLeave s fun u => u.reg 0x910C = 0 ∧ u.deepIdle = false ∧
    (s.pst 252 = 0 → (s.island 252).hostDown = false → u.pst 252 = 2))

/-- 14 R386 to R391, R396, R397, R430: a page's header, where a write reaches it. LOCK takes its two keys and no other value; EVT_PEND
and FAULT_PEND clear raw bits, EVT_FORCE sets those that the page defines, EVT_EN keeps those and sets no raw bit; a write of EVT_EN
on a LOCKED page keeps the value, raises PCI's event 2 and is counted. A host route takes the low half of its write and changes
no other. An MSI-X message that is due is sent with its table entry's address and data where MSI-X is open, and dropped where it is
not. -/
def Obligations.PageHeaders : Prop := ∀ s : State,
  (∀ (p : Page) (v : Word), HeaderOpen s (pageOff p + 0x34) → Leaves (.lockWrite p v) s fun t => t.reg (pageOff p + 0x34) =
    if v = 0x5A5A0001 then 1 else if v = 0x5A5A0000 then 0 else s.reg (pageOff p + 0x34)) ∧
  (∀ (p : Page) (v : Word), HeaderOpen s (pageOff p + 0x18) → Leaves (.evtPendClear p v) s fun t =>
    t.reg (pageOff p + 0x10) = s.reg (pageOff p + 0x10) &&& ~~~v) ∧
  (∀ (p : Page) (v : Word), pageOff p < 0x100000 → s.hostOpen (pageOff p + 0x1C) → Leaves (.evtForce p v) s fun t =>
    t.reg (pageOff p + 0x10) = s.reg (pageOff p + 0x10) ||| (v &&& evtMask (pageOff p))) ∧
  (∀ (p : Page) (v : Word), pageOff p < 0x100000 → s.hostOpen (pageOff p + 0x14) → Leaves (.evtEnWrite p v) s fun t =>
    t.reg (pageOff p + 0x14) = v &&& evtMask (pageOff p) ∧ t.reg (pageOff p + 0x10) = s.reg (pageOff p + 0x10)) ∧
  (∀ (p : Page) (v : Word), HeaderOpen s (pageOff p + 0x28) → Leaves (.faultPendClear p v) s fun t =>
    t.reg (pageOff p + 0x20) = s.reg (pageOff p + 0x20) &&& ~~~v ∧ t.dev = s.dev) ∧
  (∀ (p : Page) (v : Word), s.hostGone = false → s.dev.h48 = true → pageOff p < 0xA0000 → s.locked (pageOff p) = true → pageOff p ≠ 0x4000 → Leaves (.evtEnWrite p v) s fun t =>
    t.reg (pageOff p + 0x14) = s.reg (pageOff p + 0x14) ∧ t.ev 0x4000 2 ∧ ((s.reg 0x4114).toNat + 1 < 2 ^ 32 → t.reg 0x4114 = s.reg 0x4114 + 1)) ∧
  (∀ (n : Fin 640) (v : Word), s.hostOpen (0x3100 + 4 * n) → Leaves (.hostRouteWrite n v) s fun t => t.route n = v &&& 0xFFFF ∧
    (∀ m, m ≠ n.val → t.route m = s.route m)) ∧
  (∀ v : Fin 256, v.val ∈ s.pci.due → s.msixOpen v = true → Leaves (.msixMessage v) s fun t => v.val ∉ t.pci.due ∧
    t.out.getLast? = some (.msix v (BitVec.ofNat 64 ((tget s.pci.table v {}).addrLo.toNat + 2 ^ 32 * (tget s.pci.table v {}).addrHi.toNat)) (tget s.pci.table v {}).data)) ∧
  (∀ v : Fin 256, v.val ∈ s.pci.due → s.msixOpen v = false → Leaves (.msixMessage v) s fun t => v.val ∉ t.pci.due ∧ t.out = s.out)

/-- 00 R8, R9, 02 R54, 13 R369, 14 R383, R390, R391: host accesses. A write of a plain RW register of a block page that is open stores
the bits it has, of a W1C one clears those written as 1, of an RO or RC one changes nothing; a write that is not 4 or 8 aligned bytes is
rejected, with its address, an event and a count. A staged write changes its word of the green copy alone, and is counted with an
event where no copy is open. A read gives what the register shows; of the four RC registers named it clears that one alone. A read
of a channel counter's low word gives it and latches its high word. CNT_CLEAR zeroes the counters of the channel it names, or all.
17 R457, 13 R364, 06 R169, 07 R218: the TAP. EXTEST drives the balls while RESET_N is asserted, and not otherwise; SAMPLE only
releases them. While debug is open, an engine that runs no sealed context is halted and, halted, steps; a harbour core is halted where
it stands; a byte outside every sealed context reads as memory has it and is written alone. A write while debug is closed, or to a
sealed context's D-RAM, changes no memory. ENG.CTRL halts an engine with an event and lets it go on with the next context. -/
def Obligations.RegistersAndDebug : Prop := RegisterAccessPart ∧ DebugPart

/-- 14 R399, R400: the DMA rings. A write of RCTRL without EN stores its bits; with EN on a ring that is off, the ring is on with both
pointers at 0 where size and kind are valid, and ERROR is 4 where the size is below 6. A copy doorbell moves TAIL, and is error 2 with an
event where it claims more descriptors than the ring has. A descriptor of a ring that has not its turn stays; in its turn a bad one is error 1 with an event and moves no data; one of four
bytes from the host writes that register and is then done with code 0 and 4 bytes. Any descriptor done moves HEAD by one. -/
def Obligations.DmaRings : Prop := ∀ (s : State) (r : Fin 64),
  (∀ v, s.hostOpen (0xB0108 + 0x1000 * r) → bit v 8 = false → Leaves (.ringEnable r v) s fun t => t.reg (0xB0108 + 0x1000 * r) = v &&& 0x1FF003F) ∧
  (∀ v, s.hostOpen (0xB0108 + 0x1000 * r) → bit v 8 = true → fld (s.reg (0xB0108 + 0x1000 * r)) 8 1 = 0 →
    6 ≤ fld (s.reg (0xB0108 + 0x1000 * r)) 0 4 → fld (s.reg (0xB0108 + 0x1000 * r)) 4 2 ≠ 3 → Leaves (.ringEnable r v) s fun t =>
      fld (t.reg (0xB0108 + 0x1000 * r)) 8 1 = 1 ∧ t.reg (0xB010C + 0x1000 * r) = 0 ∧ t.reg (0xB0110 + 0x1000 * r) = 0 ∧
        fld (t.reg (0xB0114 + 0x1000 * r)) 1 1 = 0) ∧
  (∀ v, s.hostOpen (0xB0108 + 0x1000 * r) → bit v 8 = true → fld (s.reg (0xB0108 + 0x1000 * r)) 8 1 = 0 →
    fld (s.reg (0xB0108 + 0x1000 * r)) 0 4 < 6 → Leaves (.ringEnable r v) s fun t => fld (t.reg (0xB0114 + 0x1000 * r)) 4 4 = 4 ∧
      fld (t.reg (0xB0108 + 0x1000 * r)) 8 1 = 0) ∧
  (∀ v, s.hostOpen (0xB0110 + 0x1000 * r) → fld (s.reg (0xB0108 + 0x1000 * r)) 4 2 = 1 →
    ((v &&& 0xFFFF).toNat + 65536 - (s.reg (0xB010C + 0x1000 * r)).toNat) % 65536 ≤ ringSize (s.reg (0xB0108 + 0x1000 * r)) →
      Leaves (.copyDoorbell r v) s fun t => t.reg (0xB0110 + 0x1000 * r) = v &&& 0xFFFF ∧ t.reg (0xB0114 + 0x1000 * r) = s.reg (0xB0114 + 0x1000 * r)) ∧
  (∀ v, s.hostOpen (0xB0110 + 0x1000 * r) → fld (s.reg (0xB0108 + 0x1000 * r)) 4 2 = 1 → s.ringOn r = true →
    ringSize (s.reg (0xB0108 + 0x1000 * r)) < ((v &&& 0xFFFF).toNat + 65536 - (s.reg (0xB010C + 0x1000 * r)).toNat) % 65536 →
      Leaves (.copyDoorbell r v) s fun t => fld (t.reg (0xB0114 + 0x1000 * r)) 4 4 = 2 ∧ t.ev 0x4000 4) ∧
  (∀ d host err, s.ringNext (r.val / 8) = some r.val → s.hostGone = false → s.pci.busMaster = true → copyCode d = 2 → Leaves (.copyDescriptor r d host err) s fun t =>
    fld (t.reg (0xB0114 + 0x1000 * r)) 4 4 = 1 ∧ t.ev 0x4000 4 ∧ t.mem = s.mem ∧ t.gen = s.gen) ∧
  (∀ d w, s.ringNext (r.val / 8) = some r.val → s.hostGone = false → s.pci.busMaster = true → copyCode d = 0 → d.len = 4 → d.dflags = 0 →
    ((s.ringTurn r).dwordWrite d.barOff.toNat w).ringOn r = true → exec (.copyDescriptor r d [w] false) s =
      .next (((s.ringTurn r).dwordWrite d.barOff.toNat w).copyDone r ((s.reg (0xB0100 + 0x1000 * r)).toNat + 2 ^ 32 * (s.reg (0xB0104 + 0x1000 * r)).toNat +
        32 * ((s.reg (0xB010C + 0x1000 * r)).toNat % ringSize (s.reg (0xB0108 + 0x1000 * r)))) d 0 4)) ∧
  (∀ d host err, s.ringNext (r.val / 8) ≠ some r.val → exec (.copyDescriptor r d host err) s = .next s) ∧
  (∀ d e code bytes, code ≠ 4 → (s.copyDone r e d code bytes).reg (0xB010C + 0x1000 * r) = w32 (((s.reg (0xB010C + 0x1000 * r)).toNat + 1) % 65536))

/-- 13 R369 to R374, 01 R25: generations. GREEN_OPEN copies the live generation where none is open, GREEN_ABORT drops the copy. FIRE
puts an open copy to the checks, REFIRE the previous generation, and FIRE_RESULT tells 3 or 4 where there is none and 2 where one is
fired already; neither changes the live one. A check that refuses leaves the copy open with result 1 and an event; checks that all
pass begin the switch with no port passed. Each port that reaches its switch point is added to those passed. The switch's end waits for
every existing port; then it makes the copy live, the old one previous, with the next number, the switch time and result 0, then its event; the first one ends a boot in
LIVE. -/
def Obligations.Generations : Prop := ∀ s : State,
  (∀ v, s.hostOpen 0x1100 → bit v 0 = true → s.gen.phase = 0 → Leaves (.greenOpen v) s fun t =>
    t.gen.phase = 1 ∧ (∀ o, t.gv o = s.lv o) ∧ t.gen.live = s.gen.live ∧ t.regs = s.regs) ∧
  (∀ v, s.hostOpen 0x110C → bit v 0 = true → s.gen.phase = 1 → Leaves (.greenAbort v) s fun t =>
    t.gen.phase = 0 ∧ t.gen.green = [] ∧ t.gen.live = s.gen.live ∧ t.gen.liveNo = s.gen.liveNo) ∧
  (∀ v, s.hostOpen 0x1104 → bit v 0 = true → Leaves (.fire v) s fun t => t.gen.live = s.gen.live ∧ t.gen.green = s.gen.green ∧
    (s.gen.phase = 1 → t.gen.phase = 2) ∧ (s.gen.phase = 0 → t.gen.phase = 0 ∧ fld (t.reg 0x111C) 0 16 = 3) ∧
      (2 ≤ s.gen.phase → t.gen.phase = s.gen.phase ∧ fld (t.reg 0x111C) 0 16 = 2)) ∧
  (∀ v, s.hostOpen 0x1108 → bit v 0 = true → Leaves (.refire v) s fun t => t.gen.live = s.gen.live ∧
    (s.gen.phase = 0 → s.gen.refireOk = true → t.gen.phase = 2 ∧ t.gen.green = s.gen.prev) ∧
      (s.gen.phase = 0 → s.gen.refireOk = false → t.gen = s.gen ∧ fld (t.reg 0x111C) 0 16 = 4) ∧
        (2 ≤ s.gen.phase → t.gen = s.gen ∧ fld (t.reg 0x111C) 0 16 = 2)) ∧
  (∀ pg, s.gen.phase = 2 → s.gen.refire = false → s.tableChecks.allChecks.2 = some pg → Leaves .fireChecksDone s fun t =>
    t.gen.phase = 1 ∧ t.gen.green = s.gen.green ∧ t.gen.live = s.gen.live ∧ fld (t.reg 0x111C) 0 16 = 1 ∧ t.ev 0x1000 1) ∧
  (s.gen.phase = 2 → s.tableChecks.allChecks.2 = none → Leaves .fireChecksDone s fun t =>
    t.gen.phase = 3 ∧ t.gen.passed = [] ∧ t.gen.green = s.gen.green ∧ t.gen.live = s.gen.live) ∧
  (∀ (p : Fin 32), s.gen.phase = 3 → Leaves (.portSwitchPoint .home p) s fun t => p.val ∈ t.gen.passed ∧ ∀ x ∈ s.gen.passed, x ∈ t.gen.passed) ∧
  (∀ (p : Fin 32), s.gen.phase = 3 → Leaves (.portSwitchPoint .strait p) s fun t => 32 + p.val ∈ t.gen.passed ∧ ∀ x ∈ s.gen.passed, x ∈ t.gen.passed) ∧
  (∀ ns, s.gen.phase = 3 → s.allPassed = false → exec (.generationSwitchDone ns) s = .next s) ∧
  (∀ ns, s.gen.phase = 3 → s.allPassed = true → s.finishOld.closeRecast.regroupAll.gen.liveNo ≠ 0 → LeavesBy (fun u =>
      (u.afterSwitch (fld (s.finishOld.closeRecast.regroupAll.lv 0x70100) 0 16)).raise 0x1000 0) (.generationSwitchDone ns) s fun u =>
    u.gen.phase = 0 ∧ u.gen.live = s.finishOld.closeRecast.regroupAll.gen.green ∧ u.gen.prev = s.finishOld.closeRecast.regroupAll.gen.live ∧
      u.gen.liveNo = nextGen s.finishOld.closeRecast.regroupAll.gen.liveNo ∧ u.reg 0x1130 = ns ∧ fld (u.reg 0x111C) 0 16 = 0) ∧
  (∀ ns, s.gen.phase = 3 → s.allPassed = true → s.finishOld.closeRecast.regroupAll.gen.liveNo = 0 → (s.finishOld.closeRecast.regroupAll.switchOver ns).dev.dstate = .boot →
    (s.finishOld.closeRecast.regroupAll.switchOver ns).dev.ember = none → Leaves (.generationSwitchDone ns) s fun t =>
      t.stage = 6 ∧ (t.dev.dstate = .staged ∨ t.dev.dstate = .protect))

/-- 12 R335 to R337, 02 R48 to R51, R55, 05 R137, R138: a frame that ends on a home port that is up, in an Ethernet mode and idle. A runt
is counted and no more. A good PAUSE frame is counted and pauses the port, or, with quanta 0, ends its pause, where it honours PAUSE. A
good frame that PTP does not trap, outside a switch, is counted with its bytes and arrives for the channel that
classification names; one classified to be dropped, within MAX_LEN, is counted in its channel. A pause expires of the port or of one
priority alone. While a port is in XOFF by PAUSE alone a repeat sends PAUSE with the quanta and counts it; by PFC it sends the
priorities in XOFF with the quanta. A source that ages leaves the channel's mask, and then the ports' XOFF is settled.
05 R119 to R121, R134, 02 R55: a frame of the live generation that arrives on a home port. Admission refuses it for the state of a
channel neither ACTIVE nor HELD; of an ACTIVE Assured channel that does not drain, outside SEALED, it refuses it for space where the
share lacks the cells of the channel's longest frame, and else, where the pool has them, reserves them, and then settles the
watermarks. At its end a good frame that was admitted joins the queue of its ACTIVE channel, counted with its bytes, its reservation
given back; one refused for the state, or beyond MAX_LEN, is counted so and does not join; one with a bad FCS joins and counts
nowhere in its channel; these end a cut-through begun. -/
def Obligations.HomeSide : Prop := HomeIngressPart ∧ AdmissionPart

/-- 12 R331, R343, R344, R349: bring-up of a port that stands in the live generation with its island on. Step 0 passes to 1, step 1 to 2, 3 or 4
by the auto-negotiation and link-training bits, a failed 2 goes back to 1 with its flag and an event, 3 goes on to 4 or back to 1 with
its flag, 4 passes to 5 and, out of time, back to 1; 5 comes up as 6 with an event; with wrong PIDs neither goes on. A home link lost goes back to 1, unpaused, counted
and with its event, then the arriving frame is cut; a strait link lost the same way, then its path is checked. PCLR zeroes the first 18
counters of the ports that it names, and no other port's of the group.
12 R341, R346 to R348: OTN sources and PTP. Defects of an OTN group that send no ODU-AIS show in its register with an event and change no
port; one that does shows and marks the source lost, until it returns and the register clears. A two-step PTP message of HC0 that may
leave is sent, and its FIFO takes its fields and the ToD, with an event; a FIFO of 16 stays and shows the overflow. A pop drops the
oldest entry and the overflow mark, and gives the high word of the latched stamp. -/
def Obligations.PortsAndOtn : Prop := PortLinksPart ∧ OtnAndPtpPart

/-- 03 R58 to R60, R73, 04 R94 to R105, 05 R124, R125, R140: sending. The frame at the head of a queue that may send takes the next PN and
its credit and goes out on the channel's strait port, as an Asxon frame sealed under the current slot, or in an 802.1AE format; an
Assured one is also retained with its PN, epoch, units and time at the head of the ring. One on which the twin datapaths disagree
takes its PN, is kept for a replay and marks its unit FAILED. No new frame goes while a record is marked. The oldest frame in flight that
passed is released. The only frame of a queue, in home hold, comes back on chip as its cells hold it. The lowest marked record
that can be read goes again with RTX set, counted, unmarked and with its new time; where it cannot, ASX's fault 0 is set and the channel
closes with REASON 3. The tail timer sends the oldest record again and doubles the guard, up to 8. -/
def Obligations.Transmission : Prop := ∀ (s : State) (c : Fin 8192),
  (∀ n f rest, MaySend s c n f rest → f.fmt = 0 → LeavesBy (afterSend s c) (.sendDataFrame c none .agree false) s fun u =>
    (u.chan c).q = rest ∧ (u.chan c).txNext = (s.chan c).txNext + 1 ∧
      (u.chan c).csent = ((s.chan c).csent + unitsOf (lenOf f.bytes + 40)) % 2 ^ 32 ∧ (u.laneU 0 n).frames = (s.laneU 0 n).frames + 1 ∧
        ∃ flags, u.out.getLast? = some (.frame true (s.txPort c) (s.asxFrame c (s.slot 0 c (s.chan c).cur) (s.chan c).txNext flags (s.piggy c) f.bytes) false)) ∧
  (∀ n f rest, MaySend s c n f rest → f.fmt = 0 → f.cls = 0 → LeavesBy (afterSend s c) (.sendDataFrame c none .agree false) s fun u =>
    ∃ r, (u.chan c).ret = (s.chan c).ret ++ [r] ∧ r.pn = (s.chan c).txNext ∧ r.epoch = (s.slot 0 c (s.chan c).cur).epoch ∧
      r.units = unitsOf (lenOf f.bytes + 40) ∧ r.tsent = s.dev.mono ∧ r.void = false ∧ r.off = (s.chan c).head) ∧
  (∀ n f rest, MaySend s c n f rest → f.fmt = 1 ∨ f.fmt = 2 → LeavesBy (afterSend s c) (.sendDataFrame c none .agree false) s fun u =>
    (u.chan c).q = rest ∧ (u.chan c).txNext = (s.chan c).txNext + 1 ∧
      u.out.getLast? = some (.frame true (s.txPort c) (s.macsecFrame c (s.slot 0 c (s.chan c).cur) (s.chan c).txNext f.fmt f.conf f.bytes) false)) ∧
  (∀ n f rest w, MaySend s c n f rest → LeavesBy (afterSend s c) (.sendDataFrame c none (.mismatch w) false) s fun u =>
    ((u.chan c).flight.map (·.replay)).getLast? = some true ∧ ((u.chan c).flight.map (·.pn)).getLast? = some (s.chan c).txNext ∧
      (u.chan c).txNext = (s.chan c).txNext + 1 ∧ fld (u.reg (0x30100 + 0x1000 * n)) 5 1 = 1) ∧
  (∀ lg ue, (s.chan c).flight.any (·.replay) = false → (s.chan c).marked ≠ none → s.unitFor 0 c ≠ none →
    exec (.sendDataFrame c none lg ue) s = .next s) ∧
  (∀ f rest, (s.chan c).flight = f :: rest → f.replay = false → (s.assured c = true → f.retained = true) →
    LeavesBy (·.settle c) (.holdingBufferRelease c) s fun u => (u.chan c).flight = rest ∧ (u.chan c).q = (s.chan c).q) ∧
  (∀ f : QFrame, (s.chan c).q = [f] → f.onChip = false → 0 < fld (s.lv 0x50104) 0 16 → cellsOf f.bytes ≤ s.txFree → s.lostAt [] f.hold = none →
    LeavesBy (fun u => s.rescan (u.settle c) c) (.homeHoldFetch c .clean) s fun u =>
      (u.chan c).q = [{ f with onChip := true, hold := [], bytes := (holdGet s.mem f.hold).take f.bytes.length }]) ∧
  (∀ r o, MayResend s c r o → Leaves (.retransmit c .good) s fun t =>
    t.out.getLast? = some (.frame true (s.txPort c) (rtxFrame (storedFrame s c o r)) false) ∧
      (∀ q ∈ (t.chan c).ret, q.pn = r.pn → q.rtx = false ∧ q.tsent = s.dev.mono) ∧ t.cnt64 (ccOff c 9) = (s.cnt64 (ccOff c 9) + 1) % 2 ^ 64) ∧
  (∀ r o, MayResend s c r o → LeavesBy (fun u => s.rescan (u.closeReport c 3) c) (.retransmit c .bad) s fun u => u.ft 0x40000 0 ∧ u.chan c = s.chan c) ∧
  (∀ r rest o, s.resendAllowed c = true → s.assured c = true → (s.chan c).ret = r :: rest → r.void = false →
    s.lostAt [] (s.ringChunks c r) = none → s.fetchRet c r.pn = some o → Leaves (.tailTimer c .good) s fun t =>
      (t.chan c).guard = min 8 (2 * (s.chan c).guard) ∧ t.out.getLast? = some (.frame true (s.txPort c) (rtxFrame (storedFrame s c o r)) false))

/-- 03 R58, R59, R64: the frame that an Assured or Best-effort channel sends opens, under the same key, into the home frame it was made
of; that RTX is set on a retransmission changes nothing of it. -/
def Obligations.FramesOpen : Prop := ∀ (s : State) (c pn flags piggy : Nat) (k : KeySlot) (home : List Byte),
  12 ≤ home.length → pn < 2 ^ 64 → flags < 256 → nbit flags 6 = false → k.key.length = 32 → k.salt.length = 12 →
    openAsx k (s.asxFrame c k pn flags piggy home) = (home, true) ∧ openAsx k (rtxFrame (s.asxFrame c k pn flags piggy home)) = (home, true)

/-- 12 R335, R338, R342, 04 R87, R106, R107, 03 R59, R69, R79, 02 R52, 05 R127, 16 R435: a frame from the strait, on an Ethernet port that
is up. Runts, oversize frames and MAC control frames count and change no channel; one with a bad FCS counts so and then ends a
cut-through frame begun. In SEALED a frame counts in SEALED_RX_DROP and changes no channel, key or output. A frame with a bad header
check changes no channel and counts as a good frame of its port. A clear frame joins the queue of the home port that its group names,
or, denied, counts in the drop total. A data frame whose unit stands: an Assured duplicate counts so and changes no channel; a
Best-effort one with no valid key, and an Assured one in order whose tag fails, count a failed authentication; an Assured one in
order, verified and with room, joins its receive queue as plaintext, and RX_HAND moves on. A frame that left home egress whole is
counted with its bytes, sent, and of an Assured channel RX_NEXT is beyond its PN; one with an uncorrectable error sets QMG's fault 0, is
cut and out of the queue, its PN to be received again. A clear frame that leaves is sent and off its queue. Home egress takes the ready
queue next in turn, and waits while none is ready. -/
def Obligations.Reception : Prop := ∀ (s : State) (p : Fin 32) (b : List Byte) (lg : LgOutcome),
  (∀ ok, s.portUp true p = true → s.dev.lhOnly = false → s.dev.ember = none → modeOtn (s.mode true (p / 4)) = false → lenOf b < 64 →
    Leaves (.straitIngressFrame p b ok lg) s fun t => t.cnt64 (pcOff true p 3) = (s.cnt64 (pcOff true p 3) + 1) % 2 ^ 64 ∧ t.chans = s.chans) ∧
  (∀ ok, s.portUp true p = true → s.dev.lhOnly = false → s.dev.ember = none → modeOtn (s.mode true (p / 4)) = false → 10280 < lenOf b →
    Leaves (.straitIngressFrame p b ok lg) s fun t => t.cnt64 (pcOff true p 4) = (s.cnt64 (pcOff true p 4) + 1) % 2 ^ 64 ∧ t.chans = s.chans) ∧
  (StraitOpen s p b → LeavesBy (·.undoCut p b) (.straitIngressFrame p b false lg) s fun u =>
    u.cnt64 (pcOff true p 2) = (s.cnt64 (pcOff true p 2) + 1) % 2 ^ 64 ∧ u.chans = s.chans ∧ u.ports = s.ports) ∧
  (s.portUp true p = true → s.dev.lhOnly = false → s.dev.ember = none → modeOtn (s.mode true (p / 4)) = false → 64 ≤ lenOf b → lenOf b ≤ 10280 →
    beNat (cut b 12 2) = 0x8808 → Leaves (.straitIngressFrame p b true lg) s fun t =>
      t.cnt64 (pcOff true p 5) = (s.cnt64 (pcOff true p 5) + 1) % 2 ^ 64 ∧ t.chans = s.chans ∧ t.ports = s.ports) ∧
  (StraitOpen s p b → s.isSealed = true → Leaves (.straitIngressFrame p b true lg) s fun t =>
    Counted s t 0xC12C ∧ t.chans = s.chans ∧ t.vault = s.vault ∧ t.out = s.out) ∧
  (StraitOpen s p b → s.isSealed = false → beNat (cut b 12 2) = (s.lv 0x40100).toNat → hchk (b.take 34) ≠ cut b 34 2 →
    LeavesBy (·.keyScan (s.home_ (p / 4))) (.straitIngressFrame p b true lg) s fun u => u.chans = s.chans ∧ u.vault = s.vault ∧
      u.cnt64 (pcOff true p 0) = (s.cnt64 (pcOff true p 0) + 1) % 2 ^ 64 ∧ u.cnt64 (pcOff true p 1) = (s.cnt64 (pcOff true p 1) + lenOf b) % 2 ^ 64) ∧
  (StraitOpen s p b → s.isSealed = false → beNat (cut b 12 2) ≠ (s.lv 0x40100).toNat → beNat (cut b 12 2) ≠ 0x88E5 →
    bit (s.lv (pCls + 0x280 + 4 * (p / 4))) 0 = true → s.policy 0 = true → Leaves (.straitIngressFrame p b true lg) s fun t =>
      (t.port false (fld (s.lv (pCls + 0x280 + 4 * (p / 4))) 1 5)).clearQ = (s.port false (fld (s.lv (pCls + 0x280 + 4 * (p / 4))) 1 5)).clearQ ++ [b]) ∧
  (StraitOpen s p b → s.isSealed = false → beNat (cut b 12 2) ≠ (s.lv 0x40100).toNat → beNat (cut b 12 2) ≠ 0x88E5 →
    bit (s.lv (pCls + 0x280 + 4 * (p / 4))) 0 = false ∨ s.policy 0 = false → Leaves (.straitIngressFrame p b true lg) s fun t =>
      t.ports = s.ports ∧ t.chans = s.chans ∧ t.cnt64 (pCls + 0x118) = (s.cnt64 (pCls + 0x118) + 1) % 2 ^ 64) ∧
  (∀ c, StraitOpen s p b → DataFrame s p c b → s.clsOf (s.newGen true p) c = 0 → beNat (cut b 20 8) < (s.chan c).rxHand ∨ (s.chan c).marks.contains (beNat (cut b 20 8)) = true →
    LeavesBy (·.keyScan (s.home_ (p / 4))) (.straitIngressFrame p b true lg) s fun u =>
      u.chans = s.chans ∧ u.cnt64 (ccOff c 12) = (s.cnt64 (ccOff c 12) + 1) % 2 ^ 64) ∧
  (∀ c, StraitOpen s p b → DataFrame s p c b → s.clsOf (s.newGen true p) c = 1 → (s.slot 1 c (beNat (cut b 18 2) % 2)).valid = false →
    LeavesBy (·.keyScan (s.home_ (p / 4))) (.straitIngressFrame p b true lg) s fun u =>
      u.chans = s.chans ∧ u.cnt64 (ccOff c 14) = (s.cnt64 (ccOff c 14) + 1) % 2 ^ 64) ∧
  (∀ c k n, StraitOpen s p b → DataFrame s p c b → s.clsOf (s.newGen true p) c = 0 → beNat (cut b 20 8) = (s.chan c).rxHand →
    (s.chan c).marks = [] → (s.chan c).voids = [] → s.slot 1 c (beNat (cut b 18 2) % 2) = k → k.valid = true → k.bad = false →
      k.epoch = beNat (cut b 18 2) → k.epoch ≠ 0 → s.unitFor 1 c = some n → s.saf.injected = [] → lg = .agree → (openAsx k b).2 = false →
        s.begins c = false → LeavesBy (·.keyScan (s.home_ (p / 4))) (.straitIngressFrame p b true lg) s fun u =>
          u.chans = s.chans ∧ u.cnt64 (ccOff c 14) = (s.cnt64 (ccOff c 14) + 1) % 2 ^ 64) ∧
  (∀ c k n, StraitOpen s p b → DataFrame s p c b → s.clsOf (s.newGen true p) c = 0 → beNat (cut b 20 8) = (s.chan c).rxHand →
    (s.chan c).marks = [] → (s.chan c).voids = [] → (s.chan c).held = [] → (∀ q ∈ (s.chan c).rq, q.pn < (s.chan c).rxHand) → s.slot 1 c (beNat (cut b 18 2) % 2) = k → k.valid = true → k.bad = false →
      k.epoch = beNat (cut b 18 2) → k.epoch ≠ 0 → s.unitFor 1 c = some n → s.saf.injected = [] → lg = .agree → (openAsx k b).2 = true →
        s.rxRoom c (openAsx k b).1 = true → LeavesBy (·.keyScan (s.home_ (p / 4))) (.straitIngressFrame p b true lg) s fun u =>
          (u.chan c).rq.map (·.bytes) = (s.chan c).rq.map (·.bytes) ++ [(openAsx k b).1] ∧ (u.chan c).rxHand = (s.chan c).rxHand + 1) ∧
  (∀ c pn f, (s.port false p).leaving = some (c, pn) → c < 8192 → s.txOpen = true → (s.chan c).rq.find? (fun f => f.pn == pn) = some f →
    Leaves (.frameReleased p .clean) s fun t => (t.port false p).leaving = none ∧ t.cnt64 (ccOff c 10) = (s.cnt64 (ccOff c 10) + 1) % 2 ^ 64 ∧
      t.cnt64 (ccOff c 11) = (s.cnt64 (ccOff c 11) + lenOf f.bytes) % 2 ^ 64 ∧ (∃ g, .frame false p g false ∈ t.out.drop s.out.length) ∧
        (s.cls c = 0 → s.fmt c = 0 → pn < (t.chan c).rxNext)) ∧
  (∀ c pn f, (s.port false p).leaving = some (c, pn) → c < 8192 → s.txOpen = true → (s.chan c).rq.find? (fun f => f.pn == pn) = some f →
    Leaves (.frameReleased p .bufUe) s fun t => t.ft 0x50000 0 ∧ .frame false p f.bytes true ∈ t.out ∧ (∀ q ∈ (t.chan c).rq, q.pn ≠ pn) ∧
      (s.cls c = 0 → s.fmt c = 0 → (t.chan c).rxHand = pn ∧ pn ∉ (t.chan c).marks)) ∧
  (∀ n f rest, (s.port false p).leaving = some (8192, n) → s.txOpen = true → (s.port false p).clearQ = f :: rest →
    Leaves (.frameReleased p .clean) s fun t => (t.port false p).leaving = none ∧ (t.port false p).clearQ = rest ∧ t.out.getLast? = some (.frame false p f false)) ∧
  ((s.port false p).leaving = none → s.egressReady p ≠ [] → Leaves (.homeEgressSelect p) s fun t => ∃ c pn, (t.port false p).leaving = some (c, pn) ∧
    c ∈ s.egressReady p ∧ (t.port false p).rr = (c + 1) % 8193 ∧ (∀ d ∈ s.egressReady p, (s.port false p).rr ≤ d → (s.port false p).rr ≤ c ∧ c ≤ d) ∧
      ((∀ d ∈ s.egressReady p, d < (s.port false p).rr) → ∀ d ∈ s.egressReady p, c ≤ d)) ∧
  (s.egressReady p = [] → exec (.homeEgressSelect p) s = .next s)

/-- 03 R56, R67, R74 to R76, R82: the warm spare takes the group of the failed unit that waits with the lowest group, which then carries
no role; the switch-in is counted with its event, and then the group's frames go again. A loaded, repaired unit becomes the
spare where no group waits, and takes the waiting group else. A leak-guard test that detects is counted and changes nothing of
the device; one that does not seals a PROTECTED device, faults the unit and latches the first such unit in LG_FAIL. A key slot rewritten
with its check value right is used again, a decrypt unit's waiting frames then going on; one whose value stays wrong marks its encrypt
unit FAILED with both faults and the squelch event. MM_CLEAR with bit 0 clears the capture's VALID and no other bit.
02 R54, 03 R62, R63, R69, R73, 06 R177, 12 R340: seal blocks of one lane. Lane 0 sends a block sealed under the number and epoch
announced, its field with the next number and the tag of the block before, the other GCC bytes as 0 and the overhead unchanged,
the group's TTI, and counts the payload and the source's BIP-8 errors; the first block of a channel has a number from DRB, and so has the block after a promotion, in its
epoch. Lane 1 takes the number and epochs of lane 0. A disagreement of the twins voids the tag and marks the unit FAILED. A received
block that was announced leaves decrypted, with GCC as 0, any other as zeros, counted; its announcement is taken where the key
is held. A tag other than the field carries is noted for sensing with an event. Of a lane that no unit carries zeros leave and no tag
is kept (the model's choice, log entry 86), and a TTI that three multiframes in a row carry is taken into TTI_RX. A block of another size changes nothing. -/
def Obligations.CipherLanes : Prop := CipherUnitsPart ∧ StreamBlocksPart

/-- 04 R92, R101, R103, R109, R112, R114, 01 R29, R30: ack timers and paths. Of an ACTIVE Assured channel, the ack timer sends an ACK
record where the last PN released or the credit is not the one last sent, and does nothing where both are; a refresh sends it within
the span after a change. A flush takes the first 64 waiting records. A NACK retry of a PN that stays missing notes its time, is
counted and sends an ACK too. A keepalive of a keyed peer leaves on a path port and takes the port's next PN. A path's time-out forgets
that the port was heard and that the key is new, and then checks the path. A path whose conditions hold comes up: a stranded peer
makes its landfall with the event and resynchronises; for another peer nothing of it changes before keying starts. A JOINED or LANDFALL
peer without a path is stranded at this time with its event, with no exchange left and its frames kept; one with a path is
not.
04 R110, R111, R113, R115: resynchronisation and working/protect switchover. A resend in an exchange whose records are all
confirmed sends DONE again until the peer's has come; with one unconfirmed record and no DONE sent, that record. With the transmit
path down and the other group's up, a switch starts the connection of the other group, or is remembered while one connects. A
connected switch takes effect, is counted (of a peer without keys, in its saturating counter) with its event, and of a keyed peer
starts resynchronisation. A force with both paths up is remembered and connects the group it names unless that carries already;
clearing it does no more. Wait-to-restore's expiry connects the working group where revert counts, and does nothing under a
force. CLOSE_PEER closes every channel of the peer, before those due are keyed again. -/
def Obligations.Peers : Prop := PathsAndAcksPart ∧ SwitchoverPart

/-- 06 R150, R156 to R158, R161, R164 to R167: exchanges and what becomes due. Where an exchange may start with a JOINED peer, a rekey
(with REKEY_S not 0, or for a retry), a refresh and a port rekey each start one; a rekey with REKEY_S 0 and no retry does nothing. A
rekey or refresh of a STRANDED or LANDFALL peer is held; of a peer not JOINED a port rekey and a resume do nothing; of a JOINED one a
resume holds no rekey or ratchet step any more, and then starts those due. Hard expiry closes the channel with its frames dropped. An
exchange sent six times fails with reason 5 and an event; one sent less often sends its HELLO or FINISH again and counts that. The end of
a backoff lets keying start. A busy exchange, while keys flow, is no longer busy and starts; else it waits. NEXT_REPEAT sends an
unanswered record, and nothing where none is. PRK_ERASE erases the PRKs of the exchange that are answered or 10 s old, and
keeps every other.
03 R66, R68, R70, 06 R151, R159, R161, R163, 04 R112: key slots. A held write whose slot is free is written there with its epoch and
key and is held no longer; then its records go and a KEYING peer may join. With none free the command does nothing. Of a running
Asxon or Stream channel whose peer is neither STRANDED nor LANDFALL, the other slot, valid, confirmed and of the next epoch, becomes
current, the PN going on, the old slot no longer confirmed, and a ratchet key is counted; of a STRANDED or LANDFALL peer nothing
changes. A ratchet step of a channel in use is held while the peer is STRANDED or LANDFALL; of a JOINED one that nothing holds back, it
writes the key derived from the chain key into the slot of the next epoch, unanswered as yet, and keeps the next chain key, before the
NEXT record goes. -/
def Obligations.Keying : Prop := ExchangesPart ∧ KeySlotsPart

/-- 06 R169, R170, R177, 10 R304 to R306: key ports and random words. A write of GO without bit 0 does nothing. A request of a context that
is not sealed, or whose fields do not fit, is refused with reason 1 or 7 and its event; a read that the grant does not cover with
reason 2. A granted read of a key that is there returns it. A first write of a PAIR tag waits with its descriptor and data, no slot
changed. A second one from another kiln with the same descriptor and data takes the pairing out and, outside SEALED, installs the
key; with other data, the first disagreement over its key, it takes the pairing out, changes no slot and is noted, counted and an
event, and so is a first write that stays alone. RND_DATA gives fresh bits to a reader with no tag, and to a sealed one the
word of its tag's stream that its kiln reads next, within 2 ms; none while the instance stalls. -/
def Obligations.KeyPorts : Prop := ∀ (s : State) (n : Fin 192),
  (∀ v, bit v 0 = false → exec (.kpGo n v) s = .next s) ∧
  (∀ v, bit v 0 = true → s.sealedJob n = none → Leaves (.kpGo n v) s fun t => t.reg (kpBase n + 0x14) = 0x12 ∧ t.ev (pKln (n / 8)) 6 ∧ t.vault = s.vault) ∧
  (∀ v j, bit v 0 = true → s.sealedJob n = some j → s.kpFields (s.kpDesc n) = false → Leaves (.kpGo n v) s fun t =>
    t.reg (kpBase n + 0x14) = 0x72 ∧ t.ev (pKln (n / 8)) 6 ∧ t.vault = s.vault) ∧
  (∀ v j, bit v 0 = true → s.sealedJob n = some j → s.kpFields (s.kpDesc n) = true → kpLen (s.kpDesc n) = true → 0x10 ≤ (s.kpDesc n).kind →
    granted j (s.kpDesc n) = true → (s.kpKey (s.kpDesc n)).length = (s.kpDesc n).len → Leaves (.kpGo n v) s fun t =>
      t.reg (kpBase n + 0x14) = 1 ∧ (t.kp n).back = s.kpKey (s.kpDesc n) ∧ t.vault = s.vault) ∧
  (∀ v j, bit v 0 = true → s.sealedJob n = some j → s.kpFields (s.kpDesc n) = true → kpLen (s.kpDesc n) = true → 0x10 ≤ (s.kpDesc n).kind →
    granted j (s.kpDesc n) = false → Leaves (.kpGo n v) s fun t => t.reg (kpBase n + 0x14) = 0x22 ∧ t.vault = s.vault) ∧
  (∀ v j, bit v 0 = true → s.sealedJob n = some j → s.kpFields (s.kpDesc n) = true → kpLen (s.kpDesc n) = true → (s.kpDesc n).kind < 0x10 →
    (s.kp n).data.length = (s.kpDesc n).len → s.vault.pairs = [] → Leaves (.kpGo n v) s fun t => t.reg (kpBase n + 0x14) = 1 ∧
      t.vault.pairs = [{ id := s.vault.pairNext, kiln := n / 8, tag := j.pair, desc0 := s.reg (kpBase n), desc1 := s.reg (kpBase n + 4), desc2 := s.reg (kpBase n + 8), data := (s.kp n).data }] ∧
        t.slots = s.slots) ∧
  (∀ v j p, bit v 0 = true → s.sealedJob n = some j → s.kpFields (s.kpDesc n) = true → kpLen (s.kpDesc n) = true → (s.kpDesc n).kind < 0x10 →
    (s.kp n).data.length = (s.kpDesc n).len → s.vault.pairs = [p] → p.tag = j.pair → p.desc0 = s.reg (kpBase n) → p.desc1 = s.reg (kpBase n + 4) →
      p.desc2 = s.reg (kpBase n + 8) → p.kiln ≠ n / 8 → p.data = (s.kp n).data → s.isSealed = false →
        LeavesBy (·.kpInstall (s.kpDesc n) (s.kp n).data) (.kpGo n v) s fun u => u.vault.pairs = [] ∧ u.reg (kpBase n + 0x14) = 1) ∧
  (∀ v j p, bit v 0 = true → s.sealedJob n = some j → s.kpFields (s.kpDesc n) = true → kpLen (s.kpDesc n) = true → (s.kpDesc n).kind < 0x10 →
    (s.kp n).data.length = (s.kpDesc n).len → s.vault.pairs = [p] → p.tag = j.pair → p.desc0 = s.reg (kpBase n) → p.desc1 = s.reg (kpBase n + 4) →
      p.desc2 = s.reg (kpBase n + 8) → p.kiln ≠ n / 8 → p.data ≠ (s.kp n).data → s.vault.mism = [] → Leaves (.kpGo n v) s fun t =>
        t.vault.pairs = [] ∧ t.vault.mism.length = 1 ∧ t.slots = s.slots ∧ t.ev 0x80000 1 ∧ Counted s t 0x80118) ∧
  (∀ i p, s.vault.pairs.find? (fun p => p.id == i) = some p → s.vault.mism = [] → Leaves (.pairingTimeout i) s fun t =>
    (∀ q ∈ t.vault.pairs, q.id ≠ i) ∧ t.vault.mism.length = 1 ∧ t.slots = s.slots ∧ t.ev 0x80000 1 ∧ Counted s t 0x80118) ∧
  (∀ (k : Fin 24) a, s.vault.drbUp = true → s.vault.drbCast = false → 1 ∉ s.vault.drbStall → s.tagOf a = 0 → Leaves (.rndDataRead k a) s fun t =>
    t.out = s.out ++ [.read ((Config.freeWord s.free).setWidth 64)] ∧ t.free = s.free + 1) ∧
  (∀ (k : Fin 24) a r, s.vault.drbUp = true → s.vault.drbCast = false → 1 ∉ s.vault.drbStall → s.tagOf a ≠ 0 →
    s.kiln.rnds.find? (fun r => r.tag == s.tagOf a) = some r → s.dev.mono ≤ r.at_ + 2000000 → tget r.pos k 0 < 256 → Leaves (.rndDataRead k a) s fun t =>
      t.out = s.out ++ [.read ((Config.freeWord (r.base + tget r.pos k 0)).setWidth 64)] ∧ t.free = s.free) ∧
  (∀ (k : Fin 24) a, 1 ∈ s.vault.drbStall → exec (.rndDataRead k a) s = .next s)

/-- 06 R148, R149, R171, R174, R179 to R181, 11 R327: the vault keeper, while HC1 serves and the lifecycle permits. KEY_POLICY_SET stores
the masked policy, ANCHOR_SET the anchor of its group unless it is locked or of a wrong length; IMK_GET, ATTEST and IDENT_GET
answer what they read with the vault unchanged; IDENT_PROVISION, without an identity and with a key slot and entropy, makes one, and
with an identity is refused; IDENT_CERT_SET stores the certificate. ZEROIZE with its code zeroizes with reason 3, with another
changes neither vault nor device. SENSE_POLICY_SET stores masked policies unless one would be 3. While HC1 does not serve nothing
changes.
06 R150, R167, R172, R173, R181, 13 R355, R364, R368: SA_IMPORT of a blob that passes puts its key in the slot it names; one that fails
is answered with why, one in SEALED with status 2, no slot changed. REKEY starts the peer's or the channel's exchange, is held for a
STRANDED or LANDFALL peer, and answers 2 where none may start. LIFECYCLE_ADVANCE burns the step that is next, to RETURNED
erasing the vault, and no other. INTEGRATOR_KEY_SET takes a free slot once; a revocation stands. FLOOR_SET raises the floor it
names up to the version that runs, and no other way.
13 R356, R357, R360, R367, 10 R308: HC0's commands, while it serves. FW_INFO answers 24 bytes. FW_WRITE and STORE_WRITE put the bytes
where they name, outside RECOVERY and (FW_WRITE) the active slot; STORE_WRITE is refused in RECOVERY. FW_VERIFY answers 1, 2 or 3 for a
format, a floor or (outside RECOVERY) a signature that fails, else 0. IMAGES_RELOAD answers and leaves every context FREE. LOG_READ answers
whole records, and nothing while HC0 does not serve. -/
def Obligations.MailboxCommands : Prop := VaultKeeperPart ∧ KeysAndLifecyclePart ∧ ManagementPart

/-- 10 R286, R288 to R297, 07 R219: jobs and contexts. A doorbell of the queue's owner, before a firing and with both indexes within the queue,
moves its tail; another harbour's is dropped and counted in IGNORED_WR. A kiln that may dispatch takes the head of the highest
queue that gives it work; one that may not does nothing. An entry that breaks the format completes with 0x13; another one, an
engine and a bank being free, becomes a READY or RESIDENT context with the entry's pc and s1, recorded as a job. A job with a
time limit that runs out leaves its context FREE and raises its event. RESUME of an unsealed FAULTED restartable context makes
it RESIDENT at its faulting pc, its registers kept, and the engine then picks what to run; of a context that is not FAULTED it
does nothing. KILL leaves a context FREE; of a FREE one it does nothing. An ENG doorbell raises line 5 of its engines, and the
timer's match line 6 of each engine.
10 R299 to R303, R309: DMA channels and the hash co-unit. A channel started by an agent that may runs its list from the first entry for that
agent as owner, and by another one nothing changes; a harbour's STOP stops a running channel where it stands, and RESUME by an
agent that may lets it go on. An entry that cannot be read stops it with kind 6, and one that breaks a rule with that rule's
kind, with the event and no byte moved; another one between two stretches of memory that do not overlap moves its bytes, and the
last of a list ends it. A session that another agent holds does not start. One started is owned, holds no input yet, and is busy
if its settings are legal, in error if not. One of SHA-2 or SHA-3 kind whose input is complete shows its digest in HS_OUT and is
done; before that HASH_DONE does nothing. Release clears the session. -/
def Obligations.Kilns : Prop := JobsAndContextsPart ∧ DmaAndHashPart

/-- 11 R314 to R318, R323 to R325, R327 to R329: probes and batches. Where a port probes and fewer than 1,024 of its REQs wait, its timer
remembers the REQ by the port's SEQ, moves SEQ on and takes an OFF group to LEARNING; what follows is the frame's sending. A lost
probe leaves the outstanding ones and is counted for its port and group. A batch of a group that is not OFF, its path down,
forgets the hits and counts its ports anew; with its path up, all actions LOG, it counts its ports anew; in SUSPENDED the
reference port's round trip, if measured, stands in RTT. A missed batch counts and raises its event. SENSE_LOST is latched and
shown in LAST_ALARM: with LOG the device's state stays, with SEAL the device is then sealed for kind 11 of the group. Learning
ends ARMED with its event, the tracked baseline the learned one and the asymmetry ASYM_PS. With 1,088 probes complete and the
path up, ALARM_HOLDOFF_END takes a group that was ARMED to ARMED, all actions LOG, and another to LEARNING.
11 R320 to R322: equalisers and optics. A snapshot's CTLE, VGA and first four taps stand in the lane's window, EQ_SHIFT being LOG. A fast
poll serves strait slots, a slow poll all; a slot that is not polled changes nothing. Of three fast polls in a row without an
answer the first two are only remembered, and the third, as the third slow one, marks the slot LOST with OPTICS_LOST raised, its
action LOG. A fast poll that is answered, all actions LOG, marks the slot PRESENT, counts it and shows the RX power of each lane
of the slot; a slow one shows temperature, supply and each lane's TX power, read most significant byte first (00 R6). A LOST
slot that answers is PRESENT again. -/
def Obligations.Sensing : Prop := ProbesAndBatchesPart ∧ EqualisersAndOpticsPart

/-- A step takes the command at the front of the queue and runs it on the state with the queue's rest; where nothing waits, a nanosecond
passes (the model's choice, log entry 1). The table gives its rows no bits, so no word spells a command. -/
def Obligations.StepRunsFront : Prop :=
  (∀ (s : State) c rest, s.pending = c :: rest → step s = exec c { s with pending := rest }) ∧
  (∀ s : State, s.pending = [] → step s = .next s.tick ∧ s.tick.dev.mono = if s.dev.dstate = .cold then s.dev.mono else (s.dev.mono + 1) % 2 ^ 64) ∧
  (∀ (s : State) n w, decodeTableWord n w = none ∧ s.withFetchWord n w = s)

/-- What the machine is at reset, as the manual states it: in BOOT, nothing in memory, units 0 to 7 of each direction on their groups and
unit 8 the warm spare (03 R56, R82), every channel IDLE and every peer UNKEYED (01 R26). -/
def Obligations.ResetState : Prop :=
  MemOk State.reset ∧ State.reset.pending = [] ∧ State.reset.mem = [] ∧ State.reset.dev.dstate = .boot ∧
  (∀ (d : Fin 2) (n : Fin 8), State.reset.reg (pLane d n + 0x100) = w32 n) ∧ (∀ d : Fin 2, State.reset.reg (pLane d 8 + 0x100) = 0x1F) ∧
  (∀ c, (State.reset.chan c).st = .idle) ∧ (∀ g, (State.reset.peer g).sub = .unkeyed)

/-- Every command completes in every state: none ends in a fault or a refusal. -/
def Obligations.EveryCommandCompletes : Prop := ∀ (c : Instr) (s : State), ∃ t, exec c s = .next t

/-- Every step keeps the canonical form of the memory. -/
def Obligations.MemoryStaysCanonical : Prop := ∀ s t : State, MemOk s → step s = .next t → MemOk t

/-- 13 R355, R364, R368: what is fused stays so. No command moves the lifecycle back, lowers a version floor, changes an integrator key that is
set, or takes back a revocation; and none changes the queue or the part. -/
def Obligations.FusesAreOneWay : Prop := ∀ (c : Instr) (s t : State), exec c s = .next t →
  lifeOf s.boot.fuses ≤ lifeOf t.boot.fuses ∧ s.boot.fwFloor ≤ t.boot.fwFloor ∧ s.boot.patchFloor ≤ t.boot.patchFloor ∧
    (∀ n ∈ s.boot.intRevoked, n ∈ t.boot.intRevoked) ∧
      (∀ n, s.boot.intKeys.any (fun e => e.1 == n) = true → tget t.boot.intKeys n [] = tget s.boot.intKeys n []) ∧
        t.pending = s.pending ∧ t.dev.h48 = s.dev.h48
end

