-- ==== Sys2Proof/Laws/State.lean ====
section
/-! SUPPORT. The fields of an updated state: one lemma per field per update. -/
namespace Sys2Proof.Machine

@[simp] theorem State.withDev_dev (s : State) (d : Dev) : (s.withDev d).dev = d := (rfl)
@[simp] theorem State.withDev_regs (s : State) (d : Dev) : (s.withDev d).regs = s.regs := (rfl)
@[simp] theorem State.withDev_cnt (s : State) (d : Dev) : (s.withDev d).cnt = s.cnt := (rfl)
@[simp] theorem State.withDev_latch (s : State) (d : Dev) : (s.withDev d).latch = s.latch := (rfl)
@[simp] theorem State.withDev_gen (s : State) (d : Dev) : (s.withDev d).gen = s.gen := (rfl)
@[simp] theorem State.withDev_mem (s : State) (d : Dev) : (s.withDev d).mem = s.mem := (rfl)
@[simp] theorem State.withDev_isl (s : State) (d : Dev) : (s.withDev d).isl = s.isl := (rfl)
@[simp] theorem State.withDev_saf (s : State) (d : Dev) : (s.withDev d).saf = s.saf := (rfl)
@[simp] theorem State.withDev_pci (s : State) (d : Dev) : (s.withDev d).pci = s.pci := (rfl)
@[simp] theorem State.withDev_lane (s : State) (d : Dev) : (s.withDev d).lane = s.lane := (rfl)
@[simp] theorem State.withDev_slots (s : State) (d : Dev) : (s.withDev d).slots = s.slots := (rfl)
@[simp] theorem State.withDev_portSlots (s : State) (d : Dev) : (s.withDev d).portSlots = s.portSlots := (rfl)
@[simp] theorem State.withDev_chans (s : State) (d : Dev) : (s.withDev d).chans = s.chans := (rfl)
@[simp] theorem State.withDev_paths (s : State) (d : Dev) : (s.withDev d).paths = s.paths := (rfl)
@[simp] theorem State.withDev_peers (s : State) (d : Dev) : (s.withDev d).peers = s.peers := (rfl)
@[simp] theorem State.withDev_vault (s : State) (d : Dev) : (s.withDev d).vault = s.vault := (rfl)
@[simp] theorem State.withDev_ports (s : State) (d : Dev) : (s.withDev d).ports = s.ports := (rfl)
@[simp] theorem State.withDev_streams (s : State) (d : Dev) : (s.withDev d).streams = s.streams := (rfl)
@[simp] theorem State.withDev_senses (s : State) (d : Dev) : (s.withDev d).senses = s.senses := (rfl)
@[simp] theorem State.withDev_optics (s : State) (d : Dev) : (s.withDev d).optics = s.optics := (rfl)
@[simp] theorem State.withDev_kiln (s : State) (d : Dev) : (s.withDev d).kiln = s.kiln := (rfl)
@[simp] theorem State.withDev_engines (s : State) (d : Dev) : (s.withDev d).engines = s.engines := (rfl)
@[simp] theorem State.withDev_fronts (s : State) (d : Dev) : (s.withDev d).fronts = s.fronts := (rfl)
@[simp] theorem State.withDev_harbours (s : State) (d : Dev) : (s.withDev d).harbours = s.harbours := (rfl)
@[simp] theorem State.withDev_boot (s : State) (d : Dev) : (s.withDev d).boot = s.boot := (rfl)
@[simp] theorem State.withDev_free (s : State) (d : Dev) : (s.withDev d).free = s.free := (rfl)
@[simp] theorem State.withDev_out (s : State) (d : Dev) : (s.withDev d).out = s.out := (rfl)
@[simp] theorem State.withDev_pending (s : State) (d : Dev) : (s.withDev d).pending = s.pending := (rfl)

@[simp] theorem State.withRegs_dev (s : State) (r : Tbl Word) : (s.withRegs r).dev = s.dev := (rfl)
@[simp] theorem State.withRegs_regs (s : State) (r : Tbl Word) : (s.withRegs r).regs = r := (rfl)
@[simp] theorem State.withRegs_cnt (s : State) (r : Tbl Word) : (s.withRegs r).cnt = s.cnt := (rfl)
@[simp] theorem State.withRegs_latch (s : State) (r : Tbl Word) : (s.withRegs r).latch = s.latch := (rfl)
@[simp] theorem State.withRegs_gen (s : State) (r : Tbl Word) : (s.withRegs r).gen = s.gen := (rfl)
@[simp] theorem State.withRegs_mem (s : State) (r : Tbl Word) : (s.withRegs r).mem = s.mem := (rfl)
@[simp] theorem State.withRegs_isl (s : State) (r : Tbl Word) : (s.withRegs r).isl = s.isl := (rfl)
@[simp] theorem State.withRegs_saf (s : State) (r : Tbl Word) : (s.withRegs r).saf = s.saf := (rfl)
@[simp] theorem State.withRegs_pci (s : State) (r : Tbl Word) : (s.withRegs r).pci = s.pci := (rfl)
@[simp] theorem State.withRegs_lane (s : State) (r : Tbl Word) : (s.withRegs r).lane = s.lane := (rfl)
@[simp] theorem State.withRegs_slots (s : State) (r : Tbl Word) : (s.withRegs r).slots = s.slots := (rfl)
@[simp] theorem State.withRegs_portSlots (s : State) (r : Tbl Word) : (s.withRegs r).portSlots = s.portSlots := (rfl)
@[simp] theorem State.withRegs_chans (s : State) (r : Tbl Word) : (s.withRegs r).chans = s.chans := (rfl)
@[simp] theorem State.withRegs_paths (s : State) (r : Tbl Word) : (s.withRegs r).paths = s.paths := (rfl)
@[simp] theorem State.withRegs_peers (s : State) (r : Tbl Word) : (s.withRegs r).peers = s.peers := (rfl)
@[simp] theorem State.withRegs_vault (s : State) (r : Tbl Word) : (s.withRegs r).vault = s.vault := (rfl)
@[simp] theorem State.withRegs_ports (s : State) (r : Tbl Word) : (s.withRegs r).ports = s.ports := (rfl)
@[simp] theorem State.withRegs_streams (s : State) (r : Tbl Word) : (s.withRegs r).streams = s.streams := (rfl)
@[simp] theorem State.withRegs_senses (s : State) (r : Tbl Word) : (s.withRegs r).senses = s.senses := (rfl)
@[simp] theorem State.withRegs_optics (s : State) (r : Tbl Word) : (s.withRegs r).optics = s.optics := (rfl)
@[simp] theorem State.withRegs_kiln (s : State) (r : Tbl Word) : (s.withRegs r).kiln = s.kiln := (rfl)
@[simp] theorem State.withRegs_engines (s : State) (r : Tbl Word) : (s.withRegs r).engines = s.engines := (rfl)
@[simp] theorem State.withRegs_fronts (s : State) (r : Tbl Word) : (s.withRegs r).fronts = s.fronts := (rfl)
@[simp] theorem State.withRegs_harbours (s : State) (r : Tbl Word) : (s.withRegs r).harbours = s.harbours := (rfl)
@[simp] theorem State.withRegs_boot (s : State) (r : Tbl Word) : (s.withRegs r).boot = s.boot := (rfl)
@[simp] theorem State.withRegs_free (s : State) (r : Tbl Word) : (s.withRegs r).free = s.free := (rfl)
@[simp] theorem State.withRegs_out (s : State) (r : Tbl Word) : (s.withRegs r).out = s.out := (rfl)
@[simp] theorem State.withRegs_pending (s : State) (r : Tbl Word) : (s.withRegs r).pending = s.pending := (rfl)

@[simp] theorem State.withGen_dev (s : State) (g : Gen) : (s.withGen g).dev = s.dev := (rfl)
@[simp] theorem State.withGen_regs (s : State) (g : Gen) : (s.withGen g).regs = s.regs := (rfl)
@[simp] theorem State.withGen_cnt (s : State) (g : Gen) : (s.withGen g).cnt = s.cnt := (rfl)
@[simp] theorem State.withGen_latch (s : State) (g : Gen) : (s.withGen g).latch = s.latch := (rfl)
@[simp] theorem State.withGen_gen (s : State) (g : Gen) : (s.withGen g).gen = g := (rfl)
@[simp] theorem State.withGen_mem (s : State) (g : Gen) : (s.withGen g).mem = s.mem := (rfl)
@[simp] theorem State.withGen_isl (s : State) (g : Gen) : (s.withGen g).isl = s.isl := (rfl)
@[simp] theorem State.withGen_saf (s : State) (g : Gen) : (s.withGen g).saf = s.saf := (rfl)
@[simp] theorem State.withGen_pci (s : State) (g : Gen) : (s.withGen g).pci = s.pci := (rfl)
@[simp] theorem State.withGen_lane (s : State) (g : Gen) : (s.withGen g).lane = s.lane := (rfl)
@[simp] theorem State.withGen_slots (s : State) (g : Gen) : (s.withGen g).slots = s.slots := (rfl)
@[simp] theorem State.withGen_portSlots (s : State) (g : Gen) : (s.withGen g).portSlots = s.portSlots := (rfl)
@[simp] theorem State.withGen_chans (s : State) (g : Gen) : (s.withGen g).chans = s.chans := (rfl)
@[simp] theorem State.withGen_paths (s : State) (g : Gen) : (s.withGen g).paths = s.paths := (rfl)
@[simp] theorem State.withGen_peers (s : State) (g : Gen) : (s.withGen g).peers = s.peers := (rfl)
@[simp] theorem State.withGen_vault (s : State) (g : Gen) : (s.withGen g).vault = s.vault := (rfl)
@[simp] theorem State.withGen_ports (s : State) (g : Gen) : (s.withGen g).ports = s.ports := (rfl)
@[simp] theorem State.withGen_streams (s : State) (g : Gen) : (s.withGen g).streams = s.streams := (rfl)
@[simp] theorem State.withGen_senses (s : State) (g : Gen) : (s.withGen g).senses = s.senses := (rfl)
@[simp] theorem State.withGen_optics (s : State) (g : Gen) : (s.withGen g).optics = s.optics := (rfl)
@[simp] theorem State.withGen_kiln (s : State) (g : Gen) : (s.withGen g).kiln = s.kiln := (rfl)
@[simp] theorem State.withGen_engines (s : State) (g : Gen) : (s.withGen g).engines = s.engines := (rfl)
@[simp] theorem State.withGen_fronts (s : State) (g : Gen) : (s.withGen g).fronts = s.fronts := (rfl)
@[simp] theorem State.withGen_harbours (s : State) (g : Gen) : (s.withGen g).harbours = s.harbours := (rfl)
@[simp] theorem State.withGen_boot (s : State) (g : Gen) : (s.withGen g).boot = s.boot := (rfl)
@[simp] theorem State.withGen_free (s : State) (g : Gen) : (s.withGen g).free = s.free := (rfl)
@[simp] theorem State.withGen_out (s : State) (g : Gen) : (s.withGen g).out = s.out := (rfl)
@[simp] theorem State.withGen_pending (s : State) (g : Gen) : (s.withGen g).pending = s.pending := (rfl)

@[simp] theorem State.withMem_dev (s : State) (m : List Host.Cell) : (s.withMem m).dev = s.dev := (rfl)
@[simp] theorem State.withMem_regs (s : State) (m : List Host.Cell) : (s.withMem m).regs = s.regs := (rfl)
@[simp] theorem State.withMem_cnt (s : State) (m : List Host.Cell) : (s.withMem m).cnt = s.cnt := (rfl)
@[simp] theorem State.withMem_latch (s : State) (m : List Host.Cell) : (s.withMem m).latch = s.latch := (rfl)
@[simp] theorem State.withMem_gen (s : State) (m : List Host.Cell) : (s.withMem m).gen = s.gen := (rfl)
@[simp] theorem State.withMem_mem (s : State) (m : List Host.Cell) : (s.withMem m).mem = m := (rfl)
@[simp] theorem State.withMem_isl (s : State) (m : List Host.Cell) : (s.withMem m).isl = s.isl := (rfl)
@[simp] theorem State.withMem_saf (s : State) (m : List Host.Cell) : (s.withMem m).saf = s.saf := (rfl)
@[simp] theorem State.withMem_pci (s : State) (m : List Host.Cell) : (s.withMem m).pci = s.pci := (rfl)
@[simp] theorem State.withMem_lane (s : State) (m : List Host.Cell) : (s.withMem m).lane = s.lane := (rfl)
@[simp] theorem State.withMem_slots (s : State) (m : List Host.Cell) : (s.withMem m).slots = s.slots := (rfl)
@[simp] theorem State.withMem_portSlots (s : State) (m : List Host.Cell) : (s.withMem m).portSlots = s.portSlots := (rfl)
@[simp] theorem State.withMem_chans (s : State) (m : List Host.Cell) : (s.withMem m).chans = s.chans := (rfl)
@[simp] theorem State.withMem_paths (s : State) (m : List Host.Cell) : (s.withMem m).paths = s.paths := (rfl)
@[simp] theorem State.withMem_peers (s : State) (m : List Host.Cell) : (s.withMem m).peers = s.peers := (rfl)
@[simp] theorem State.withMem_vault (s : State) (m : List Host.Cell) : (s.withMem m).vault = s.vault := (rfl)
@[simp] theorem State.withMem_ports (s : State) (m : List Host.Cell) : (s.withMem m).ports = s.ports := (rfl)
@[simp] theorem State.withMem_streams (s : State) (m : List Host.Cell) : (s.withMem m).streams = s.streams := (rfl)
@[simp] theorem State.withMem_senses (s : State) (m : List Host.Cell) : (s.withMem m).senses = s.senses := (rfl)
@[simp] theorem State.withMem_optics (s : State) (m : List Host.Cell) : (s.withMem m).optics = s.optics := (rfl)
@[simp] theorem State.withMem_kiln (s : State) (m : List Host.Cell) : (s.withMem m).kiln = s.kiln := (rfl)
@[simp] theorem State.withMem_engines (s : State) (m : List Host.Cell) : (s.withMem m).engines = s.engines := (rfl)
@[simp] theorem State.withMem_fronts (s : State) (m : List Host.Cell) : (s.withMem m).fronts = s.fronts := (rfl)
@[simp] theorem State.withMem_harbours (s : State) (m : List Host.Cell) : (s.withMem m).harbours = s.harbours := (rfl)
@[simp] theorem State.withMem_boot (s : State) (m : List Host.Cell) : (s.withMem m).boot = s.boot := (rfl)
@[simp] theorem State.withMem_free (s : State) (m : List Host.Cell) : (s.withMem m).free = s.free := (rfl)
@[simp] theorem State.withMem_out (s : State) (m : List Host.Cell) : (s.withMem m).out = s.out := (rfl)
@[simp] theorem State.withMem_pending (s : State) (m : List Host.Cell) : (s.withMem m).pending = s.pending := (rfl)

@[simp] theorem State.withSaf_dev (s : State) (x : Safety) : (s.withSaf x).dev = s.dev := (rfl)
@[simp] theorem State.withSaf_regs (s : State) (x : Safety) : (s.withSaf x).regs = s.regs := (rfl)
@[simp] theorem State.withSaf_cnt (s : State) (x : Safety) : (s.withSaf x).cnt = s.cnt := (rfl)
@[simp] theorem State.withSaf_latch (s : State) (x : Safety) : (s.withSaf x).latch = s.latch := (rfl)
@[simp] theorem State.withSaf_gen (s : State) (x : Safety) : (s.withSaf x).gen = s.gen := (rfl)
@[simp] theorem State.withSaf_mem (s : State) (x : Safety) : (s.withSaf x).mem = s.mem := (rfl)
@[simp] theorem State.withSaf_isl (s : State) (x : Safety) : (s.withSaf x).isl = s.isl := (rfl)
@[simp] theorem State.withSaf_saf (s : State) (x : Safety) : (s.withSaf x).saf = x := (rfl)
@[simp] theorem State.withSaf_pci (s : State) (x : Safety) : (s.withSaf x).pci = s.pci := (rfl)
@[simp] theorem State.withSaf_lane (s : State) (x : Safety) : (s.withSaf x).lane = s.lane := (rfl)
@[simp] theorem State.withSaf_slots (s : State) (x : Safety) : (s.withSaf x).slots = s.slots := (rfl)
@[simp] theorem State.withSaf_portSlots (s : State) (x : Safety) : (s.withSaf x).portSlots = s.portSlots := (rfl)
@[simp] theorem State.withSaf_chans (s : State) (x : Safety) : (s.withSaf x).chans = s.chans := (rfl)
@[simp] theorem State.withSaf_paths (s : State) (x : Safety) : (s.withSaf x).paths = s.paths := (rfl)
@[simp] theorem State.withSaf_peers (s : State) (x : Safety) : (s.withSaf x).peers = s.peers := (rfl)
@[simp] theorem State.withSaf_vault (s : State) (x : Safety) : (s.withSaf x).vault = s.vault := (rfl)
@[simp] theorem State.withSaf_ports (s : State) (x : Safety) : (s.withSaf x).ports = s.ports := (rfl)
@[simp] theorem State.withSaf_streams (s : State) (x : Safety) : (s.withSaf x).streams = s.streams := (rfl)
@[simp] theorem State.withSaf_senses (s : State) (x : Safety) : (s.withSaf x).senses = s.senses := (rfl)
@[simp] theorem State.withSaf_optics (s : State) (x : Safety) : (s.withSaf x).optics = s.optics := (rfl)
@[simp] theorem State.withSaf_kiln (s : State) (x : Safety) : (s.withSaf x).kiln = s.kiln := (rfl)
@[simp] theorem State.withSaf_engines (s : State) (x : Safety) : (s.withSaf x).engines = s.engines := (rfl)
@[simp] theorem State.withSaf_fronts (s : State) (x : Safety) : (s.withSaf x).fronts = s.fronts := (rfl)
@[simp] theorem State.withSaf_harbours (s : State) (x : Safety) : (s.withSaf x).harbours = s.harbours := (rfl)
@[simp] theorem State.withSaf_boot (s : State) (x : Safety) : (s.withSaf x).boot = s.boot := (rfl)
@[simp] theorem State.withSaf_free (s : State) (x : Safety) : (s.withSaf x).free = s.free := (rfl)
@[simp] theorem State.withSaf_out (s : State) (x : Safety) : (s.withSaf x).out = s.out := (rfl)
@[simp] theorem State.withSaf_pending (s : State) (x : Safety) : (s.withSaf x).pending = s.pending := (rfl)

@[simp] theorem State.withPci_dev (s : State) (x : Pci) : (s.withPci x).dev = s.dev := (rfl)
@[simp] theorem State.withPci_regs (s : State) (x : Pci) : (s.withPci x).regs = s.regs := (rfl)
@[simp] theorem State.withPci_cnt (s : State) (x : Pci) : (s.withPci x).cnt = s.cnt := (rfl)
@[simp] theorem State.withPci_latch (s : State) (x : Pci) : (s.withPci x).latch = s.latch := (rfl)
@[simp] theorem State.withPci_gen (s : State) (x : Pci) : (s.withPci x).gen = s.gen := (rfl)
@[simp] theorem State.withPci_mem (s : State) (x : Pci) : (s.withPci x).mem = s.mem := (rfl)
@[simp] theorem State.withPci_isl (s : State) (x : Pci) : (s.withPci x).isl = s.isl := (rfl)
@[simp] theorem State.withPci_saf (s : State) (x : Pci) : (s.withPci x).saf = s.saf := (rfl)
@[simp] theorem State.withPci_pci (s : State) (x : Pci) : (s.withPci x).pci = x := (rfl)
@[simp] theorem State.withPci_lane (s : State) (x : Pci) : (s.withPci x).lane = s.lane := (rfl)
@[simp] theorem State.withPci_slots (s : State) (x : Pci) : (s.withPci x).slots = s.slots := (rfl)
@[simp] theorem State.withPci_portSlots (s : State) (x : Pci) : (s.withPci x).portSlots = s.portSlots := (rfl)
@[simp] theorem State.withPci_chans (s : State) (x : Pci) : (s.withPci x).chans = s.chans := (rfl)
@[simp] theorem State.withPci_paths (s : State) (x : Pci) : (s.withPci x).paths = s.paths := (rfl)
@[simp] theorem State.withPci_peers (s : State) (x : Pci) : (s.withPci x).peers = s.peers := (rfl)
@[simp] theorem State.withPci_vault (s : State) (x : Pci) : (s.withPci x).vault = s.vault := (rfl)
@[simp] theorem State.withPci_ports (s : State) (x : Pci) : (s.withPci x).ports = s.ports := (rfl)
@[simp] theorem State.withPci_streams (s : State) (x : Pci) : (s.withPci x).streams = s.streams := (rfl)
@[simp] theorem State.withPci_senses (s : State) (x : Pci) : (s.withPci x).senses = s.senses := (rfl)
@[simp] theorem State.withPci_optics (s : State) (x : Pci) : (s.withPci x).optics = s.optics := (rfl)
@[simp] theorem State.withPci_kiln (s : State) (x : Pci) : (s.withPci x).kiln = s.kiln := (rfl)
@[simp] theorem State.withPci_engines (s : State) (x : Pci) : (s.withPci x).engines = s.engines := (rfl)
@[simp] theorem State.withPci_fronts (s : State) (x : Pci) : (s.withPci x).fronts = s.fronts := (rfl)
@[simp] theorem State.withPci_harbours (s : State) (x : Pci) : (s.withPci x).harbours = s.harbours := (rfl)
@[simp] theorem State.withPci_boot (s : State) (x : Pci) : (s.withPci x).boot = s.boot := (rfl)
@[simp] theorem State.withPci_free (s : State) (x : Pci) : (s.withPci x).free = s.free := (rfl)
@[simp] theorem State.withPci_out (s : State) (x : Pci) : (s.withPci x).out = s.out := (rfl)
@[simp] theorem State.withPci_pending (s : State) (x : Pci) : (s.withPci x).pending = s.pending := (rfl)

@[simp] theorem State.withVault_dev (s : State) (x : Vault) : (s.withVault x).dev = s.dev := (rfl)
@[simp] theorem State.withVault_regs (s : State) (x : Vault) : (s.withVault x).regs = s.regs := (rfl)
@[simp] theorem State.withVault_cnt (s : State) (x : Vault) : (s.withVault x).cnt = s.cnt := (rfl)
@[simp] theorem State.withVault_latch (s : State) (x : Vault) : (s.withVault x).latch = s.latch := (rfl)
@[simp] theorem State.withVault_gen (s : State) (x : Vault) : (s.withVault x).gen = s.gen := (rfl)
@[simp] theorem State.withVault_mem (s : State) (x : Vault) : (s.withVault x).mem = s.mem := (rfl)
@[simp] theorem State.withVault_isl (s : State) (x : Vault) : (s.withVault x).isl = s.isl := (rfl)
@[simp] theorem State.withVault_saf (s : State) (x : Vault) : (s.withVault x).saf = s.saf := (rfl)
@[simp] theorem State.withVault_pci (s : State) (x : Vault) : (s.withVault x).pci = s.pci := (rfl)
@[simp] theorem State.withVault_lane (s : State) (x : Vault) : (s.withVault x).lane = s.lane := (rfl)
@[simp] theorem State.withVault_slots (s : State) (x : Vault) : (s.withVault x).slots = s.slots := (rfl)
@[simp] theorem State.withVault_portSlots (s : State) (x : Vault) : (s.withVault x).portSlots = s.portSlots := (rfl)
@[simp] theorem State.withVault_chans (s : State) (x : Vault) : (s.withVault x).chans = s.chans := (rfl)
@[simp] theorem State.withVault_paths (s : State) (x : Vault) : (s.withVault x).paths = s.paths := (rfl)
@[simp] theorem State.withVault_peers (s : State) (x : Vault) : (s.withVault x).peers = s.peers := (rfl)
@[simp] theorem State.withVault_vault (s : State) (x : Vault) : (s.withVault x).vault = x := (rfl)
@[simp] theorem State.withVault_ports (s : State) (x : Vault) : (s.withVault x).ports = s.ports := (rfl)
@[simp] theorem State.withVault_streams (s : State) (x : Vault) : (s.withVault x).streams = s.streams := (rfl)
@[simp] theorem State.withVault_senses (s : State) (x : Vault) : (s.withVault x).senses = s.senses := (rfl)
@[simp] theorem State.withVault_optics (s : State) (x : Vault) : (s.withVault x).optics = s.optics := (rfl)
@[simp] theorem State.withVault_kiln (s : State) (x : Vault) : (s.withVault x).kiln = s.kiln := (rfl)
@[simp] theorem State.withVault_engines (s : State) (x : Vault) : (s.withVault x).engines = s.engines := (rfl)
@[simp] theorem State.withVault_fronts (s : State) (x : Vault) : (s.withVault x).fronts = s.fronts := (rfl)
@[simp] theorem State.withVault_harbours (s : State) (x : Vault) : (s.withVault x).harbours = s.harbours := (rfl)
@[simp] theorem State.withVault_boot (s : State) (x : Vault) : (s.withVault x).boot = s.boot := (rfl)
@[simp] theorem State.withVault_free (s : State) (x : Vault) : (s.withVault x).free = s.free := (rfl)
@[simp] theorem State.withVault_out (s : State) (x : Vault) : (s.withVault x).out = s.out := (rfl)
@[simp] theorem State.withVault_pending (s : State) (x : Vault) : (s.withVault x).pending = s.pending := (rfl)

@[simp] theorem State.withKiln_dev (s : State) (x : Kilns) : (s.withKiln x).dev = s.dev := (rfl)
@[simp] theorem State.withKiln_regs (s : State) (x : Kilns) : (s.withKiln x).regs = s.regs := (rfl)
@[simp] theorem State.withKiln_cnt (s : State) (x : Kilns) : (s.withKiln x).cnt = s.cnt := (rfl)
@[simp] theorem State.withKiln_latch (s : State) (x : Kilns) : (s.withKiln x).latch = s.latch := (rfl)
@[simp] theorem State.withKiln_gen (s : State) (x : Kilns) : (s.withKiln x).gen = s.gen := (rfl)
@[simp] theorem State.withKiln_mem (s : State) (x : Kilns) : (s.withKiln x).mem = s.mem := (rfl)
@[simp] theorem State.withKiln_isl (s : State) (x : Kilns) : (s.withKiln x).isl = s.isl := (rfl)
@[simp] theorem State.withKiln_saf (s : State) (x : Kilns) : (s.withKiln x).saf = s.saf := (rfl)
@[simp] theorem State.withKiln_pci (s : State) (x : Kilns) : (s.withKiln x).pci = s.pci := (rfl)
@[simp] theorem State.withKiln_lane (s : State) (x : Kilns) : (s.withKiln x).lane = s.lane := (rfl)
@[simp] theorem State.withKiln_slots (s : State) (x : Kilns) : (s.withKiln x).slots = s.slots := (rfl)
@[simp] theorem State.withKiln_portSlots (s : State) (x : Kilns) : (s.withKiln x).portSlots = s.portSlots := (rfl)
@[simp] theorem State.withKiln_chans (s : State) (x : Kilns) : (s.withKiln x).chans = s.chans := (rfl)
@[simp] theorem State.withKiln_paths (s : State) (x : Kilns) : (s.withKiln x).paths = s.paths := (rfl)
@[simp] theorem State.withKiln_peers (s : State) (x : Kilns) : (s.withKiln x).peers = s.peers := (rfl)
@[simp] theorem State.withKiln_vault (s : State) (x : Kilns) : (s.withKiln x).vault = s.vault := (rfl)
@[simp] theorem State.withKiln_ports (s : State) (x : Kilns) : (s.withKiln x).ports = s.ports := (rfl)
@[simp] theorem State.withKiln_streams (s : State) (x : Kilns) : (s.withKiln x).streams = s.streams := (rfl)
@[simp] theorem State.withKiln_senses (s : State) (x : Kilns) : (s.withKiln x).senses = s.senses := (rfl)
@[simp] theorem State.withKiln_optics (s : State) (x : Kilns) : (s.withKiln x).optics = s.optics := (rfl)
@[simp] theorem State.withKiln_kiln (s : State) (x : Kilns) : (s.withKiln x).kiln = x := (rfl)
@[simp] theorem State.withKiln_engines (s : State) (x : Kilns) : (s.withKiln x).engines = s.engines := (rfl)
@[simp] theorem State.withKiln_fronts (s : State) (x : Kilns) : (s.withKiln x).fronts = s.fronts := (rfl)
@[simp] theorem State.withKiln_harbours (s : State) (x : Kilns) : (s.withKiln x).harbours = s.harbours := (rfl)
@[simp] theorem State.withKiln_boot (s : State) (x : Kilns) : (s.withKiln x).boot = s.boot := (rfl)
@[simp] theorem State.withKiln_free (s : State) (x : Kilns) : (s.withKiln x).free = s.free := (rfl)
@[simp] theorem State.withKiln_out (s : State) (x : Kilns) : (s.withKiln x).out = s.out := (rfl)
@[simp] theorem State.withKiln_pending (s : State) (x : Kilns) : (s.withKiln x).pending = s.pending := (rfl)

@[simp] theorem State.withBoot_dev (s : State) (x : Boot) : (s.withBoot x).dev = s.dev := (rfl)
@[simp] theorem State.withBoot_regs (s : State) (x : Boot) : (s.withBoot x).regs = s.regs := (rfl)
@[simp] theorem State.withBoot_cnt (s : State) (x : Boot) : (s.withBoot x).cnt = s.cnt := (rfl)
@[simp] theorem State.withBoot_latch (s : State) (x : Boot) : (s.withBoot x).latch = s.latch := (rfl)
@[simp] theorem State.withBoot_gen (s : State) (x : Boot) : (s.withBoot x).gen = s.gen := (rfl)
@[simp] theorem State.withBoot_mem (s : State) (x : Boot) : (s.withBoot x).mem = s.mem := (rfl)
@[simp] theorem State.withBoot_isl (s : State) (x : Boot) : (s.withBoot x).isl = s.isl := (rfl)
@[simp] theorem State.withBoot_saf (s : State) (x : Boot) : (s.withBoot x).saf = s.saf := (rfl)
@[simp] theorem State.withBoot_pci (s : State) (x : Boot) : (s.withBoot x).pci = s.pci := (rfl)
@[simp] theorem State.withBoot_lane (s : State) (x : Boot) : (s.withBoot x).lane = s.lane := (rfl)
@[simp] theorem State.withBoot_slots (s : State) (x : Boot) : (s.withBoot x).slots = s.slots := (rfl)
@[simp] theorem State.withBoot_portSlots (s : State) (x : Boot) : (s.withBoot x).portSlots = s.portSlots := (rfl)
@[simp] theorem State.withBoot_chans (s : State) (x : Boot) : (s.withBoot x).chans = s.chans := (rfl)
@[simp] theorem State.withBoot_paths (s : State) (x : Boot) : (s.withBoot x).paths = s.paths := (rfl)
@[simp] theorem State.withBoot_peers (s : State) (x : Boot) : (s.withBoot x).peers = s.peers := (rfl)
@[simp] theorem State.withBoot_vault (s : State) (x : Boot) : (s.withBoot x).vault = s.vault := (rfl)
@[simp] theorem State.withBoot_ports (s : State) (x : Boot) : (s.withBoot x).ports = s.ports := (rfl)
@[simp] theorem State.withBoot_streams (s : State) (x : Boot) : (s.withBoot x).streams = s.streams := (rfl)
@[simp] theorem State.withBoot_senses (s : State) (x : Boot) : (s.withBoot x).senses = s.senses := (rfl)
@[simp] theorem State.withBoot_optics (s : State) (x : Boot) : (s.withBoot x).optics = s.optics := (rfl)
@[simp] theorem State.withBoot_kiln (s : State) (x : Boot) : (s.withBoot x).kiln = s.kiln := (rfl)
@[simp] theorem State.withBoot_engines (s : State) (x : Boot) : (s.withBoot x).engines = s.engines := (rfl)
@[simp] theorem State.withBoot_fronts (s : State) (x : Boot) : (s.withBoot x).fronts = s.fronts := (rfl)
@[simp] theorem State.withBoot_harbours (s : State) (x : Boot) : (s.withBoot x).harbours = s.harbours := (rfl)
@[simp] theorem State.withBoot_boot (s : State) (x : Boot) : (s.withBoot x).boot = x := (rfl)
@[simp] theorem State.withBoot_free (s : State) (x : Boot) : (s.withBoot x).free = s.free := (rfl)
@[simp] theorem State.withBoot_out (s : State) (x : Boot) : (s.withBoot x).out = s.out := (rfl)
@[simp] theorem State.withBoot_pending (s : State) (x : Boot) : (s.withBoot x).pending = s.pending := (rfl)

@[simp] theorem State.emit_dev (s : State) (o : Out) : (s.emit o).dev = s.dev := (rfl)
@[simp] theorem State.emit_regs (s : State) (o : Out) : (s.emit o).regs = s.regs := (rfl)
@[simp] theorem State.emit_cnt (s : State) (o : Out) : (s.emit o).cnt = s.cnt := (rfl)
@[simp] theorem State.emit_latch (s : State) (o : Out) : (s.emit o).latch = s.latch := (rfl)
@[simp] theorem State.emit_gen (s : State) (o : Out) : (s.emit o).gen = s.gen := (rfl)
@[simp] theorem State.emit_mem (s : State) (o : Out) : (s.emit o).mem = s.mem := (rfl)
@[simp] theorem State.emit_isl (s : State) (o : Out) : (s.emit o).isl = s.isl := (rfl)
@[simp] theorem State.emit_saf (s : State) (o : Out) : (s.emit o).saf = s.saf := (rfl)
@[simp] theorem State.emit_pci (s : State) (o : Out) : (s.emit o).pci = s.pci := (rfl)
@[simp] theorem State.emit_lane (s : State) (o : Out) : (s.emit o).lane = s.lane := (rfl)
@[simp] theorem State.emit_slots (s : State) (o : Out) : (s.emit o).slots = s.slots := (rfl)
@[simp] theorem State.emit_portSlots (s : State) (o : Out) : (s.emit o).portSlots = s.portSlots := (rfl)
@[simp] theorem State.emit_chans (s : State) (o : Out) : (s.emit o).chans = s.chans := (rfl)
@[simp] theorem State.emit_paths (s : State) (o : Out) : (s.emit o).paths = s.paths := (rfl)
@[simp] theorem State.emit_peers (s : State) (o : Out) : (s.emit o).peers = s.peers := (rfl)
@[simp] theorem State.emit_vault (s : State) (o : Out) : (s.emit o).vault = s.vault := (rfl)
@[simp] theorem State.emit_ports (s : State) (o : Out) : (s.emit o).ports = s.ports := (rfl)
@[simp] theorem State.emit_streams (s : State) (o : Out) : (s.emit o).streams = s.streams := (rfl)
@[simp] theorem State.emit_senses (s : State) (o : Out) : (s.emit o).senses = s.senses := (rfl)
@[simp] theorem State.emit_optics (s : State) (o : Out) : (s.emit o).optics = s.optics := (rfl)
@[simp] theorem State.emit_kiln (s : State) (o : Out) : (s.emit o).kiln = s.kiln := (rfl)
@[simp] theorem State.emit_engines (s : State) (o : Out) : (s.emit o).engines = s.engines := (rfl)
@[simp] theorem State.emit_fronts (s : State) (o : Out) : (s.emit o).fronts = s.fronts := (rfl)
@[simp] theorem State.emit_harbours (s : State) (o : Out) : (s.emit o).harbours = s.harbours := (rfl)
@[simp] theorem State.emit_boot (s : State) (o : Out) : (s.emit o).boot = s.boot := (rfl)
@[simp] theorem State.emit_free (s : State) (o : Out) : (s.emit o).free = s.free := (rfl)
@[simp] theorem State.emit_out (s : State) (o : Out) : (s.emit o).out = s.out ++ [o] := (rfl)
@[simp] theorem State.emit_pending (s : State) (o : Out) : (s.emit o).pending = s.pending := (rfl)

@[simp] theorem State.drawn_dev (s : State) : (s.drawn).dev = s.dev := (rfl)
@[simp] theorem State.drawn_regs (s : State) : (s.drawn).regs = s.regs := (rfl)
@[simp] theorem State.drawn_cnt (s : State) : (s.drawn).cnt = s.cnt := (rfl)
@[simp] theorem State.drawn_latch (s : State) : (s.drawn).latch = s.latch := (rfl)
@[simp] theorem State.drawn_gen (s : State) : (s.drawn).gen = s.gen := (rfl)
@[simp] theorem State.drawn_mem (s : State) : (s.drawn).mem = s.mem := (rfl)
@[simp] theorem State.drawn_isl (s : State) : (s.drawn).isl = s.isl := (rfl)
@[simp] theorem State.drawn_saf (s : State) : (s.drawn).saf = s.saf := (rfl)
@[simp] theorem State.drawn_pci (s : State) : (s.drawn).pci = s.pci := (rfl)
@[simp] theorem State.drawn_lane (s : State) : (s.drawn).lane = s.lane := (rfl)
@[simp] theorem State.drawn_slots (s : State) : (s.drawn).slots = s.slots := (rfl)
@[simp] theorem State.drawn_portSlots (s : State) : (s.drawn).portSlots = s.portSlots := (rfl)
@[simp] theorem State.drawn_chans (s : State) : (s.drawn).chans = s.chans := (rfl)
@[simp] theorem State.drawn_paths (s : State) : (s.drawn).paths = s.paths := (rfl)
@[simp] theorem State.drawn_peers (s : State) : (s.drawn).peers = s.peers := (rfl)
@[simp] theorem State.drawn_vault (s : State) : (s.drawn).vault = s.vault := (rfl)
@[simp] theorem State.drawn_ports (s : State) : (s.drawn).ports = s.ports := (rfl)
@[simp] theorem State.drawn_streams (s : State) : (s.drawn).streams = s.streams := (rfl)
@[simp] theorem State.drawn_senses (s : State) : (s.drawn).senses = s.senses := (rfl)
@[simp] theorem State.drawn_optics (s : State) : (s.drawn).optics = s.optics := (rfl)
@[simp] theorem State.drawn_kiln (s : State) : (s.drawn).kiln = s.kiln := (rfl)
@[simp] theorem State.drawn_engines (s : State) : (s.drawn).engines = s.engines := (rfl)
@[simp] theorem State.drawn_fronts (s : State) : (s.drawn).fronts = s.fronts := (rfl)
@[simp] theorem State.drawn_harbours (s : State) : (s.drawn).harbours = s.harbours := (rfl)
@[simp] theorem State.drawn_boot (s : State) : (s.drawn).boot = s.boot := (rfl)
@[simp] theorem State.drawn_free (s : State) : (s.drawn).free = s.free + 1 := (rfl)
@[simp] theorem State.drawn_out (s : State) : (s.drawn).out = s.out := (rfl)
@[simp] theorem State.drawn_pending (s : State) : (s.drawn).pending = s.pending := (rfl)

@[simp] theorem State.setReg_dev (s : State) (o : Nat) (v : Word) : (s.setReg o v).dev = s.dev := (rfl)
@[simp] theorem State.setReg_regs (s : State) (o : Nat) (v : Word) : (s.setReg o v).regs = tput s.regs o v := (rfl)
@[simp] theorem State.setReg_cnt (s : State) (o : Nat) (v : Word) : (s.setReg o v).cnt = s.cnt := (rfl)
@[simp] theorem State.setReg_latch (s : State) (o : Nat) (v : Word) : (s.setReg o v).latch = s.latch := (rfl)
@[simp] theorem State.setReg_gen (s : State) (o : Nat) (v : Word) : (s.setReg o v).gen = s.gen := (rfl)
@[simp] theorem State.setReg_mem (s : State) (o : Nat) (v : Word) : (s.setReg o v).mem = s.mem := (rfl)
@[simp] theorem State.setReg_isl (s : State) (o : Nat) (v : Word) : (s.setReg o v).isl = s.isl := (rfl)
@[simp] theorem State.setReg_saf (s : State) (o : Nat) (v : Word) : (s.setReg o v).saf = s.saf := (rfl)
@[simp] theorem State.setReg_pci (s : State) (o : Nat) (v : Word) : (s.setReg o v).pci = s.pci := (rfl)
@[simp] theorem State.setReg_lane (s : State) (o : Nat) (v : Word) : (s.setReg o v).lane = s.lane := (rfl)
@[simp] theorem State.setReg_slots (s : State) (o : Nat) (v : Word) : (s.setReg o v).slots = s.slots := (rfl)
@[simp] theorem State.setReg_portSlots (s : State) (o : Nat) (v : Word) : (s.setReg o v).portSlots = s.portSlots := (rfl)
@[simp] theorem State.setReg_chans (s : State) (o : Nat) (v : Word) : (s.setReg o v).chans = s.chans := (rfl)
@[simp] theorem State.setReg_paths (s : State) (o : Nat) (v : Word) : (s.setReg o v).paths = s.paths := (rfl)
@[simp] theorem State.setReg_peers (s : State) (o : Nat) (v : Word) : (s.setReg o v).peers = s.peers := (rfl)
@[simp] theorem State.setReg_vault (s : State) (o : Nat) (v : Word) : (s.setReg o v).vault = s.vault := (rfl)
@[simp] theorem State.setReg_ports (s : State) (o : Nat) (v : Word) : (s.setReg o v).ports = s.ports := (rfl)
@[simp] theorem State.setReg_streams (s : State) (o : Nat) (v : Word) : (s.setReg o v).streams = s.streams := (rfl)
@[simp] theorem State.setReg_senses (s : State) (o : Nat) (v : Word) : (s.setReg o v).senses = s.senses := (rfl)
@[simp] theorem State.setReg_optics (s : State) (o : Nat) (v : Word) : (s.setReg o v).optics = s.optics := (rfl)
@[simp] theorem State.setReg_kiln (s : State) (o : Nat) (v : Word) : (s.setReg o v).kiln = s.kiln := (rfl)
@[simp] theorem State.setReg_engines (s : State) (o : Nat) (v : Word) : (s.setReg o v).engines = s.engines := (rfl)
@[simp] theorem State.setReg_fronts (s : State) (o : Nat) (v : Word) : (s.setReg o v).fronts = s.fronts := (rfl)
@[simp] theorem State.setReg_harbours (s : State) (o : Nat) (v : Word) : (s.setReg o v).harbours = s.harbours := (rfl)
@[simp] theorem State.setReg_boot (s : State) (o : Nat) (v : Word) : (s.setReg o v).boot = s.boot := (rfl)
@[simp] theorem State.setReg_free (s : State) (o : Nat) (v : Word) : (s.setReg o v).free = s.free := (rfl)
@[simp] theorem State.setReg_out (s : State) (o : Nat) (v : Word) : (s.setReg o v).out = s.out := (rfl)
@[simp] theorem State.setReg_pending (s : State) (o : Nat) (v : Word) : (s.setReg o v).pending = s.pending := (rfl)

@[simp] theorem State.cntAdd_dev (s : State) (o n : Nat) : (s.cntAdd o n).dev = s.dev := (rfl)
@[simp] theorem State.cntAdd_regs (s : State) (o n : Nat) : (s.cntAdd o n).regs = s.regs := (rfl)
@[simp] theorem State.cntAdd_cnt (s : State) (o n : Nat) : (s.cntAdd o n).cnt = tput s.cnt o ((tget s.cnt o 0 + n) % 2 ^ 64) := (rfl)
@[simp] theorem State.cntAdd_latch (s : State) (o n : Nat) : (s.cntAdd o n).latch = s.latch := (rfl)
@[simp] theorem State.cntAdd_gen (s : State) (o n : Nat) : (s.cntAdd o n).gen = s.gen := (rfl)
@[simp] theorem State.cntAdd_mem (s : State) (o n : Nat) : (s.cntAdd o n).mem = s.mem := (rfl)
@[simp] theorem State.cntAdd_isl (s : State) (o n : Nat) : (s.cntAdd o n).isl = s.isl := (rfl)
@[simp] theorem State.cntAdd_saf (s : State) (o n : Nat) : (s.cntAdd o n).saf = s.saf := (rfl)
@[simp] theorem State.cntAdd_pci (s : State) (o n : Nat) : (s.cntAdd o n).pci = s.pci := (rfl)
@[simp] theorem State.cntAdd_lane (s : State) (o n : Nat) : (s.cntAdd o n).lane = s.lane := (rfl)
@[simp] theorem State.cntAdd_slots (s : State) (o n : Nat) : (s.cntAdd o n).slots = s.slots := (rfl)
@[simp] theorem State.cntAdd_portSlots (s : State) (o n : Nat) : (s.cntAdd o n).portSlots = s.portSlots := (rfl)
@[simp] theorem State.cntAdd_chans (s : State) (o n : Nat) : (s.cntAdd o n).chans = s.chans := (rfl)
@[simp] theorem State.cntAdd_paths (s : State) (o n : Nat) : (s.cntAdd o n).paths = s.paths := (rfl)
@[simp] theorem State.cntAdd_peers (s : State) (o n : Nat) : (s.cntAdd o n).peers = s.peers := (rfl)
@[simp] theorem State.cntAdd_vault (s : State) (o n : Nat) : (s.cntAdd o n).vault = s.vault := (rfl)
@[simp] theorem State.cntAdd_ports (s : State) (o n : Nat) : (s.cntAdd o n).ports = s.ports := (rfl)
@[simp] theorem State.cntAdd_streams (s : State) (o n : Nat) : (s.cntAdd o n).streams = s.streams := (rfl)
@[simp] theorem State.cntAdd_senses (s : State) (o n : Nat) : (s.cntAdd o n).senses = s.senses := (rfl)
@[simp] theorem State.cntAdd_optics (s : State) (o n : Nat) : (s.cntAdd o n).optics = s.optics := (rfl)
@[simp] theorem State.cntAdd_kiln (s : State) (o n : Nat) : (s.cntAdd o n).kiln = s.kiln := (rfl)
@[simp] theorem State.cntAdd_engines (s : State) (o n : Nat) : (s.cntAdd o n).engines = s.engines := (rfl)
@[simp] theorem State.cntAdd_fronts (s : State) (o n : Nat) : (s.cntAdd o n).fronts = s.fronts := (rfl)
@[simp] theorem State.cntAdd_harbours (s : State) (o n : Nat) : (s.cntAdd o n).harbours = s.harbours := (rfl)
@[simp] theorem State.cntAdd_boot (s : State) (o n : Nat) : (s.cntAdd o n).boot = s.boot := (rfl)
@[simp] theorem State.cntAdd_free (s : State) (o n : Nat) : (s.cntAdd o n).free = s.free := (rfl)
@[simp] theorem State.cntAdd_out (s : State) (o n : Nat) : (s.cntAdd o n).out = s.out := (rfl)
@[simp] theorem State.cntAdd_pending (s : State) (o n : Nat) : (s.cntAdd o n).pending = s.pending := (rfl)

@[simp] theorem State.setChan_dev (s : State) (c : Nat) (x : Chan) : (s.setChan c x).dev = s.dev := (rfl)
@[simp] theorem State.setChan_regs (s : State) (c : Nat) (x : Chan) : (s.setChan c x).regs = s.regs := (rfl)
@[simp] theorem State.setChan_cnt (s : State) (c : Nat) (x : Chan) : (s.setChan c x).cnt = s.cnt := (rfl)
@[simp] theorem State.setChan_latch (s : State) (c : Nat) (x : Chan) : (s.setChan c x).latch = s.latch := (rfl)
@[simp] theorem State.setChan_gen (s : State) (c : Nat) (x : Chan) : (s.setChan c x).gen = s.gen := (rfl)
@[simp] theorem State.setChan_mem (s : State) (c : Nat) (x : Chan) : (s.setChan c x).mem = s.mem := (rfl)
@[simp] theorem State.setChan_isl (s : State) (c : Nat) (x : Chan) : (s.setChan c x).isl = s.isl := (rfl)
@[simp] theorem State.setChan_saf (s : State) (c : Nat) (x : Chan) : (s.setChan c x).saf = s.saf := (rfl)
@[simp] theorem State.setChan_pci (s : State) (c : Nat) (x : Chan) : (s.setChan c x).pci = s.pci := (rfl)
@[simp] theorem State.setChan_lane (s : State) (c : Nat) (x : Chan) : (s.setChan c x).lane = s.lane := (rfl)
@[simp] theorem State.setChan_slots (s : State) (c : Nat) (x : Chan) : (s.setChan c x).slots = s.slots := (rfl)
@[simp] theorem State.setChan_portSlots (s : State) (c : Nat) (x : Chan) : (s.setChan c x).portSlots = s.portSlots := (rfl)
@[simp] theorem State.setChan_chans (s : State) (c : Nat) (x : Chan) : (s.setChan c x).chans = tput s.chans c x := (rfl)
@[simp] theorem State.setChan_paths (s : State) (c : Nat) (x : Chan) : (s.setChan c x).paths = s.paths := (rfl)
@[simp] theorem State.setChan_peers (s : State) (c : Nat) (x : Chan) : (s.setChan c x).peers = s.peers := (rfl)
@[simp] theorem State.setChan_vault (s : State) (c : Nat) (x : Chan) : (s.setChan c x).vault = s.vault := (rfl)
@[simp] theorem State.setChan_ports (s : State) (c : Nat) (x : Chan) : (s.setChan c x).ports = s.ports := (rfl)
@[simp] theorem State.setChan_streams (s : State) (c : Nat) (x : Chan) : (s.setChan c x).streams = s.streams := (rfl)
@[simp] theorem State.setChan_senses (s : State) (c : Nat) (x : Chan) : (s.setChan c x).senses = s.senses := (rfl)
@[simp] theorem State.setChan_optics (s : State) (c : Nat) (x : Chan) : (s.setChan c x).optics = s.optics := (rfl)
@[simp] theorem State.setChan_kiln (s : State) (c : Nat) (x : Chan) : (s.setChan c x).kiln = s.kiln := (rfl)
@[simp] theorem State.setChan_engines (s : State) (c : Nat) (x : Chan) : (s.setChan c x).engines = s.engines := (rfl)
@[simp] theorem State.setChan_fronts (s : State) (c : Nat) (x : Chan) : (s.setChan c x).fronts = s.fronts := (rfl)
@[simp] theorem State.setChan_harbours (s : State) (c : Nat) (x : Chan) : (s.setChan c x).harbours = s.harbours := (rfl)
@[simp] theorem State.setChan_boot (s : State) (c : Nat) (x : Chan) : (s.setChan c x).boot = s.boot := (rfl)
@[simp] theorem State.setChan_free (s : State) (c : Nat) (x : Chan) : (s.setChan c x).free = s.free := (rfl)
@[simp] theorem State.setChan_out (s : State) (c : Nat) (x : Chan) : (s.setChan c x).out = s.out := (rfl)
@[simp] theorem State.setChan_pending (s : State) (c : Nat) (x : Chan) : (s.setChan c x).pending = s.pending := (rfl)

@[simp] theorem State.setPath_dev (s : State) (g : Nat) (x : Path) : (s.setPath g x).dev = s.dev := (rfl)
@[simp] theorem State.setPath_regs (s : State) (g : Nat) (x : Path) : (s.setPath g x).regs = s.regs := (rfl)
@[simp] theorem State.setPath_cnt (s : State) (g : Nat) (x : Path) : (s.setPath g x).cnt = s.cnt := (rfl)
@[simp] theorem State.setPath_latch (s : State) (g : Nat) (x : Path) : (s.setPath g x).latch = s.latch := (rfl)
@[simp] theorem State.setPath_gen (s : State) (g : Nat) (x : Path) : (s.setPath g x).gen = s.gen := (rfl)
@[simp] theorem State.setPath_mem (s : State) (g : Nat) (x : Path) : (s.setPath g x).mem = s.mem := (rfl)
@[simp] theorem State.setPath_isl (s : State) (g : Nat) (x : Path) : (s.setPath g x).isl = s.isl := (rfl)
@[simp] theorem State.setPath_saf (s : State) (g : Nat) (x : Path) : (s.setPath g x).saf = s.saf := (rfl)
@[simp] theorem State.setPath_pci (s : State) (g : Nat) (x : Path) : (s.setPath g x).pci = s.pci := (rfl)
@[simp] theorem State.setPath_lane (s : State) (g : Nat) (x : Path) : (s.setPath g x).lane = s.lane := (rfl)
@[simp] theorem State.setPath_slots (s : State) (g : Nat) (x : Path) : (s.setPath g x).slots = s.slots := (rfl)
@[simp] theorem State.setPath_portSlots (s : State) (g : Nat) (x : Path) : (s.setPath g x).portSlots = s.portSlots := (rfl)
@[simp] theorem State.setPath_chans (s : State) (g : Nat) (x : Path) : (s.setPath g x).chans = s.chans := (rfl)
@[simp] theorem State.setPath_paths (s : State) (g : Nat) (x : Path) : (s.setPath g x).paths = tput s.paths g x := (rfl)
@[simp] theorem State.setPath_peers (s : State) (g : Nat) (x : Path) : (s.setPath g x).peers = s.peers := (rfl)
@[simp] theorem State.setPath_vault (s : State) (g : Nat) (x : Path) : (s.setPath g x).vault = s.vault := (rfl)
@[simp] theorem State.setPath_ports (s : State) (g : Nat) (x : Path) : (s.setPath g x).ports = s.ports := (rfl)
@[simp] theorem State.setPath_streams (s : State) (g : Nat) (x : Path) : (s.setPath g x).streams = s.streams := (rfl)
@[simp] theorem State.setPath_senses (s : State) (g : Nat) (x : Path) : (s.setPath g x).senses = s.senses := (rfl)
@[simp] theorem State.setPath_optics (s : State) (g : Nat) (x : Path) : (s.setPath g x).optics = s.optics := (rfl)
@[simp] theorem State.setPath_kiln (s : State) (g : Nat) (x : Path) : (s.setPath g x).kiln = s.kiln := (rfl)
@[simp] theorem State.setPath_engines (s : State) (g : Nat) (x : Path) : (s.setPath g x).engines = s.engines := (rfl)
@[simp] theorem State.setPath_fronts (s : State) (g : Nat) (x : Path) : (s.setPath g x).fronts = s.fronts := (rfl)
@[simp] theorem State.setPath_harbours (s : State) (g : Nat) (x : Path) : (s.setPath g x).harbours = s.harbours := (rfl)
@[simp] theorem State.setPath_boot (s : State) (g : Nat) (x : Path) : (s.setPath g x).boot = s.boot := (rfl)
@[simp] theorem State.setPath_free (s : State) (g : Nat) (x : Path) : (s.setPath g x).free = s.free := (rfl)
@[simp] theorem State.setPath_out (s : State) (g : Nat) (x : Path) : (s.setPath g x).out = s.out := (rfl)
@[simp] theorem State.setPath_pending (s : State) (g : Nat) (x : Path) : (s.setPath g x).pending = s.pending := (rfl)

@[simp] theorem State.setPeer_dev (s : State) (g : Nat) (x : Peer) : (s.setPeer g x).dev = s.dev := (rfl)
@[simp] theorem State.setPeer_regs (s : State) (g : Nat) (x : Peer) : (s.setPeer g x).regs = s.regs := (rfl)
@[simp] theorem State.setPeer_cnt (s : State) (g : Nat) (x : Peer) : (s.setPeer g x).cnt = s.cnt := (rfl)
@[simp] theorem State.setPeer_latch (s : State) (g : Nat) (x : Peer) : (s.setPeer g x).latch = s.latch := (rfl)
@[simp] theorem State.setPeer_gen (s : State) (g : Nat) (x : Peer) : (s.setPeer g x).gen = s.gen := (rfl)
@[simp] theorem State.setPeer_mem (s : State) (g : Nat) (x : Peer) : (s.setPeer g x).mem = s.mem := (rfl)
@[simp] theorem State.setPeer_isl (s : State) (g : Nat) (x : Peer) : (s.setPeer g x).isl = s.isl := (rfl)
@[simp] theorem State.setPeer_saf (s : State) (g : Nat) (x : Peer) : (s.setPeer g x).saf = s.saf := (rfl)
@[simp] theorem State.setPeer_pci (s : State) (g : Nat) (x : Peer) : (s.setPeer g x).pci = s.pci := (rfl)
@[simp] theorem State.setPeer_lane (s : State) (g : Nat) (x : Peer) : (s.setPeer g x).lane = s.lane := (rfl)
@[simp] theorem State.setPeer_slots (s : State) (g : Nat) (x : Peer) : (s.setPeer g x).slots = s.slots := (rfl)
@[simp] theorem State.setPeer_portSlots (s : State) (g : Nat) (x : Peer) : (s.setPeer g x).portSlots = s.portSlots := (rfl)
@[simp] theorem State.setPeer_chans (s : State) (g : Nat) (x : Peer) : (s.setPeer g x).chans = s.chans := (rfl)
@[simp] theorem State.setPeer_paths (s : State) (g : Nat) (x : Peer) : (s.setPeer g x).paths = s.paths := (rfl)
@[simp] theorem State.setPeer_peers (s : State) (g : Nat) (x : Peer) : (s.setPeer g x).peers = tput s.peers g x := (rfl)
@[simp] theorem State.setPeer_vault (s : State) (g : Nat) (x : Peer) : (s.setPeer g x).vault = s.vault := (rfl)
@[simp] theorem State.setPeer_ports (s : State) (g : Nat) (x : Peer) : (s.setPeer g x).ports = s.ports := (rfl)
@[simp] theorem State.setPeer_streams (s : State) (g : Nat) (x : Peer) : (s.setPeer g x).streams = s.streams := (rfl)
@[simp] theorem State.setPeer_senses (s : State) (g : Nat) (x : Peer) : (s.setPeer g x).senses = s.senses := (rfl)
@[simp] theorem State.setPeer_optics (s : State) (g : Nat) (x : Peer) : (s.setPeer g x).optics = s.optics := (rfl)
@[simp] theorem State.setPeer_kiln (s : State) (g : Nat) (x : Peer) : (s.setPeer g x).kiln = s.kiln := (rfl)
@[simp] theorem State.setPeer_engines (s : State) (g : Nat) (x : Peer) : (s.setPeer g x).engines = s.engines := (rfl)
@[simp] theorem State.setPeer_fronts (s : State) (g : Nat) (x : Peer) : (s.setPeer g x).fronts = s.fronts := (rfl)
@[simp] theorem State.setPeer_harbours (s : State) (g : Nat) (x : Peer) : (s.setPeer g x).harbours = s.harbours := (rfl)
@[simp] theorem State.setPeer_boot (s : State) (g : Nat) (x : Peer) : (s.setPeer g x).boot = s.boot := (rfl)
@[simp] theorem State.setPeer_free (s : State) (g : Nat) (x : Peer) : (s.setPeer g x).free = s.free := (rfl)
@[simp] theorem State.setPeer_out (s : State) (g : Nat) (x : Peer) : (s.setPeer g x).out = s.out := (rfl)
@[simp] theorem State.setPeer_pending (s : State) (g : Nat) (x : Peer) : (s.setPeer g x).pending = s.pending := (rfl)

@[simp] theorem State.setPort_dev (s : State) (t : Bool) (p : Nat) (x : Port) : (s.setPort t p x).dev = s.dev := (rfl)
@[simp] theorem State.setPort_regs (s : State) (t : Bool) (p : Nat) (x : Port) : (s.setPort t p x).regs = s.regs := (rfl)
@[simp] theorem State.setPort_cnt (s : State) (t : Bool) (p : Nat) (x : Port) : (s.setPort t p x).cnt = s.cnt := (rfl)
@[simp] theorem State.setPort_latch (s : State) (t : Bool) (p : Nat) (x : Port) : (s.setPort t p x).latch = s.latch := (rfl)
@[simp] theorem State.setPort_gen (s : State) (t : Bool) (p : Nat) (x : Port) : (s.setPort t p x).gen = s.gen := (rfl)
@[simp] theorem State.setPort_mem (s : State) (t : Bool) (p : Nat) (x : Port) : (s.setPort t p x).mem = s.mem := (rfl)
@[simp] theorem State.setPort_isl (s : State) (t : Bool) (p : Nat) (x : Port) : (s.setPort t p x).isl = s.isl := (rfl)
@[simp] theorem State.setPort_saf (s : State) (t : Bool) (p : Nat) (x : Port) : (s.setPort t p x).saf = s.saf := (rfl)
@[simp] theorem State.setPort_pci (s : State) (t : Bool) (p : Nat) (x : Port) : (s.setPort t p x).pci = s.pci := (rfl)
@[simp] theorem State.setPort_lane (s : State) (t : Bool) (p : Nat) (x : Port) : (s.setPort t p x).lane = s.lane := (rfl)
@[simp] theorem State.setPort_slots (s : State) (t : Bool) (p : Nat) (x : Port) : (s.setPort t p x).slots = s.slots := (rfl)
@[simp] theorem State.setPort_portSlots (s : State) (t : Bool) (p : Nat) (x : Port) : (s.setPort t p x).portSlots = s.portSlots := (rfl)
@[simp] theorem State.setPort_chans (s : State) (t : Bool) (p : Nat) (x : Port) : (s.setPort t p x).chans = s.chans := (rfl)
@[simp] theorem State.setPort_paths (s : State) (t : Bool) (p : Nat) (x : Port) : (s.setPort t p x).paths = s.paths := (rfl)
@[simp] theorem State.setPort_peers (s : State) (t : Bool) (p : Nat) (x : Port) : (s.setPort t p x).peers = s.peers := (rfl)
@[simp] theorem State.setPort_vault (s : State) (t : Bool) (p : Nat) (x : Port) : (s.setPort t p x).vault = s.vault := (rfl)
@[simp] theorem State.setPort_ports (s : State) (t : Bool) (p : Nat) (x : Port) : (s.setPort t p x).ports = tput s.ports (32 * b2n t + p) x := (rfl)
@[simp] theorem State.setPort_streams (s : State) (t : Bool) (p : Nat) (x : Port) : (s.setPort t p x).streams = s.streams := (rfl)
@[simp] theorem State.setPort_senses (s : State) (t : Bool) (p : Nat) (x : Port) : (s.setPort t p x).senses = s.senses := (rfl)
@[simp] theorem State.setPort_optics (s : State) (t : Bool) (p : Nat) (x : Port) : (s.setPort t p x).optics = s.optics := (rfl)
@[simp] theorem State.setPort_kiln (s : State) (t : Bool) (p : Nat) (x : Port) : (s.setPort t p x).kiln = s.kiln := (rfl)
@[simp] theorem State.setPort_engines (s : State) (t : Bool) (p : Nat) (x : Port) : (s.setPort t p x).engines = s.engines := (rfl)
@[simp] theorem State.setPort_fronts (s : State) (t : Bool) (p : Nat) (x : Port) : (s.setPort t p x).fronts = s.fronts := (rfl)
@[simp] theorem State.setPort_harbours (s : State) (t : Bool) (p : Nat) (x : Port) : (s.setPort t p x).harbours = s.harbours := (rfl)
@[simp] theorem State.setPort_boot (s : State) (t : Bool) (p : Nat) (x : Port) : (s.setPort t p x).boot = s.boot := (rfl)
@[simp] theorem State.setPort_free (s : State) (t : Bool) (p : Nat) (x : Port) : (s.setPort t p x).free = s.free := (rfl)
@[simp] theorem State.setPort_out (s : State) (t : Bool) (p : Nat) (x : Port) : (s.setPort t p x).out = s.out := (rfl)
@[simp] theorem State.setPort_pending (s : State) (t : Bool) (p : Nat) (x : Port) : (s.setPort t p x).pending = s.pending := (rfl)

@[simp] theorem State.setLaneU_dev (s : State) (d n : Nat) (x : Lane) : (s.setLaneU d n x).dev = s.dev := (rfl)
@[simp] theorem State.setLaneU_regs (s : State) (d n : Nat) (x : Lane) : (s.setLaneU d n x).regs = s.regs := (rfl)
@[simp] theorem State.setLaneU_cnt (s : State) (d n : Nat) (x : Lane) : (s.setLaneU d n x).cnt = s.cnt := (rfl)
@[simp] theorem State.setLaneU_latch (s : State) (d n : Nat) (x : Lane) : (s.setLaneU d n x).latch = s.latch := (rfl)
@[simp] theorem State.setLaneU_gen (s : State) (d n : Nat) (x : Lane) : (s.setLaneU d n x).gen = s.gen := (rfl)
@[simp] theorem State.setLaneU_mem (s : State) (d n : Nat) (x : Lane) : (s.setLaneU d n x).mem = s.mem := (rfl)
@[simp] theorem State.setLaneU_isl (s : State) (d n : Nat) (x : Lane) : (s.setLaneU d n x).isl = s.isl := (rfl)
@[simp] theorem State.setLaneU_saf (s : State) (d n : Nat) (x : Lane) : (s.setLaneU d n x).saf = s.saf := (rfl)
@[simp] theorem State.setLaneU_pci (s : State) (d n : Nat) (x : Lane) : (s.setLaneU d n x).pci = s.pci := (rfl)
@[simp] theorem State.setLaneU_lane (s : State) (d n : Nat) (x : Lane) : (s.setLaneU d n x).lane = tput s.lane (16 * d + n) x := (rfl)
@[simp] theorem State.setLaneU_slots (s : State) (d n : Nat) (x : Lane) : (s.setLaneU d n x).slots = s.slots := (rfl)
@[simp] theorem State.setLaneU_portSlots (s : State) (d n : Nat) (x : Lane) : (s.setLaneU d n x).portSlots = s.portSlots := (rfl)
@[simp] theorem State.setLaneU_chans (s : State) (d n : Nat) (x : Lane) : (s.setLaneU d n x).chans = s.chans := (rfl)
@[simp] theorem State.setLaneU_paths (s : State) (d n : Nat) (x : Lane) : (s.setLaneU d n x).paths = s.paths := (rfl)
@[simp] theorem State.setLaneU_peers (s : State) (d n : Nat) (x : Lane) : (s.setLaneU d n x).peers = s.peers := (rfl)
@[simp] theorem State.setLaneU_vault (s : State) (d n : Nat) (x : Lane) : (s.setLaneU d n x).vault = s.vault := (rfl)
@[simp] theorem State.setLaneU_ports (s : State) (d n : Nat) (x : Lane) : (s.setLaneU d n x).ports = s.ports := (rfl)
@[simp] theorem State.setLaneU_streams (s : State) (d n : Nat) (x : Lane) : (s.setLaneU d n x).streams = s.streams := (rfl)
@[simp] theorem State.setLaneU_senses (s : State) (d n : Nat) (x : Lane) : (s.setLaneU d n x).senses = s.senses := (rfl)
@[simp] theorem State.setLaneU_optics (s : State) (d n : Nat) (x : Lane) : (s.setLaneU d n x).optics = s.optics := (rfl)
@[simp] theorem State.setLaneU_kiln (s : State) (d n : Nat) (x : Lane) : (s.setLaneU d n x).kiln = s.kiln := (rfl)
@[simp] theorem State.setLaneU_engines (s : State) (d n : Nat) (x : Lane) : (s.setLaneU d n x).engines = s.engines := (rfl)
@[simp] theorem State.setLaneU_fronts (s : State) (d n : Nat) (x : Lane) : (s.setLaneU d n x).fronts = s.fronts := (rfl)
@[simp] theorem State.setLaneU_harbours (s : State) (d n : Nat) (x : Lane) : (s.setLaneU d n x).harbours = s.harbours := (rfl)
@[simp] theorem State.setLaneU_boot (s : State) (d n : Nat) (x : Lane) : (s.setLaneU d n x).boot = s.boot := (rfl)
@[simp] theorem State.setLaneU_free (s : State) (d n : Nat) (x : Lane) : (s.setLaneU d n x).free = s.free := (rfl)
@[simp] theorem State.setLaneU_out (s : State) (d n : Nat) (x : Lane) : (s.setLaneU d n x).out = s.out := (rfl)
@[simp] theorem State.setLaneU_pending (s : State) (d n : Nat) (x : Lane) : (s.setLaneU d n x).pending = s.pending := (rfl)

@[simp] theorem State.setSlot_dev (s : State) (d c k : Nat) (x : KeySlot) : (s.setSlot d c k x).dev = s.dev := (rfl)
@[simp] theorem State.setSlot_regs (s : State) (d c k : Nat) (x : KeySlot) : (s.setSlot d c k x).regs = s.regs := (rfl)
@[simp] theorem State.setSlot_cnt (s : State) (d c k : Nat) (x : KeySlot) : (s.setSlot d c k x).cnt = s.cnt := (rfl)
@[simp] theorem State.setSlot_latch (s : State) (d c k : Nat) (x : KeySlot) : (s.setSlot d c k x).latch = s.latch := (rfl)
@[simp] theorem State.setSlot_gen (s : State) (d c k : Nat) (x : KeySlot) : (s.setSlot d c k x).gen = s.gen := (rfl)
@[simp] theorem State.setSlot_mem (s : State) (d c k : Nat) (x : KeySlot) : (s.setSlot d c k x).mem = s.mem := (rfl)
@[simp] theorem State.setSlot_isl (s : State) (d c k : Nat) (x : KeySlot) : (s.setSlot d c k x).isl = s.isl := (rfl)
@[simp] theorem State.setSlot_saf (s : State) (d c k : Nat) (x : KeySlot) : (s.setSlot d c k x).saf = s.saf := (rfl)
@[simp] theorem State.setSlot_pci (s : State) (d c k : Nat) (x : KeySlot) : (s.setSlot d c k x).pci = s.pci := (rfl)
@[simp] theorem State.setSlot_lane (s : State) (d c k : Nat) (x : KeySlot) : (s.setSlot d c k x).lane = s.lane := (rfl)
@[simp] theorem State.setSlot_slots (s : State) (d c k : Nat) (x : KeySlot) : (s.setSlot d c k x).slots = tput s.slots (16384 * d + 2 * c + k) x := (rfl)
@[simp] theorem State.setSlot_portSlots (s : State) (d c k : Nat) (x : KeySlot) : (s.setSlot d c k x).portSlots = s.portSlots := (rfl)
@[simp] theorem State.setSlot_chans (s : State) (d c k : Nat) (x : KeySlot) : (s.setSlot d c k x).chans = s.chans := (rfl)
@[simp] theorem State.setSlot_paths (s : State) (d c k : Nat) (x : KeySlot) : (s.setSlot d c k x).paths = s.paths := (rfl)
@[simp] theorem State.setSlot_peers (s : State) (d c k : Nat) (x : KeySlot) : (s.setSlot d c k x).peers = s.peers := (rfl)
@[simp] theorem State.setSlot_vault (s : State) (d c k : Nat) (x : KeySlot) : (s.setSlot d c k x).vault = s.vault := (rfl)
@[simp] theorem State.setSlot_ports (s : State) (d c k : Nat) (x : KeySlot) : (s.setSlot d c k x).ports = s.ports := (rfl)
@[simp] theorem State.setSlot_streams (s : State) (d c k : Nat) (x : KeySlot) : (s.setSlot d c k x).streams = s.streams := (rfl)
@[simp] theorem State.setSlot_senses (s : State) (d c k : Nat) (x : KeySlot) : (s.setSlot d c k x).senses = s.senses := (rfl)
@[simp] theorem State.setSlot_optics (s : State) (d c k : Nat) (x : KeySlot) : (s.setSlot d c k x).optics = s.optics := (rfl)
@[simp] theorem State.setSlot_kiln (s : State) (d c k : Nat) (x : KeySlot) : (s.setSlot d c k x).kiln = s.kiln := (rfl)
@[simp] theorem State.setSlot_engines (s : State) (d c k : Nat) (x : KeySlot) : (s.setSlot d c k x).engines = s.engines := (rfl)
@[simp] theorem State.setSlot_fronts (s : State) (d c k : Nat) (x : KeySlot) : (s.setSlot d c k x).fronts = s.fronts := (rfl)
@[simp] theorem State.setSlot_harbours (s : State) (d c k : Nat) (x : KeySlot) : (s.setSlot d c k x).harbours = s.harbours := (rfl)
@[simp] theorem State.setSlot_boot (s : State) (d c k : Nat) (x : KeySlot) : (s.setSlot d c k x).boot = s.boot := (rfl)
@[simp] theorem State.setSlot_free (s : State) (d c k : Nat) (x : KeySlot) : (s.setSlot d c k x).free = s.free := (rfl)
@[simp] theorem State.setSlot_out (s : State) (d c k : Nat) (x : KeySlot) : (s.setSlot d c k x).out = s.out := (rfl)
@[simp] theorem State.setSlot_pending (s : State) (d c k : Nat) (x : KeySlot) : (s.setSlot d c k x).pending = s.pending := (rfl)

@[simp] theorem State.setPslot_dev (s : State) (d g k : Nat) (x : KeySlot) : (s.setPslot d g k x).dev = s.dev := (rfl)
@[simp] theorem State.setPslot_regs (s : State) (d g k : Nat) (x : KeySlot) : (s.setPslot d g k x).regs = s.regs := (rfl)
@[simp] theorem State.setPslot_cnt (s : State) (d g k : Nat) (x : KeySlot) : (s.setPslot d g k x).cnt = s.cnt := (rfl)
@[simp] theorem State.setPslot_latch (s : State) (d g k : Nat) (x : KeySlot) : (s.setPslot d g k x).latch = s.latch := (rfl)
@[simp] theorem State.setPslot_gen (s : State) (d g k : Nat) (x : KeySlot) : (s.setPslot d g k x).gen = s.gen := (rfl)
@[simp] theorem State.setPslot_mem (s : State) (d g k : Nat) (x : KeySlot) : (s.setPslot d g k x).mem = s.mem := (rfl)
@[simp] theorem State.setPslot_isl (s : State) (d g k : Nat) (x : KeySlot) : (s.setPslot d g k x).isl = s.isl := (rfl)
@[simp] theorem State.setPslot_saf (s : State) (d g k : Nat) (x : KeySlot) : (s.setPslot d g k x).saf = s.saf := (rfl)
@[simp] theorem State.setPslot_pci (s : State) (d g k : Nat) (x : KeySlot) : (s.setPslot d g k x).pci = s.pci := (rfl)
@[simp] theorem State.setPslot_lane (s : State) (d g k : Nat) (x : KeySlot) : (s.setPslot d g k x).lane = s.lane := (rfl)
@[simp] theorem State.setPslot_slots (s : State) (d g k : Nat) (x : KeySlot) : (s.setPslot d g k x).slots = s.slots := (rfl)
@[simp] theorem State.setPslot_portSlots (s : State) (d g k : Nat) (x : KeySlot) : (s.setPslot d g k x).portSlots = tput s.portSlots (16 * d + 2 * g + k) x := (rfl)
@[simp] theorem State.setPslot_chans (s : State) (d g k : Nat) (x : KeySlot) : (s.setPslot d g k x).chans = s.chans := (rfl)
@[simp] theorem State.setPslot_paths (s : State) (d g k : Nat) (x : KeySlot) : (s.setPslot d g k x).paths = s.paths := (rfl)
@[simp] theorem State.setPslot_peers (s : State) (d g k : Nat) (x : KeySlot) : (s.setPslot d g k x).peers = s.peers := (rfl)
@[simp] theorem State.setPslot_vault (s : State) (d g k : Nat) (x : KeySlot) : (s.setPslot d g k x).vault = s.vault := (rfl)
@[simp] theorem State.setPslot_ports (s : State) (d g k : Nat) (x : KeySlot) : (s.setPslot d g k x).ports = s.ports := (rfl)
@[simp] theorem State.setPslot_streams (s : State) (d g k : Nat) (x : KeySlot) : (s.setPslot d g k x).streams = s.streams := (rfl)
@[simp] theorem State.setPslot_senses (s : State) (d g k : Nat) (x : KeySlot) : (s.setPslot d g k x).senses = s.senses := (rfl)
@[simp] theorem State.setPslot_optics (s : State) (d g k : Nat) (x : KeySlot) : (s.setPslot d g k x).optics = s.optics := (rfl)
@[simp] theorem State.setPslot_kiln (s : State) (d g k : Nat) (x : KeySlot) : (s.setPslot d g k x).kiln = s.kiln := (rfl)
@[simp] theorem State.setPslot_engines (s : State) (d g k : Nat) (x : KeySlot) : (s.setPslot d g k x).engines = s.engines := (rfl)
@[simp] theorem State.setPslot_fronts (s : State) (d g k : Nat) (x : KeySlot) : (s.setPslot d g k x).fronts = s.fronts := (rfl)
@[simp] theorem State.setPslot_harbours (s : State) (d g k : Nat) (x : KeySlot) : (s.setPslot d g k x).harbours = s.harbours := (rfl)
@[simp] theorem State.setPslot_boot (s : State) (d g k : Nat) (x : KeySlot) : (s.setPslot d g k x).boot = s.boot := (rfl)
@[simp] theorem State.setPslot_free (s : State) (d g k : Nat) (x : KeySlot) : (s.setPslot d g k x).free = s.free := (rfl)
@[simp] theorem State.setPslot_out (s : State) (d g k : Nat) (x : KeySlot) : (s.setPslot d g k x).out = s.out := (rfl)
@[simp] theorem State.setPslot_pending (s : State) (d g k : Nat) (x : KeySlot) : (s.setPslot d g k x).pending = s.pending := (rfl)

@[simp] theorem State.setStream_dev (s : State) (d c l : Nat) (x : Stream) : (s.setStream d c l x).dev = s.dev := (rfl)
@[simp] theorem State.setStream_regs (s : State) (d c l : Nat) (x : Stream) : (s.setStream d c l x).regs = s.regs := (rfl)
@[simp] theorem State.setStream_cnt (s : State) (d c l : Nat) (x : Stream) : (s.setStream d c l x).cnt = s.cnt := (rfl)
@[simp] theorem State.setStream_latch (s : State) (d c l : Nat) (x : Stream) : (s.setStream d c l x).latch = s.latch := (rfl)
@[simp] theorem State.setStream_gen (s : State) (d c l : Nat) (x : Stream) : (s.setStream d c l x).gen = s.gen := (rfl)
@[simp] theorem State.setStream_mem (s : State) (d c l : Nat) (x : Stream) : (s.setStream d c l x).mem = s.mem := (rfl)
@[simp] theorem State.setStream_isl (s : State) (d c l : Nat) (x : Stream) : (s.setStream d c l x).isl = s.isl := (rfl)
@[simp] theorem State.setStream_saf (s : State) (d c l : Nat) (x : Stream) : (s.setStream d c l x).saf = s.saf := (rfl)
@[simp] theorem State.setStream_pci (s : State) (d c l : Nat) (x : Stream) : (s.setStream d c l x).pci = s.pci := (rfl)
@[simp] theorem State.setStream_lane (s : State) (d c l : Nat) (x : Stream) : (s.setStream d c l x).lane = s.lane := (rfl)
@[simp] theorem State.setStream_slots (s : State) (d c l : Nat) (x : Stream) : (s.setStream d c l x).slots = s.slots := (rfl)
@[simp] theorem State.setStream_portSlots (s : State) (d c l : Nat) (x : Stream) : (s.setStream d c l x).portSlots = s.portSlots := (rfl)
@[simp] theorem State.setStream_chans (s : State) (d c l : Nat) (x : Stream) : (s.setStream d c l x).chans = s.chans := (rfl)
@[simp] theorem State.setStream_paths (s : State) (d c l : Nat) (x : Stream) : (s.setStream d c l x).paths = s.paths := (rfl)
@[simp] theorem State.setStream_peers (s : State) (d c l : Nat) (x : Stream) : (s.setStream d c l x).peers = s.peers := (rfl)
@[simp] theorem State.setStream_vault (s : State) (d c l : Nat) (x : Stream) : (s.setStream d c l x).vault = s.vault := (rfl)
@[simp] theorem State.setStream_ports (s : State) (d c l : Nat) (x : Stream) : (s.setStream d c l x).ports = s.ports := (rfl)
@[simp] theorem State.setStream_streams (s : State) (d c l : Nat) (x : Stream) : (s.setStream d c l x).streams = tput s.streams (16384 * d + 2 * c + l) x := (rfl)
@[simp] theorem State.setStream_senses (s : State) (d c l : Nat) (x : Stream) : (s.setStream d c l x).senses = s.senses := (rfl)
@[simp] theorem State.setStream_optics (s : State) (d c l : Nat) (x : Stream) : (s.setStream d c l x).optics = s.optics := (rfl)
@[simp] theorem State.setStream_kiln (s : State) (d c l : Nat) (x : Stream) : (s.setStream d c l x).kiln = s.kiln := (rfl)
@[simp] theorem State.setStream_engines (s : State) (d c l : Nat) (x : Stream) : (s.setStream d c l x).engines = s.engines := (rfl)
@[simp] theorem State.setStream_fronts (s : State) (d c l : Nat) (x : Stream) : (s.setStream d c l x).fronts = s.fronts := (rfl)
@[simp] theorem State.setStream_harbours (s : State) (d c l : Nat) (x : Stream) : (s.setStream d c l x).harbours = s.harbours := (rfl)
@[simp] theorem State.setStream_boot (s : State) (d c l : Nat) (x : Stream) : (s.setStream d c l x).boot = s.boot := (rfl)
@[simp] theorem State.setStream_free (s : State) (d c l : Nat) (x : Stream) : (s.setStream d c l x).free = s.free := (rfl)
@[simp] theorem State.setStream_out (s : State) (d c l : Nat) (x : Stream) : (s.setStream d c l x).out = s.out := (rfl)
@[simp] theorem State.setStream_pending (s : State) (d c l : Nat) (x : Stream) : (s.setStream d c l x).pending = s.pending := (rfl)

@[simp] theorem State.setSense_dev (s : State) (g : Nat) (x : Sense) : (s.setSense g x).dev = s.dev := (rfl)
@[simp] theorem State.setSense_regs (s : State) (g : Nat) (x : Sense) : (s.setSense g x).regs = s.regs := (rfl)
@[simp] theorem State.setSense_cnt (s : State) (g : Nat) (x : Sense) : (s.setSense g x).cnt = s.cnt := (rfl)
@[simp] theorem State.setSense_latch (s : State) (g : Nat) (x : Sense) : (s.setSense g x).latch = s.latch := (rfl)
@[simp] theorem State.setSense_gen (s : State) (g : Nat) (x : Sense) : (s.setSense g x).gen = s.gen := (rfl)
@[simp] theorem State.setSense_mem (s : State) (g : Nat) (x : Sense) : (s.setSense g x).mem = s.mem := (rfl)
@[simp] theorem State.setSense_isl (s : State) (g : Nat) (x : Sense) : (s.setSense g x).isl = s.isl := (rfl)
@[simp] theorem State.setSense_saf (s : State) (g : Nat) (x : Sense) : (s.setSense g x).saf = s.saf := (rfl)
@[simp] theorem State.setSense_pci (s : State) (g : Nat) (x : Sense) : (s.setSense g x).pci = s.pci := (rfl)
@[simp] theorem State.setSense_lane (s : State) (g : Nat) (x : Sense) : (s.setSense g x).lane = s.lane := (rfl)
@[simp] theorem State.setSense_slots (s : State) (g : Nat) (x : Sense) : (s.setSense g x).slots = s.slots := (rfl)
@[simp] theorem State.setSense_portSlots (s : State) (g : Nat) (x : Sense) : (s.setSense g x).portSlots = s.portSlots := (rfl)
@[simp] theorem State.setSense_chans (s : State) (g : Nat) (x : Sense) : (s.setSense g x).chans = s.chans := (rfl)
@[simp] theorem State.setSense_paths (s : State) (g : Nat) (x : Sense) : (s.setSense g x).paths = s.paths := (rfl)
@[simp] theorem State.setSense_peers (s : State) (g : Nat) (x : Sense) : (s.setSense g x).peers = s.peers := (rfl)
@[simp] theorem State.setSense_vault (s : State) (g : Nat) (x : Sense) : (s.setSense g x).vault = s.vault := (rfl)
@[simp] theorem State.setSense_ports (s : State) (g : Nat) (x : Sense) : (s.setSense g x).ports = s.ports := (rfl)
@[simp] theorem State.setSense_streams (s : State) (g : Nat) (x : Sense) : (s.setSense g x).streams = s.streams := (rfl)
@[simp] theorem State.setSense_senses (s : State) (g : Nat) (x : Sense) : (s.setSense g x).senses = tput s.senses g x := (rfl)
@[simp] theorem State.setSense_optics (s : State) (g : Nat) (x : Sense) : (s.setSense g x).optics = s.optics := (rfl)
@[simp] theorem State.setSense_kiln (s : State) (g : Nat) (x : Sense) : (s.setSense g x).kiln = s.kiln := (rfl)
@[simp] theorem State.setSense_engines (s : State) (g : Nat) (x : Sense) : (s.setSense g x).engines = s.engines := (rfl)
@[simp] theorem State.setSense_fronts (s : State) (g : Nat) (x : Sense) : (s.setSense g x).fronts = s.fronts := (rfl)
@[simp] theorem State.setSense_harbours (s : State) (g : Nat) (x : Sense) : (s.setSense g x).harbours = s.harbours := (rfl)
@[simp] theorem State.setSense_boot (s : State) (g : Nat) (x : Sense) : (s.setSense g x).boot = s.boot := (rfl)
@[simp] theorem State.setSense_free (s : State) (g : Nat) (x : Sense) : (s.setSense g x).free = s.free := (rfl)
@[simp] theorem State.setSense_out (s : State) (g : Nat) (x : Sense) : (s.setSense g x).out = s.out := (rfl)
@[simp] theorem State.setSense_pending (s : State) (g : Nat) (x : Sense) : (s.setSense g x).pending = s.pending := (rfl)

@[simp] theorem State.setIsland_dev (s : State) (i : Nat) (x : Isl) : (s.setIsland i x).dev = s.dev := (rfl)
@[simp] theorem State.setIsland_regs (s : State) (i : Nat) (x : Isl) : (s.setIsland i x).regs = s.regs := (rfl)
@[simp] theorem State.setIsland_cnt (s : State) (i : Nat) (x : Isl) : (s.setIsland i x).cnt = s.cnt := (rfl)
@[simp] theorem State.setIsland_latch (s : State) (i : Nat) (x : Isl) : (s.setIsland i x).latch = s.latch := (rfl)
@[simp] theorem State.setIsland_gen (s : State) (i : Nat) (x : Isl) : (s.setIsland i x).gen = s.gen := (rfl)
@[simp] theorem State.setIsland_mem (s : State) (i : Nat) (x : Isl) : (s.setIsland i x).mem = s.mem := (rfl)
@[simp] theorem State.setIsland_isl (s : State) (i : Nat) (x : Isl) : (s.setIsland i x).isl = tput s.isl i x := (rfl)
@[simp] theorem State.setIsland_saf (s : State) (i : Nat) (x : Isl) : (s.setIsland i x).saf = s.saf := (rfl)
@[simp] theorem State.setIsland_pci (s : State) (i : Nat) (x : Isl) : (s.setIsland i x).pci = s.pci := (rfl)
@[simp] theorem State.setIsland_lane (s : State) (i : Nat) (x : Isl) : (s.setIsland i x).lane = s.lane := (rfl)
@[simp] theorem State.setIsland_slots (s : State) (i : Nat) (x : Isl) : (s.setIsland i x).slots = s.slots := (rfl)
@[simp] theorem State.setIsland_portSlots (s : State) (i : Nat) (x : Isl) : (s.setIsland i x).portSlots = s.portSlots := (rfl)
@[simp] theorem State.setIsland_chans (s : State) (i : Nat) (x : Isl) : (s.setIsland i x).chans = s.chans := (rfl)
@[simp] theorem State.setIsland_paths (s : State) (i : Nat) (x : Isl) : (s.setIsland i x).paths = s.paths := (rfl)
@[simp] theorem State.setIsland_peers (s : State) (i : Nat) (x : Isl) : (s.setIsland i x).peers = s.peers := (rfl)
@[simp] theorem State.setIsland_vault (s : State) (i : Nat) (x : Isl) : (s.setIsland i x).vault = s.vault := (rfl)
@[simp] theorem State.setIsland_ports (s : State) (i : Nat) (x : Isl) : (s.setIsland i x).ports = s.ports := (rfl)
@[simp] theorem State.setIsland_streams (s : State) (i : Nat) (x : Isl) : (s.setIsland i x).streams = s.streams := (rfl)
@[simp] theorem State.setIsland_senses (s : State) (i : Nat) (x : Isl) : (s.setIsland i x).senses = s.senses := (rfl)
@[simp] theorem State.setIsland_optics (s : State) (i : Nat) (x : Isl) : (s.setIsland i x).optics = s.optics := (rfl)
@[simp] theorem State.setIsland_kiln (s : State) (i : Nat) (x : Isl) : (s.setIsland i x).kiln = s.kiln := (rfl)
@[simp] theorem State.setIsland_engines (s : State) (i : Nat) (x : Isl) : (s.setIsland i x).engines = s.engines := (rfl)
@[simp] theorem State.setIsland_fronts (s : State) (i : Nat) (x : Isl) : (s.setIsland i x).fronts = s.fronts := (rfl)
@[simp] theorem State.setIsland_harbours (s : State) (i : Nat) (x : Isl) : (s.setIsland i x).harbours = s.harbours := (rfl)
@[simp] theorem State.setIsland_boot (s : State) (i : Nat) (x : Isl) : (s.setIsland i x).boot = s.boot := (rfl)
@[simp] theorem State.setIsland_free (s : State) (i : Nat) (x : Isl) : (s.setIsland i x).free = s.free := (rfl)
@[simp] theorem State.setIsland_out (s : State) (i : Nat) (x : Isl) : (s.setIsland i x).out = s.out := (rfl)
@[simp] theorem State.setIsland_pending (s : State) (i : Nat) (x : Isl) : (s.setIsland i x).pending = s.pending := (rfl)

@[simp] theorem State.setEng_dev (s : State) (n : Nat) (e : Engine) : (s.setEng n e).dev = s.dev := (rfl)
@[simp] theorem State.setEng_regs (s : State) (n : Nat) (e : Engine) : (s.setEng n e).regs = s.regs := (rfl)
@[simp] theorem State.setEng_cnt (s : State) (n : Nat) (e : Engine) : (s.setEng n e).cnt = s.cnt := (rfl)
@[simp] theorem State.setEng_latch (s : State) (n : Nat) (e : Engine) : (s.setEng n e).latch = s.latch := (rfl)
@[simp] theorem State.setEng_gen (s : State) (n : Nat) (e : Engine) : (s.setEng n e).gen = s.gen := (rfl)
@[simp] theorem State.setEng_mem (s : State) (n : Nat) (e : Engine) : (s.setEng n e).mem = s.mem := (rfl)
@[simp] theorem State.setEng_isl (s : State) (n : Nat) (e : Engine) : (s.setEng n e).isl = s.isl := (rfl)
@[simp] theorem State.setEng_saf (s : State) (n : Nat) (e : Engine) : (s.setEng n e).saf = s.saf := (rfl)
@[simp] theorem State.setEng_pci (s : State) (n : Nat) (e : Engine) : (s.setEng n e).pci = s.pci := (rfl)
@[simp] theorem State.setEng_lane (s : State) (n : Nat) (e : Engine) : (s.setEng n e).lane = s.lane := (rfl)
@[simp] theorem State.setEng_slots (s : State) (n : Nat) (e : Engine) : (s.setEng n e).slots = s.slots := (rfl)
@[simp] theorem State.setEng_portSlots (s : State) (n : Nat) (e : Engine) : (s.setEng n e).portSlots = s.portSlots := (rfl)
@[simp] theorem State.setEng_chans (s : State) (n : Nat) (e : Engine) : (s.setEng n e).chans = s.chans := (rfl)
@[simp] theorem State.setEng_paths (s : State) (n : Nat) (e : Engine) : (s.setEng n e).paths = s.paths := (rfl)
@[simp] theorem State.setEng_peers (s : State) (n : Nat) (e : Engine) : (s.setEng n e).peers = s.peers := (rfl)
@[simp] theorem State.setEng_vault (s : State) (n : Nat) (e : Engine) : (s.setEng n e).vault = s.vault := (rfl)
@[simp] theorem State.setEng_ports (s : State) (n : Nat) (e : Engine) : (s.setEng n e).ports = s.ports := (rfl)
@[simp] theorem State.setEng_streams (s : State) (n : Nat) (e : Engine) : (s.setEng n e).streams = s.streams := (rfl)
@[simp] theorem State.setEng_senses (s : State) (n : Nat) (e : Engine) : (s.setEng n e).senses = s.senses := (rfl)
@[simp] theorem State.setEng_optics (s : State) (n : Nat) (e : Engine) : (s.setEng n e).optics = s.optics := (rfl)
@[simp] theorem State.setEng_kiln (s : State) (n : Nat) (e : Engine) : (s.setEng n e).kiln = s.kiln := (rfl)
@[simp] theorem State.setEng_engines (s : State) (n : Nat) (e : Engine) : (s.setEng n e).engines = tput s.engines n e := (rfl)
@[simp] theorem State.setEng_fronts (s : State) (n : Nat) (e : Engine) : (s.setEng n e).fronts = s.fronts := (rfl)
@[simp] theorem State.setEng_harbours (s : State) (n : Nat) (e : Engine) : (s.setEng n e).harbours = s.harbours := (rfl)
@[simp] theorem State.setEng_boot (s : State) (n : Nat) (e : Engine) : (s.setEng n e).boot = s.boot := (rfl)
@[simp] theorem State.setEng_free (s : State) (n : Nat) (e : Engine) : (s.setEng n e).free = s.free := (rfl)
@[simp] theorem State.setEng_out (s : State) (n : Nat) (e : Engine) : (s.setEng n e).out = s.out := (rfl)
@[simp] theorem State.setEng_pending (s : State) (n : Nat) (e : Engine) : (s.setEng n e).pending = s.pending := (rfl)

@[simp] theorem State.setFront_dev (s : State) (n : Nat) (f : Front) : (s.setFront n f).dev = s.dev := (rfl)
@[simp] theorem State.setFront_regs (s : State) (n : Nat) (f : Front) : (s.setFront n f).regs = s.regs := (rfl)
@[simp] theorem State.setFront_cnt (s : State) (n : Nat) (f : Front) : (s.setFront n f).cnt = s.cnt := (rfl)
@[simp] theorem State.setFront_latch (s : State) (n : Nat) (f : Front) : (s.setFront n f).latch = s.latch := (rfl)
@[simp] theorem State.setFront_gen (s : State) (n : Nat) (f : Front) : (s.setFront n f).gen = s.gen := (rfl)
@[simp] theorem State.setFront_mem (s : State) (n : Nat) (f : Front) : (s.setFront n f).mem = s.mem := (rfl)
@[simp] theorem State.setFront_isl (s : State) (n : Nat) (f : Front) : (s.setFront n f).isl = s.isl := (rfl)
@[simp] theorem State.setFront_saf (s : State) (n : Nat) (f : Front) : (s.setFront n f).saf = s.saf := (rfl)
@[simp] theorem State.setFront_pci (s : State) (n : Nat) (f : Front) : (s.setFront n f).pci = s.pci := (rfl)
@[simp] theorem State.setFront_lane (s : State) (n : Nat) (f : Front) : (s.setFront n f).lane = s.lane := (rfl)
@[simp] theorem State.setFront_slots (s : State) (n : Nat) (f : Front) : (s.setFront n f).slots = s.slots := (rfl)
@[simp] theorem State.setFront_portSlots (s : State) (n : Nat) (f : Front) : (s.setFront n f).portSlots = s.portSlots := (rfl)
@[simp] theorem State.setFront_chans (s : State) (n : Nat) (f : Front) : (s.setFront n f).chans = s.chans := (rfl)
@[simp] theorem State.setFront_paths (s : State) (n : Nat) (f : Front) : (s.setFront n f).paths = s.paths := (rfl)
@[simp] theorem State.setFront_peers (s : State) (n : Nat) (f : Front) : (s.setFront n f).peers = s.peers := (rfl)
@[simp] theorem State.setFront_vault (s : State) (n : Nat) (f : Front) : (s.setFront n f).vault = s.vault := (rfl)
@[simp] theorem State.setFront_ports (s : State) (n : Nat) (f : Front) : (s.setFront n f).ports = s.ports := (rfl)
@[simp] theorem State.setFront_streams (s : State) (n : Nat) (f : Front) : (s.setFront n f).streams = s.streams := (rfl)
@[simp] theorem State.setFront_senses (s : State) (n : Nat) (f : Front) : (s.setFront n f).senses = s.senses := (rfl)
@[simp] theorem State.setFront_optics (s : State) (n : Nat) (f : Front) : (s.setFront n f).optics = s.optics := (rfl)
@[simp] theorem State.setFront_kiln (s : State) (n : Nat) (f : Front) : (s.setFront n f).kiln = s.kiln := (rfl)
@[simp] theorem State.setFront_engines (s : State) (n : Nat) (f : Front) : (s.setFront n f).engines = s.engines := (rfl)
@[simp] theorem State.setFront_fronts (s : State) (n : Nat) (f : Front) : (s.setFront n f).fronts = tput s.fronts n f := (rfl)
@[simp] theorem State.setFront_harbours (s : State) (n : Nat) (f : Front) : (s.setFront n f).harbours = s.harbours := (rfl)
@[simp] theorem State.setFront_boot (s : State) (n : Nat) (f : Front) : (s.setFront n f).boot = s.boot := (rfl)
@[simp] theorem State.setFront_free (s : State) (n : Nat) (f : Front) : (s.setFront n f).free = s.free := (rfl)
@[simp] theorem State.setFront_out (s : State) (n : Nat) (f : Front) : (s.setFront n f).out = s.out := (rfl)
@[simp] theorem State.setFront_pending (s : State) (n : Nat) (f : Front) : (s.setFront n f).pending = s.pending := (rfl)

@[simp] theorem State.setHc_dev (s : State) (h : Nat) (x : Harbour) : (s.setHc h x).dev = s.dev := (rfl)
@[simp] theorem State.setHc_regs (s : State) (h : Nat) (x : Harbour) : (s.setHc h x).regs = s.regs := (rfl)
@[simp] theorem State.setHc_cnt (s : State) (h : Nat) (x : Harbour) : (s.setHc h x).cnt = s.cnt := (rfl)
@[simp] theorem State.setHc_latch (s : State) (h : Nat) (x : Harbour) : (s.setHc h x).latch = s.latch := (rfl)
@[simp] theorem State.setHc_gen (s : State) (h : Nat) (x : Harbour) : (s.setHc h x).gen = s.gen := (rfl)
@[simp] theorem State.setHc_mem (s : State) (h : Nat) (x : Harbour) : (s.setHc h x).mem = s.mem := (rfl)
@[simp] theorem State.setHc_isl (s : State) (h : Nat) (x : Harbour) : (s.setHc h x).isl = s.isl := (rfl)
@[simp] theorem State.setHc_saf (s : State) (h : Nat) (x : Harbour) : (s.setHc h x).saf = s.saf := (rfl)
@[simp] theorem State.setHc_pci (s : State) (h : Nat) (x : Harbour) : (s.setHc h x).pci = s.pci := (rfl)
@[simp] theorem State.setHc_lane (s : State) (h : Nat) (x : Harbour) : (s.setHc h x).lane = s.lane := (rfl)
@[simp] theorem State.setHc_slots (s : State) (h : Nat) (x : Harbour) : (s.setHc h x).slots = s.slots := (rfl)
@[simp] theorem State.setHc_portSlots (s : State) (h : Nat) (x : Harbour) : (s.setHc h x).portSlots = s.portSlots := (rfl)
@[simp] theorem State.setHc_chans (s : State) (h : Nat) (x : Harbour) : (s.setHc h x).chans = s.chans := (rfl)
@[simp] theorem State.setHc_paths (s : State) (h : Nat) (x : Harbour) : (s.setHc h x).paths = s.paths := (rfl)
@[simp] theorem State.setHc_peers (s : State) (h : Nat) (x : Harbour) : (s.setHc h x).peers = s.peers := (rfl)
@[simp] theorem State.setHc_vault (s : State) (h : Nat) (x : Harbour) : (s.setHc h x).vault = s.vault := (rfl)
@[simp] theorem State.setHc_ports (s : State) (h : Nat) (x : Harbour) : (s.setHc h x).ports = s.ports := (rfl)
@[simp] theorem State.setHc_streams (s : State) (h : Nat) (x : Harbour) : (s.setHc h x).streams = s.streams := (rfl)
@[simp] theorem State.setHc_senses (s : State) (h : Nat) (x : Harbour) : (s.setHc h x).senses = s.senses := (rfl)
@[simp] theorem State.setHc_optics (s : State) (h : Nat) (x : Harbour) : (s.setHc h x).optics = s.optics := (rfl)
@[simp] theorem State.setHc_kiln (s : State) (h : Nat) (x : Harbour) : (s.setHc h x).kiln = s.kiln := (rfl)
@[simp] theorem State.setHc_engines (s : State) (h : Nat) (x : Harbour) : (s.setHc h x).engines = s.engines := (rfl)
@[simp] theorem State.setHc_fronts (s : State) (h : Nat) (x : Harbour) : (s.setHc h x).fronts = s.fronts := (rfl)
@[simp] theorem State.setHc_harbours (s : State) (h : Nat) (x : Harbour) : (s.setHc h x).harbours = tput s.harbours h x := (rfl)
@[simp] theorem State.setHc_boot (s : State) (h : Nat) (x : Harbour) : (s.setHc h x).boot = s.boot := (rfl)
@[simp] theorem State.setHc_free (s : State) (h : Nat) (x : Harbour) : (s.setHc h x).free = s.free := (rfl)
@[simp] theorem State.setHc_out (s : State) (h : Nat) (x : Harbour) : (s.setHc h x).out = s.out := (rfl)
@[simp] theorem State.setHc_pending (s : State) (h : Nat) (x : Harbour) : (s.setHc h x).pending = s.pending := (rfl)

@[simp] theorem State.setSlotOf_dev (s : State) (i : Nat) (x : Slot) : (s.setSlotOf i x).dev = s.dev := (rfl)
@[simp] theorem State.setSlotOf_regs (s : State) (i : Nat) (x : Slot) : (s.setSlotOf i x).regs = s.regs := (rfl)
@[simp] theorem State.setSlotOf_cnt (s : State) (i : Nat) (x : Slot) : (s.setSlotOf i x).cnt = s.cnt := (rfl)
@[simp] theorem State.setSlotOf_latch (s : State) (i : Nat) (x : Slot) : (s.setSlotOf i x).latch = s.latch := (rfl)
@[simp] theorem State.setSlotOf_gen (s : State) (i : Nat) (x : Slot) : (s.setSlotOf i x).gen = s.gen := (rfl)
@[simp] theorem State.setSlotOf_mem (s : State) (i : Nat) (x : Slot) : (s.setSlotOf i x).mem = s.mem := (rfl)
@[simp] theorem State.setSlotOf_isl (s : State) (i : Nat) (x : Slot) : (s.setSlotOf i x).isl = s.isl := (rfl)
@[simp] theorem State.setSlotOf_saf (s : State) (i : Nat) (x : Slot) : (s.setSlotOf i x).saf = s.saf := (rfl)
@[simp] theorem State.setSlotOf_pci (s : State) (i : Nat) (x : Slot) : (s.setSlotOf i x).pci = s.pci := (rfl)
@[simp] theorem State.setSlotOf_lane (s : State) (i : Nat) (x : Slot) : (s.setSlotOf i x).lane = s.lane := (rfl)
@[simp] theorem State.setSlotOf_slots (s : State) (i : Nat) (x : Slot) : (s.setSlotOf i x).slots = s.slots := (rfl)
@[simp] theorem State.setSlotOf_portSlots (s : State) (i : Nat) (x : Slot) : (s.setSlotOf i x).portSlots = s.portSlots := (rfl)
@[simp] theorem State.setSlotOf_chans (s : State) (i : Nat) (x : Slot) : (s.setSlotOf i x).chans = s.chans := (rfl)
@[simp] theorem State.setSlotOf_paths (s : State) (i : Nat) (x : Slot) : (s.setSlotOf i x).paths = s.paths := (rfl)
@[simp] theorem State.setSlotOf_peers (s : State) (i : Nat) (x : Slot) : (s.setSlotOf i x).peers = s.peers := (rfl)
@[simp] theorem State.setSlotOf_vault (s : State) (i : Nat) (x : Slot) : (s.setSlotOf i x).vault = s.vault := (rfl)
@[simp] theorem State.setSlotOf_ports (s : State) (i : Nat) (x : Slot) : (s.setSlotOf i x).ports = s.ports := (rfl)
@[simp] theorem State.setSlotOf_streams (s : State) (i : Nat) (x : Slot) : (s.setSlotOf i x).streams = s.streams := (rfl)
@[simp] theorem State.setSlotOf_senses (s : State) (i : Nat) (x : Slot) : (s.setSlotOf i x).senses = s.senses := (rfl)
@[simp] theorem State.setSlotOf_optics (s : State) (i : Nat) (x : Slot) : (s.setSlotOf i x).optics = tput s.optics i x := (rfl)
@[simp] theorem State.setSlotOf_kiln (s : State) (i : Nat) (x : Slot) : (s.setSlotOf i x).kiln = s.kiln := (rfl)
@[simp] theorem State.setSlotOf_engines (s : State) (i : Nat) (x : Slot) : (s.setSlotOf i x).engines = s.engines := (rfl)
@[simp] theorem State.setSlotOf_fronts (s : State) (i : Nat) (x : Slot) : (s.setSlotOf i x).fronts = s.fronts := (rfl)
@[simp] theorem State.setSlotOf_harbours (s : State) (i : Nat) (x : Slot) : (s.setSlotOf i x).harbours = s.harbours := (rfl)
@[simp] theorem State.setSlotOf_boot (s : State) (i : Nat) (x : Slot) : (s.setSlotOf i x).boot = s.boot := (rfl)
@[simp] theorem State.setSlotOf_free (s : State) (i : Nat) (x : Slot) : (s.setSlotOf i x).free = s.free := (rfl)
@[simp] theorem State.setSlotOf_out (s : State) (i : Nat) (x : Slot) : (s.setSlotOf i x).out = s.out := (rfl)
@[simp] theorem State.setSlotOf_pending (s : State) (i : Nat) (x : Slot) : (s.setSlotOf i x).pending = s.pending := (rfl)

end Sys2Proof.Machine
end

