-- ==== Sys2Proof/Laws/FrameCore.lean ====
section
/-! SUPPORT. What an operation leaves alone: the part of the state that few operations change, and which of them change it: shared operations, jobs, channels, transmission and peers. -/
namespace Sys2Proof.Machine
set_option linter.unusedSimpArgs false

/-! Base. -/

/-- The memory, the queue, the part, and what is fused. -/
def State.core (s : State) : List Host.Cell × List Instr × Bool × Nat × Tbl (List Byte) × List Nat × Nat × Nat :=
  (s.mem, s.pending, s.dev.h48, s.boot.fuses, s.boot.intKeys, s.boot.intRevoked, s.boot.fwFloor, s.boot.patchFloor)

@[simp] theorem core_ite (p : Prop) [Decidable p] (a b : State) :
    (if p then a else b).core = if p then a.core else b.core := apply_ite _ _ _ _

/-- A fold keeps what each of its steps keeps. -/
theorem foldl_keep {α β γ : Type} (P : β → γ) (g : β → α → β) (h : ∀ b x, P (g b x) = P b) :
    ∀ (l : List α) (b : β), P (l.foldl g b) = P b
  | [], _ => rfl
  | a :: t, b => (foldl_keep P g h t (g b a)).trans (h b a)

theorem foldl_holds {α β : Type} (P : β → Prop) (g : β → α → β) (h : ∀ b x, P b → P (g b x)) :
    ∀ (l : List α) (b : β), P b → P (l.foldl g b)
  | [], _, w => w
  | a :: t, b, w => foldl_holds P g h t (g b a) (h b a w)

theorem foldl_core {α : Type} (g : State → α → State) (h : ∀ s x, (g s x).core = s.core) (l : List α) (s : State) :
    (l.foldl g s).core = s.core := foldl_keep State.core g h l s

theorem foldl_rest {α : Type} (g : State → α → State) (h : ∀ s x, (g s x).core.2 = s.core.2) (l : List α) (s : State) :
    (l.foldl g s).core.2 = s.core.2 := foldl_keep (fun s => s.core.2) g h l s

theorem foldl_wf {α : Type} (g : State → α → State) (h : ∀ s x, Memory.wf s.core.1 = true → Memory.wf (g s x).core.1 = true)
    (l : List α) (s : State) (w : Memory.wf s.core.1 = true) : Memory.wf (l.foldl g s).core.1 = true :=
  foldl_holds (fun s => Memory.wf s.core.1 = true) g h l s w

@[simp] theorem withDev_core (s : State) (d : Dev) (h : d.h48 = s.dev.h48) : (s.withDev d).core = s.core := by
  simp [State.core, State.withDev, h]

@[simp] theorem withBoot_fst (s : State) (x : Boot) : (s.withBoot x).core.1 = s.core.1 := (rfl)

@[simp] theorem withMem_core (s : State) (m : List Host.Cell) : (s.withMem m).core = (m, s.core.2) := (rfl)

@[simp] theorem withBoot_core (s : State) (x : Boot) (h : x.fuses = s.boot.fuses ∧ x.intKeys = s.boot.intKeys ∧ x.intRevoked = s.boot.intRevoked ∧ x.fwFloor = s.boot.fwFloor ∧ x.patchFloor = s.boot.patchFloor) : (s.withBoot x).core = s.core := by
  simp [State.core, State.withBoot, h]

@[simp] theorem withFree_core (s : State) (n : Nat) : State.core { s with free := n } = s.core := (rfl)

@[simp] theorem withCnt_core (s : State) (c : Tbl Nat) : State.core { s with cnt := c } = s.core := (rfl)

@[simp] theorem withLatch_core (s : State) (c : Tbl Word) : State.core { s with latch := c } = s.core := (rfl)

@[simp] theorem withEngines_core (s : State) (c : Tbl Engine) : State.core { s with engines := c } = s.core := (rfl)

theorem memWfFrom_filter (p : Host.Cell → Bool) : ∀ (m : List Host.Cell) (lo lo' : Option Nat),
    memWfFrom lo m = true → (∀ l', lo' = some l' → ∃ l, lo = some l ∧ l' ≤ l) → memWfFrom lo' (m.filter p) = true
  | [], _, _, _, _ => rfl
  | (a, v) :: t, lo, lo', h, hl => by
    simp only [memWfFrom, Bool.and_eq_true] at h
    obtain ⟨⟨h1, h2⟩, h3⟩ := h
    by_cases hp : p (a, v)
    · simp only [List.filter_cons, hp, if_true, memWfFrom, Bool.and_eq_true]
      refine ⟨⟨?_, h2⟩, memWfFrom_filter p t (some a) (some a) h3 (fun l' e => ⟨a, rfl, by cases e; exact Nat.le_refl _⟩)⟩
      cases lo' with
      | none => rfl
      | some l' =>
        obtain ⟨l, rfl, hle⟩ := hl l' rfl
        simp only [decide_eq_true_eq] at h1 ⊢
        omega
    · simp only [List.filter_cons, hp]
      refine memWfFrom_filter p t (some a) lo' h3 (fun l' e => ⟨a, rfl, ?_⟩)
      obtain ⟨l, rfl, hle⟩ := hl l' e
      simp only [decide_eq_true_eq] at h1
      omega

@[simp] theorem filter_wf (m : List Host.Cell) (p : Host.Cell → Bool) (h : Memory.wf m = true) : Memory.wf (m.filter p) = true :=
  memWfFrom_filter p m none none h (fun _ e => nomatch e)

@[simp] theorem memErase_wf (m : List Host.Cell) (lo hi : Nat) (h : Memory.wf m = true) : Memory.wf (memErase m lo hi) = true :=
  filter_wf _ _ h

theorem memWfFrom_memWrite (x : Nat) (v : Byte) : ∀ (m : List Host.Cell) (lo : Option Nat),
    memWfFrom lo m = true → (∀ l, lo = some l → l < x) → memWfFrom lo (memWrite m x v) = true
  | [], lo, _, hl => by
    simp only [memWrite]
    split
    · rfl
    · rename_i hv
      cases lo with
      | none => simpa [memWfFrom] using hv
      | some l => simpa [memWfFrom, hl l rfl] using hv
  | (b, w) :: t, lo, h, hl => by
    simp only [memWfFrom, Bool.and_eq_true] at h
    obtain ⟨⟨h1, h2⟩, h3⟩ := h
    simp only [memWrite]
    split
    · rename_i hx
      split
      · simp only [memWfFrom, Bool.and_eq_true]; exact ⟨⟨h1, h2⟩, h3⟩
      · rename_i hv
        cases lo with
        | none => simp_all [memWfFrom]
        | some l => have := hl l rfl; simp_all [memWfFrom]
    · rename_i hx
      split
      · rename_i he
        have he : x = b := by simpa using he
        subst he
        split
        · have := memWfFrom_filter (fun _ => true) t (some x) lo h3 (fun l' e => ⟨x, rfl, by have := hl l' e; omega⟩)
          rwa [List.filter_eq_self.mpr (fun _ _ => rfl)] at this
        · rename_i hv
          cases lo with
          | none => simp_all [memWfFrom]
          | some l => have := hl l rfl; simp_all [memWfFrom]
      · rename_i he
        have he : ¬ x = b := by simpa using he
        simp only [memWfFrom, Bool.and_eq_true]
        exact ⟨⟨h1, h2⟩, memWfFrom_memWrite x v t (some b) h3 (fun l e => by cases e; omega)⟩

@[simp] theorem memWrite_wf (m : List Host.Cell) (a : Nat) (v : Byte) (h : Memory.wf m = true) : Memory.wf (memWrite m a v) = true :=
  memWfFrom_memWrite a v m none h (fun _ e => nomatch e)

@[simp] theorem memPut_wf : ∀ (l : List Byte) (m : List Host.Cell) (a : Nat), Memory.wf m = true → Memory.wf (memPut m a l) = true
  | [], _, _, h => h
  | b :: t, m, a, h => memPut_wf t (memWrite m a b) (a + 1) (memWrite_wf m a b h)

/-! Ops. -/

@[simp] theorem State.withRegs_core (s : State) (r : Tbl Word) : (State.withRegs s r).core = s.core := (rfl)

@[simp] theorem State.withGen_core (s : State) (g : Gen) : (State.withGen s g).core = s.core := (rfl)

@[simp] theorem State.withSaf_core (s : State) (x : Safety) : (State.withSaf s x).core = s.core := (rfl)

@[simp] theorem State.withPci_core (s : State) (x : Pci) : (State.withPci s x).core = s.core := (rfl)

@[simp] theorem State.withVault_core (s : State) (x : Vault) : (State.withVault s x).core = s.core := (rfl)

@[simp] theorem State.withKiln_core (s : State) (x : Kilns) : (State.withKiln s x).core = s.core := (rfl)

@[simp] theorem State.emit_core (s : State) (o : Out) : (State.emit s o).core = s.core := (rfl)

@[simp] theorem State.drawn_core (s : State) : (State.drawn s).core = s.core := by simp [State.drawn]

@[simp] theorem State.drawnN_core (s : State) (n : Nat) : (State.drawnN s n).core = s.core := by simp [State.drawnN]

@[simp] theorem State.setReg_core (s : State) (off : Nat) (v : Word) : (State.setReg s off v).core = s.core := (rfl)

@[simp] theorem State.setRegFld_core (s : State) (off lo n v : Nat) : (State.setRegFld s off lo n v).core = s.core := by simp [State.setRegFld]

@[simp] theorem State.bumpBy_core (s : State) (off n : Nat) : (State.bumpBy s off n).core = s.core := by simp [State.bumpBy]

@[simp] theorem State.bump_core (s : State) (off : Nat) : (State.bump s off).core = s.core := by simp [State.bump]

@[simp] theorem State.bumpWrap_core (s : State) (off : Nat) : (State.bumpWrap s off).core = s.core := by simp [State.bumpWrap]

@[simp] theorem State.cntAdd_core (s : State) (off n : Nat) : (State.cntAdd s off n).core = s.core := by simp [State.cntAdd]

@[simp] theorem State.chanCnt_core (s : State) (c n : Nat) : (State.chanCnt s c n).core = s.core := by simp [State.chanCnt]

@[simp] theorem State.portCnt_core (s : State) (strait : Bool) (p n : Nat) : (State.portCnt s strait p n).core = s.core := by simp [State.portCnt]

@[simp] theorem State.setChan_core (s : State) (c : Nat) (x : Chan) : (State.setChan s c x).core = s.core := (rfl)

@[simp] theorem State.setPath_core (s : State) (g : Nat) (x : Path) : (State.setPath s g x).core = s.core := (rfl)

@[simp] theorem State.setPeer_core (s : State) (g : Nat) (x : Peer) : (State.setPeer s g x).core = s.core := (rfl)

@[simp] theorem State.setPort_core (s : State) (strait : Bool) (p : Nat) (x : Port) : (State.setPort s strait p x).core = s.core := (rfl)

@[simp] theorem State.setLaneU_core (s : State) (d n : Nat) (x : Lane) : (State.setLaneU s d n x).core = s.core := (rfl)

@[simp] theorem State.setSlot_core (s : State) (d c k : Nat) (x : KeySlot) : (State.setSlot s d c k x).core = s.core := (rfl)

@[simp] theorem State.setPslot_core (s : State) (d g k : Nat) (x : KeySlot) : (State.setPslot s d g k x).core = s.core := (rfl)

@[simp] theorem State.setStream_core (s : State) (d c l : Nat) (x : Stream) : (State.setStream s d c l x).core = s.core := (rfl)

@[simp] theorem State.setSense_core (s : State) (g : Nat) (x : Sense) : (State.setSense s g x).core = s.core := (rfl)

@[simp] theorem State.setIsland_core (s : State) (i : Nat) (x : Isl) : (State.setIsland s i x).core = s.core := (rfl)

@[simp] theorem State.setPst_core (s : State) (i ps : Nat) : (State.setPst s i ps).core = s.core := by simp [State.setPst]

@[simp] theorem State.makeDue_core (s : State) (v : Nat) : (State.makeDue s v).core = s.core := by simp [State.makeDue]

@[simp] theorem State.dueFrom_core (old s : State) (n : Nat) : (State.dueFrom old s n).core = s.core := by simp [State.dueFrom]

@[simp] theorem State.ringVec_core (s : State) (r : Nat) : (State.ringVec s r).core = s.core := by simp [State.ringVec]

@[simp] theorem State.evRecord_core (s : State) (n : Nat) (raw : Word) : (State.evRecord s n raw).core = s.core := by simp [State.evRecord]

@[simp] theorem State.raise_core (s : State) (pb b : Nat) : (State.raise s pb b).core = s.core := by
  unfold State.raise
  split <;> simp

@[simp] theorem State.faultBit_core (s : State) (pb b : Nat) : (State.faultBit s pb b).core = s.core := by simp [State.faultBit]

@[simp] theorem State.hold_core (s : State) (off : Nat) (v : Word) : (State.hold s off v).core = s.core := by simp [State.hold]

@[simp] theorem State.unhold_core (s : State) (lo hi : Nat) : (State.unhold s lo hi).core = s.core := by simp [State.unhold]

@[simp] theorem State.disagree_core (s : State) (off : Nat) : (State.disagree s off).core = s.core := by simp [State.disagree]

@[simp] theorem State.agreed_core (s : State) (b : Nat) : (State.agreed s b).core = s.core := by simp [State.agreed]

@[simp] theorem State.setDState_core (s : State) (d : DState) : (State.setDState s d).core = s.core := by simp [State.setDState]

@[simp] theorem State.tally_core (s : State) : (State.tally s).core = s.core := by simp [State.tally]

@[simp] theorem State.offWrite_core (s : State) : (State.offWrite s).core = s.core := by simp [State.offWrite]

theorem State.barred_core {s : State} {off : Nat} {t : State} (h : State.barred s off = some t) : t.core = s.core := by
  unfold State.barred at h
  repeat' split at h
  all_goals cases h
  all_goals first | (with_reducible rfl) | simp

theorem gateO_cases {off : Nat} {s t : State} {go : State → Host.Outcome State Fault Refusal} (h : gateO off s go = .next t) : go s = .next t ∨ t.core = s.core := by
  unfold gateO at h
  split at h
  · cases h; exact .inr rfl
  · split at h
    · cases h; exact .inr (State.barred_core ‹_›)
    · exact .inl h

theorem gateA_cases {a : Agent} {off : Nat} {s t : State} {go : State → Host.Outcome State Fault Refusal} (h : gateA a off s go = .next t) : go s = .next t ∨ t.core = s.core := by
  unfold gateA at h
  split at h
  · exact gateO_cases h
  · exact .inl h

/-! Context. -/

@[simp] theorem State.mput_rest (s : State) (a : Nat) (l : List Byte) : (State.mput s a l).core.2 = s.core.2 := by simp [State.mput]

@[simp] theorem State.mput_wf (s : State) (a : Nat) (l : List Byte) (hw : Memory.wf s.core.1 = true) : Memory.wf (State.mput s a l).core.1 = true := memPut_wf _ _ _ hw

@[simp] theorem State.mputW_rest (s : State) (a : Nat) (w : Word) : (State.mputW s a w).core.2 = s.core.2 := by simp [State.mputW]

@[simp] theorem State.mputW_wf (s : State) (a : Nat) (w : Word) (hw : Memory.wf s.core.1 = true) : Memory.wf (State.mputW s a w).core.1 = true := by simp (maxDischargeDepth := 9) [State.mputW, *]

@[simp] theorem State.setEng_core (s : State) (n : Nat) (e : Engine) : (State.setEng s n e).core = s.core := by simp [State.setEng]

@[simp] theorem State.setCtx_core (s : State) (n c : Nat) (x : Ctx) : (State.setCtx s n c x).core = s.core := by simp [State.setCtx]

theorem State.pick_core {s : State} {l : List Nat} {t : Option Nat × State} (h : State.pick s l = t) : t.2.core = s.core := by
  subst h
  unfold State.pick
  split <;> simp

@[simp] theorem State.setCur_core (s : State) (n : Nat) (x : Ctx) : (State.setCur s n x).core = s.core := by
  unfold State.setCur
  dsimp only
  repeat' split
  all_goals simp

@[simp] theorem State.putEng_rest (s : State) (n a : Nat) (l : List Byte) : (State.putEng s n a l).core.2 = s.core.2 := by
  unfold State.putEng
  split <;> simp

@[simp] theorem State.putEng_wf (s : State) (n a : Nat) (l : List Byte) (hw : Memory.wf s.core.1 = true) : Memory.wf (State.putEng s n a l).core.1 = true := by
  unfold State.putEng
  split <;> simp (maxDischargeDepth := 9) [hw]

@[simp] theorem State.saveHalf_rest (s : State) (n c area : Nat) (upper : Bool) : (State.saveHalf s n c area upper).core.2 = s.core.2 := by
  unfold State.saveHalf
  repeat' split
  all_goals simp

@[simp] theorem State.saveHalf_wf (s : State) (n c area : Nat) (upper : Bool) (hw : Memory.wf s.core.1 = true) : Memory.wf (State.saveHalf s n c area upper).core.1 = true := by
  unfold State.saveHalf
  repeat' split
  all_goals simp (maxDischargeDepth := 9) [hw]

@[simp] theorem State.loadHalf_core (s : State) (n c : Nat) (upper withPc : Bool) : (State.loadHalf s n c upper withPc).core = s.core := by simp [State.loadHalf]

@[simp] theorem State.halfStep_rest (s : State) (n c : Nat) (upper save : Bool) (img : List Byte) (i : Nat) : (State.halfStep s n c upper save img i).core.2 = s.core.2 := by
  unfold State.halfStep
  dsimp only
  repeat' split
  all_goals simp

@[simp] theorem State.halfStep_wf (s : State) (n c : Nat) (upper save : Bool) (img : List Byte) (i : Nat) (hw : Memory.wf s.core.1 = true) : Memory.wf (State.halfStep s n c upper save img i).core.1 = true := by
  unfold State.halfStep
  dsimp only
  repeat' split
  all_goals simp (maxDischargeDepth := 9) [hw]

theorem State.nttStep_rest {s : State} {n : Nat} {inverse : Bool} {sn k : Nat} {r : Run} {t : State × Bool} (h : State.nttStep s n inverse sn k r = t) : t.1.core.2 = s.core.2 := by
  subst h
  unfold State.nttStep
  split <;> simp

theorem State.nttStep_wf {s : State} {n : Nat} {inverse : Bool} {sn k : Nat} {r : Run} {t : State × Bool} (h : State.nttStep s n inverse sn k r = t) (hw : Memory.wf s.core.1 = true) : Memory.wf t.1.core.1 = true := by
  subst h
  unfold State.nttStep
  split <;> simp (maxDischargeDepth := 9) [hw]

theorem State.routineStep_rest {s : State} {n : Nat} {r : Run} {t : State × Run} (h : State.routineStep s n r = t) : t.1.core.2 = s.core.2 := by
  subst h
  unfold State.routineStep
  repeat' first | (with_reducible rfl) | (simp ; done) | (simp [State.nttStep_rest ‹State.nttStep _ _ _ _ _ _ = _›]; done) | (simp [State.core]; done) | split | (refine (foldl_rest _ (fun _ _ => ?_) _ _).trans ?_) | (dsimp only; split) | (simp ; refine (foldl_rest _ (fun _ _ => ?_) _ _).trans ?_)

theorem State.routineStep_wf {s : State} {n : Nat} {r : Run} {t : State × Run} (h : State.routineStep s n r = t) (hw : Memory.wf s.core.1 = true) : Memory.wf t.1.core.1 = true := by
  subst h
  unfold State.routineStep
  repeat' first | (with_reducible assumption) | (simp (maxDischargeDepth := 9) [*]; done) | (simp (maxDischargeDepth := 9) [*, State.nttStep_wf ‹State.nttStep _ _ _ _ _ _ = _›]; done) | (simp (maxDischargeDepth := 9) [*, State.core]; done) | split | (refine foldl_wf _ (fun _ _ _ => ?_) _ _ ?_) | (dsimp only; split) | (simp (maxDischargeDepth := 9) [*]; refine foldl_wf _ (fun _ _ _ => ?_) _ _ ?_)

@[simp] theorem State.routineSteps_rest (n : Nat) : ∀ (k : Nat) (s : State) (r : Run), (s.routineSteps n r k).1.core.2 = s.core.2
  | 0, _, _ => rfl
  | k + 1, s, r => (State.routineSteps_rest n k _ _).trans (State.routineStep_rest rfl)

@[simp] theorem State.routineSteps_wf (n : Nat) : ∀ (k : Nat) (s : State) (r : Run), Memory.wf s.core.1 = true → Memory.wf (s.routineSteps n r k).1.core.1 = true
  | 0, _, _, hw => hw
  | k + 1, _, _, hw => State.routineSteps_wf n k _ _ (State.routineStep_wf rfl hw)

@[simp] theorem State.finishRoutine_rest (s : State) (n : Nat) : (State.finishRoutine s n).core.2 = s.core.2 := by
  unfold State.finishRoutine
  split <;> simp

@[simp] theorem State.finishRoutine_wf (s : State) (n : Nat) (hw : Memory.wf s.core.1 = true) : Memory.wf (State.finishRoutine s n).core.1 = true := by
  unfold State.finishRoutine
  split <;> simp (maxDischargeDepth := 9) [hw]

theorem State.someSteps_rest {s : State} {n : Nat} {r : Run} {t : State × Run} (h : State.someSteps s n r = t) : t.1.core.2 = s.core.2 := by
  subst h
  simp [State.someSteps]

theorem State.someSteps_wf {s : State} {n : Nat} {r : Run} {t : State × Run} (h : State.someSteps s n r = t) (hw : Memory.wf s.core.1 = true) : Memory.wf t.1.core.1 = true := by
  subst h
  simp [State.someSteps, hw]

theorem State.resumeMicro_core {s : State} {n : Nat} {x : Ctx} {t : Ctx × State} (h : State.resumeMicro s n x = t) : t.2.core = s.core := by
  subst h
  unfold State.resumeMicro
  dsimp only
  repeat' split
  all_goals simp

/-! Front. -/

@[simp] theorem State.setFront_core (s : State) (n : Nat) (f : Front) : (State.setFront s n f).core = s.core := by
  simp only [State.setFront]
  repeat' first | (with_reducible rfl) | (simp ; done) | (simp [State.core]; done) | split

@[simp] theorem State.predFlush_core (s : State) (n : Nat) : (State.predFlush s n).core = s.core := by simp [State.predFlush]

@[simp] theorem State.icacheFlush_core (s : State) (n : Nat) : (State.icacheFlush s n).core = s.core := by simp [State.icacheFlush]

@[simp] theorem State.perfAdd_core (s : State) (n ev k : Nat) : (State.perfAdd s n ev k).core = s.core := by simp [State.perfAdd]

@[simp] theorem State.perfOpened_core (s : State) (n : Nat) : (State.perfOpened s n).core = s.core := by simp [State.perfOpened]

/-! Jobs. -/

@[simp] theorem State.enter_core (s : State) (n c : Nat) : (State.enter s n c).core = s.core := by
  unfold State.enter
  repeat' first | (with_reducible rfl) | (simp ; done) | (simp [State.resumeMicro_core ‹State.resumeMicro _ _ _ = _›]; done) | (simp [State.core]; done) | split | (refine (foldl_core _ (fun _ _ => ?_) _ _).trans ?_) | (dsimp only; split) | (simp ; refine (foldl_core _ (fun _ _ => ?_) _ _).trans ?_)

@[simp] theorem State.settleCtx_core (s : State) (n c : Nat) : (State.settleCtx s n c).core = s.core := by simp [State.settleCtx]

@[simp] theorem State.raiseLine_core (s : State) (n i : Nat) : (State.raiseLine s n i).core = s.core := by simp [State.raiseLine]

@[simp] theorem State.runOf_core (s : State) (n : Nat) (l : List Nat) : (State.runOf s n l).core = s.core := by
  simp only [State.runOf]
  repeat' first | (with_reducible rfl) | (simp ; done) | (simp [State.pick_core ‹State.pick _ _ = _›]; done) | (simp [State.core]; done) | split

@[simp] theorem State.runNext_core (s : State) (n : Nat) : (State.runNext s n).core = s.core := by
  simp only [State.runNext]
  repeat' first | (with_reducible rfl) | (simp ; done) | (simp [State.pick_core ‹State.pick _ _ = _›]; done) | (simp [State.core]; done) | split

@[simp] theorem State.runOther_core (s : State) (n c : Nat) : (State.runOther s n c).core = s.core := by simp [State.runOther]

theorem State.takeArea_rest {s : State} {n c : Nat} {t : Nat × State} (h : State.takeArea s n c = some t) : t.2.core.2 = s.core.2 := by
  unfold State.takeArea at h
  dsimp only at h
  repeat' split at h
  all_goals cases h
  all_goals first | (with_reducible rfl) | simp

theorem State.takeArea_wf {s : State} {n c : Nat} {t : Nat × State} (h : State.takeArea s n c = some t) (hw : Memory.wf s.core.1 = true) : Memory.wf t.2.core.1 = true := by
  unfold State.takeArea at h
  dsimp only at h
  repeat' split at h
  all_goals cases h
  all_goals first | (with_reducible exact hw) | simp (maxDischargeDepth := 9) [hw]

@[simp] theorem State.freeArea_rest (s : State) (n c : Nat) : (State.freeArea s n c).core.2 = s.core.2 := by
  unfold State.freeArea
  dsimp only
  repeat' split
  all_goals simp

@[simp] theorem State.freeArea_wf (s : State) (n c : Nat) (hw : Memory.wf s.core.1 = true) : Memory.wf (State.freeArea s n c).core.1 = true := by
  unfold State.freeArea
  dsimp only
  repeat' split
  all_goals simp (maxDischargeDepth := 9) [hw]

@[simp] theorem State.stopDma_core (s : State) (n c : Nat) : (State.stopDma s n c).core = s.core := by
  unfold State.stopDma
  dsimp only
  repeat' first | (with_reducible rfl) | (simp ; done) | (simp [State.core]; done) | split | (dsimp only; split) | (refine (foldl_core _ (fun _ _ => ?_) _ _).trans ?_) | (simp ; refine (foldl_core _ (fun _ _ => ?_) _ _).trans ?_)

@[simp] theorem State.dropHash_core (s : State) (k h : Nat) : (State.dropHash s k h).core = s.core := by simp [State.dropHash]

@[simp] theorem State.dropSessions_core (s : State) (n c : Nat) : (State.dropSessions s n c).core = s.core := by
  unfold State.dropSessions
  repeat' first | (with_reducible rfl) | (simp ; done) | (simp [State.core]; done) | split | (refine (foldl_core _ (fun _ _ => ?_) _ _).trans ?_) | (dsimp only; split) | (simp ; refine (foldl_core _ (fun _ _ => ?_) _ _).trans ?_)

@[simp] theorem State.dropKp_core (s : State) (n : Nat) : (State.dropKp s n).core = s.core := by simp [State.dropKp]

@[simp] theorem State.dropRegions_rest (s : State) (n c : Nat) : (State.dropRegions s n c).core.2 = s.core.2 := by
  unfold State.dropRegions
  dsimp only
  repeat' first | (with_reducible rfl) | (simp ; done) | (simp [State.core]; done) | split | (dsimp only; split) | (refine (foldl_rest _ (fun _ _ => ?_) _ _).trans ?_) | (simp ; refine (foldl_rest _ (fun _ _ => ?_) _ _).trans ?_)

@[simp] theorem State.dropRegions_wf (s : State) (n c : Nat) (hw : Memory.wf s.core.1 = true) : Memory.wf (State.dropRegions s n c).core.1 = true := by
  unfold State.dropRegions
  dsimp only
  refine foldl_wf _ (fun s' _ h => ?_) _ _ hw
  split
  · exact memErase_wf _ _ _ h
  · exact h

@[simp] theorem State.scrubCtx_rest (s : State) (n c : Nat) : (State.scrubCtx s n c).core.2 = s.core.2 := by simp [State.scrubCtx]

@[simp] theorem State.scrubCtx_wf (s : State) (n c : Nat) (hw : Memory.wf s.core.1 = true) : Memory.wf (State.scrubCtx s n c).core.1 = true := by simp (maxDischargeDepth := 9) [State.scrubCtx, *]

@[simp] theorem State.freeCtx_rest (s : State) (n c : Nat) (scrub : Bool) : (State.freeCtx s n c scrub).core.2 = s.core.2 := by
  unfold State.freeCtx
  split <;> simp

@[simp] theorem State.freeCtx_wf (s : State) (n c : Nat) (scrub : Bool) (hw : Memory.wf s.core.1 = true) : Memory.wf (State.freeCtx s n c scrub).core.1 = true := by
  unfold State.freeCtx
  split <;> simp (maxDischargeDepth := 9) [hw]

@[simp] theorem State.complete_rest (s : State) (k q : Nat) (id : Word) (status engine ctx : Nat) (result : Word) (cycles : Word) : (State.complete s k q id status engine ctx result cycles).core.2 = s.core.2 := by
  unfold State.complete
  dsimp only
  repeat' split
  all_goals simp

@[simp] theorem State.complete_wf (s : State) (k q : Nat) (id : Word) (status engine ctx : Nat) (result : Word) (cycles : Word) (hw : Memory.wf s.core.1 = true) : Memory.wf (State.complete s k q id status engine ctx result cycles).core.1 = true := by
  unfold State.complete
  dsimp only
  repeat' split
  all_goals simp (maxDischargeDepth := 9) [hw]

@[simp] theorem State.endJob_rest (s : State) (n c status : Nat) (result : Word) : (State.endJob s n c status result).core.2 = s.core.2 := by
  unfold State.endJob
  dsimp only
  split <;> simp

@[simp] theorem State.endJob_wf (s : State) (n c status : Nat) (result : Word) (hw : Memory.wf s.core.1 = true) : Memory.wf (State.endJob s n c status result).core.1 = true := by
  unfold State.endJob
  dsimp only
  split <;> simp (maxDischargeDepth := 9) [hw]

@[simp] theorem State.endCtx_rest (s : State) (n c status : Nat) (scrub : Bool) : (State.endCtx s n c status scrub).core.2 = s.core.2 := by simp [State.endCtx]

@[simp] theorem State.endCtx_wf (s : State) (n c status : Nat) (scrub : Bool) (hw : Memory.wf s.core.1 = true) : Memory.wf (State.endCtx s n c status scrub).core.1 = true := by simp (maxDischargeDepth := 9) [State.endCtx, *]

@[simp] theorem State.endAll_rest (s : State) (n status : Nat) : (State.endAll s n status).core.2 = s.core.2 := by
  unfold State.endAll
  repeat' first | (with_reducible rfl) | (simp ; done) | (simp [State.core]; done) | split | (refine (foldl_rest _ (fun _ _ => ?_) _ _).trans ?_) | (dsimp only; split) | (simp ; refine (foldl_rest _ (fun _ _ => ?_) _ _).trans ?_)

@[simp] theorem State.endAll_wf (s : State) (n status : Nat) (hw : Memory.wf s.core.1 = true) : Memory.wf (State.endAll s n status).core.1 = true := by
  unfold State.endAll
  repeat' first | (with_reducible assumption) | (simp (maxDischargeDepth := 9) [*]; done) | (simp (maxDischargeDepth := 9) [*, State.core]; done) | split | (refine foldl_wf _ (fun _ _ _ => ?_) _ _ ?_) | (dsimp only; split) | (simp (maxDischargeDepth := 9) [*]; refine foldl_wf _ (fun _ _ _ => ?_) _ _ ?_)

@[simp] theorem State.haltEngine_rest (s : State) (n : Nat) : (State.haltEngine s n).core.2 = s.core.2 := by simp [State.haltEngine]

@[simp] theorem State.haltEngine_wf (s : State) (n : Nat) (hw : Memory.wf s.core.1 = true) : Memory.wf (State.haltEngine s n).core.1 = true := by simp (maxDischargeDepth := 9) [State.haltEngine, *]

@[simp] theorem State.machineCheck_rest (s : State) (n cause : Nat) (addr : Word) (victim : Option Nat) : (State.machineCheck s n cause addr victim).core.2 = s.core.2 := by
  unfold State.machineCheck
  dsimp only
  split <;> simp

@[simp] theorem State.machineCheck_wf (s : State) (n cause : Nat) (addr : Word) (victim : Option Nat) (hw : Memory.wf s.core.1 = true) : Memory.wf (State.machineCheck s n cause addr victim).core.1 = true := by
  unfold State.machineCheck
  dsimp only
  split <;> simp (maxDischargeDepth := 9) [hw]

@[simp] theorem State.faultCtx_rest (s : State) (n c code : Nat) (addr pc : Word) (precise restart : Bool) : (State.faultCtx s n c code addr pc precise restart).core.2 = s.core.2 := by
  unfold State.faultCtx
  dsimp only
  repeat' split
  all_goals simp

@[simp] theorem State.faultCtx_wf (s : State) (n c code : Nat) (addr pc : Word) (precise restart : Bool) (hw : Memory.wf s.core.1 = true) : Memory.wf (State.faultCtx s n c code addr pc precise restart).core.1 = true := by
  unfold State.faultCtx
  dsimp only
  repeat' split
  all_goals simp (maxDischargeDepth := 9) [hw]

theorem State.spill_rest {s : State} {n c : Nat} {t : State} (h : State.spill s n c = some t) : t.core.2 = s.core.2 := by
  simp only [State.spill] at h
  repeat' first | (cases h; done) | (cases h; (with_reducible rfl)) | (cases h; (simp ; done)) | (cases h; (simp [State.takeArea_rest ‹State.takeArea _ _ _ = _›]; done)) | split at h

theorem State.spill_wf {s : State} {n c : Nat} {t : State} (h : State.spill s n c = some t) (hw : Memory.wf s.core.1 = true) : Memory.wf t.core.1 = true := by
  simp only [State.spill] at h
  repeat' first | (cases h; done) | (cases h; (with_reducible assumption)) | (cases h; (simp (maxDischargeDepth := 9) [*]; done)) | (cases h; (simp (maxDischargeDepth := 9) [*, State.takeArea_wf ‹State.takeArea _ _ _ = _›]; done)) | split at h

@[simp] theorem State.claim_core (s : State) (n b : Nat) : (State.claim s n b).core = s.core := by simp [State.claim]

theorem State.makeBank_rest {s : State} {n : Nat} {what : Retry} {t : Bool × Nat × State} (h : State.makeBank s n what = some t) : t.2.2.core.2 = s.core.2 := by
  simp only [State.makeBank] at h
  repeat' first | (cases h; done) | (cases h; (with_reducible rfl)) | (cases h; (simp ; done)) | (cases h; (simp [State.pick_core ‹State.pick _ _ = _›]; done)) | (cases h; (simp [State.spill_rest ‹State.spill _ _ _ = _›]; done)) | (cases h; (simp [State.pick_core ‹State.pick _ _ = _›, State.spill_rest ‹State.spill _ _ _ = _›]; done)) | split at h

theorem State.makeBank_wf {s : State} {n : Nat} {what : Retry} {t : Bool × Nat × State} (h : State.makeBank s n what = some t) (hw : Memory.wf s.core.1 = true) : Memory.wf t.2.2.core.1 = true := by
  simp only [State.makeBank] at h
  repeat' first | (cases h; done) | (cases h; (with_reducible assumption)) | (cases h; (simp (maxDischargeDepth := 9) [*]; done)) | (cases h; (simp (maxDischargeDepth := 9) [*, State.pick_core ‹State.pick _ _ = _›]; done)) | (cases h; (simp (maxDischargeDepth := 9) [*, State.spill_wf ‹State.spill _ _ _ = _›]; done)) | (cases h; (simp (maxDischargeDepth := 9) [*, State.pick_core ‹State.pick _ _ = _›, State.spill_wf ‹State.spill _ _ _ = _›]; done)) | split at h

@[simp] theorem State.bring_rest (s : State) (n c : Nat) : (State.bring s n c).core.2 = s.core.2 := by
  simp only [State.bring]
  repeat' first | (with_reducible rfl) | (simp ; done) | (simp [State.makeBank_rest ‹State.makeBank _ _ _ = _›]; done) | (simp [State.core]; done) | split

@[simp] theorem State.bring_wf (s : State) (n c : Nat) (hw : Memory.wf s.core.1 = true) : Memory.wf (State.bring s n c).core.1 = true := by
  simp only [State.bring]
  repeat' first | (with_reducible assumption) | (simp (maxDischargeDepth := 9) [*]; done) | (simp (maxDischargeDepth := 9) [*, State.makeBank_wf ‹State.makeBank _ _ _ = _›]; done) | (simp (maxDischargeDepth := 9) [*, State.core]; done) | split

@[simp] theorem State.fill_rest (s : State) (n c : Nat) : (State.fill s n c).core.2 = s.core.2 := by
  simp only [State.fill]
  repeat' first | (with_reducible rfl) | (simp ; done) | (simp [State.makeBank_rest ‹State.makeBank _ _ = _›]; done) | (simp [State.core]; done) | split

@[simp] theorem State.fill_wf (s : State) (n c : Nat) (hw : Memory.wf s.core.1 = true) : Memory.wf (State.fill s n c).core.1 = true := by
  simp only [State.fill]
  repeat' first | (with_reducible assumption) | (simp (maxDischargeDepth := 9) [*]; done) | (simp (maxDischargeDepth := 9) [*, State.makeBank_wf ‹State.makeBank _ _ = _›]; done) | (simp (maxDischargeDepth := 9) [*, State.core]; done) | split

theorem State.takeJob_rest {s : State} {k q : Nat} {t : State} (h : State.takeJob s k q = some t) : t.core.2 = s.core.2 := by
  simp only [State.takeJob] at h
  repeat' first | (cases h; done) | (cases h; (with_reducible rfl)) | (cases h; (simp ; done)) | (cases h; (simp [State.pick_core ‹State.pick _ _ = _›]; done)) | (cases h; (simp [State.makeBank_rest ‹State.makeBank _ _ _ = _›]; done)) | (cases h; (simp [State.pick_core ‹State.pick _ _ = _›, State.makeBank_rest ‹State.makeBank _ _ _ = _›]; done)) | split at h

theorem State.takeJob_wf {s : State} {k q : Nat} {t : State} (h : State.takeJob s k q = some t) (hw : Memory.wf s.core.1 = true) : Memory.wf t.core.1 = true := by
  simp only [State.takeJob] at h
  repeat' first | (cases h; done) | (cases h; (with_reducible assumption)) | (cases h; (simp (maxDischargeDepth := 9) [*]; done)) | (cases h; (simp (maxDischargeDepth := 9) [*, State.pick_core ‹State.pick _ _ = _›]; done)) | (cases h; (simp (maxDischargeDepth := 9) [*, State.makeBank_wf ‹State.makeBank _ _ _ = _›]; done)) | (cases h; (simp (maxDischargeDepth := 9) [*, State.pick_core ‹State.pick _ _ = _›, State.makeBank_wf ‹State.makeBank _ _ _ = _›]; done)) | split at h

@[simp] theorem State.dispatch_rest (s : State) (k : Nat) : (State.dispatch s k).core.2 = s.core.2 := by
  unfold State.dispatch
  split
  · cases h : List.findSome? (fun q => s.takeJob k q) [3, 2, 1, 0] with
    | none => rfl
    | some t =>
      obtain ⟨q, _, hq⟩ := List.exists_of_findSome?_eq_some h
      exact State.takeJob_rest hq
  · rfl

@[simp] theorem State.dispatch_wf (s : State) (k : Nat) (hw : Memory.wf s.core.1 = true) : Memory.wf (State.dispatch s k).core.1 = true := by
  unfold State.dispatch
  split
  · cases h : List.findSome? (fun q => s.takeJob k q) [3, 2, 1, 0] with
    | none => exact hw
    | some t =>
      obtain ⟨q, _, hq⟩ := List.exists_of_findSome?_eq_some h
      exact State.takeJob_wf hq hw
  · exact hw

@[simp] theorem State.leaveService_rest (s : State) (k status : Nat) : (State.leaveService s k status).core.2 = s.core.2 := by
  unfold State.leaveService
  dsimp only
  repeat' first | (with_reducible rfl) | (simp ; done) | (simp [State.core]; done) | split | (dsimp only; split) | (refine (foldl_rest _ (fun _ _ => ?_) _ _).trans ?_) | (simp ; refine (foldl_rest _ (fun _ _ => ?_) _ _).trans ?_)

@[simp] theorem State.leaveService_wf (s : State) (k status : Nat) (hw : Memory.wf s.core.1 = true) : Memory.wf (State.leaveService s k status).core.1 = true := by
  unfold State.leaveService
  dsimp only
  repeat' first | (with_reducible assumption) | (simp (maxDischargeDepth := 9) [*]; done) | (simp (maxDischargeDepth := 9) [*, State.core]; done) | split | (dsimp only; split) | (refine foldl_wf _ (fun _ _ _ => ?_) _ _ ?_) | (simp (maxDischargeDepth := 9) [*]; refine foldl_wf _ (fun _ _ _ => ?_) _ _ ?_)

@[simp] theorem State.endSealed_rest (s : State) (status : Nat) : (State.endSealed s status).core.2 = s.core.2 := by
  unfold State.endSealed
  repeat' first | (with_reducible rfl) | (simp ; done) | (simp [State.core]; done) | split | (refine (foldl_rest _ (fun _ _ => ?_) _ _).trans ?_) | (dsimp only; split) | (simp ; refine (foldl_rest _ (fun _ _ => ?_) _ _).trans ?_)

@[simp] theorem State.endSealed_wf (s : State) (status : Nat) (hw : Memory.wf s.core.1 = true) : Memory.wf (State.endSealed s status).core.1 = true := by
  unfold State.endSealed
  repeat' first | (with_reducible assumption) | (simp (maxDischargeDepth := 9) [*]; done) | (simp (maxDischargeDepth := 9) [*, State.core]; done) | split | (refine foldl_wf _ (fun _ _ _ => ?_) _ _ ?_) | (dsimp only; split) | (simp (maxDischargeDepth := 9) [*]; refine foldl_wf _ (fun _ _ _ => ?_) _ _ ?_)

/-! Cache. -/

@[simp] theorem State.backLine_rest (s : State) (n : Nat) (l : Line) : (State.backLine s n l).core.2 = s.core.2 := by
  unfold State.backLine
  split <;> simp

@[simp] theorem State.backLine_wf (s : State) (n : Nat) (l : Line) (hw : Memory.wf s.core.1 = true) : Memory.wf (State.backLine s n l).core.1 = true := by
  unfold State.backLine
  split <;> simp (maxDischargeDepth := 9) [hw]

@[simp] theorem State.allocLine_rest (s : State) (n a : Nat) : (State.allocLine s n a).core.2 = s.core.2 := by
  unfold State.allocLine
  dsimp only
  repeat' split
  all_goals simp

@[simp] theorem State.allocLine_wf (s : State) (n a : Nat) (hw : Memory.wf s.core.1 = true) : Memory.wf (State.allocLine s n a).core.1 = true := by
  unfold State.allocLine
  dsimp only
  repeat' split
  all_goals simp (maxDischargeDepth := 9) [hw]

theorem State.readPart_rest {s : State} {n a len : Nat} {t : List Byte × State} (h : State.readPart s n a len = t) : t.2.core.2 = s.core.2 := by
  subst h
  unfold State.readPart
  split <;> simp

theorem State.readPart_wf {s : State} {n a len : Nat} {t : List Byte × State} (h : State.readPart s n a len = t) (hw : Memory.wf s.core.1 = true) : Memory.wf t.2.core.1 = true := by
  subst h
  unfold State.readPart
  split <;> simp (maxDischargeDepth := 9) [hw]

@[simp] theorem State.writePart_rest (s : State) (n a : Nat) (bytes : List Byte) : (State.writePart s n a bytes).core.2 = s.core.2 := by
  unfold State.writePart
  split <;> simp

@[simp] theorem State.writePart_wf (s : State) (n a : Nat) (bytes : List Byte) (hw : Memory.wf s.core.1 = true) : Memory.wf (State.writePart s n a bytes).core.1 = true := by
  unfold State.writePart
  split <;> simp (maxDischargeDepth := 9) [hw]

@[simp] theorem State.drainN_rest (n : Nat) : ∀ (k : Nat) (s : State), (State.drainN s n k).core.2 = s.core.2
  | 0, _ => rfl
  | k + 1, s => by
    unfold State.drainN
    dsimp only
    split
    · rfl
    · rw [State.drainN_rest n k, State.writePart_rest, State.setEng_core]

@[simp] theorem State.drainN_wf (n : Nat) : ∀ (k : Nat) (s : State), Memory.wf s.core.1 = true → Memory.wf (State.drainN s n k).core.1 = true
  | 0, _, hw => hw
  | k + 1, s, hw => by
    unfold State.drainN
    dsimp only
    split
    · exact hw
    · exact State.drainN_wf n k _ (State.writePart_wf _ _ _ _ hw)

@[simp] theorem State.drainStores_rest (s : State) (n : Nat) : (State.drainStores s n).core.2 = s.core.2 := by simp [State.drainStores]

@[simp] theorem State.drainStores_wf (s : State) (n : Nat) (hw : Memory.wf s.core.1 = true) : Memory.wf (State.drainStores s n).core.1 = true := by simp (maxDischargeDepth := 9) [State.drainStores, *]

@[simp] theorem State.emptyCaches_rest (s : State) (n : Nat) : (State.emptyCaches s n).core.2 = s.core.2 := by
  unfold State.emptyCaches
  dsimp only
  repeat' first | (with_reducible rfl) | (simp ; done) | (simp [State.core]; done) | split | (dsimp only; split) | (refine (foldl_rest _ (fun _ _ => ?_) _ _).trans ?_) | (simp ; refine (foldl_rest _ (fun _ _ => ?_) _ _).trans ?_)

@[simp] theorem State.emptyCaches_wf (s : State) (n : Nat) (hw : Memory.wf s.core.1 = true) : Memory.wf (State.emptyCaches s n).core.1 = true := by
  unfold State.emptyCaches
  dsimp only
  repeat' first | (with_reducible assumption) | (simp (maxDischargeDepth := 9) [*]; done) | (simp (maxDischargeDepth := 9) [*, State.core]; done) | split | (dsimp only; split) | (refine foldl_wf _ (fun _ _ _ => ?_) _ _ ?_) | (simp (maxDischargeDepth := 9) [*]; refine foldl_wf _ (fun _ _ _ => ?_) _ _ ?_)

@[simp] theorem State.bufStore_rest (s : State) (n a : Nat) (bytes : List Byte) : (State.bufStore s n a bytes).core.2 = s.core.2 := by
  unfold State.bufStore
  split <;> simp

@[simp] theorem State.bufStore_wf (s : State) (n a : Nat) (bytes : List Byte) (hw : Memory.wf s.core.1 = true) : Memory.wf (State.bufStore s n a bytes).core.1 = true := by
  unfold State.bufStore
  split <;> simp (maxDischargeDepth := 9) [hw]

theorem State.loadPart_rest {s : State} {n a len : Nat} {t : List Byte × State} (h : State.loadPart s n a len = t) : t.2.core.2 = s.core.2 := by
  subst h
  unfold State.loadPart
  dsimp only
  split
  · exact State.readPart_rest (Eq.refl _)
  · split
    · rfl
    · exact (State.readPart_rest (Eq.refl _)).trans (State.drainN_rest _ _ _)

theorem State.loadPart_wf {s : State} {n a len : Nat} {t : List Byte × State} (h : State.loadPart s n a len = t) (hw : Memory.wf s.core.1 = true) : Memory.wf t.2.core.1 = true := by
  subst h
  unfold State.loadPart
  dsimp only
  split
  · exact State.readPart_wf (Eq.refl _) hw
  · split
    · exact hw
    · exact State.readPart_wf (Eq.refl _) (State.drainN_wf _ _ _ hw)

/-! Link. -/

@[simp] theorem State.sendFrame_core (s : State) (strait : Bool) (p : Nat) (bytes : List Byte) : (State.sendFrame s strait p bytes).core = s.core := by simp [State.sendFrame]

@[simp] theorem State.stompFrame_core (s : State) (strait : Bool) (p : Nat) (bytes : List Byte) : (State.stompFrame s strait p bytes).core = s.core := by simp [State.stompFrame]

@[simp] theorem State.putPort_core (s : State) (p : Nat) (bytes : List Byte) : (State.putPort s p bytes).core = s.core := by simp [State.putPort]

@[simp] theorem State.portFrameOn_core (s : State) (w p type : Nat) (clear : Bool) (body : List Byte) : (State.portFrameOn s w p type clear body).core = s.core := by simp [State.portFrameOn]

@[simp] theorem State.portFrame_core (s : State) (w type : Nat) (clear : Bool) (body : List Byte) : (State.portFrame s w type clear body).core = s.core := by
  unfold State.portFrame
  split <;> simp

@[simp] theorem State.control_core (s : State) (w msg : Nat) (m : List Byte) : (State.control s w msg m).core = s.core := by simp [State.control]

@[simp] theorem State.flushAcks_core (s : State) (w : Nat) : (State.flushAcks s w).core = s.core := by
  unfold State.flushAcks
  dsimp only
  split <;> simp

@[simp] theorem State.pushAck_core (s : State) (w : Nat) (r : AckRec) : (State.pushAck s w r).core = s.core := by simp [State.pushAck]

@[simp] theorem State.protoErr_core (s : State) (g : Nat) : (State.protoErr s g).core = s.core := by simp [State.protoErr]

/-! Hbm. -/

@[simp] theorem State.loseReorder_core (s : State) : (State.loseReorder s).core = s.core := by
  simp only [State.loseReorder]
  repeat' first | (with_reducible rfl) | (simp ; done) | (simp [State.core]; done) | split

@[simp] theorem State.retirePc_core (s : State) (h pc : Nat) : (State.retirePc s h pc).core = s.core := by simp [State.retirePc]

@[simp] theorem State.pcError_core (s : State) (h pc : Nat) : (State.pcError s h pc).core = s.core := by simp [State.pcError]

@[simp] theorem State.readChunks_core (s : State) (errs l : List Nat) : (State.readChunks s errs l).core = s.core := by
  unfold State.readChunks
  dsimp only
  repeat' first | (with_reducible rfl) | (simp ; done) | (simp [State.core]; done) | split | (dsimp only; split) | (refine (foldl_core _ (fun _ _ => ?_) _ _).trans ?_) | (simp ; refine (foldl_core _ (fun _ _ => ?_) _ _).trans ?_)

@[simp] theorem State.ringPut_rest (s : State) (c o : Nat) (b : List Byte) : (State.ringPut s c o b).core.2 = s.core.2 := by simp [State.ringPut]

@[simp] theorem stripePut_wf (d q : Nat) : ∀ (l : List Byte) (m : List Host.Cell) (a : Nat), Memory.wf m = true → Memory.wf (stripePut m d q a l) = true
  | [], _, _, h => h
  | _ :: t, _, a, h => stripePut_wf d q t _ (a + 1) (memWrite_wf _ _ _ (memWrite_wf _ _ _ h))

theorem holdPut_wf : ∀ (l : List Nat) (m : List Host.Cell) (b : List Byte), Memory.wf m = true → Memory.wf (holdPut m l b) = true
  | [], _, _, h => h
  | _ :: t, _, _, h => holdPut_wf t _ _ (stripePut_wf _ _ _ _ _ h)

theorem withPut_wf (s : State) (a : Nat) (l : List Byte) (hw : Memory.wf s.core.1 = true) :
    Memory.wf (s.withMem (memPut s.mem a l)).core.1 = true := memPut_wf _ _ _ hw

@[simp] theorem State.ringPut_wf (s : State) (c o : Nat) (b : List Byte) (hw : Memory.wf s.core.1 = true) : Memory.wf (State.ringPut s c o b).core.1 = true := stripePut_wf _ _ _ _ _ (stripePut_wf _ _ _ _ _ hw)

@[simp] theorem State.putRet_rest (s : State) (c : Nat) (r : Ret) (frame : List Byte) (bad : Bool) : (State.putRet s c r frame bad).core.2 = s.core.2 := by
  unfold State.putRet
  dsimp only
  split <;> simp

@[simp] theorem State.putRet_wf (s : State) (c : Nat) (r : Ret) (frame : List Byte) (bad : Bool) (hw : Memory.wf s.core.1 = true) : Memory.wf (State.putRet s c r frame bad).core.1 = true := by
  unfold State.putRet
  dsimp only
  split
  · exact withPut_wf _ _ _ (State.ringPut_wf _ _ _ _ (by rw [State.setChan_core]; exact hw))
  · simp [hw]

/-! Chan. -/

@[simp] theorem State.sendPause_core (s : State) (p : Nat) (pfc : Bool) (enables : Nat) (times : List Nat) : (State.sendPause s p pfc enables times).core = s.core := by simp [State.sendPause]

@[simp] theorem State.sendPfc_core (s : State) (p on gone quanta : Nat) : (State.sendPfc s p on gone quanta).core = s.core := by simp [State.sendPfc]

@[simp] theorem State.xoffPort_core (s : State) (p : Nat) : (State.xoffPort s p).core = s.core := by simp [State.xoffPort]

@[simp] theorem State.xoffAll_core (s : State) : (State.xoffAll s).core = s.core := by
  unfold State.xoffAll
  repeat' first | (with_reducible rfl) | (simp ; done) | (simp [State.core]; done) | split | (refine (foldl_core _ (fun _ _ => ?_) _ _).trans ?_) | (dsimp only; split) | (simp ; refine (foldl_core _ (fun _ _ => ?_) _ _).trans ?_)

@[simp] theorem State.poolMark_core (s : State) : (State.poolMark s).core = s.core := by simp [State.poolMark]

@[simp] theorem State.chanMark_core (s : State) (c : Nat) : (State.chanMark s c).core = s.core := by simp [State.chanMark]

@[simp] theorem State.settle_core (s : State) (c : Nat) : (State.settle s c).core = s.core := by simp [State.settle]

@[simp] theorem State.sendAck_core (s : State) (c : Nat) : (State.sendAck s c).core = s.core := by simp [State.sendAck]

@[simp] theorem State.setGap_core (s : State) (c : Nat) : (State.setGap s c).core = s.core := by simp [State.setGap]

@[simp] theorem State.flushHeld_core (s : State) (c : Nat) : (State.flushHeld s c).core = s.core := by simp [State.flushHeld]

@[simp] theorem State.dropKeys_core (s : State) (c : Nat) : (State.dropKeys s c).core = s.core := by
  simp only [State.dropKeys]
  repeat' first | (with_reducible rfl) | (simp ; done) | (simp [State.core]; done) | split

@[simp] theorem State.sendClose_core (s : State) (c reason : Nat) : (State.sendClose s c reason).core = s.core := by simp [State.sendClose]

@[simp] theorem State.setSenseMode_core (s : State) (g m : Nat) : (State.setSenseMode s g m).core = s.core := by simp [State.setSenseMode]

@[simp] theorem State.senseOff_core (s : State) (g : Nat) : (State.senseOff s g).core = s.core := by simp [State.senseOff]

@[simp] theorem State.goUnkeyed_core (s : State) (w : Nat) : (State.goUnkeyed s w).core = s.core := by
  unfold State.goUnkeyed
  dsimp only
  repeat' first | (with_reducible rfl) | (simp ; done) | (simp [State.core]; done) | split | (dsimp only; split) | (refine (foldl_core _ (fun _ _ => ?_) _ _).trans ?_) | (simp ; refine (foldl_core _ (fun _ _ => ?_) _ _).trans ?_)

@[simp] theorem State.strandCheck_core (s : State) (w : Nat) : (State.strandCheck s w).core = s.core := by simp [State.strandCheck]

@[simp] theorem State.closeChan_core (s : State) (c : Nat) : (State.closeChan s c).core = s.core := by simp [State.closeChan]

@[simp] theorem State.closeReport_core (s : State) (c reason : Nat) : (State.closeReport s c reason).core = s.core := by simp [State.closeReport]

@[simp] theorem State.activate_core (s : State) (c : Nat) : (State.activate s c).core = s.core := by simp [State.activate]

@[simp] theorem State.reopen_core (s : State) (c : Nat) : (State.reopen s c).core = s.core := by simp [State.reopen]

/-! Tx. -/

@[simp] theorem withChans_core (s : State) (c : Tbl Chan) : State.core { s with chans := c } = s.core := (rfl)

@[simp] theorem State.markReplay_core (s : State) (g : Nat) : (State.markReplay s g).core = s.core := by
  unfold State.markReplay
  dsimp only
  rw [withChans_core]
  refine foldl_core _ (fun _ _ => ?_) _ _
  repeat' first | (with_reducible rfl) | (simp ; done) | split

@[simp] theorem State.squelch_core (s : State) (d n : Nat) (fail : Bool) : (State.squelch s d n fail).core = s.core := by
  unfold State.squelch
  repeat' split
  all_goals first | (with_reducible rfl) | simp

@[simp] theorem State.capture_core (s : State) (d n c pn word : Nat) : (State.capture s d n c pn word).core = s.core := by simp [State.capture]

@[simp] theorem State.corrected_core (s : State) (d n : Nat) (lg : LgOutcome) : (State.corrected s d n lg).core = s.core := by
  unfold State.corrected
  split <;> simp

@[simp] theorem State.squelchCmp_core (s : State) (d n c pn word : Nat) (echo : Bool) : (State.squelchCmp s d n c pn word echo).core = s.core := by simp [State.squelchCmp]

@[simp] theorem State.laneFrame_core (s : State) (d n : Nat) : (State.laneFrame s d n).core = s.core := by simp [State.laneFrame]

@[simp] theorem State.emitData_core (s : State) (c : Nat) (frame : List Byte) : (State.emitData s c frame).core = s.core := by simp [State.emitData]

@[simp] theorem State.retain_rest (s : State) (c : Nat) (r : Ret) (frame : List Byte) : (State.retain s c r frame).core.2 = s.core.2 := by
  unfold State.retain
  split <;> simp

@[simp] theorem State.retain_wf (s : State) (c : Nat) (r : Ret) (frame : List Byte) (hw : Memory.wf s.core.1 = true) : Memory.wf (State.retain s c r frame).core.1 = true := by
  unfold State.retain
  split <;> simp (maxDischargeDepth := 9) [hw]

@[simp] theorem State.voidPn_rest (s : State) (c pn epoch units : Nat) : (State.voidPn s c pn epoch units).core.2 = s.core.2 := by
  unfold State.voidPn
  split <;> simp

@[simp] theorem State.voidPn_wf (s : State) (c pn epoch units : Nat) (hw : Memory.wf s.core.1 = true) : Memory.wf (State.voidPn s c pn epoch units).core.1 = true := by
  unfold State.voidPn
  split <;> simp (maxDischargeDepth := 9) [hw]

theorem State.assign_core {s : State} {c : Nat} {bytes : List Byte} {fmt conf : Nat} {rest : List (List Byte)} {t : List Byte × Nat × Nat × State} (h : State.assign s c bytes fmt conf rest = t) : t.2.2.2.core = s.core := by
  subst h
  unfold State.assign
  split <;> simp

@[simp] theorem State.pnLimit_core (s : State) (c : Nat) : (State.pnLimit s c).core = s.core := by simp [State.pnLimit]

@[simp] theorem State.passed_rest (s : State) (c unit : Nat) (f : Flight) (units : Nat) : (State.passed s c unit f units).core.2 = s.core.2 := by
  unfold State.passed
  split <;> simp

@[simp] theorem State.passed_wf (s : State) (c unit : Nat) (f : Flight) (units : Nat) (hw : Memory.wf s.core.1 = true) : Memory.wf (State.passed s c unit f units).core.1 = true := by
  unfold State.passed
  split <;> simp (maxDischargeDepth := 9) [hw]

@[simp] theorem State.cutShort_core (s : State) (c unit : Nat) (f : Flight) (w : Nat) (echo : Bool) : (State.cutShort s c unit f w echo).core = s.core := by simp [State.cutShort]

@[simp] theorem State.through_rest (s : State) (c unit pn epoch units : Nat) (h : QFrame) (frame : List Byte) (lg : LgOutcome) : (State.through s c unit pn epoch units h frame lg).core.2 = s.core.2 := by
  simp only [State.through]
  repeat' first | (with_reducible rfl) | (simp ; done) | (simp [State.core]; done) | split

@[simp] theorem State.through_wf (s : State) (c unit pn epoch units : Nat) (h : QFrame) (frame : List Byte) (lg : LgOutcome) (hw : Memory.wf s.core.1 = true) : Memory.wf (State.through s c unit pn epoch units h frame lg).core.1 = true := by
  simp only [State.through]
  repeat' first | (with_reducible assumption) | (simp (maxDischargeDepth := 9) [*]; done) | (simp (maxDischargeDepth := 9) [*, State.core]; done) | split

@[simp] theorem State.txUe_core (s : State) (c i : Nat) : (State.txUe s c i).core = s.core := by simp [State.txUe]

@[simp] theorem State.replayChan_rest (s : State) (unit c : Nat) : (State.replayChan s unit c).core.2 = s.core.2 := by
  unfold State.replayChan
  dsimp only
  repeat' first | (with_reducible rfl) | (simp ; done) | (simp [State.core]; done) | split | (dsimp only; split) | (refine (foldl_rest _ (fun _ _ => ?_) _ _).trans ?_) | (simp ; refine (foldl_rest _ (fun _ _ => ?_) _ _).trans ?_)

@[simp] theorem State.replayChan_wf (s : State) (unit c : Nat) (hw : Memory.wf s.core.1 = true) : Memory.wf (State.replayChan s unit c).core.1 = true := by
  unfold State.replayChan
  dsimp only
  repeat' first | (with_reducible assumption) | (simp (maxDischargeDepth := 9) [*]; done) | (simp (maxDischargeDepth := 9) [*, State.core]; done) | split | (dsimp only; split) | (refine foldl_wf _ (fun _ _ _ => ?_) _ _ ?_) | (simp (maxDischargeDepth := 9) [*]; refine foldl_wf _ (fun _ _ _ => ?_) _ _ ?_)

@[simp] theorem State.sendQueued_rest (s : State) (c : Nat) (lg : LgOutcome) (ue : Bool) : (State.sendQueued s c lg ue).core.2 = s.core.2 := by
  unfold State.sendQueued
  dsimp only
  repeat' first | (with_reducible rfl) | (simp ; done) | split
  simp [State.assign_core (Eq.refl (State.assign _ _ _ _ _ _))]

@[simp] theorem State.sendQueued_wf (s : State) (c : Nat) (lg : LgOutcome) (ue : Bool) (hw : Memory.wf s.core.1 = true) : Memory.wf (State.sendQueued s c lg ue).core.1 = true := by
  unfold State.sendQueued
  dsimp only
  repeat' first | (with_reducible assumption) | (simp [hw] ; done) | split
  simp [hw, State.assign_core (Eq.refl (State.assign _ _ _ _ _ _))]

@[simp] theorem State.sendCut_core (s : State) (c p : Nat) (lg : LgOutcome) : (State.sendCut s c p lg).core = s.core := by
  unfold State.sendCut
  dsimp only
  have hA : ∀ (s : State) (c : Nat) b f cf, (s.assign c b f cf []).2.2.2.core = s.core := fun s c b f cf => State.assign_core (Eq.refl (State.assign _ _ _ _ _ _))
  repeat' first | (with_reducible rfl) | (simp [hA]; done) | split

@[simp] theorem State.stompCut_rest (s : State) (c : Nat) (a : Arriving) : (State.stompCut s c a).core.2 = s.core.2 := by
  unfold State.stompCut
  dsimp only
  repeat' split
  all_goals simp

@[simp] theorem State.stompCut_wf (s : State) (c : Nat) (a : Arriving) (hw : Memory.wf s.core.1 = true) : Memory.wf (State.stompCut s c a).core.1 = true := by
  unfold State.stompCut
  dsimp only
  repeat' split
  all_goals simp (maxDischargeDepth := 9) [hw]

@[simp] theorem State.dropArr_core (s : State) (p : Nat) : (State.dropArr s p).core = s.core := by
  unfold State.dropArr
  dsimp only
  split <;> simp

@[simp] theorem State.refuseFull_core (s : State) (c : Nat) : (State.refuseFull s c).core = s.core := by simp [State.refuseFull]

@[simp] theorem State.admitFrame_core (s : State) (p : Nat) : (State.admitFrame s p).core = s.core := by
  unfold State.admitFrame
  dsimp only
  split <;> simp

@[simp] theorem State.accept_rest (s : State) (p : Nat) : (State.accept s p).core.2 = s.core.2 := by
  unfold State.accept
  dsimp only
  repeat' split
  all_goals simp

theorem withHold_wf (s : State) (cells : List Nat) (b : List Byte) (hw : Memory.wf s.core.1 = true) :
    Memory.wf (s.withMem (holdPut s.mem cells b)).core.1 = true := holdPut_wf _ _ _ hw

@[simp] theorem State.accept_wf (s : State) (p : Nat) (hw : Memory.wf s.core.1 = true) : Memory.wf (State.accept s p).core.1 = true := by
  unfold State.accept
  dsimp only
  repeat' first | (with_reducible assumption) | (simp [hw] ; done) | split
  · simp only [State.settle_core, State.setChan_core]
    exact withHold_wf _ _ _ (by simp [hw])

@[simp] theorem State.fetch_core (s : State) (c : Nat) (rd : FetchRead) : (State.fetch s c rd).core = s.core := by
  unfold State.fetch
  dsimp only
  repeat' split
  all_goals simp

@[simp] theorem State.releaseTx_core (s : State) (c : Nat) : (State.releaseTx s c).core = s.core := by
  unfold State.releaseTx
  dsimp only
  split <;> simp

@[simp] theorem State.retFail_core (s : State) (c : Nat) : (State.retFail s c).core = s.core := by simp [State.retFail]

@[simp] theorem State.sendRet_rest (s : State) (c : Nat) (r : Ret) (o : Nat) : (State.sendRet s c r o).core.2 = s.core.2 := by simp [State.sendRet]

@[simp] theorem State.sendRet_wf (s : State) (c : Nat) (r : Ret) (o : Nat) (hw : Memory.wf s.core.1 = true) : Memory.wf (State.sendRet s c r o).core.1 = true := by simp (maxDischargeDepth := 9) [State.sendRet, hw]

@[simp] theorem State.resend_rest (s : State) (c : Nat) (r : Ret) (rd : RetRead) : (State.resend s c r rd).core.2 = s.core.2 := by
  unfold State.resend
  dsimp only
  repeat' split
  all_goals simp

@[simp] theorem State.resend_wf (s : State) (c : Nat) (r : Ret) (rd : RetRead) (hw : Memory.wf s.core.1 = true) : Memory.wf (State.resend s c r rd).core.1 = true := by
  unfold State.resend
  dsimp only
  repeat' split
  all_goals simp (maxDischargeDepth := 9) [hw]

@[simp] theorem State.retransmit_rest (s : State) (c : Nat) (rd : RetRead) : (State.retransmit s c rd).core.2 = s.core.2 := by
  unfold State.retransmit
  repeat' split
  all_goals simp

@[simp] theorem State.retransmit_wf (s : State) (c : Nat) (rd : RetRead) (hw : Memory.wf s.core.1 = true) : Memory.wf (State.retransmit s c rd).core.1 = true := by
  unfold State.retransmit
  repeat' split
  all_goals simp (maxDischargeDepth := 9) [hw]

@[simp] theorem State.tail_rest (s : State) (c : Nat) (rd : RetRead) : (State.tail s c rd).core.2 = s.core.2 := by
  unfold State.tail
  repeat' split
  all_goals simp

@[simp] theorem State.tail_wf (s : State) (c : Nat) (rd : RetRead) (hw : Memory.wf s.core.1 = true) : Memory.wf (State.tail s c rd).core.1 = true := by
  unfold State.tail
  repeat' split
  all_goals simp (maxDischargeDepth := 9) [hw]

@[simp] theorem State.ackTo_core (s : State) (c n l : Nat) : (State.ackTo s c n l).core = s.core := by simp [State.ackTo]

@[simp] theorem State.markRange_core (s : State) (c lo hi : Nat) (within : Nat) : (State.markRange s c lo hi within).core = s.core := by
  unfold State.markRange
  dsimp only
  repeat' first | (with_reducible rfl) | (simp ; done) | (simp [State.core]; done) | split | (dsimp only; split) | (refine (foldl_core _ (fun _ _ => ?_) _ _).trans ?_) | (simp ; refine (foldl_core _ (fun _ _ => ?_) _ _).trans ?_)

theorem execAdmissionDecision_core {p : Fin 32} {s : State} {t : State} (h : execAdmissionDecision p s = .next t) : t.core = s.core := by
  simp only [execAdmissionDecision, Host.Outcome.next.injEq] at h
  subst h
  simp

theorem execFrameAcceptance_rest {p : Fin 32} {s : State} {t : State} (h : execFrameAcceptance p s = .next t) : t.core.2 = s.core.2 := by
  simp only [execFrameAcceptance, Host.Outcome.next.injEq] at h
  subst h
  simp

theorem execFrameAcceptance_wf {p : Fin 32} {s : State} {t : State} (h : execFrameAcceptance p s = .next t) (hw : Memory.wf s.core.1 = true) : Memory.wf t.core.1 = true := by
  simp only [execFrameAcceptance, Host.Outcome.next.injEq] at h
  subst h
  simp (maxDischargeDepth := 9) [hw]

theorem execHoldingBufferRelease_core {c : Fin 8192} {s : State} {t : State} (h : execHoldingBufferRelease c s = .next t) : t.core = s.core := by
  simp only [execHoldingBufferRelease, Host.Outcome.next.injEq] at h
  subst h
  simp

/-! Peers. -/

@[simp] theorem State.setSub_core (s : State) (w : Nat) (sub : Sub) : (State.setSub s w sub).core = s.core := by
  unfold State.setSub
  dsimp only
  repeat' first | (with_reducible rfl) | (simp ; done) | (simp [State.core]; done) | split | (dsimp only; split) | (refine (foldl_core _ (fun _ _ => ?_) _ _).trans ?_) | (simp ; refine (foldl_core _ (fun _ _ => ?_) _ _).trans ?_)

@[simp] theorem State.dropExchanges_core (s : State) (w : Nat) : (State.dropExchanges s w).core = s.core := by
  unfold State.dropExchanges
  dsimp only
  repeat' first | (with_reducible rfl) | (simp ; done) | (simp [State.core]; done) | split | (dsimp only; split) | (refine (foldl_core _ (fun _ _ => ?_) _ _).trans ?_) | (simp ; refine (foldl_core _ (fun _ _ => ?_) _ _).trans ?_)

@[simp] theorem State.senseSuspend_core (s : State) (g : Nat) : (State.senseSuspend s g).core = s.core := by simp [State.senseSuspend]

@[simp] theorem State.pathGone_core (s : State) (w : Nat) : (State.pathGone s w).core = s.core := by simp [State.pathGone]

@[simp] theorem State.pathCheck_core (s : State) (g : Nat) : (State.pathCheck s g).core = s.core := by simp [State.pathCheck]

@[simp] theorem State.hear_core (s : State) (p : Nat) : (State.hear s p).core = s.core := by simp [State.hear]

@[simp] theorem State.sendRecs_core (w : Nat) : ∀ (k : Nat) (s : State) (recs : List (List Byte)), (State.sendRecs s w recs k).core = s.core
  | 0, _, _ => rfl
  | k + 1, s, recs => by
    unfold State.sendRecs
    split
    · rfl
    · exact (State.sendRecs_core w k _ _).trans (State.portFrame_core _ _ _ _ _)

@[simp] theorem State.sendStates_core (s : State) (w : Nat) (cs : List Nat) : (State.sendStates s w cs).core = s.core := by simp [State.sendStates]

@[simp] theorem State.sendDone_core (s : State) (w : Nat) (answer : Bool) : (State.sendDone s w answer).core = s.core := by simp [State.sendDone]

@[simp] theorem State.resyncCheck_core (s : State) (w : Nat) : (State.resyncCheck s w).core = s.core := by simp [State.resyncCheck]

@[simp] theorem State.startResync_core (s : State) (w : Nat) : (State.startResync s w).core = s.core := by
  unfold State.startResync
  dsimp only
  repeat' first | (with_reducible rfl) | (simp ; done) | (simp [State.core]; done) | split | (dsimp only; split) | (refine (foldl_core _ (fun _ _ => ?_) _ _).trans ?_) | (simp ; refine (foldl_core _ (fun _ _ => ?_) _ _).trans ?_)

@[simp] theorem State.onState_core (s : State) (w g : Nat) (r : List Byte) : (State.onState s w g r).core = s.core := by simp [State.onState]

@[simp] theorem State.onDone_core (s : State) (w : Nat) (answer : Bool) : (State.onDone s w answer).core = s.core := by
  unfold State.onDone
  dsimp only
  repeat' first | (with_reducible rfl) | (simp ; done) | (simp [State.core]; done) | split | (dsimp only; split) | (refine (foldl_core _ (fun _ _ => ?_) _ _).trans ?_) | (simp ; refine (foldl_core _ (fun _ _ => ?_) _ _).trans ?_)

@[simp] theorem State.onStates_core (s : State) (w g : Nat) (body : List Byte) (n : Nat) : (State.onStates s w g body n).core = s.core := by
  unfold State.onStates
  dsimp only
  repeat' first | (with_reducible rfl) | (simp ; done) | (simp [State.core]; done) | split | (dsimp only; split) | (refine (foldl_core _ (fun _ _ => ?_) _ _).trans ?_) | (simp ; refine (foldl_core _ (fun _ _ => ?_) _ _).trans ?_)

@[simp] theorem State.beginSwitch_core (s : State) (w : Nat) (target : Bool) : (State.beginSwitch s w target).core = s.core := by simp [State.beginSwitch]

theorem execAckTimer_core {c : Fin 8192} {s : State} {t : State} (h : execAckTimer c s = .next t) : t.core = s.core := by
  unfold execAckTimer at h
  dsimp only at h
  split at h
  all_goals simp only [Host.Outcome.next.injEq] at h; subst h; simp

theorem execAckRefresh_core {g : Fin 8} {s : State} {t : State} (h : execAckRefresh g s = .next t) : t.core = s.core := by
  unfold execAckRefresh at h
  repeat' first | (cases h; done) | (cases h; (with_reducible rfl)) | (cases h; (simp ; done)) | split at h | (dsimp only at h; split at h) | cases h | (with_reducible rfl) | (simp ; done) | split | (refine (foldl_core _ (fun _ _ => ?_) _ _).trans ?_) | (dsimp only; split) | (simp ; refine (foldl_core _ (fun _ _ => ?_) _ _).trans ?_)

theorem execAckFrameFlush_core {g : Fin 8} {s : State} {t : State} (h : execAckFrameFlush g s = .next t) : t.core = s.core := by
  simp only [execAckFrameFlush, Host.Outcome.next.injEq] at h
  subst h
  simp

theorem execNackRetry_core {c : Fin 8192} {pn : Nat} {s : State} {t : State} (h : execNackRetry c pn s = .next t) : t.core = s.core := by
  unfold execNackRetry at h
  dsimp only at h
  split at h
  all_goals simp only [Host.Outcome.next.injEq] at h; subst h; simp

theorem execKeepaliveTimer_core {p : Fin 32} {s : State} {t : State} (h : execKeepaliveTimer p s = .next t) : t.core = s.core := by
  unfold execKeepaliveTimer at h
  dsimp only at h
  split at h
  all_goals simp only [Host.Outcome.next.injEq] at h; subst h; simp

theorem execPathDownTimeout_core {p : Fin 32} {s : State} {t : State} (h : execPathDownTimeout p s = .next t) : t.core = s.core := by
  simp only [execPathDownTimeout, Host.Outcome.next.injEq] at h
  subst h
  simp

theorem execStrandTimeout_core {g : Fin 8} {s : State} {t : State} (h : execStrandTimeout g s = .next t) : t.core = s.core := by
  unfold execStrandTimeout at h
  dsimp only at h
  split at h
  all_goals simp only [Host.Outcome.next.injEq] at h; subst h; simp

theorem execResyncResend_core {g : Fin 8} {s : State} {t : State} (h : execResyncResend g s = .next t) : t.core = s.core := by
  unfold execResyncResend at h
  dsimp only at h
  split at h
  all_goals simp only [Host.Outcome.next.injEq] at h; subst h; simp

@[simp] theorem State.applyCause_core (s : State) (w g : Nat) : (State.applyCause s w g).core = s.core := by
  unfold State.applyCause
  repeat' split
  all_goals simp

theorem execWpSwitch_core {p : Fin 4} {s : State} {t : State} (h : execWpSwitch p s = .next t) : t.core = s.core := by
  unfold execWpSwitch at h
  repeat' split at h
  all_goals simp only [Host.Outcome.next.injEq] at h; subst h; simp

theorem execWpSwitchConnected_core {p : Fin 4} {s : State} {t : State} (h : execWpSwitchConnected p s = .next t) : t.core = s.core := by
  unfold execWpSwitchConnected at h
  dsimp only at h
  repeat' split at h
  all_goals simp only [Host.Outcome.next.injEq] at h; subst h; simp

@[simp] theorem State.setForce_core (s : State) (p f : Nat) : (State.setForce s p f).core = s.core := by
  unfold State.setForce
  dsimp only
  repeat' split
  all_goals simp

theorem execForceToProtect_core {p : Fin 4} {s : State} {t : State} (h : execForceToProtect p s = .next t) : t.core = s.core := by
  simp only [execForceToProtect] at h
  rcases gateO_cases h with h | h
  · repeat' first | (cases h; done) | (cases h; (with_reducible rfl)) | (cases h; (simp ; done)) | split at h
  · exact h

theorem execForceToWorking_core {p : Fin 4} {s : State} {t : State} (h : execForceToWorking p s = .next t) : t.core = s.core := by
  simp only [execForceToWorking] at h
  rcases gateO_cases h with h | h
  · repeat' first | (cases h; done) | (cases h; (with_reducible rfl)) | (cases h; (simp ; done)) | split at h
  · exact h

theorem execClearForce_core {p : Fin 4} {s : State} {t : State} (h : execClearForce p s = .next t) : t.core = s.core := by
  simp only [execClearForce] at h
  rcases gateO_cases h with h | h
  · repeat' first | (cases h; done) | (cases h; (with_reducible rfl)) | (cases h; (simp ; done)) | split at h
  · exact h

theorem execWaitToRestoreExpiry_core {p : Fin 4} {s : State} {t : State} (h : execWaitToRestoreExpiry p s = .next t) : t.core = s.core := by
  unfold execWaitToRestoreExpiry at h
  split at h
  all_goals simp only [Host.Outcome.next.injEq] at h; subst h; simp

end Sys2Proof.Machine
end

