-- ==== Sys2Proof/Laws/FrameLinks.lean ====
section
/-! SUPPORT. What an operation leaves alone: the same for reception, keys, sealing, lanes, time and ports. -/
namespace Sys2Proof.Machine
set_option linter.unusedSimpArgs false

/-! Rx. -/

@[simp] theorem State.tagFail_core (s : State) (c n : Nat) (inOrder : Bool) (home : List Byte) : (State.tagFail s c n inOrder home).core = s.core := by
  unfold State.tagFail
  dsimp only
  repeat' split
  all_goals simp

@[simp] theorem State.noKey_core (s : State) (c : Nat) (unit : Option Nat) : (State.noKey s c unit).core = s.core := by
  unfold State.noKey
  dsimp only
  split <;> simp

@[simp] theorem State.waitAs_core (s : State) (c p pn epoch : Nat) (frame : List Byte) : (State.waitAs s c p pn epoch frame).core = s.core := by simp [State.waitAs]

@[simp] theorem State.waitFrame_core (s : State) (c p : Nat) (frame : List Byte) : (State.waitFrame s c p frame).core = s.core := by simp [State.waitFrame]

@[simp] theorem State.rxSquelch_core (s : State) (c n p pn epoch : Nat) (frame home : List Byte) (word : Nat) : (State.rxSquelch s c n p pn epoch frame home word).core = s.core := by simp [State.rxSquelch]

@[simp] theorem State.nackGap_core (s : State) (c hi : Nat) : (State.nackGap s c hi).core = s.core := by
  unfold State.nackGap
  dsimp only
  split
  · with_reducible rfl
  · rw [State.sendAck_core]
    exact (foldl_core _ (fun _ _ => by simp) _ _).trans (State.setChan_core _ _ _)

@[simp] theorem State.loseHeld_core (s : State) (c pn : Nat) : (State.loseHeld s c pn).core = s.core := by simp [State.loseHeld]

@[simp] theorem State.reorderUe_core (s : State) (c pn : Nat) : (State.reorderUe s c pn).core = s.core := by simp [State.reorderUe]

@[simp] theorem State.refill_core (c : Nat) : ∀ (k : Nat) (s : State), (State.refill s c k).core = s.core
  | 0, _ => rfl
  | k + 1, s => by
    unfold State.refill
    dsimp only
    split
    · rfl
    · split
      · exact State.refill_core c k _
      · rfl

@[simp] theorem State.refillRead_core (s : State) (c : Nat) (ue : Bool) : (State.refillRead s c ue).core = s.core := by
  unfold State.refillRead
  split
  · rfl
  · split <;> simp

@[simp] theorem State.handOn_core (s : State) (c : Nat) (ue : Bool) : (State.handOn s c ue).core = s.core := by simp [State.handOn]

@[simp] theorem State.noteEpoch_core (s : State) (c epoch pn : Nat) : (State.noteEpoch s c epoch pn).core = s.core := by simp [State.noteEpoch]

@[simp] theorem State.hintCredit_core (s : State) (c low : Nat) : (State.hintCredit s c low).core = s.core := by simp [State.hintCredit]

@[simp] theorem State.hint_core (s : State) (c piggy : Nat) : (State.hint s c piggy).core = s.core := by simp [State.hint]

@[simp] theorem State.rxAssured_core (s : State) (c g p n : Nat) (frame : List Byte) (k : KeySlot) (ue : Bool) : (State.rxAssured s c g p n frame k ue).core = s.core := by simp [State.rxAssured]

@[simp] theorem State.rxBest_core (s : State) (c p n : Nat) (frame : List Byte) (k : KeySlot) : (State.rxBest s c p n frame k).core = s.core := by simp [State.rxBest]

@[simp] theorem State.rxData_core (s : State) (c g p : Nat) (frame : List Byte) (lg : LgOutcome) : (State.rxData s c g p frame lg).core = s.core := by
  unfold State.rxData
  repeat' split
  all_goals simp

@[simp] theorem State.rxSecure_core (s : State) (c p n pn an : Nat) (frame : List Byte) (k : KeySlot) : (State.rxSecure s c p n pn an frame k).core = s.core := by simp [State.rxSecure]

@[simp] theorem State.rxMacsec_core (s : State) (g p : Nat) (frame : List Byte) (lg : LgOutcome) : (State.rxMacsec s g p frame lg).core = s.core := by
  unfold State.rxMacsec
  dsimp only
  repeat' split
  all_goals simp

@[simp] theorem State.unwait_core (s : State) (c : Nat) (pick : RxFrame → Bool) : (State.unwait s c pick).core = s.core := by
  unfold State.unwait
  dsimp only
  repeat' first | (with_reducible rfl) | (simp ; done) | (simp [State.pick_core ‹State.pick _ _ = _›]; done) | (simp [State.core]; done) | split | (dsimp only; split) | (refine (foldl_core _ (fun _ _ => ?_) _ _).trans ?_) | (simp ; refine (foldl_core _ (fun _ _ => ?_) _ _).trans ?_)

@[simp] theorem State.onAck_core (s : State) (c g n l : Nat) : (State.onAck s c g n l).core = s.core := by simp [State.onAck]

@[simp] theorem State.onNack_core (s : State) (c g p count : Nat) : (State.onNack s c g p count).core = s.core := by simp [State.onNack]

@[simp] theorem State.onVoid_core (s : State) (c g p u : Nat) : (State.onVoid s c g p u).core = s.core := by simp [State.onVoid]

@[simp] theorem State.onClose_core (s : State) (c m : Nat) : (State.onClose s c m).core = s.core := by simp [State.onClose]

@[simp] theorem State.onRecord_core (s : State) (g : Nat) (r : List Byte) : (State.onRecord s g r).core = s.core := by simp [State.onRecord]

@[simp] theorem State.refillPort_core (s : State) (p : Nat) : (State.refillPort s p).core = s.core := by
  unfold State.refillPort
  repeat' first | (with_reducible rfl) | (simp ; done) | (simp [State.core]; done) | split | (refine (foldl_core _ (fun _ _ => ?_) _ _).trans ?_) | (dsimp only; split) | (simp ; refine (foldl_core _ (fun _ _ => ?_) _ _).trans ?_)

@[simp] theorem State.select_core (s : State) (p : Nat) : (State.select s p).core = s.core := by
  unfold State.select
  dsimp only
  repeat' split
  all_goals simp

@[simp] theorem State.rxUe_core (s : State) (c p : Nat) (f : RxFrame) : (State.rxUe s c p f).core = s.core := by simp [State.rxUe]

@[simp] theorem State.released_core (s : State) (c p : Nat) (f : RxFrame) (out : List Byte) (ue : Bool) : (State.released s c p f out ue).core = s.core := by simp [State.released]

/-! Keys. -/

@[simp] theorem State.setChain_core (s : State) (ix e dir : Nat) (ck : List Byte) : (State.setChain s ix e dir ck).core = s.core := by simp [State.setChain]

@[simp] theorem State.keyInj_core (s : State) (d c k : Nat) : (State.keyInj s d c k).core = s.core := by
  unfold State.keyInj
  dsimp only
  repeat' first | (with_reducible rfl) | (simp ; done) | (simp [State.core]; done) | split | (dsimp only; split) | (refine (foldl_core _ (fun _ _ => ?_) _ _).trans ?_) | (simp ; refine (foldl_core _ (fun _ _ => ?_) _ _).trans ?_)

@[simp] theorem State.putKey_core (s : State) (w : HeldWrite) : (State.putKey s w).core = s.core := by simp [State.putKey]

@[simp] theorem State.writeKey_core (s : State) (w : HeldWrite) : (State.writeKey s w).core = s.core := by simp [State.writeKey]

@[simp] theorem State.sendKeyRecs_core (w msg n : Nat) : ∀ (k : Nat) (s : State) (recs : List (List Byte)), (State.sendKeyRecs s w msg n recs k).core = s.core
  | 0, _, _ => rfl
  | k + 1, s, recs => by
    unfold State.sendKeyRecs
    split
    · rfl
    · exact (State.sendKeyRecs_core w msg n k _ _).trans (State.control_core _ _ _ _)

@[simp] theorem State.sendNexts_core (s : State) (w : Nat) (cs : List Nat) : (State.sendNexts s w cs).core = s.core := by simp [State.sendNexts]

@[simp] theorem State.sendReady_core (s : State) (w c epoch : Nat) : (State.sendReady s w c epoch).core = s.core := by simp [State.sendReady]

@[simp] theorem State.afterPut_core (s : State) (w : HeldWrite) : (State.afterPut s w).core = s.core := by simp [State.afterPut]

@[simp] theorem State.answered_core (s : State) (xid : DWord) (n : Nat) : (State.answered s xid n).core = s.core := by simp [State.answered]

@[simp] theorem State.deriveTx_core (s : State) (c dir : Nat) (ck : List Byte) (ratchet : Bool) (xid : DWord) (at_ : Nat) : (State.deriveTx s c dir ck ratchet xid at_).core = s.core := by simp [State.deriveTx]

@[simp] theorem State.deriveRx_core (s : State) (c e dir : Nat) (ck : List Byte) (ratchet : Bool) (xid : DWord) : (State.deriveRx s c e dir ck ratchet xid).core = s.core := by simp [State.deriveRx]

@[simp] theorem State.onNext_core (s : State) (w g : Nat) (r : List Byte) : (State.onNext s w g r).core = s.core := by
  unfold State.onNext
  dsimp only
  repeat' split
  all_goals simp

@[simp] theorem State.onReady_core (s : State) (w : Nat) (r : List Byte) : (State.onReady s w r).core = s.core := by simp [State.onReady]

@[simp] theorem State.reseed_core (s : State) (i : Nat) : (State.reseed s i).core = s.core := by simp [State.reseed]

@[simp] theorem State.drbUse_core (s : State) (i : Nat) : (State.drbUse s i).core = s.core := by simp [State.drbUse]

@[simp] theorem State.rekeyMet_core (s : State) (w : Nat) : (State.rekeyMet s w).core = s.core := by
  unfold State.rekeyMet
  split <;> simp

@[simp] theorem State.startXch_core (s : State) (w : Nat) (chan : Option Nat) : (State.startXch s w chan).core = s.core := by simp [State.startXch]

@[simp] theorem State.startKeying_core (s : State) (w : Nat) : (State.startKeying s w).core = s.core := by simp [State.startKeying]

@[simp] theorem State.keyScan_core (s : State) (w : Nat) : (State.keyScan s w).core = s.core := by
  unfold State.keyScan
  dsimp only
  repeat' first | (with_reducible rfl) | (simp ; done) | (simp [State.core]; done) | split | (dsimp only; split) | (refine (foldl_core _ (fun _ _ => ?_) _ _).trans ?_) | (simp ; refine (foldl_core _ (fun _ _ => ?_) _ _).trans ?_)

@[simp] theorem State.keyScanAll_core (s : State) : (State.keyScanAll s).core = s.core := by
  unfold State.keyScanAll
  repeat' first | (with_reducible rfl) | (simp ; done) | (simp [State.core]; done) | split | (refine (foldl_core _ (fun _ _ => ?_) _ _).trans ?_) | (dsimp only; split) | (simp ; refine (foldl_core _ (fun _ _ => ?_) _ _).trans ?_)

@[simp] theorem State.failXch_core (s : State) (x : Xch) (reason : Nat) : (State.failXch s x reason).core = s.core := by simp [State.failXch]

@[simp] theorem State.abort_core (s : State) (w : Nat) (xid : DWord) (reason : Nat) : (State.abort s w xid reason).core = s.core := by simp [State.abort]

@[simp] theorem State.putPort__core (s : State) (p : Prk) : (State.putPort_ s p).core = s.core := by simp [State.putPort_]

@[simp] theorem State.switchPort_core (s : State) (w : Nat) : (State.switchPort s w).core = s.core := by
  unfold State.switchPort
  dsimp only
  repeat' first | (with_reducible rfl) | (simp ; done) | (simp [State.core]; done) | split | (dsimp only; split) | (refine (foldl_core _ (fun _ _ => ?_) _ _).trans ?_) | (simp ; refine (foldl_core _ (fun _ _ => ?_) _ _).trans ?_)

@[simp] theorem State.joinCheck_core (s : State) (w : Nat) : (State.joinCheck s w).core = s.core := by simp [State.joinCheck]

@[simp] theorem State.complete__core (s : State) (p : Prk) : (State.complete_ s p).core = s.core := by
  unfold State.complete_
  dsimp only
  repeat' first | (with_reducible rfl) | (simp ; done) | (simp [State.core]; done) | split | (dsimp only; split) | (refine (foldl_core _ (fun _ _ => ?_) _ _).trans ?_) | (simp ; refine (foldl_core _ (fun _ _ => ?_) _ _).trans ?_)

@[simp] theorem State.answerHello_core (s : State) (w : Nat) (chan : Option Nat) (xid : DWord) (m : List Byte) : (State.answerHello s w chan xid m).core = s.core := by simp [State.answerHello]

@[simp] theorem State.peerRestart_core (s : State) (w : Nat) : (State.peerRestart s w).core = s.core := by
  unfold State.peerRestart
  dsimp only
  repeat' first | (with_reducible rfl) | (simp ; done) | (simp [State.core]; done) | split | (dsimp only; split) | (refine (foldl_core _ (fun _ _ => ?_) _ _).trans ?_) | (simp ; refine (foldl_core _ (fun _ _ => ?_) _ _).trans ?_)

@[simp] theorem State.onHello_core (s : State) (w g : Nat) (clear : Bool) (m : List Byte) : (State.onHello s w g clear m).core = s.core := by
  unfold State.onHello
  dsimp only
  repeat' split
  all_goals simp

@[simp] theorem State.onReply_core (s : State) (w : Nat) (m : List Byte) : (State.onReply s w m).core = s.core := by
  unfold State.onReply
  dsimp only
  split <;> simp

@[simp] theorem State.onFinish_core (s : State) (w : Nat) (m : List Byte) : (State.onFinish s w m).core = s.core := by
  unfold State.onFinish
  dsimp only
  split <;> simp

@[simp] theorem State.portSwitch_core (s : State) (w : Nat) : (State.portSwitch s w).core = s.core := by
  unfold State.portSwitch
  dsimp only
  repeat' split
  all_goals simp

@[simp] theorem State.onAbort_core (s : State) (w : Nat) (m : List Byte) : (State.onAbort s w m).core = s.core := by
  unfold State.onAbort
  dsimp only
  split <;> simp

@[simp] theorem State.onKeyMsg_core (s : State) (w g msg : Nat) (clear : Bool) (m : List Byte) : (State.onKeyMsg s w g msg clear m).core = s.core := by
  unfold State.onKeyMsg
  dsimp only
  repeat' first | (with_reducible rfl) | (simp ; done) | (simp [State.core]; done) | split | (dsimp only; split) | (refine (foldl_core _ (fun _ _ => ?_) _ _).trans ?_) | (simp ; refine (foldl_core _ (fun _ _ => ?_) _ _).trans ?_)

@[simp] theorem State.rekeyChan_core (s : State) (c : Nat) : (State.rekeyChan s c).core = s.core := by
  unfold State.rekeyChan
  dsimp only
  repeat' split
  all_goals simp

@[simp] theorem State.ratchet_core (s : State) (c : Nat) : (State.ratchet s c).core = s.core := by simp [State.ratchet]

theorem execPathUp_core {g : Fin 8} {s : State} {t : State} (h : execPathUp g s = .next t) : t.core = s.core := by
  unfold execPathUp at h
  repeat' first | (cases h; done) | (cases h; (with_reducible rfl)) | (cases h; (simp ; done)) | split at h | (dsimp only at h; split at h) | cases h | (with_reducible rfl) | (simp ; done) | split | (refine (foldl_core _ (fun _ _ => ?_) _ _).trans ?_) | (dsimp only; split) | (simp ; refine (foldl_core _ (fun _ _ => ?_) _ _).trans ?_)

theorem execHardExpiry_core {c : Fin 8192} {s : State} {t : State} (h : execHardExpiry c s = .next t) : t.core = s.core := by
  unfold execHardExpiry at h
  dsimp only at h
  split at h
  all_goals simp only [Host.Outcome.next.injEq] at h; subst h; simp

theorem execRekeyDue_core {c : Fin 8192} {s : State} {t : State} (h : execRekeyDue c s = .next t) : t.core = s.core := by
  simp only [execRekeyDue, Host.Outcome.next.injEq] at h
  subst h
  simp

theorem execRefreshDue_core {c : Fin 8192} {s : State} {t : State} (h : execRefreshDue c s = .next t) : t.core = s.core := by
  simp only [execRefreshDue, Host.Outcome.next.injEq] at h
  subst h
  simp

theorem execRatchetDue_core {c : Fin 8192} {s : State} {t : State} (h : execRatchetDue c s = .next t) : t.core = s.core := by
  simp only [execRatchetDue, Host.Outcome.next.injEq] at h
  subst h
  simp

theorem execPortRekeyDue_core {g : Fin 8} {s : State} {t : State} (h : execPortRekeyDue g s = .next t) : t.core = s.core := by
  simp only [execPortRekeyDue, Host.Outcome.next.injEq] at h
  subst h
  simp

@[simp] theorem State.startHeldPeer_core (s : State) (w : Nat) : (State.startHeldPeer s w).core = s.core := by
  unfold State.startHeldPeer
  dsimp only
  repeat' first | (with_reducible rfl) | (simp ; done) | (simp [State.core]; done) | split | (dsimp only; split) | (refine (foldl_core _ (fun _ _ => ?_) _ _).trans ?_) | (simp ; refine (foldl_core _ (fun _ _ => ?_) _ _).trans ?_)

theorem execHeldKeyingResume_core {g : Fin 8} {s : State} {t : State} (h : execHeldKeyingResume g s = .next t) : t.core = s.core := by
  unfold execHeldKeyingResume at h
  repeat' first | (cases h; done) | (cases h; (with_reducible rfl)) | (cases h; (simp ; done)) | split at h | (dsimp only at h; split at h) | cases h | (with_reducible rfl) | (simp ; done) | split | (refine (foldl_core _ (fun _ _ => ?_) _ _).trans ?_) | (dsimp only; split) | (simp ; refine (foldl_core _ (fun _ _ => ?_) _ _).trans ?_)

theorem execExchangeRetry_core {xid : DWord} {s : State} {t : State} (h : execExchangeRetry xid s = .next t) : t.core = s.core := by
  unfold execExchangeRetry at h
  repeat' split at h
  all_goals simp only [Host.Outcome.next.injEq] at h; subst h; simp

theorem execKeyingBackoffExpiry_core {g : Fin 8} {s : State} {t : State} (h : execKeyingBackoffExpiry g s = .next t) : t.core = s.core := by
  simp only [execKeyingBackoffExpiry, Host.Outcome.next.injEq] at h
  subst h
  simp

theorem execBusyRetry_core {g : Fin 8} {chan : Option (Fin 8192)} {s : State} {t : State} (h : execBusyRetry g chan s = .next t) : t.core = s.core := by
  unfold execBusyRetry at h
  dsimp only at h
  split at h
  all_goals simp only [Host.Outcome.next.injEq] at h; subst h; simp

theorem execNextRepeat_core {g : Fin 8} {s : State} {t : State} (h : execNextRepeat g s = .next t) : t.core = s.core := by
  simp only [execNextRepeat, Host.Outcome.next.injEq] at h
  subst h
  simp

theorem execPrkErase_core {xid : DWord} {s : State} {t : State} (h : execPrkErase xid s = .next t) : t.core = s.core := by
  simp only [execPrkErase, Host.Outcome.next.injEq] at h
  subst h
  simp

theorem execHeldKeyWriteComplete_core {d : Dir} {c : Fin 8192} {s : State} {t : State} (h : execHeldKeyWriteComplete d c s = .next t) : t.core = s.core := by
  unfold execHeldKeyWriteComplete at h
  dsimp only at h
  split at h
  all_goals simp only [Host.Outcome.next.injEq] at h; subst h; simp

theorem execEpochPromotion_core {c : Fin 8192} {s : State} {t : State} (h : execEpochPromotion c s = .next t) : t.core = s.core := by
  unfold execEpochPromotion at h
  dsimp only at h
  repeat' split at h
  all_goals simp only [Host.Outcome.next.injEq] at h; subst h; simp

@[simp] theorem State.rescan_core (s t : State) (c : Nat) : (State.rescan s t c).core = t.core := by
  unfold State.rescan
  split <;> simp

theorem execHomeHoldFetch_core {c : Fin 8192} {rd : FetchRead} {s : State} {t : State} (h : execHomeHoldFetch c rd s = .next t) : t.core = s.core := by
  simp only [execHomeHoldFetch, Host.Outcome.next.injEq] at h
  subst h
  simp

theorem execSendDataFrame_rest {c : Fin 8192} {cut : Option (Fin 32)} {lg : LgOutcome} {ue : Bool} {s : State} {t : State} (h : execSendDataFrame c cut lg ue s = .next t) : t.core.2 = s.core.2 := by
  unfold execSendDataFrame at h
  split at h
  all_goals simp only [Host.Outcome.next.injEq] at h; subst h; simp

theorem execSendDataFrame_wf {c : Fin 8192} {cut : Option (Fin 32)} {lg : LgOutcome} {ue : Bool} {s : State} {t : State} (h : execSendDataFrame c cut lg ue s = .next t) (hw : Memory.wf s.core.1 = true) : Memory.wf t.core.1 = true := by
  unfold execSendDataFrame at h
  split at h
  all_goals simp only [Host.Outcome.next.injEq] at h; subst h; simp (maxDischargeDepth := 9) [hw]

theorem execRetransmit_rest {c : Fin 8192} {rd : RetRead} {s : State} {t : State} (h : execRetransmit c rd s = .next t) : t.core.2 = s.core.2 := by
  simp only [execRetransmit, Host.Outcome.next.injEq] at h
  subst h
  simp

theorem execRetransmit_wf {c : Fin 8192} {rd : RetRead} {s : State} {t : State} (h : execRetransmit c rd s = .next t) (hw : Memory.wf s.core.1 = true) : Memory.wf t.core.1 = true := by
  simp only [execRetransmit, Host.Outcome.next.injEq] at h
  subst h
  simp (maxDischargeDepth := 9) [hw]

theorem execTailTimer_rest {c : Fin 8192} {rd : RetRead} {s : State} {t : State} (h : execTailTimer c rd s = .next t) : t.core.2 = s.core.2 := by
  simp only [execTailTimer, Host.Outcome.next.injEq] at h
  subst h
  simp

theorem execTailTimer_wf {c : Fin 8192} {rd : RetRead} {s : State} {t : State} (h : execTailTimer c rd s = .next t) (hw : Memory.wf s.core.1 = true) : Memory.wf t.core.1 = true := by
  simp only [execTailTimer, Host.Outcome.next.injEq] at h
  subst h
  simp (maxDischargeDepth := 9) [hw]

theorem execClosePeer_core {g : Fin 8} {s : State} {t : State} (h : execClosePeer g s = .next t) : t.core = s.core := by
  unfold execClosePeer at h
  rcases gateO_cases h with h | h
  · repeat' first | (cases h; done) | (cases h; (with_reducible rfl)) | (cases h; (simp ; done)) | split at h | (dsimp only at h; split at h) | cases h | (with_reducible rfl) | (simp ; done) | split | (refine (foldl_core _ (fun _ _ => ?_) _ _).trans ?_) | (dsimp only; split) | (simp ; refine (foldl_core _ (fun _ _ => ?_) _ _).trans ?_)
  · exact h

/-! Seal. -/

@[simp] theorem State.latchCause_core (s : State) (kind detail : Nat) (inj erased : Bool) : (State.latchCause s kind detail inj erased).core = s.core := by simp [State.latchCause]

@[simp] theorem State.sealErase_core (s : State) : (State.sealErase s).core = s.core := by
  unfold State.sealErase
  dsimp only
  repeat' first | (with_reducible rfl) | (simp ; done) | (simp [State.core]; done) | split | (dsimp only; split) | (refine (foldl_core _ (fun _ _ => ?_) _ _).trans ?_) | (simp ; refine (foldl_core _ (fun _ _ => ?_) _ _).trans ?_)

@[simp] theorem State.cutFrames_core (s : State) : (State.cutFrames s).core = s.core := by
  unfold State.cutFrames
  dsimp only
  repeat' first | (with_reducible rfl) | (simp ; done) | (simp [State.core]; done) | split | (dsimp only; split) | (refine (foldl_core _ (fun _ _ => ?_) _ _).trans ?_) | (simp ; refine (foldl_core _ (fun _ _ => ?_) _ _).trans ?_)

@[simp] theorem State.markEmber_core (s : State) : (State.markEmber s).core = s.core := by
  unfold State.markEmber
  split <;> rfl

@[simp] theorem State.causeMerge_core (s : State) (kind detail : Nat) : (State.causeMerge s kind detail).core = s.core := by
  simp only [State.causeMerge]
  repeat' first | (with_reducible rfl) | (simp ; done) | split

@[simp] theorem State.addCause_core (s : State) (kind detail : Nat) (inj : Bool) : (State.addCause s kind detail inj).core = s.core := by
  simp only [State.addCause]
  repeat' first | (with_reducible rfl) | (simp ; done) | split

@[simp] theorem State.sealOci_core (s : State) : (State.sealOci s).core = s.core := by
  simp only [State.sealOci]
  refine foldl_core _ (fun _ _ => foldl_core _ (fun _ _ => ?_) _ _) _ _
  split <;> simp

@[simp] theorem State.monitorsBack_core (s : State) : (State.monitorsBack s).core = s.core := by
  simp only [State.monitorsBack]
  repeat' first | (with_reducible rfl) | (simp ; done) | split

@[simp] theorem State.seal__rest (s : State) (kind detail : Nat) (inj : Bool) : (State.seal_ s kind detail inj).core.2 = s.core.2 := by
  unfold State.seal_
  split <;> simp

@[simp] theorem State.seal__wf (s : State) (kind detail : Nat) (inj : Bool) (hw : Memory.wf s.core.1 = true) : Memory.wf (State.seal_ s kind detail inj).core.1 = true := by
  unfold State.seal_
  split <;> simp (maxDischargeDepth := 9) [hw]

@[simp] theorem State.sealFault_rest (s : State) (n : Nat) (inj : Bool) : (State.sealFault s n inj).core.2 = s.core.2 := by simp [State.sealFault]

@[simp] theorem State.sealFault_wf (s : State) (n : Nat) (inj : Bool) (hw : Memory.wf s.core.1 = true) : Memory.wf (State.sealFault s n inj).core.1 = true := by simp (maxDischargeDepth := 9) [State.sealFault, *]

@[simp] theorem State.fault_rest (s : State) (pb b : Nat) : (State.fault s pb b).core.2 = s.core.2 := by
  unfold State.fault
  repeat' split
  all_goals simp

@[simp] theorem State.fault_wf (s : State) (pb b : Nat) (hw : Memory.wf s.core.1 = true) : Memory.wf (State.fault s pb b).core.1 = true := by
  unfold State.fault
  repeat' split
  all_goals simp (maxDischargeDepth := 9) [hw]

@[simp] theorem State.eraseStores_rest (s : State) (retire : Bool) : (State.eraseStores s retire).core.2 = s.core.2 := (rfl)

@[simp] theorem State.eraseStores_wf (s : State) (retire : Bool) (hw : Memory.wf s.core.1 = true) : Memory.wf (State.eraseStores s retire).core.1 = true := memErase_wf _ _ _ (memErase_wf _ _ _ hw)

@[simp] theorem State.zeroizeStores_rest (s : State) (retire : Bool) : (State.zeroizeStores s retire).core.2 = s.core.2 := by
  unfold State.zeroizeStores
  refine (State.eraseStores_rest _ _).trans ?_
  refine (foldl_rest _ (fun _ _ => by simp) _ _).trans ?_
  exact (foldl_rest _ (fun _ _ => by simp) _ _).trans (State.endSealed_rest _ _)

@[simp] theorem State.zeroizeStores_wf (s : State) (retire : Bool) (hw : Memory.wf s.core.1 = true) : Memory.wf (State.zeroizeStores s retire).core.1 = true := by
  unfold State.zeroizeStores
  refine State.eraseStores_wf _ _ ?_
  refine foldl_wf _ (fun _ _ h => by simp [h]) _ _ ?_
  exact foldl_wf _ (fun _ _ h => by simp [h]) _ _ (State.endSealed_wf _ _ hw)

@[simp] theorem State.zeroize__rest (s : State) (reason : Nat) (retire : Bool) : (State.zeroize_ s reason retire).core.2 = s.core.2 := by
  unfold State.zeroize_
  split <;> simp

@[simp] theorem State.zeroize__wf (s : State) (reason : Nat) (retire : Bool) (hw : Memory.wf s.core.1 = true) : Memory.wf (State.zeroize_ s reason retire).core.1 = true := by
  unfold State.zeroize_
  split <;> simp (maxDischargeDepth := 9) [hw]

@[simp] theorem State.tamper_rest (s : State) (sensor : Nat) (inj : Bool) : (State.tamper s sensor inj).core.2 = s.core.2 := by
  unfold State.tamper
  dsimp only
  repeat' split
  all_goals simp

@[simp] theorem State.tamper_wf (s : State) (sensor : Nat) (inj : Bool) (hw : Memory.wf s.core.1 = true) : Memory.wf (State.tamper s sensor inj).core.1 = true := by
  unfold State.tamper
  dsimp only
  repeat' split
  all_goals simp (maxDischargeDepth := 9) [hw]

theorem execZeroizeNAssert_rest {s : State} {t : State} (h : execZeroizeNAssert s = .next t) : t.core.2 = s.core.2 := by
  unfold execZeroizeNAssert at h
  split at h
  all_goals simp only [Host.Outcome.next.injEq] at h; subst h; simp

theorem execZeroizeNAssert_wf {s : State} {t : State} (h : execZeroizeNAssert s = .next t) (hw : Memory.wf s.core.1 = true) : Memory.wf t.core.1 = true := by
  unfold execZeroizeNAssert at h
  split at h
  all_goals simp only [Host.Outcome.next.injEq] at h; subst h; simp (maxDischargeDepth := 9) [hw]

theorem execTamperCheck_rest {n : Fin 4} {sns : Bool} {s : State} {t : State} (h : execTamperCheck n sns s = .next t) : t.core.2 = s.core.2 := by
  simp only [execTamperCheck] at h
  cases h
  repeat' split
  all_goals first | exact (State.tamper_rest _ _ _).trans rfl | rfl

theorem execTamperCheck_wf {n : Fin 4} {sns : Bool} {s : State} {t : State} (h : execTamperCheck n sns s = .next t) (hw : Memory.wf s.core.1 = true) : Memory.wf t.core.1 = true := by
  simp only [execTamperCheck] at h
  cases h
  repeat' split
  all_goals first | exact State.tamper_wf _ _ _ hw | exact hw

theorem execTamperTrip_rest {sensor : Fin 7} {s : State} {t : State} (h : execTamperTrip sensor s = .next t) : t.core.2 = s.core.2 := by
  simp only [execTamperTrip, Host.Outcome.next.injEq] at h
  subst h
  simp

theorem execTamperTrip_wf {sensor : Fin 7} {s : State} {t : State} (h : execTamperTrip sensor s = .next t) (hw : Memory.wf s.core.1 = true) : Memory.wf t.core.1 = true := by
  simp only [execTamperTrip, Host.Outcome.next.injEq] at h
  subst h
  simp (maxDischargeDepth := 9) [hw]

theorem execZeroizeComplete_core {readBackZero : Bool} {s : State} {t : State} (h : execZeroizeComplete readBackZero s = .next t) : t.core = s.core := by
  unfold execZeroizeComplete at h
  split at h
  all_goals simp only [Host.Outcome.next.injEq] at h; subst h; simp

theorem execSealCmd_rest {v : Word} {s : State} {t : State} (h : execSealCmd v s = .next t) : t.core.2 = s.core.2 := by
  simp only [execSealCmd] at h
  rcases gateO_cases h with h | h
  · repeat' first | (cases h; done) | (cases h; (with_reducible rfl)) | (cases h; (simp ; done)) | split at h
  · exact congrArg Prod.snd h

theorem execSealCmd_wf {v : Word} {s : State} {t : State} (h : execSealCmd v s = .next t) (hw : Memory.wf s.core.1 = true) : Memory.wf t.core.1 = true := by
  simp only [execSealCmd] at h
  rcases gateO_cases h with h | h
  · repeat' first | (cases h; done) | (cases h; (with_reducible assumption)) | (cases h; (simp (maxDischargeDepth := 9) [*]; done)) | split at h
  · rw [h]; exact hw

theorem execCauseClear_core {s : State} {t : State} (h : execCauseClear s = .next t) : t.core = s.core := by
  unfold execCauseClear at h
  split at h
  all_goals simp only [Host.Outcome.next.injEq] at h; subst h; simp

theorem execCollectorSelftest_rest {inputsOk driveA driveB : Bool} {s : State} {t : State} (h : execCollectorSelftest inputsOk driveA driveB s = .next t) : t.core.2 = s.core.2 := by
  unfold execCollectorSelftest at h
  dsimp only at h
  repeat' split at h
  all_goals simp only [Host.Outcome.next.injEq] at h; subst h; simp

theorem execCollectorSelftest_wf {inputsOk driveA driveB : Bool} {s : State} {t : State} (h : execCollectorSelftest inputsOk driveA driveB s = .next t) (hw : Memory.wf s.core.1 = true) : Memory.wf t.core.1 = true := by
  unfold execCollectorSelftest at h
  dsimp only at h
  repeat' split at h
  all_goals simp only [Host.Outcome.next.injEq] at h; subst h; simp (maxDischargeDepth := 9) [hw]

theorem execProofArm_core {v : Word} {s : State} {t : State} (h : execProofArm v s = .next t) : t.core = s.core := by
  simp only [execProofArm] at h
  rcases gateO_cases h with h | h
  · repeat' first | (cases h; done) | (cases h; (with_reducible rfl)) | (cases h; (simp ; done)) | split at h
  · exact h

theorem execProofArmExpiry_core {s : State} {t : State} (h : execProofArmExpiry s = .next t) : t.core = s.core := by
  simp only [execProofArmExpiry, Host.Outcome.next.injEq] at h
  subst h
  simp

/-! Lanes. -/

@[simp] theorem State.takeRole_rest (s : State) (d n from_ : Nat) : (State.takeRole s d n from_).core.2 = s.core.2 := by
  unfold State.takeRole
  dsimp only
  repeat' first | (with_reducible rfl) | (simp ; done) | (simp [State.core]; done) | split | (dsimp only; split) | (refine (foldl_rest _ (fun _ _ => ?_) _ _).trans ?_) | (simp ; refine (foldl_rest _ (fun _ _ => ?_) _ _).trans ?_)

@[simp] theorem State.takeRole_wf (s : State) (d n from_ : Nat) (hw : Memory.wf s.core.1 = true) : Memory.wf (State.takeRole s d n from_).core.1 = true := by
  unfold State.takeRole
  dsimp only
  repeat' first | (with_reducible assumption) | (simp (maxDischargeDepth := 9) [*]; done) | (simp (maxDischargeDepth := 9) [*, State.core]; done) | split | (dsimp only; split) | (refine foldl_wf _ (fun _ _ _ => ?_) _ _ ?_) | (simp (maxDischargeDepth := 9) [*]; refine foldl_wf _ (fun _ _ _ => ?_) _ _ ?_)

theorem execSpareSwitchIn_rest {d : Dir} {n : Fin 9} {s : State} {t : State} (h : execSpareSwitchIn d n s = .next t) : t.core.2 = s.core.2 := by
  unfold execSpareSwitchIn at h
  repeat' split at h
  all_goals simp only [Host.Outcome.next.injEq] at h; subst h; simp

theorem execSpareSwitchIn_wf {d : Dir} {n : Fin 9} {s : State} {t : State} (h : execSpareSwitchIn d n s = .next t) (hw : Memory.wf s.core.1 = true) : Memory.wf t.core.1 = true := by
  unfold execSpareSwitchIn at h
  repeat' split at h
  all_goals simp only [Host.Outcome.next.injEq] at h; subst h; simp (maxDischargeDepth := 9) [hw]

theorem execUnitWarm_rest {d : Dir} {n : Fin 9} {s : State} {t : State} (h : execUnitWarm d n s = .next t) : t.core.2 = s.core.2 := by
  unfold execUnitWarm at h
  dsimp only at h
  repeat' split at h
  all_goals simp only [Host.Outcome.next.injEq] at h; subst h; simp

theorem execUnitWarm_wf {d : Dir} {n : Fin 9} {s : State} {t : State} (h : execUnitWarm d n s = .next t) (hw : Memory.wf s.core.1 = true) : Memory.wf t.core.1 = true := by
  unfold execUnitWarm at h
  dsimp only at h
  repeat' split at h
  all_goals simp only [Host.Outcome.next.injEq] at h; subst h; simp (maxDischargeDepth := 9) [hw]

theorem execLeakGuardSelftest_rest {d : Dir} {n : Fin 9} {detected : Bool} {s : State} {t : State} (h : execLeakGuardSelftest d n detected s = .next t) : t.core.2 = s.core.2 := by
  unfold execLeakGuardSelftest at h
  dsimp only at h
  repeat' split at h
  all_goals simp only [Host.Outcome.next.injEq] at h; subst h; simp

theorem execLeakGuardSelftest_wf {d : Dir} {n : Fin 9} {detected : Bool} {s : State} {t : State} (h : execLeakGuardSelftest d n detected s = .next t) (hw : Memory.wf s.core.1 = true) : Memory.wf t.core.1 = true := by
  unfold execLeakGuardSelftest at h
  dsimp only at h
  repeat' split at h
  all_goals simp only [Host.Outcome.next.injEq] at h; subst h; simp (maxDischargeDepth := 9) [hw]

theorem execKeySlotRewrite_rest {d : Dir} {n : Fin 9} {c : Fin 8192} {slot : Fin 2} {kcvOk : Bool} {s : State} {t : State} (h : execKeySlotRewrite d n c slot kcvOk s = .next t) : t.core.2 = s.core.2 := by
  unfold execKeySlotRewrite at h
  dsimp only at h
  repeat' split at h
  all_goals simp only [Host.Outcome.next.injEq] at h; subst h; simp

theorem execKeySlotRewrite_wf {d : Dir} {n : Fin 9} {c : Fin 8192} {slot : Fin 2} {kcvOk : Bool} {s : State} {t : State} (h : execKeySlotRewrite d n c slot kcvOk s = .next t) (hw : Memory.wf s.core.1 = true) : Memory.wf t.core.1 = true := by
  unfold execKeySlotRewrite at h
  dsimp only at h
  repeat' split at h
  all_goals simp only [Host.Outcome.next.injEq] at h; subst h; simp (maxDischargeDepth := 9) [hw]

theorem execMmClear_core {d : Dir} {n : Fin 9} {v : Word} {s : State} {t : State} (h : execMmClear d n v s = .next t) : t.core = s.core := by
  simp only [execMmClear] at h
  rcases gateO_cases h with h | h
  · repeat' first | (cases h; done) | (cases h; (with_reducible rfl)) | (cases h; (simp ; done)) | split at h
  · exact h

theorem State.drawBlock_core {s : State} {t : Nat × State} (h : State.drawBlock s = t) : t.2.core = s.core := by
  subst h
  unfold State.drawBlock
  simp

theorem State.announce_core {s : State} {c b e : Nat} {t : Nat × Nat × Bool × State} (h : State.announce s c b e = t) : t.2.2.2.core = s.core := by
  subst h
  unfold State.announce
  dsimp only
  split <;> simp [State.drawBlock, State.drbUse, State.drawn]

@[simp] theorem State.putBlock_core (s : State) (c lane b e nb ne : Nat) (opens : Bool) (payload ohd tag : List Byte) (void : Bool) : (State.putBlock s c lane b e nb ne opens payload ohd tag void).core = s.core := by simp [State.putBlock]

@[simp] theorem State.blockUse_core (s : State) (c e : Nat) (k : KeySlot) : (State.blockUse s c e k).core = s.core := by simp [State.blockUse]

@[simp] theorem State.sendBlock_core (s : State) (c lane n b e nb ne : Nat) (opens : Bool) (payload ohd : List Byte) (lg : LgOutcome) : (State.sendBlock s c lane n b e nb ne opens payload ohd lg).core = s.core := by
  unfold State.sendBlock
  dsimp only
  repeat' split
  all_goals simp

@[simp] theorem State.laneBlock_core (s : State) (c lane b e nb ne : Nat) (opens : Bool) (payload ohd : List Byte) (lg : LgOutcome) : (State.laneBlock s c lane b e nb ne opens payload ohd lg).core = s.core := by
  unfold State.laneBlock
  split <;> simp

theorem State.firstBlock_core {s : State} {c : Nat} {t : Nat × Nat × State} (h : State.firstBlock s c = some t) : t.2.2.core = s.core := by
  unfold State.firstBlock at h
  dsimp only at h
  split at h
  · cases h; rfl
  · split at h
    · cases h; exact State.drawBlock_core (t := s.drawBlock) rfl
    · cases h

@[simp] theorem State.ttiIn_core (s : State) (strait : Bool) (g : Nat) (l : List Byte) : (State.ttiIn s strait g l).core = s.core := by
  have hf : ∀ s : State, ((List.range 16).foldl (fun s i => s.setReg (pPort strait g + 0x240 + 4 * i) (wordAt l i)) s).core = s.core :=
    foldl_core _ (fun _ _ => by simp) _
  unfold State.ttiIn
  dsimp only
  repeat' split
  all_goals simp [hf]

@[simp] theorem State.smIn_core (s : State) (strait : Bool) (g lane : Nat) (m : SmRead) : (State.smIn s strait g lane m).core = s.core := by
  unfold State.smIn
  dsimp only
  split
  · refine (foldl_core _ (fun _ _ => ?_) _ _).trans ?_ <;> simp
  · simp

@[simp] theorem State.sendLane_core (s : State) (c lane : Nat) (block : LaneBlock) : (State.sendLane s c lane block).core = s.core := by
  have hA : ∀ (s : State) b e, (s.announce c b e).2.2.2.core = s.core := fun s b e => State.announce_core (Eq.refl _)
  unfold State.sendLane
  dsimp only
  split
  · split
    · rfl
    · rename_i e
      simp [hA, State.firstBlock_core e]
  · split
    · simp
    · rfl

theorem execSealBlockTx_core {c : Fin 8192} {lane : Fin 2} {block : LaneBlock} {s : State} {t : State} (h : execSealBlockTx c lane block s = .next t) : t.core = s.core := by
  unfold execSealBlockTx at h
  dsimp only at h
  split at h
  all_goals cases h; simp

@[simp] theorem State.checkTag_core (s : State) (c lane unit : Nat) (tag : List Byte) (void : Bool) : (State.checkTag s c lane unit tag void).core = s.core := by simp [State.checkTag]

@[simp] theorem State.homeBlock_core (s : State) (c lane : Nat) (payload ohd : List Byte) : (State.homeBlock s c lane payload ohd).core = s.core := by simp [State.homeBlock]

theorem State.openBlock_core {s : State} {c l n b e : Nat} {k : KeySlot} {payload ohd : List Byte} {lg : LgOutcome} {t : State × List Byte} (h : State.openBlock s c l n b e k payload ohd lg = t) : t.1.core = s.core := by
  subst h
  unfold State.openBlock
  dsimp only
  split <;> simp

@[simp] theorem State.takeLane_core (s : State) (c l : Nat) (block : LaneBlock) (field : List Byte) : (State.takeLane s c l block field).core = s.core := by
  have hO : ∀ (s : State) c l n b e k p o lg, (s.openBlock c l n b e k p o lg).1.core = s.core :=
    fun s c l n b e k p o lg => State.openBlock_core (Eq.refl _)
  unfold State.takeLane
  dsimp only
  rw [State.setStream_core]
  repeat' split
  all_goals simp [hO]

theorem execSealBlockRx_core {c : Fin 8192} {lane : Fin 2} {block : LaneBlock} {field : List Byte} {s : State} {t : State} (h : execSealBlockRx c lane block field s = .next t) : t.core = s.core := by
  unfold execSealBlockRx at h
  dsimp only at h
  split at h
  all_goals cases h; simp

/-! Time. -/

@[simp] theorem State.kilnTick_core (s : State) (k : Nat) : (State.kilnTick s k).core = s.core := by simp [State.kilnTick]

@[simp] theorem State.tick_core (s : State) : (State.tick s).core = s.core := by
  unfold State.tick
  dsimp only
  repeat' first | (with_reducible rfl) | (simp ; done) | (simp [State.core]; done) | split | (dsimp only; split) | (refine (foldl_core _ (fun _ _ => ?_) _ _).trans ?_) | (simp ; refine (foldl_core _ (fun _ _ => ?_) _ _).trans ?_)

@[simp] theorem State.setTod_core (s : State) (t : Nat) : (State.setTod s t).core = s.core := by simp [State.setTod]

theorem execTodStep_core {a : Agent} {v : Word} {s : State} {t : State} (h : execTodStep a v s = .next t) : t.core = s.core := by
  simp only [execTodStep] at h
  rcases gateA_cases h with h | h
  · repeat' first | (cases h; done) | (cases h; (with_reducible rfl)) | (cases h; (simp ; done)) | split at h
  · exact h

@[simp] theorem State.loadTod_core (s : State) (v : Word) : (State.loadTod s v).core = s.core := by simp [State.loadTod]

theorem execTodLoad_core {a : Agent} {v : Word} {s : State} {t : State} (h : execTodLoad a v s = .next t) : t.core = s.core := by
  simp only [execTodLoad] at h
  rcases gateA_cases h with h | h
  · repeat' first | (cases h; done) | (cases h; (with_reducible rfl)) | (cases h; (simp ; done)) | split at h
  · exact h

theorem execRateWrite_core {a : Agent} {v : Word} {s : State} {t : State} (h : execRateWrite a v s = .next t) : t.core = s.core := by
  simp only [execRateWrite] at h
  rcases gateA_cases h with h | h
  · repeat' first | (cases h; done) | (cases h; (with_reducible rfl)) | (cases h; (simp ; done)) | split at h
  · exact h

theorem execPpsOutEdge_core {s : State} {t : State} (h : execPpsOutEdge s = .next t) : t.core = s.core := by
  unfold execPpsOutEdge at h
  split at h
  all_goals simp only [Host.Outcome.next.injEq] at h; subst h; simp

theorem execPpsOutPulseEnd_core {s : State} {t : State} (h : execPpsOutPulseEnd s = .next t) : t.core = s.core := by
  unfold execPpsOutPulseEnd at h
  split at h
  all_goals simp only [Host.Outcome.next.injEq] at h; subst h; simp

theorem execPpsInEdge_core {s : State} {t : State} (h : execPpsInEdge s = .next t) : t.core = s.core := by
  unfold execPpsInEdge at h
  dsimp only at h
  repeat' split at h
  all_goals simp only [Host.Outcome.next.injEq] at h; subst h; simp

theorem execPpsMiss_core {s : State} {t : State} (h : execPpsMiss s = .next t) : t.core = s.core := by
  unfold execPpsMiss at h
  split at h
  all_goals simp only [Host.Outcome.next.injEq] at h; subst h; simp

theorem execPpsInNsRead_core {s : State} {t : State} (h : execPpsInNsRead s = .next t) : t.core = s.core := by
  simp only [execPpsInNsRead, Host.Outcome.next.injEq] at h
  subst h
  simp

/-! Ports. -/

@[simp] theorem State.cutArrival_rest (s : State) (p : Nat) : (State.cutArrival s p).core.2 = s.core.2 := by
  unfold State.cutArrival
  dsimp only
  split <;> simp

@[simp] theorem State.cutArrival_wf (s : State) (p : Nat) (hw : Memory.wf s.core.1 = true) : Memory.wf (State.cutArrival s p).core.1 = true := by
  unfold State.cutArrival
  dsimp only
  split <;> simp (maxDischargeDepth := 9) [hw]

@[simp] theorem State.cutSent_core (s : State) (p : Nat) : (State.cutSent s p).core = s.core := by
  unfold State.cutSent
  refine foldl_core _ (fun s h => ?_) _ _
  split
  · split <;> simp
  · rfl

@[simp] theorem State.sendOci_core (s : State) (strait : Bool) (g : Nat) : (State.sendOci s strait g).core = s.core := by
  unfold State.sendOci
  split <;> simp

@[simp] theorem State.portDown_rest (s : State) (strait : Bool) (p : Nat) : (State.portDown s strait p).core.2 = s.core.2 := by
  unfold State.portDown
  dsimp only
  repeat' split
  all_goals simp

@[simp] theorem State.portDown_wf (s : State) (strait : Bool) (p : Nat) (hw : Memory.wf s.core.1 = true) : Memory.wf (State.portDown s strait p).core.1 = true := by
  unfold State.portDown
  dsimp only
  repeat' split
  all_goals simp (maxDischargeDepth := 9) [hw]

theorem execLinkBringupStep_core {side : Side} {p : Fin 32} {success : Bool} {s : State} {t : State} (h : execLinkBringupStep side p success s = .next t) : t.core = s.core := by
  unfold execLinkBringupStep at h
  dsimp only at h
  repeat' split at h
  all_goals simp only [Host.Outcome.next.injEq] at h; subst h; simp

theorem execAlignmentTimeout_core {side : Side} {p : Fin 32} {s : State} {t : State} (h : execAlignmentTimeout side p s = .next t) : t.core = s.core := by
  simp only [execAlignmentTimeout, Host.Outcome.next.injEq] at h
  subst h
  simp

theorem execLinkUp_core {side : Side} {p : Fin 32} {s : State} {t : State} (h : execLinkUp side p s = .next t) : t.core = s.core := by
  simp only [execLinkUp, Host.Outcome.next.injEq] at h
  subst h
  simp

theorem execLinkDown_rest {side : Side} {p : Fin 32} {s : State} {t : State} (h : execLinkDown side p s = .next t) : t.core.2 = s.core.2 := by
  simp only [execLinkDown, Host.Outcome.next.injEq] at h
  subst h
  simp

theorem execLinkDown_wf {side : Side} {p : Fin 32} {s : State} {t : State} (h : execLinkDown side p s = .next t) (hw : Memory.wf s.core.1 = true) : Memory.wf t.core.1 = true := by
  simp only [execLinkDown, Host.Outcome.next.injEq] at h
  subst h
  simp (maxDischargeDepth := 9) [hw]

theorem execPortCntClear_core {side : Side} {g : Fin 8} {v : Word} {s : State} {t : State} (h : execPortCntClear side g v s = .next t) : t.core = s.core := by
  simp only [execPortCntClear] at h
  rcases gateO_cases h with h | h
  · repeat' first | (cases h; done) | (cases h; (with_reducible rfl)) | (cases h; (simp ; done)) | split at h
  · exact h

@[simp] theorem State.breakStreams_core (s : State) (strait : Bool) (g : Nat) : (State.breakStreams s strait g).core = s.core := by
  unfold State.breakStreams
  dsimp only
  repeat' first | (with_reducible rfl) | (simp ; done) | (simp [State.core]; done) | split | (dsimp only; split) | (refine (foldl_core _ (fun _ _ => ?_) _ _).trans ?_) | (simp ; refine (foldl_core _ (fun _ _ => ?_) _ _).trans ?_)

theorem execOtnSourceLost_core {side : Side} {g : Fin 8} {defects : Word} {s : State} {t : State} (h : execOtnSourceLost side g defects s = .next t) : t.core = s.core := by
  unfold execOtnSourceLost at h
  repeat' first | (cases h; done) | (cases h; (with_reducible rfl)) | (cases h; (simp ; done)) | split at h | (dsimp only at h; split at h) | cases h | (with_reducible rfl) | (simp ; done) | split | (refine (foldl_core _ (fun _ _ => ?_) _ _).trans ?_) | (dsimp only; split) | (simp ; refine (foldl_core _ (fun _ _ => ?_) _ _).trans ?_)

theorem execOtnSourceReturn_core {side : Side} {g : Fin 8} {s : State} {t : State} (h : execOtnSourceReturn side g s = .next t) : t.core = s.core := by
  unfold execOtnSourceReturn at h
  dsimp only at h
  split at h
  all_goals simp only [Host.Outcome.next.injEq] at h; subst h; simp

theorem State.trapPtp_core {s : State} {new strait : Bool} {p : Nat} {f : List Byte} {t : State} (h : State.trapPtp s new strait p f = some t) : t.core = s.core := by
  unfold State.trapPtp at h
  dsimp only at h
  split at h <;> cases h
  all_goals first | (with_reducible rfl) | simp

theorem execPtpTxTimestamp_core {side : Side} {p : Fin 32} {m : PtpSend} {s : State} {t : State} (h : execPtpTxTimestamp side p m s = .next t) : t.core = s.core := by
  unfold execPtpTxTimestamp at h
  dsimp only at h
  repeat' split at h
  all_goals simp only [Host.Outcome.next.injEq] at h; subst h; simp

@[simp] theorem State.popTsf_core (s : State) (strait : Bool) (p : Nat) : (State.popTsf s strait p).core = s.core := by simp [State.popTsf]

theorem execTsfPop_core {side : Side} {p : Fin 32} {s : State} {t : State} (h : execTsfPop side p s = .next t) : t.core = s.core := by
  simp only [execTsfPop, Host.Outcome.next.injEq] at h
  subst h
  simp

@[simp] theorem State.clearPass_core (s : State) (new : Bool) (c : Nat) (f : List Byte) : (State.clearPass s new c f).core = s.core := by simp [State.clearPass]

@[simp] theorem State.macControl_core (s : State) (new : Bool) (p : Nat) (f : List Byte) : (State.macControl s new p f).core = s.core := by simp [State.macControl]

@[simp] theorem State.finishArr_rest (s : State) (p : Nat) : (State.finishArr s p).core.2 = s.core.2 := by
  unfold State.finishArr
  split <;> simp

@[simp] theorem State.finishArr_wf (s : State) (p : Nat) (hw : Memory.wf s.core.1 = true) : Memory.wf (State.finishArr s p).core.1 = true := by
  unfold State.finishArr
  split <;> simp (maxDischargeDepth := 9) [hw]

@[simp] theorem State.homeFrame_core (s : State) (new : Bool) (p : Nat) (h : HomeFrame) : (State.homeFrame s new p h).core = s.core := by simp [State.homeFrame]

theorem execHomeIngressFrame_rest {p : Fin 32} {h : HomeFrame} {s : State} {t : State} (h : execHomeIngressFrame p h s = .next t) : t.core.2 = s.core.2 := by
  simp only [execHomeIngressFrame] at h
  repeat' first | (cases h; done) | (cases h; (with_reducible rfl)) | (cases h; (simp ; done)) | (cases h; (simp [State.trapPtp_core ‹State.trapPtp _ _ _ _ _ = _›]; done)) | split at h

theorem execHomeIngressFrame_wf {p : Fin 32} {h : HomeFrame} {s : State} {t : State} (h : execHomeIngressFrame p h s = .next t) (hw : Memory.wf s.core.1 = true) : Memory.wf t.core.1 = true := by
  simp only [execHomeIngressFrame] at h
  repeat' first | (cases h; done) | (cases h; (with_reducible assumption)) | (cases h; (simp (maxDischargeDepth := 9) [*]; done)) | (cases h; (simp (maxDischargeDepth := 9) [*, State.trapPtp_core ‹State.trapPtp _ _ _ _ _ = _›]; done)) | split at h

theorem execPauseExpiry_core {p : Fin 32} {pri : Option (Fin 8)} {s : State} {t : State} (h : execPauseExpiry p pri s = .next t) : t.core = s.core := by
  simp only [execPauseExpiry, Host.Outcome.next.injEq] at h
  subst h
  simp

theorem execPauseRepeat_core {p : Fin 32} {s : State} {t : State} (h : execPauseRepeat p s = .next t) : t.core = s.core := by
  simp only [execPauseRepeat, Host.Outcome.next.injEq] at h
  subst h
  simp

theorem execSrcMaskAge_core {c : Fin 8192} {p : Fin 32} {s : State} {t : State} (h : execSrcMaskAge c p s = .next t) : t.core = s.core := by
  simp only [execSrcMaskAge, Host.Outcome.next.injEq] at h
  rw [← h]
  simp only [State.xoffAll_core, State.setChan_core]

theorem execHomeEgressSelect_core {p : Fin 32} {s : State} {t : State} (h : execHomeEgressSelect p s = .next t) : t.core = s.core := by
  simp only [execHomeEgressSelect, Host.Outcome.next.injEq] at h
  subst h
  simp

theorem execFrameReleased_core {p : Fin 32} {rd : EgressRead} {s : State} {t : State} (h : execFrameReleased p rd s = .next t) : t.core = s.core := by
  have hE : ∀ (s : State) c p f o rd, (s.egressRead c p f o rd).core = s.core := by
    intro s c p f o rd
    cases rd <;> simp [State.egressRead]
  unfold execFrameReleased at h
  dsimp only at h
  repeat' first | (cases h; done) | (cases h; rfl) | (cases h; simp [hE]; done) | split at h

/-! Strait. -/

theorem State.stamp_core {s : State} {t : Nat × State} (h : State.stamp s = t) : t.2.core = s.core := by
  subst h
  simp [State.stamp]

@[simp] theorem State.loseReq_core (s : State) (p seq : Nat) : (State.loseReq s p seq).core = s.core := by simp [State.loseReq]

theorem execProbeReqTimer_core {p : Fin 32} {s : State} {t : State} (h : execProbeReqTimer p s = .next t) : t.core = s.core := by
  have hA : ∀ s : State, s.stamp.2.core = s.core := fun s => State.stamp_core (Eq.refl _)
  unfold execProbeReqTimer at h
  dsimp only at h
  split at h
  · cases h; rfl
  · cases h
    simp only [State.portFrameOn_core, State.setPort_core, hA, core_ite, State.loseReq_core, ite_self, State.setSense_core, State.setSenseMode_core]

theorem execProbeLost_core {p : Fin 32} {seq : Nat} {s : State} {t : State} (h : execProbeLost p seq s = .next t) : t.core = s.core := by
  simp only [execProbeLost, Host.Outcome.next.injEq] at h
  subst h
  simp

@[simp] theorem State.onReq_core (s : State) (w p seq t2 : Nat) : (State.onReq s w p seq t2).core = s.core := by
  unfold State.onReq
  repeat' first | (with_reducible rfl) | (simp ; done) | (simp [State.stamp_core ‹State.stamp _ = _›]; done) | (simp [State.core]; done) | split | (refine (foldl_core _ (fun _ _ => ?_) _ _).trans ?_) | (dsimp only; split) | (simp ; refine (foldl_core _ (fun _ _ => ?_) _ _).trans ?_)

@[simp] theorem State.onEcho_core (s : State) (p seq t2 prev t3 t4 : Nat) : (State.onEcho s p seq t2 prev t3 t4).core = s.core := by simp [State.onEcho]

@[simp] theorem State.onProbe_core (s : State) (w p : Nat) (b : List Byte) : (State.onProbe s w p b).core = s.core := by
  unfold State.onProbe
  repeat' first | (with_reducible rfl) | (simp ; done) | (simp [State.stamp_core ‹State.stamp _ = _›]; done) | (simp [State.core]; done) | split | (refine (foldl_core _ (fun _ _ => ?_) _ _).trans ?_) | (dsimp only; split) | (simp ; refine (foldl_core _ (fun _ _ => ?_) _ _).trans ?_)

@[simp] theorem State.onAckFrame_core (s : State) (g : Nat) (b : List Byte) : (State.onAckFrame s g b).core = s.core := by
  unfold State.onAckFrame
  dsimp only
  repeat' first | (with_reducible rfl) | (simp ; done) | (simp [State.core]; done) | split | (dsimp only; split) | (refine (foldl_core _ (fun _ _ => ?_) _ _).trans ?_) | (simp ; refine (foldl_core _ (fun _ _ => ?_) _ _).trans ?_)

@[simp] theorem State.onControl_core (s : State) (w g : Nat) (clear : Bool) (b : List Byte) : (State.onControl s w g clear b).core = s.core := by simp [State.onControl]

@[simp] theorem State.onLandfall_core (s : State) (w g : Nat) (b : List Byte) : (State.onLandfall s w g b).core = s.core := by simp [State.onLandfall]

@[simp] theorem State.onPortBody_core (s : State) (w p type : Nat) (b : List Byte) : (State.onPortBody s w p type b).core = s.core := by simp [State.onPortBody]

@[simp] theorem State.onPortFrame_core (s : State) (p : Nat) (f : List Byte) : (State.onPortFrame s p f).core = s.core := by simp [State.onPortFrame]

@[simp] theorem State.onAsxon_core (s : State) (p : Nat) (f : List Byte) (lg : LgOutcome) : (State.onAsxon s p f lg).core = s.core := by simp [State.onAsxon]

@[simp] theorem State.undoCut_core (s : State) (p : Nat) (f : List Byte) : (State.undoCut s p f).core = s.core := by
  unfold State.undoCut
  dsimp only
  split <;> simp

@[simp] theorem State.onClear_core (s : State) (g : Nat) (f : List Byte) : (State.onClear s g f).core = s.core := by simp [State.onClear]

@[simp] theorem State.straitFrame_core (s : State) (p : Nat) (f : List Byte) (lg : LgOutcome) : (State.straitFrame s p f lg).core = s.core := by simp [State.straitFrame]

theorem execStraitIngressFrame_core {p : Fin 32} {bytes : List Byte} {fcsOk : Bool} {lg : LgOutcome} {s : State} {t : State} (h : execStraitIngressFrame p bytes fcsOk lg s = .next t) : t.core = s.core := by
  simp only [execStraitIngressFrame] at h
  repeat' first | (cases h; done) | (cases h; (with_reducible rfl)) | (cases h; (simp ; done)) | (cases h; (simp [State.trapPtp_core ‹State.trapPtp _ _ _ _ _ = _›]; done)) | split at h

/-! KeyPort. -/

@[simp] theorem State.setKp_core (s : State) (n : Nat) (x : Kp) : (State.setKp s n x).core = s.core := by simp [State.setKp]

@[simp] theorem State.kpInstall_core (s : State) (d : KpDesc) (data : List Byte) : (State.kpInstall s d data).core = s.core := by simp [State.kpInstall]

@[simp] theorem State.mismatch_core (s : State) (d0 d1 : Word) (g : Nat) : (State.mismatch s d0 d1 g).core = s.core := by
  unfold State.mismatch
  dsimp only
  repeat' split
  all_goals simp

@[simp] theorem State.kpRefuse_core (s : State) (n reason : Nat) : (State.kpRefuse s n reason).core = s.core := by simp [State.kpRefuse]

@[simp] theorem State.kpGo_core (s : State) (n : Nat) : (State.kpGo s n).core = s.core := by
  unfold State.kpGo
  dsimp only
  repeat' split
  all_goals simp

theorem execKpGo_core {n : Fin 192} {v : Word} {s : State} {t : State} (h : execKpGo n v s = .next t) : t.core = s.core := by
  simp only [execKpGo, Host.Outcome.next.injEq] at h
  subst h
  simp

theorem execPairingTimeout_core {i : Nat} {s : State} {t : State} (h : execPairingTimeout i s = .next t) : t.core = s.core := by
  unfold execPairingTimeout at h
  dsimp only at h
  split at h
  all_goals simp only [Host.Outcome.next.injEq] at h; subst h; simp

theorem State.rndWord_core {s : State} {k : Nat} {tag : Nat} {t : Option Word × State} (h : State.rndWord s k tag = t) : t.2.core = s.core := by
  subst h
  unfold State.rndWord
  dsimp only
  split
  · rfl
  · split
    · simp
    · split
      · split <;> simp
      · rw [withFree_core, State.withKiln_core, State.drbUse_core]

theorem execRndDataRead_core {k : Fin 24} {a : Agent} {s : State} {t : State} (h : execRndDataRead k a s = .next t) : t.core = s.core := by
  simp only [execRndDataRead] at h
  repeat' first | (cases h; done) | (cases h; (with_reducible rfl)) | (cases h; (simp ; done)) | (cases h; (simp [State.rndWord_core ‹State.rndWord _ _ _ = _›]; done)) | split at h

end Sys2Proof.Machine
end

