-- ==== Sys2Proof/Laws/FrameBoot.lean ====
section
/-! SUPPORT. What an operation leaves alone: the same for boot, the store, resets and the mailbox. -/
namespace Sys2Proof.Machine
set_option linter.unusedSimpArgs false

/-! Store. -/

@[simp] theorem State.writeRec_rest (s : State) (a magic : Nat) (pt : List Byte) : (State.writeRec s a magic pt).core.2 = s.core.2 := by
  unfold State.writeRec
  split <;> simp

@[simp] theorem State.writeRec_wf (s : State) (a magic : Nat) (pt : List Byte) (hw : Memory.wf s.core.1 = true) : Memory.wf (State.writeRec s a magic pt).core.1 = true := by
  unfold State.writeRec
  split <;> simp (maxDischargeDepth := 9) [hw]

@[simp] theorem State.saveIdent_rest (s : State) : (State.saveIdent s).core.2 = s.core.2 := by simp [State.saveIdent]

@[simp] theorem State.saveIdent_wf (s : State) (hw : Memory.wf s.core.1 = true) : Memory.wf (State.saveIdent s).core.1 = true := by simp (maxDischargeDepth := 9) [State.saveIdent, *]

@[simp] theorem State.saveAnchors_rest (s : State) : (State.saveAnchors s).core.2 = s.core.2 := by simp [State.saveAnchors]

@[simp] theorem State.saveAnchors_wf (s : State) (hw : Memory.wf s.core.1 = true) : Memory.wf (State.saveAnchors s).core.1 = true := by simp (maxDischargeDepth := 9) [State.saveAnchors, *]

@[simp] theorem State.loadStores_core (s : State) : (State.loadStores s).core = s.core := by simp [State.loadStores]

@[simp] theorem State.release_core (s : State) (n : Nat) : (State.release s n).core = s.core := by simp [State.release]

@[simp] theorem State.putSegs_rest (s : State) (im : Img) (n : Nat) (kinds : List Nat) : (State.putSegs s im n kinds).core.2 = s.core.2 := by
  unfold State.putSegs
  dsimp only
  repeat' first | (with_reducible rfl) | (simp ; done) | (simp [State.core]; done) | split | (dsimp only; split) | (refine (foldl_rest _ (fun _ _ => ?_) _ _).trans ?_) | (simp ; refine (foldl_rest _ (fun _ _ => ?_) _ _).trans ?_)

@[simp] theorem State.putSegs_wf (s : State) (im : Img) (n : Nat) (kinds : List Nat) (hw : Memory.wf s.core.1 = true) : Memory.wf (State.putSegs s im n kinds).core.1 = true := by
  unfold State.putSegs
  dsimp only
  repeat' first | (with_reducible assumption) | (simp (maxDischargeDepth := 9) [*]; done) | (simp (maxDischargeDepth := 9) [*, State.core]; done) | split | (dsimp only; split) | (refine foldl_wf _ (fun _ _ _ => ?_) _ _ ?_) | (simp (maxDischargeDepth := 9) [*]; refine foldl_wf _ (fun _ _ _ => ?_) _ _ ?_)

@[simp] theorem State.putImg_rest (s : State) (im : Img) (pick : Nat → Bool) (kilnToo backingToo : Bool) : (State.putImg s im pick kilnToo backingToo).core.2 = s.core.2 := by
  unfold State.putImg
  dsimp only
  repeat' first | (with_reducible rfl) | (simp ; done) | (simp [State.pick_core ‹State.pick _ _ = _›]; done) | (simp [State.core]; done) | split | (dsimp only; split) | (refine (foldl_rest _ (fun _ _ => ?_) _ _).trans ?_) | (simp ; refine (foldl_rest _ (fun _ _ => ?_) _ _).trans ?_)

@[simp] theorem State.putImg_wf (s : State) (im : Img) (pick : Nat → Bool) (kilnToo backingToo : Bool) (hw : Memory.wf s.core.1 = true) : Memory.wf (State.putImg s im pick kilnToo backingToo).core.1 = true := by
  unfold State.putImg
  dsimp only
  repeat' first | (with_reducible assumption) | (simp (maxDischargeDepth := 9) [*]; done) | (simp (maxDischargeDepth := 9) [*, State.pick_core ‹State.pick _ _ = _›]; done) | (simp (maxDischargeDepth := 9) [*, State.core]; done) | split | (dsimp only; split) | (refine foldl_wf _ (fun _ _ _ => ?_) _ _ ?_) | (simp (maxDischargeDepth := 9) [*]; refine foldl_wf _ (fun _ _ _ => ?_) _ _ ?_)

@[simp] theorem State.putImgs_rest (s : State) (pick : Nat → Bool) (kilnToo backingToo : Bool) : (State.putImgs s pick kilnToo backingToo).core.2 = s.core.2 := by
  unfold State.putImgs
  repeat' first | (with_reducible rfl) | (simp ; done) | (simp [State.pick_core ‹State.pick _ _ = _›]; done) | (simp [State.core]; done) | split | (refine (foldl_rest _ (fun _ _ => ?_) _ _).trans ?_) | (dsimp only; split) | (simp ; refine (foldl_rest _ (fun _ _ => ?_) _ _).trans ?_)

@[simp] theorem State.putImgs_wf (s : State) (pick : Nat → Bool) (kilnToo backingToo : Bool) (hw : Memory.wf s.core.1 = true) : Memory.wf (State.putImgs s pick kilnToo backingToo).core.1 = true := by
  unfold State.putImgs
  repeat' first | (with_reducible assumption) | (simp (maxDischargeDepth := 9) [*]; done) | (simp (maxDischargeDepth := 9) [*, State.pick_core ‹State.pick _ _ = _›]; done) | (simp (maxDischargeDepth := 9) [*, State.core]; done) | split | (refine foldl_wf _ (fun _ _ _ => ?_) _ _ ?_) | (dsimp only; split) | (simp (maxDischargeDepth := 9) [*]; refine foldl_wf _ (fun _ _ _ => ?_) _ _ ?_)

@[simp] theorem State.readStore_core (s : State) : (State.readStore s).core = s.core := by simp [State.readStore]

@[simp] theorem State.patchKiln_rest (s : State) (k : Nat) : (State.patchKiln s k).core.2 = s.core.2 := by
  unfold State.patchKiln
  repeat' split
  all_goals simp

@[simp] theorem putPatch_wf (m : List Host.Cell) (k : Nat) (p : List Byte) (h : Memory.wf m = true) : Memory.wf (putPatch m k p) = true :=
  memPut_wf _ _ _ (memPut_wf _ _ _ (memPut_wf _ _ _ h))

theorem withPatch_wf (s : State) (k : Nat) (p : List Byte) (hw : Memory.wf s.core.1 = true) :
    Memory.wf (s.withMem (putPatch s.mem k p)).core.1 = true := putPatch_wf _ _ _ hw

@[simp] theorem State.patchKiln_wf (s : State) (k : Nat) (hw : Memory.wf s.core.1 = true) : Memory.wf (State.patchKiln s k).core.1 = true := by
  unfold State.patchKiln
  dsimp only
  rw [State.withKiln_core]
  split
  · split
    · exact hw
    · exact withPatch_wf _ _ _ hw
  · exact hw

@[simp] theorem State.repatch_rest (s : State) (k : Nat) : (State.repatch s k).core.2 = s.core.2 := by
  unfold State.repatch
  split <;> simp

@[simp] theorem State.repatch_wf (s : State) (k : Nat) (hw : Memory.wf s.core.1 = true) : Memory.wf (State.repatch s k).core.1 = true := by
  unfold State.repatch
  split <;> simp (maxDischargeDepth := 9) [hw]

@[simp] theorem State.unpatch_rest (s : State) (k : Nat) : (State.unpatch s k).core.2 = s.core.2 := by simp [State.unpatch]

@[simp] theorem State.unpatch_wf (s : State) (k : Nat) (hw : Memory.wf s.core.1 = true) : Memory.wf (State.unpatch s k).core.1 = true := memErase_wf _ _ _ hw

/-! Mail. -/

@[simp] theorem State.setHc_core (s : State) (h : Nat) (x : Harbour) : (State.setHc s h x).core = s.core := by
  simp only [State.setHc]
  repeat' first | (with_reducible rfl) | (simp ; done) | (simp [State.core]; done) | split

@[simp] theorem State.setCsr_core (s : State) (h n : Nat) (v : Word) : (State.setCsr s h n v).core = s.core := by simp [State.setCsr]

@[simp] theorem State.setStage_core (s : State) (n : Nat) : (State.setStage s n).core = s.core := by simp [State.setStage]

@[simp] theorem State.headOn_core (s : State) (c : Nat) : (State.headOn s c).core = s.core := by simp [State.headOn]

@[simp] theorem State.respond_rest (s : State) (c code : Nat) (tag : Half) (status reason : Nat) (payload : List Byte) : (State.respond s c code tag status reason payload).core.2 = s.core.2 := by simp [State.respond]

@[simp] theorem State.respond_wf (s : State) (c code : Nat) (tag : Half) (status reason : Nat) (payload : List Byte) (hw : Memory.wf s.core.1 = true) : Memory.wf (State.respond s c code tag status reason payload).core.1 = true := by simp (maxDischargeDepth := 9) [State.respond, *]

@[simp] theorem State.mailStop_core (s : State) (c : Nat) : (State.mailStop s c).core = s.core := by simp [State.mailStop]

@[simp] theorem State.mailBack_rest (s : State) (c : Nat) : (State.mailBack s c).core.2 = s.core.2 := by
  unfold State.mailBack
  dsimp only
  repeat' split
  all_goals simp

@[simp] theorem State.mailBack_wf (s : State) (c : Nat) (hw : Memory.wf s.core.1 = true) : Memory.wf (State.mailBack s c).core.1 = true := by
  unfold State.mailBack
  dsimp only
  repeat' split
  all_goals simp (maxDischargeDepth := 9) [hw]

/-! Reset. -/

@[simp] theorem State.coldReset_rest (s : State) (code : Nat) : (State.coldReset s code).core.2 = s.core.2 := by
  simp only [State.coldReset]
  repeat' first | (with_reducible rfl) | (simp ; done) | (simp [State.core]; done) | split

@[simp] theorem State.coldReset_wf (s : State) (code : Nat) (hw : Memory.wf s.core.1 = true) : Memory.wf (State.coldReset s code).core.1 = true := filter_wf _ _ hw

theorem execPowerOn_rest {k : ColdKind} {s : State} {t : State} (h : execPowerOn k s = .next t) : t.core.2 = s.core.2 := by
  simp only [execPowerOn, Host.Outcome.next.injEq] at h
  subst h
  simp

theorem execPowerOn_wf {k : ColdKind} {s : State} {t : State} (h : execPowerOn k s = .next t) (hw : Memory.wf s.core.1 = true) : Memory.wf t.core.1 = true := by
  simp only [execPowerOn, Host.Outcome.next.injEq] at h
  subst h
  simp (maxDischargeDepth := 9) [hw]

theorem execLighthousePowerLoss_rest {s : State} {t : State} (h : execLighthousePowerLoss s = .next t) : t.core.2 = s.core.2 := by
  simp only [execLighthousePowerLoss, Host.Outcome.next.injEq] at h
  subst h
  simp

theorem execLighthousePowerLoss_wf {s : State} {t : State} (h : execLighthousePowerLoss s = .next t) (hw : Memory.wf s.core.1 = true) : Memory.wf t.core.1 = true := by
  simp only [execLighthousePowerLoss, Host.Outcome.next.injEq] at h
  subst h
  simp (maxDischargeDepth := 9) [hw]

@[simp] theorem State.clocksUp_core (s : State) : (State.clocksUp s).core = s.core := by simp [State.clocksUp]

theorem execResetNRelease_rest {s : State} {t : State} (h : execResetNRelease s = .next t) : t.core.2 = s.core.2 := by
  unfold execResetNRelease at h
  dsimp only at h
  repeat' split at h
  all_goals simp only [Host.Outcome.next.injEq] at h; subst h; simp

theorem execResetNRelease_wf {s : State} {t : State} (h : execResetNRelease s = .next t) (hw : Memory.wf s.core.1 = true) : Memory.wf t.core.1 = true := by
  unfold execResetNRelease at h
  dsimp only at h
  repeat' split at h
  all_goals simp only [Host.Outcome.next.injEq] at h; subst h; simp (maxDischargeDepth := 9) [hw]

theorem execAsxonStartHoldEnd_core {s : State} {t : State} (h : execAsxonStartHoldEnd s = .next t) : t.core = s.core := by
  unfold execAsxonStartHoldEnd at h
  split at h
  · cases h; rfl
  · simp only [Host.Outcome.next.injEq] at h
    rw [← h]
    exact (State.keyScanAll_core _).trans rfl

@[simp] theorem State.lockUp_core (s : State) (h : Nat) : (State.lockUp s h).core = s.core := by simp [State.lockUp]

@[simp] theorem State.setLife_core (s : State) (l : Nat) : (State.setLife s l).core = s.core := by simp [State.setLife]

@[simp] theorem State.romDone_core (s : State) : (State.romDone s).core = s.core := by simp [State.romDone]

@[simp] theorem State.selectSlot_core (s : State) : (State.selectSlot s).core = s.core := by
  unfold State.selectSlot
  dsimp only
  split <;> simp

@[simp] theorem State.putFw_rest (s : State) (h : Nat) (x : Option (Nat × List Byte)) : (State.putFw s h x).core.2 = s.core.2 := by
  unfold State.putFw
  repeat' split
  all_goals simp

@[simp] theorem State.putFw_wf (s : State) (h : Nat) (x : Option (Nat × List Byte)) (hw : Memory.wf s.core.1 = true) :
    Memory.wf (State.putFw s h x).core.1 = true := by
  unfold State.putFw
  repeat' split
  all_goals simp (maxDischargeDepth := 9) [hw]

@[simp] theorem State.loadFw_rest (s : State) : (State.loadFw s).core.2 = s.core.2 := by simp [State.loadFw]

@[simp] theorem State.loadFw_wf (s : State) (hw : Memory.wf s.core.1 = true) : Memory.wf (State.loadFw s).core.1 = true := by
  simp (maxDischargeDepth := 9) [State.loadFw, *]

@[simp] theorem State.makeImk_core (s : State) : (State.makeImk s).core = s.core := by simp [State.makeImk]

@[simp] theorem State.loadKilns_rest (s : State) : (State.loadKilns s).core.2 = s.core.2 := by
  unfold State.loadKilns
  dsimp only
  repeat' first | (with_reducible rfl) | (simp ; done) | (simp [State.core]; done) | split | (dsimp only; split) | (refine (foldl_rest _ (fun _ _ => ?_) _ _).trans ?_) | (simp ; refine (foldl_rest _ (fun _ _ => ?_) _ _).trans ?_)

@[simp] theorem State.loadKilns_wf (s : State) (hw : Memory.wf s.core.1 = true) : Memory.wf (State.loadKilns s).core.1 = true := by
  unfold State.loadKilns
  dsimp only
  repeat' first | (with_reducible assumption) | (simp (maxDischargeDepth := 9) [*]; done) | (simp (maxDischargeDepth := 9) [*, State.core]; done) | split | (dsimp only; split) | (refine foldl_wf _ (fun _ _ _ => ?_) _ _ ?_) | (simp (maxDischargeDepth := 9) [*]; refine foldl_wf _ (fun _ _ _ => ?_) _ _ ?_)

@[simp] theorem State.loadPatch_rest (s : State) : (State.loadPatch s).core.2 = s.core.2 := by
  unfold State.loadPatch
  repeat' split
  all_goals simp

@[simp] theorem State.loadPatch_wf (s : State) (hw : Memory.wf s.core.1 = true) : Memory.wf (State.loadPatch s).core.1 = true := by
  unfold State.loadPatch
  repeat' split
  all_goals simp (maxDischargeDepth := 9) [hw]

@[simp] theorem State.loadDone_rest (s : State) (o : BootOutcome) : (State.loadDone s o).core.2 = s.core.2 := by simp [State.loadDone]

@[simp] theorem State.loadDone_wf (s : State) (o : BootOutcome) (hw : Memory.wf s.core.1 = true) : Memory.wf (State.loadDone s o).core.1 = true := by simp (maxDischargeDepth := 9) [State.loadDone, *]

@[simp] theorem State.emberLoad_rest (s : State) : (State.emberLoad s).core.2 = s.core.2 := by simp [State.emberLoad]

@[simp] theorem State.emberLoad_wf (s : State) (hw : Memory.wf s.core.1 = true) : Memory.wf (State.emberLoad s).core.1 = true := by simp (maxDischargeDepth := 9) [State.emberLoad, *]

theorem execBootStageDone_rest {o : BootOutcome} {s : State} {t : State} (h : execBootStageDone o s = .next t) : t.core.2 = s.core.2 := by
  unfold execBootStageDone at h
  repeat' (split at h)
  all_goals
    simp only [Host.Outcome.next.injEq] at h
    subst h
    first | with_reducible rfl | simp

theorem execBootStageDone_wf {o : BootOutcome} {s : State} {t : State} (h : execBootStageDone o s = .next t) (hw : Memory.wf s.core.1 = true) : Memory.wf t.core.1 = true := by
  unfold execBootStageDone at h
  repeat' (split at h)
  all_goals
    simp only [Host.Outcome.next.injEq] at h
    subst h
    first | with_reducible exact hw | simp (maxDischargeDepth := 9) [hw]

@[simp] theorem State.hostReset_core (s : State) : (State.hostReset s).core = s.core := by
  simp only [State.hostReset]
  repeat' first | (with_reducible rfl) | (simp ; done) | (simp [State.core]; done) | split

theorem execPerstNAssert_core {s : State} {t : State} (h : execPerstNAssert s = .next t) : t.core = s.core := by
  simp only [execPerstNAssert, Host.Outcome.next.injEq] at h
  subst h
  simp

theorem execPerstNRelease_core {s : State} {t : State} (h : execPerstNRelease s = .next t) : t.core = s.core := by
  simp only [execPerstNRelease, Host.Outcome.next.injEq] at h
  subst h
  simp

theorem execPcieLinkDown_core {s : State} {t : State} (h : execPcieLinkDown s = .next t) : t.core = s.core := by
  unfold execPcieLinkDown at h
  split at h
  all_goals simp only [Host.Outcome.next.injEq] at h; subst h; simp

theorem execFunctionLevelReset_core {s : State} {t : State} (h : execFunctionLevelReset s = .next t) : t.core = s.core := by
  unfold execFunctionLevelReset at h
  split at h
  all_goals simp only [Host.Outcome.next.injEq] at h; subst h; simp

theorem execPcieLinkUp_core {speed : Fin 6} {width : Fin 5} {s : State} {t : State} (h : execPcieLinkUp speed width s = .next t) : t.core = s.core := by
  unfold execPcieLinkUp at h
  split at h
  all_goals simp only [Host.Outcome.next.injEq] at h; subst h; simp

theorem execPcieConfigWrite_core {msixEn fnMask busMaster d3hot : Bool} {s : State} {t : State} (h : execPcieConfigWrite msixEn fnMask busMaster d3hot s = .next t) : t.core = s.core := by
  simp only [execPcieConfigWrite, Host.Outcome.next.injEq] at h
  rw [← h, foldl_core]
  · rfl
  · intro s _
    split <;> simp

@[simp] theorem State.unitResult_core (s : State) (type index code : Nat) : (State.unitResult s type index code).core = s.core := by simp [State.unitResult]

@[simp] theorem State.unitRefuse_core (s : State) (type index : Nat) : (State.unitRefuse s type index).core = s.core := by simp [State.unitRefuse]

@[simp] theorem State.dropPage_core (s : State) (base : Nat) : (State.dropPage s base).core = s.core := (rfl)

@[simp] theorem State.clearEngine_rest (s : State) (n : Nat) : (State.clearEngine s n).core.2 = s.core.2 := (rfl)

@[simp] theorem State.clearEngine_wf (s : State) (n : Nat) (hw : Memory.wf s.core.1 = true) : Memory.wf (State.clearEngine s n).core.1 = true := by
  unfold State.clearEngine
  simp only [State.dropKp_core, State.unhold_core, State.dropPage_core]
  exact memErase_wf _ _ _ (memErase_wf _ _ _ hw)

@[simp] theorem State.clearKiln_rest (s : State) (k : Nat) : (State.clearKiln s k).core.2 = s.core.2 := by
  unfold State.clearKiln
  dsimp only
  rw [State.dropPage_core, State.unpatch_rest, State.withKiln_core]
  exact foldl_rest _ (fun _ _ => by simp) _ _

@[simp] theorem State.clearKiln_wf (s : State) (k : Nat) (hw : Memory.wf s.core.1 = true) : Memory.wf (State.clearKiln s k).core.1 = true := by
  unfold State.clearKiln
  dsimp only
  rw [State.dropPage_core]
  refine State.unpatch_wf _ _ ?_
  rw [State.withKiln_core]
  exact foldl_wf _ (fun _ _ h => by simpa using h) _ _ hw

@[simp] theorem State.resetGroup_rest (s : State) (strait : Bool) (g : Nat) : (State.resetGroup s strait g).core.2 = s.core.2 := by
  unfold State.resetGroup
  dsimp only
  rw [State.xoffAll_core]
  refine (foldl_rest _ (fun _ _ => by simp) _ _).trans ?_
  simp
  refine foldl_rest _ (fun _ _ => by simp) _ _

@[simp] theorem State.resetGroup_wf (s : State) (strait : Bool) (g : Nat) (hw : Memory.wf s.core.1 = true) : Memory.wf (State.resetGroup s strait g).core.1 = true := by
  unfold State.resetGroup
  dsimp only
  rw [State.xoffAll_core]
  refine foldl_wf _ (fun _ _ h => by simpa using h) _ _ ?_
  simp
  refine foldl_wf _ (fun _ _ h => by simp [h]) _ _ hw

@[simp] theorem State.dropAllXchs_core (s : State) : (State.dropAllXchs s).core = s.core := by
  unfold State.dropAllXchs
  dsimp only
  repeat' first | (with_reducible rfl) | (simp ; done) | (simp [State.core]; done) | split | (dsimp only; split) | (refine (foldl_core _ (fun _ _ => ?_) _ _).trans ?_) | (simp ; refine (foldl_core _ (fun _ _ => ?_) _ _).trans ?_)

@[simp] theorem State.pairDown_core (s : State) (h : Nat) : (State.pairDown s h).core = s.core := by simp [State.pairDown]

@[simp] theorem State.kilnBack_rest (s : State) (k : Nat) : (State.kilnBack s k).core.2 = s.core.2 := by simp [State.kilnBack]

@[simp] theorem State.kilnBack_wf (s : State) (k : Nat) (hw : Memory.wf s.core.1 = true) : Memory.wf (State.kilnBack s k).core.1 = true := by
  simp (maxDischargeDepth := 9) [State.kilnBack, *]

@[simp] theorem State.kilnsBack_rest (s : State) : (State.kilnsBack s).core.2 = s.core.2 := by
  unfold State.kilnsBack
  split
  · rfl
  · exact (foldl_rest _ (fun _ _ => by simp) _ _).trans (by simp)

@[simp] theorem State.kilnsBack_wf (s : State) (hw : Memory.wf s.core.1 = true) : Memory.wf (State.kilnsBack s).core.1 = true := by
  unfold State.kilnsBack
  split
  · exact hw
  · exact foldl_wf _ (fun _ _ h => by simp [h]) _ _ (by simp [hw])

@[simp] theorem State.kilnLoad_rest (s : State) (k : Nat) : (State.kilnLoad s k).core.2 = s.core.2 := by
  unfold State.kilnLoad
  split <;> simp

@[simp] theorem State.kilnLoad_wf (s : State) (k : Nat) (hw : Memory.wf s.core.1 = true) : Memory.wf (State.kilnLoad s k).core.1 = true := by
  unfold State.kilnLoad
  split <;> simp (maxDischargeDepth := 9) [hw]

@[simp] theorem State.pairUp_rest (s : State) (h : Nat) : (State.pairUp s h).core.2 = s.core.2 := by
  simp only [State.pairUp]
  repeat' first | (with_reducible rfl) | (simp ; done) | (simp [State.core]; done) | split

@[simp] theorem State.pairUp_wf (s : State) (h : Nat) (hw : Memory.wf s.core.1 = true) : Memory.wf (State.pairUp s h).core.1 = true := by
  simp only [State.pairUp]
  repeat' first | (with_reducible assumption) | (simp (maxDischargeDepth := 9) [*]; done) | (simp (maxDischargeDepth := 9) [*, State.core]; done) | split

@[simp] theorem State.unitStart_rest (s : State) (type i : Nat) : (State.unitStart s type i).core.2 = s.core.2 := by
  unfold State.unitStart
  split
  · simp
  · split
    · rw [State.clearKiln_rest]
      exact (foldl_rest _ (fun _ _ => State.clearEngine_rest _ _) _ _).trans (by simp)
    · dsimp only
      repeat' first | (with_reducible rfl) | (simp ; done) | split

@[simp] theorem State.unitStart_wf (s : State) (type i : Nat) (hw : Memory.wf s.core.1 = true) : Memory.wf (State.unitStart s type i).core.1 = true := by
  unfold State.unitStart
  split
  · exact State.clearEngine_wf _ _ (by simp [hw])
  · split
    · refine State.clearKiln_wf _ _ (foldl_wf _ (fun _ _ h => ?_) _ _ (by simp [hw]))
      simp [h]
    · dsimp only
      repeat' first | (with_reducible assumption) | (simp [hw] ; done) | split

@[simp] theorem State.unitReset_rest (s : State) (type i : Nat) : (State.unitReset s type i).core.2 = s.core.2 := by
  unfold State.unitReset
  dsimp only
  repeat' split
  all_goals simp

@[simp] theorem State.unitReset_wf (s : State) (type i : Nat) (hw : Memory.wf s.core.1 = true) : Memory.wf (State.unitReset s type i).core.1 = true := by
  unfold State.unitReset
  dsimp only
  repeat' split
  all_goals simp (maxDischargeDepth := 9) [hw]

@[simp] theorem State.unitCmd_rest (s : State) (v : Word) : (State.unitCmd s v).core.2 = s.core.2 := by
  unfold State.unitCmd
  split <;> simp

@[simp] theorem State.unitCmd_wf (s : State) (v : Word) (hw : Memory.wf s.core.1 = true) : Memory.wf (State.unitCmd s v).core.1 = true := by
  unfold State.unitCmd
  split <;> simp (maxDischargeDepth := 9) [hw]

theorem execUnitResetEngine_rest {n : Fin 192} {s : State} {t : State} (h : execUnitResetEngine n s = .next t) : t.core.2 = s.core.2 := by
  simp only [execUnitResetEngine] at h
  rcases gateO_cases h with h | h
  · repeat' first | (cases h; done) | (cases h; (with_reducible rfl)) | (cases h; (simp ; done)) | split at h
  · exact congrArg Prod.snd h

theorem execUnitResetEngine_wf {n : Fin 192} {s : State} {t : State} (h : execUnitResetEngine n s = .next t) (hw : Memory.wf s.core.1 = true) : Memory.wf t.core.1 = true := by
  simp only [execUnitResetEngine] at h
  rcases gateO_cases h with h | h
  · repeat' first | (cases h; done) | (cases h; (with_reducible assumption)) | (cases h; (simp (maxDischargeDepth := 9) [*]; done)) | split at h
  · rw [h]; exact hw

theorem execUnitResetKiln_rest {k : Fin 24} {s : State} {t : State} (h : execUnitResetKiln k s = .next t) : t.core.2 = s.core.2 := by
  simp only [execUnitResetKiln] at h
  rcases gateO_cases h with h | h
  · repeat' first | (cases h; done) | (cases h; (with_reducible rfl)) | (cases h; (simp ; done)) | split at h
  · exact congrArg Prod.snd h

theorem execUnitResetKiln_wf {k : Fin 24} {s : State} {t : State} (h : execUnitResetKiln k s = .next t) (hw : Memory.wf s.core.1 = true) : Memory.wf t.core.1 = true := by
  simp only [execUnitResetKiln] at h
  rcases gateO_cases h with h | h
  · repeat' first | (cases h; done) | (cases h; (with_reducible assumption)) | (cases h; (simp (maxDischargeDepth := 9) [*]; done)) | split at h
  · rw [h]; exact hw

theorem execUnitResetEncryptLane_rest {n : Fin 9} {s : State} {t : State} (h : execUnitResetEncryptLane n s = .next t) : t.core.2 = s.core.2 := by
  simp only [execUnitResetEncryptLane] at h
  rcases gateO_cases h with h | h
  · repeat' first | (cases h; done) | (cases h; (with_reducible rfl)) | (cases h; (simp ; done)) | split at h
  · exact congrArg Prod.snd h

theorem execUnitResetEncryptLane_wf {n : Fin 9} {s : State} {t : State} (h : execUnitResetEncryptLane n s = .next t) (hw : Memory.wf s.core.1 = true) : Memory.wf t.core.1 = true := by
  simp only [execUnitResetEncryptLane] at h
  rcases gateO_cases h with h | h
  · repeat' first | (cases h; done) | (cases h; (with_reducible assumption)) | (cases h; (simp (maxDischargeDepth := 9) [*]; done)) | split at h
  · rw [h]; exact hw

theorem execUnitResetDecryptLane_rest {n : Fin 9} {s : State} {t : State} (h : execUnitResetDecryptLane n s = .next t) : t.core.2 = s.core.2 := by
  simp only [execUnitResetDecryptLane] at h
  rcases gateO_cases h with h | h
  · repeat' first | (cases h; done) | (cases h; (with_reducible rfl)) | (cases h; (simp ; done)) | split at h
  · exact congrArg Prod.snd h

theorem execUnitResetDecryptLane_wf {n : Fin 9} {s : State} {t : State} (h : execUnitResetDecryptLane n s = .next t) (hw : Memory.wf s.core.1 = true) : Memory.wf t.core.1 = true := by
  simp only [execUnitResetDecryptLane] at h
  rcases gateO_cases h with h | h
  · repeat' first | (cases h; done) | (cases h; (with_reducible assumption)) | (cases h; (simp (maxDischargeDepth := 9) [*]; done)) | split at h
  · rw [h]; exact hw

theorem execUnitResetHomeGroup_rest {g : Fin 8} {s : State} {t : State} (h : execUnitResetHomeGroup g s = .next t) : t.core.2 = s.core.2 := by
  simp only [execUnitResetHomeGroup] at h
  rcases gateO_cases h with h | h
  · repeat' first | (cases h; done) | (cases h; (with_reducible rfl)) | (cases h; (simp ; done)) | split at h
  · exact congrArg Prod.snd h

theorem execUnitResetHomeGroup_wf {g : Fin 8} {s : State} {t : State} (h : execUnitResetHomeGroup g s = .next t) (hw : Memory.wf s.core.1 = true) : Memory.wf t.core.1 = true := by
  simp only [execUnitResetHomeGroup] at h
  rcases gateO_cases h with h | h
  · repeat' first | (cases h; done) | (cases h; (with_reducible assumption)) | (cases h; (simp (maxDischargeDepth := 9) [*]; done)) | split at h
  · rw [h]; exact hw

theorem execUnitResetStraitGroup_rest {g : Fin 8} {s : State} {t : State} (h : execUnitResetStraitGroup g s = .next t) : t.core.2 = s.core.2 := by
  simp only [execUnitResetStraitGroup] at h
  rcases gateO_cases h with h | h
  · repeat' first | (cases h; done) | (cases h; (with_reducible rfl)) | (cases h; (simp ; done)) | split at h
  · exact congrArg Prod.snd h

theorem execUnitResetStraitGroup_wf {g : Fin 8} {s : State} {t : State} (h : execUnitResetStraitGroup g s = .next t) (hw : Memory.wf s.core.1 = true) : Memory.wf t.core.1 = true := by
  simp only [execUnitResetStraitGroup] at h
  rcases gateO_cases h with h | h
  · repeat' first | (cases h; done) | (cases h; (with_reducible assumption)) | (cases h; (simp (maxDischargeDepth := 9) [*]; done)) | split at h
  · rw [h]; exact hw

theorem execUnitResetHarbourPair_rest {h : Fin 2} {s : State} {t : State} (h : execUnitResetHarbourPair h s = .next t) : t.core.2 = s.core.2 := by
  simp only [execUnitResetHarbourPair] at h
  rcases gateO_cases h with h | h
  · repeat' first | (cases h; done) | (cases h; (with_reducible rfl)) | (cases h; (simp ; done)) | split at h
  · exact congrArg Prod.snd h

theorem execUnitResetHarbourPair_wf {h : Fin 2} {s : State} {t : State} (h : execUnitResetHarbourPair h s = .next t) (hw : Memory.wf s.core.1 = true) : Memory.wf t.core.1 = true := by
  simp only [execUnitResetHarbourPair] at h
  rcases gateO_cases h with h | h
  · repeat' first | (cases h; done) | (cases h; (with_reducible assumption)) | (cases h; (simp (maxDischargeDepth := 9) [*]; done)) | split at h
  · rw [h]; exact hw

theorem execUnitResetHostInterface_rest {s : State} {t : State} (h : execUnitResetHostInterface s = .next t) : t.core.2 = s.core.2 := by
  simp only [execUnitResetHostInterface] at h
  rcases gateO_cases h with h | h
  · repeat' first | (cases h; done) | (cases h; (with_reducible rfl)) | (cases h; (simp ; done)) | split at h
  · exact congrArg Prod.snd h

theorem execUnitResetHostInterface_wf {s : State} {t : State} (h : execUnitResetHostInterface s = .next t) (hw : Memory.wf s.core.1 = true) : Memory.wf t.core.1 = true := by
  simp only [execUnitResetHostInterface] at h
  rcases gateO_cases h with h | h
  · repeat' first | (cases h; done) | (cases h; (with_reducible assumption)) | (cases h; (simp (maxDischargeDepth := 9) [*]; done)) | split at h
  · rw [h]; exact hw

@[simp] theorem State.unitBack_rest (s : State) (type i : Nat) : (State.unitBack s type i).core.2 = s.core.2 := by
  unfold State.unitBack
  repeat' split
  all_goals simp

@[simp] theorem State.unitBack_wf (s : State) (type i : Nat) (hw : Memory.wf s.core.1 = true) : Memory.wf (State.unitBack s type i).core.1 = true := by
  unfold State.unitBack
  repeat' split
  all_goals simp (maxDischargeDepth := 9) [hw]

theorem execUnitResetDone_rest {u : UnitId} {s : State} {t : State} (h : execUnitResetDone u s = .next t) : t.core.2 = s.core.2 := by
  unfold execUnitResetDone at h
  dsimp only at h
  split at h
  all_goals simp only [Host.Outcome.next.injEq] at h; subst h; simp

theorem execUnitResetDone_wf {u : UnitId} {s : State} {t : State} (h : execUnitResetDone u s = .next t) (hw : Memory.wf s.core.1 = true) : Memory.wf t.core.1 = true := by
  unfold execUnitResetDone at h
  dsimp only at h
  split at h
  all_goals simp only [Host.Outcome.next.injEq] at h; subst h; simp (maxDischargeDepth := 9) [hw]

@[simp] theorem State.lockstep_rest (s : State) (h : Nat) : (State.lockstep s h).core.2 = s.core.2 := by
  simp only [State.lockstep]
  repeat' first | (with_reducible rfl) | (simp ; done) | (simp [State.core]; done) | split

@[simp] theorem State.lockstep_wf (s : State) (h : Nat) (hw : Memory.wf s.core.1 = true) : Memory.wf (State.lockstep s h).core.1 = true := by
  simp only [State.lockstep]
  repeat' first | (with_reducible assumption) | (simp (maxDischargeDepth := 9) [*]; done) | (simp (maxDischargeDepth := 9) [*, State.core]; done) | split

theorem execLockstepMismatch_rest {h : Fin 2} {s : State} {t : State} (h : execLockstepMismatch h s = .next t) : t.core.2 = s.core.2 := by
  simp only [execLockstepMismatch, Host.Outcome.next.injEq] at h
  subst h
  simp

theorem execLockstepMismatch_wf {h : Fin 2} {s : State} {t : State} (h : execLockstepMismatch h s = .next t) (hw : Memory.wf s.core.1 = true) : Memory.wf t.core.1 = true := by
  simp only [execLockstepMismatch, Host.Outcome.next.injEq] at h
  subst h
  simp (maxDischargeDepth := 9) [hw]

theorem execPairBack_rest {h : Fin 2} {s : State} {t : State} (h : execPairBack h s = .next t) : t.core.2 = s.core.2 := by
  simp only [execPairBack, Host.Outcome.next.injEq] at h
  subst h
  simp

theorem execPairBack_wf {h : Fin 2} {s : State} {t : State} (h : execPairBack h s = .next t) (hw : Memory.wf s.core.1 = true) : Memory.wf t.core.1 = true := by
  simp only [execPairBack, Host.Outcome.next.injEq] at h
  subst h
  simp (maxDischargeDepth := 9) [hw]

@[simp] theorem State.finishLanes_core (s : State) : (State.finishLanes s).core = s.core := by
  unfold State.finishLanes
  dsimp only
  repeat' first | (with_reducible rfl) | (simp ; done) | (simp [State.core]; done) | split | (dsimp only; split) | (refine (foldl_core _ (fun _ _ => ?_) _ _).trans ?_) | (simp ; refine (foldl_core _ (fun _ _ => ?_) _ _).trans ?_)

@[simp] theorem State.emberCut_rest (s : State) : (State.emberCut s).core.2 = s.core.2 := by
  unfold State.emberCut
  repeat' first | (with_reducible rfl) | (simp ; done) | (simp [State.core]; done) | split | (refine (foldl_rest _ (fun _ _ => ?_) _ _).trans ?_) | (dsimp only; split) | (simp ; refine (foldl_rest _ (fun _ _ => ?_) _ _).trans ?_)

@[simp] theorem State.emberCut_wf (s : State) (hw : Memory.wf s.core.1 = true) : Memory.wf (State.emberCut s).core.1 = true := by
  unfold State.emberCut
  repeat' first | (with_reducible assumption) | (simp (maxDischargeDepth := 9) [*]; done) | (simp (maxDischargeDepth := 9) [*, State.core]; done) | split | (refine foldl_wf _ (fun _ _ _ => ?_) _ _ ?_) | (dsimp only; split) | (simp (maxDischargeDepth := 9) [*]; refine foldl_wf _ (fun _ _ _ => ?_) _ _ ?_)

@[simp] theorem State.emberStop_core (s : State) (code : Nat) : (State.emberStop s code).core = s.core := by
  unfold State.emberStop
  exact (withDev_core _ _ rfl).trans ((State.mailStop_core _ _).trans ((State.mailStop_core _ _).trans rfl))

@[simp] theorem State.emberDrop_core (s : State) : (State.emberDrop s).core = s.core := by
  unfold State.emberDrop
  dsimp only
  repeat' first | (with_reducible rfl) | (simp ; done) | (simp [State.core]; done) | split | (dsimp only; split) | (refine (foldl_core _ (fun _ _ => ?_) _ _).trans ?_) | (simp ; refine (foldl_core _ (fun _ _ => ?_) _ _).trans ?_)

@[simp] theorem State.emberWipe_rest (s : State) : (State.emberWipe s).core.2 = s.core.2 := (rfl)

@[simp] theorem State.emberWipe_wf (s : State) (hw : Memory.wf s.core.1 = true) : Memory.wf (State.emberWipe s).core.1 = true := memErase_wf _ _ _ (memErase_wf _ _ _ hw)

@[simp] theorem State.emberChans_core (s : State) : (State.emberChans s).core = s.core := by
  unfold State.emberChans
  repeat' first | (with_reducible rfl) | (simp ; done) | (simp [State.core]; done) | split | (refine (foldl_core _ (fun _ _ => ?_) _ _).trans ?_) | (dsimp only; split) | (simp ; refine (foldl_core _ (fun _ _ => ?_) _ _).trans ?_)

@[simp] theorem State.emberPorts_rest (s : State) : (State.emberPorts s).core.2 = s.core.2 := by
  unfold State.emberPorts
  repeat' first | (with_reducible rfl) | (simp ; done) | (simp [State.core]; done) | split | (refine (foldl_rest _ (fun _ _ => ?_) _ _).trans ?_) | (dsimp only; split) | (simp ; refine (foldl_rest _ (fun _ _ => ?_) _ _).trans ?_)

@[simp] theorem State.emberPorts_wf (s : State) (hw : Memory.wf s.core.1 = true) : Memory.wf (State.emberPorts s).core.1 = true := by
  unfold State.emberPorts
  repeat' first | (with_reducible assumption) | (simp (maxDischargeDepth := 9) [*]; done) | (simp (maxDischargeDepth := 9) [*, State.core]; done) | split | (refine foldl_wf _ (fun _ _ _ => ?_) _ _ ?_) | (dsimp only; split) | (simp (maxDischargeDepth := 9) [*]; refine foldl_wf _ (fun _ _ _ => ?_) _ _ ?_)

@[simp] theorem State.emberStart_rest (s : State) (code : Nat) : (State.emberStart s code).core.2 = s.core.2 := by simp [State.emberStart]

@[simp] theorem State.emberStart_wf (s : State) (code : Nat) (hw : Memory.wf s.core.1 = true) : Memory.wf (State.emberStart s code).core.1 = true := by simp (maxDischargeDepth := 9) [State.emberStart, hw]

@[simp] theorem State.emberTrigger_rest (s : State) (code : Nat) : (State.emberTrigger s code).core.2 = s.core.2 := by
  unfold State.emberTrigger
  repeat' split
  all_goals simp

@[simp] theorem State.emberTrigger_wf (s : State) (code : Nat) (hw : Memory.wf s.core.1 = true) : Memory.wf (State.emberTrigger s code).core.1 = true := by
  unfold State.emberTrigger
  repeat' split
  all_goals simp (maxDischargeDepth := 9) [hw]

theorem execEmber_rest {v : Word} {s : State} {t : State} (h : execEmber v s = .next t) : t.core.2 = s.core.2 := by
  simp only [execEmber] at h
  rcases gateO_cases h with h | h
  · repeat' first | (cases h; done) | (cases h; (with_reducible rfl)) | (cases h; (simp ; done)) | split at h
  · exact congrArg Prod.snd h

theorem execEmber_wf {v : Word} {s : State} {t : State} (h : execEmber v s = .next t) (hw : Memory.wf s.core.1 = true) : Memory.wf t.core.1 = true := by
  simp only [execEmber] at h
  rcases gateO_cases h with h | h
  · repeat' first | (cases h; done) | (cases h; (with_reducible assumption)) | (cases h; (simp (maxDischargeDepth := 9) [*]; done)) | split at h
  · rw [h]; exact hw

theorem execPcieHotReset_rest {s : State} {t : State} (h : execPcieHotReset s = .next t) : t.core.2 = s.core.2 := by
  unfold execPcieHotReset at h
  repeat' split at h
  all_goals simp only [Host.Outcome.next.injEq] at h; subst h; simp

theorem execPcieHotReset_wf {s : State} {t : State} (h : execPcieHotReset s = .next t) (hw : Memory.wf s.core.1 = true) : Memory.wf t.core.1 = true := by
  unfold execPcieHotReset at h
  repeat' split at h
  all_goals simp only [Host.Outcome.next.injEq] at h; subst h; simp (maxDischargeDepth := 9) [hw]

@[simp] theorem State.emberReturn_core (s : State) (e : EmberRun) : (State.emberReturn s e).core = s.core := by simp [State.emberReturn]

@[simp] theorem State.emberCopies_rest (s : State) (copiesOk retainedOk : Bool) : (State.emberCopies s copiesOk retainedOk).core.2 = s.core.2 := by
  unfold State.emberCopies
  repeat' split
  all_goals simp

@[simp] theorem State.emberCopies_wf (s : State) (copiesOk retainedOk : Bool) (hw : Memory.wf s.core.1 = true) : Memory.wf (State.emberCopies s copiesOk retainedOk).core.1 = true := by
  unfold State.emberCopies
  repeat' split
  all_goals simp (maxDischargeDepth := 9) [hw]

@[simp] theorem State.emberStages_rest (s : State) (warm : Bool) (ms : Word) : (State.emberStages s warm ms).core.2 = s.core.2 := by
  unfold State.emberStages
  split <;> simp

@[simp] theorem State.emberStages_wf (s : State) (warm : Bool) (ms : Word) (hw : Memory.wf s.core.1 = true) : Memory.wf (State.emberStages s warm ms).core.1 = true := by
  unfold State.emberStages
  split <;> simp (maxDischargeDepth := 9) [hw]

@[simp] theorem State.emberPeers_core (s : State) : (State.emberPeers s).core = s.core := by
  unfold State.emberPeers
  dsimp only
  repeat' first | (with_reducible rfl) | (simp ; done) | (simp [State.core]; done) | split | (dsimp only; split) | (refine (foldl_core _ (fun _ _ => ?_) _ _).trans ?_) | (simp ; refine (foldl_core _ (fun _ _ => ?_) _ _).trans ?_)

theorem execEmberDone_rest {copiesOk retainedOk : Bool} {ms : Word} {s : State} {t : State} (h : execEmberDone copiesOk retainedOk ms s = .next t) : t.core.2 = s.core.2 := by
  unfold execEmberDone at h
  split at h
  · cases h; rfl
  · simp only [Host.Outcome.next.injEq] at h
    subst h
    simp

theorem execEmberDone_wf {copiesOk retainedOk : Bool} {ms : Word} {s : State} {t : State} (h : execEmberDone copiesOk retainedOk ms s = .next t) (hw : Memory.wf s.core.1 = true) : Memory.wf t.core.1 = true := by
  unfold execEmberDone at h
  split at h
  · cases h; exact hw
  · simp only [Host.Outcome.next.injEq] at h
    subst h
    simp (maxDischargeDepth := 12) [hw]

theorem execEmberSlow_rest {s : State} {t : State} (h : execEmberSlow s = .next t) : t.core.2 = s.core.2 := by
  unfold execEmberSlow at h
  split at h
  all_goals simp only [Host.Outcome.next.injEq] at h; subst h; simp

theorem execEmberSlow_wf {s : State} {t : State} (h : execEmberSlow s = .next t) (hw : Memory.wf s.core.1 = true) : Memory.wf t.core.1 = true := by
  unfold execEmberSlow at h
  split at h
  all_goals simp only [Host.Outcome.next.injEq] at h; subst h; simp (maxDischargeDepth := 9) [hw]

@[simp] theorem State.loseKeys_core (s : State) : (State.loseKeys s).core = s.core := by
  simp only [State.loseKeys]
  repeat' first | (with_reducible rfl) | (simp ; done) | (simp [State.core]; done) | split

@[simp] theorem State.mainOff_core (s : State) : (State.mainOff s).core = s.core := (rfl)

theorem execMainPowerFail_core {rails : BitVec 13} {s : State} {t : State} (h : execMainPowerFail rails s = .next t) : t.core = s.core := by
  unfold execMainPowerFail at h
  split at h
  all_goals simp only [Host.Outcome.next.injEq] at h; subst h; simp

theorem execRailOutOfRange_rest {r : Fin 13} {s : State} {t : State} (h : execRailOutOfRange r s = .next t) : t.core.2 = s.core.2 := by
  unfold execRailOutOfRange at h
  split at h
  all_goals simp only [Host.Outcome.next.injEq] at h; subst h; simp

theorem execRailOutOfRange_wf {r : Fin 13} {s : State} {t : State} (h : execRailOutOfRange r s = .next t) (hw : Memory.wf s.core.1 = true) : Memory.wf t.core.1 = true := by
  unfold execRailOutOfRange at h
  split at h
  all_goals simp only [Host.Outcome.next.injEq] at h; subst h; simp (maxDischargeDepth := 9) [hw]

theorem execLclkFallback_core {s : State} {t : State} (h : execLclkFallback s = .next t) : t.core = s.core := by
  unfold execLclkFallback at h
  split at h
  all_goals simp only [Host.Outcome.next.injEq] at h; subst h; simp

theorem execLclkRestored_core {s : State} {t : State} (h : execLclkRestored s = .next t) : t.core = s.core := by
  unfold execLclkRestored at h
  split at h
  all_goals simp only [Host.Outcome.next.injEq] at h; subst h; simp

@[simp] theorem State.pllLoss_rest (s : State) (strait : Bool) (g : Nat) : (State.pllLoss s strait g).core.2 = s.core.2 := by
  unfold State.pllLoss
  repeat' first | (with_reducible rfl) | (simp ; done) | (simp [State.core]; done) | split | (refine (foldl_rest _ (fun _ _ => ?_) _ _).trans ?_) | (dsimp only; split) | (simp ; refine (foldl_rest _ (fun _ _ => ?_) _ _).trans ?_)

@[simp] theorem State.pllLoss_wf (s : State) (strait : Bool) (g : Nat) (hw : Memory.wf s.core.1 = true) : Memory.wf (State.pllLoss s strait g).core.1 = true := by
  unfold State.pllLoss
  repeat' first | (with_reducible assumption) | (simp (maxDischargeDepth := 9) [*]; done) | (simp (maxDischargeDepth := 9) [*, State.core]; done) | split | (refine foldl_wf _ (fun _ _ _ => ?_) _ _ ?_) | (dsimp only; split) | (simp (maxDischargeDepth := 9) [*]; refine foldl_wf _ (fun _ _ _ => ?_) _ _ ?_)

@[simp] theorem State.clockFail_rest (s : State) (src : ClockSrc) (pll : Bool) : (State.clockFail s src pll).core.2 = s.core.2 := by
  unfold State.clockFail
  dsimp only
  repeat' first | (with_reducible rfl) | (simp ; done) | (simp [State.core]; done) | split | (dsimp only; split) | (refine (foldl_rest _ (fun _ _ => ?_) _ _).trans ?_) | (simp ; refine (foldl_rest _ (fun _ _ => ?_) _ _).trans ?_)

@[simp] theorem State.clockFail_wf (s : State) (src : ClockSrc) (pll : Bool) (hw : Memory.wf s.core.1 = true) : Memory.wf (State.clockFail s src pll).core.1 = true := by
  unfold State.clockFail
  dsimp only
  repeat' first | (with_reducible assumption) | (simp (maxDischargeDepth := 9) [*]; done) | (simp (maxDischargeDepth := 9) [*, State.core]; done) | split | (dsimp only; split) | (refine foldl_wf _ (fun _ _ _ => ?_) _ _ ?_) | (simp (maxDischargeDepth := 9) [*]; refine foldl_wf _ (fun _ _ _ => ?_) _ _ ?_)

theorem execClockMonitorFail_rest {src : ClockSrc} {pll : Bool} {s : State} {t : State} (h : execClockMonitorFail src pll s = .next t) : t.core.2 = s.core.2 := by
  unfold execClockMonitorFail at h
  split at h
  all_goals simp only [Host.Outcome.next.injEq] at h; subst h; simp

theorem execClockMonitorFail_wf {src : ClockSrc} {pll : Bool} {s : State} {t : State} (h : execClockMonitorFail src pll s = .next t) (hw : Memory.wf s.core.1 = true) : Memory.wf t.core.1 = true := by
  unfold execClockMonitorFail at h
  split at h
  all_goals simp only [Host.Outcome.next.injEq] at h; subst h; simp (maxDischargeDepth := 9) [hw]

@[simp] theorem State.stepEclk_core (s : State) (k : Nat) : (State.stepEclk s k).core = s.core := by simp [State.stepEclk]

theorem execEclkSelWrite_core {k : Fin 24} {v : Word} {s : State} {t : State} (h : execEclkSelWrite k v s = .next t) : t.core = s.core := by
  simp only [execEclkSelWrite] at h
  rcases gateO_cases h with h | h
  · repeat' first | (cases h; done) | (cases h; (with_reducible rfl)) | (cases h; (simp ; done)) | split at h
  · exact h

theorem execEclkStepDone_core {k : Fin 24} {s : State} {t : State} (h : execEclkStepDone k s = .next t) : t.core = s.core := by
  unfold execEclkStepDone at h
  dsimp only at h
  split at h
  all_goals simp only [Host.Outcome.next.injEq] at h; subst h; simp

@[simp] theorem State.tempRegs_core (s : State) (t sensor : Nat) : (State.tempRegs s t sensor).core = s.core := by simp [State.tempRegs]

theorem execTempSample_rest {quarterC : Int} {sensor : Byte} {s : State} {t : State} (h : execTempSample quarterC sensor s = .next t) : t.core.2 = s.core.2 := by
  unfold execTempSample at h
  repeat' first | (cases h; done) | (cases h; (with_reducible rfl)) | (cases h; (simp ; done)) | split at h | (dsimp only at h; split at h) | cases h | (with_reducible rfl) | (simp ; done) | split | (refine (foldl_rest _ (fun _ _ => ?_) _ _).trans ?_) | (dsimp only; split) | (simp ; refine (foldl_rest _ (fun _ _ => ?_) _ _).trans ?_)

theorem execTempSample_wf {quarterC : Int} {sensor : Byte} {s : State} {t : State} (h : execTempSample quarterC sensor s = .next t) (hw : Memory.wf s.core.1 = true) : Memory.wf t.core.1 = true := by
  have h1 : Memory.wf ((List.range 24).foldl State.stepEclk (s.tempRegs (quarterC % 4096).toNat sensor.toNat)).core.1 = true :=
    foldl_wf _ (fun _ _ h => by simpa using h) _ _ (by simpa using hw)
  unfold execTempSample at h
  split at h
  · cases h; exact hw
  · simp only [Host.Outcome.next.injEq] at h
    rw [← h]
    split
    · exact State.fault_wf _ _ _ h1
    · exact h1

theorem execTempMaxRead_core {s : State} {t : State} (h : execTempMaxRead s = .next t) : t.core = s.core := by
  simp only [execTempMaxRead, Host.Outcome.next.injEq] at h
  subst h
  simp

@[simp] theorem State.lateImk_core (s : State) : (State.lateImk s).core = s.core := by simp [State.lateImk]

theorem execStartupTestsPassed_core {s : State} {t : State} (h : execStartupTestsPassed s = .next t) : t.core = s.core := by
  unfold execStartupTestsPassed at h
  dsimp only at h
  split at h
  all_goals simp only [Host.Outcome.next.injEq] at h; subst h; simp

@[simp] theorem State.bumpFld_core (s : State) (off lo n : Nat) : (State.bumpFld s off lo n).core = s.core := by simp [State.bumpFld]

theorem execDrbgReseed_core {i : Fin 3} {s : State} {t : State} (h : execDrbgReseed i s = .next t) : t.core = s.core := by
  unfold execDrbgReseed at h
  split at h
  all_goals simp only [Host.Outcome.next.injEq] at h; subst h; simp

@[simp] theorem State.healthFail_rest (s : State) (lo : Nat) : (State.healthFail s lo).core.2 = s.core.2 := by
  unfold State.healthFail
  dsimp only
  split <;> simp

@[simp] theorem State.healthFail_wf (s : State) (lo : Nat) (hw : Memory.wf s.core.1 = true) : Memory.wf (State.healthFail s lo).core.1 = true := by
  unfold State.healthFail
  dsimp only
  split <;> simp (maxDischargeDepth := 9) [hw]

@[simp] theorem State.castFail_rest (s : State) : (State.castFail s).core.2 = s.core.2 := by simp [State.castFail]

@[simp] theorem State.castFail_wf (s : State) (hw : Memory.wf s.core.1 = true) : Memory.wf (State.castFail s).core.1 = true := by simp (maxDischargeDepth := 9) [State.castFail, *]

theorem execHealthTestFail_rest {t : HealthTest} {s : State} {u : State} (h : execHealthTestFail t s = .next u) : u.core.2 = s.core.2 := by
  unfold execHealthTestFail at h
  repeat' split at h
  all_goals cases h
  all_goals first | (with_reducible rfl) | simp

theorem execHealthTestFail_wf {t : HealthTest} {s : State} {u : State} (h : execHealthTestFail t s = .next u) (hw : Memory.wf s.core.1 = true) : Memory.wf u.core.1 = true := by
  unfold execHealthTestFail at h
  repeat' split at h
  all_goals cases h
  all_goals first | (with_reducible exact hw) | simp (maxDischargeDepth := 9) [hw]

theorem execUnseal_rest {tag : Half} {s : State} {t : State} (h : execUnseal tag s = .next t) : t.core.2 = s.core.2 := by
  unfold execUnseal at h
  repeat' split at h
  all_goals simp only [Host.Outcome.next.injEq] at h; subst h; simp

theorem execUnseal_wf {tag : Half} {s : State} {t : State} (h : execUnseal tag s = .next t) (hw : Memory.wf s.core.1 = true) : Memory.wf t.core.1 = true := by
  unfold execUnseal at h
  repeat' split at h
  all_goals simp only [Host.Outcome.next.injEq] at h; subst h; simp (maxDischargeDepth := 9) [hw]

/-! Mailbox. -/

@[simp] theorem State.refuseFree_rest (s : State) (c code : Nat) (tag : Half) : (State.refuseFree s c code tag).core.2 = s.core.2 := by simp [State.refuseFree]

@[simp] theorem State.refuseFree_wf (s : State) (c code : Nat) (tag : Half) (hw : Memory.wf s.core.1 = true) : Memory.wf (State.refuseFree s c code tag).core.1 = true := by simp (maxDischargeDepth := 9) [State.refuseFree, *]

@[simp] theorem State.done_rest (s : State) (c code : Nat) (tag : Half) (payload : List Byte) : (State.done s c code tag payload).core.2 = s.core.2 := by simp [State.done]

@[simp] theorem State.done_wf (s : State) (c code : Nat) (tag : Half) (payload : List Byte) (hw : Memory.wf s.core.1 = true) : Memory.wf (State.done s c code tag payload).core.1 = true := by simp (maxDischargeDepth := 9) [State.done, *]

@[simp] theorem State.keeper_rest (s : State) (code : Nat) (tag : Half) (lenOk : Bool) (go : State → State) (h_go : ∀ s, (go s).core.2 = s.core.2) : (State.keeper s code tag lenOk go).core.2 = s.core.2 := by
  simp only [State.keeper]
  repeat' first | (with_reducible rfl) | (simp [h_go]; done) | (simp [h_go, State.core]; done) | split

@[simp] theorem State.keeper_wf (s : State) (code : Nat) (tag : Half) (lenOk : Bool) (go : State → State) (h_go : ∀ s, Memory.wf s.core.1 = true → Memory.wf (go s).core.1 = true) (hw : Memory.wf s.core.1 = true) : Memory.wf (State.keeper s code tag lenOk go).core.1 = true := by
  simp only [State.keeper]
  repeat' first | (with_reducible assumption) | (simp (maxDischargeDepth := 9) [h_go, *]; done) | (simp (maxDischargeDepth := 9) [h_go, *, State.core]; done) | split

@[simp] theorem State.manager_rest (s : State) (code : Nat) (tag : Half) (lenOk : Bool) (go : State → State) (h_go : ∀ s, (go s).core.2 = s.core.2) : (State.manager s code tag lenOk go).core.2 = s.core.2 := by
  simp only [State.manager]
  repeat' first | (with_reducible rfl) | (simp [h_go]; done) | (simp [h_go, State.core]; done) | split

@[simp] theorem State.manager_wf (s : State) (code : Nat) (tag : Half) (lenOk : Bool) (go : State → State) (h_go : ∀ s, Memory.wf s.core.1 = true → Memory.wf (go s).core.1 = true) (hw : Memory.wf s.core.1 = true) : Memory.wf (State.manager s code tag lenOk go).core.1 = true := by
  simp only [State.manager]
  repeat' first | (with_reducible assumption) | (simp (maxDischargeDepth := 9) [h_go, *]; done) | (simp (maxDischargeDepth := 9) [h_go, *, State.core]; done) | split

theorem execKeyPolicySet_rest {tag : Half} {word mask : Word} {s : State} {t : State} (h : execKeyPolicySet tag word mask s = .next t) : t.core.2 = s.core.2 := by
  simp only [execKeyPolicySet, Host.Outcome.next.injEq] at h
  subst h
  refine State.keeper_rest _ _ _ _ _ (fun s => ?_)
  repeat' first | (with_reducible rfl) | (simp ; done) | split | (dsimp only; split) | (refine (foldl_rest _ (fun _ _ => ?_) _ _).trans ?_) | (simp ; refine (foldl_rest _ (fun _ _ => ?_) _ _).trans ?_)

theorem execKeyPolicySet_wf {tag : Half} {word mask : Word} {s : State} {t : State} (h : execKeyPolicySet tag word mask s = .next t) (hw : Memory.wf s.core.1 = true) : Memory.wf t.core.1 = true := by
  simp only [execKeyPolicySet, Host.Outcome.next.injEq] at h
  subst h
  refine State.keeper_wf _ _ _ _ _ (fun s hw => ?_) hw
  repeat' first | (with_reducible assumption) | (simp (maxDischargeDepth := 9) [*]; done) | split | (dsimp only; split) | (refine foldl_wf _ (fun _ _ _ => ?_) _ _ ?_) | (simp (maxDischargeDepth := 9) [*]; refine foldl_wf _ (fun _ _ _ => ?_) _ _ ?_)

theorem execAnchorSet_rest {tag : Half} {g : Byte} {ec pq : List Byte} {s : State} {t : State} (h : execAnchorSet tag g ec pq s = .next t) : t.core.2 = s.core.2 := by
  simp only [execAnchorSet, Host.Outcome.next.injEq] at h
  subst h
  refine State.keeper_rest _ _ _ _ _ (fun s => ?_)
  repeat' first | (with_reducible rfl) | (simp ; done) | split | (dsimp only; split) | (refine (foldl_rest _ (fun _ _ => ?_) _ _).trans ?_) | (simp ; refine (foldl_rest _ (fun _ _ => ?_) _ _).trans ?_)

theorem execAnchorSet_wf {tag : Half} {g : Byte} {ec pq : List Byte} {s : State} {t : State} (h : execAnchorSet tag g ec pq s = .next t) (hw : Memory.wf s.core.1 = true) : Memory.wf t.core.1 = true := by
  simp only [execAnchorSet, Host.Outcome.next.injEq] at h
  subst h
  refine State.keeper_wf _ _ _ _ _ (fun s hw => ?_) hw
  repeat' first | (with_reducible assumption) | (simp (maxDischargeDepth := 9) [*]; done) | split | (dsimp only; split) | (refine foldl_wf _ (fun _ _ _ => ?_) _ _ ?_) | (simp (maxDischargeDepth := 9) [*]; refine foldl_wf _ (fun _ _ _ => ?_) _ _ ?_)

theorem execImkGet_rest {tag : Half} {s : State} {t : State} (h : execImkGet tag s = .next t) : t.core.2 = s.core.2 := by
  simp only [execImkGet, Host.Outcome.next.injEq] at h
  subst h
  simp

theorem execImkGet_wf {tag : Half} {s : State} {t : State} (h : execImkGet tag s = .next t) (hw : Memory.wf s.core.1 = true) : Memory.wf t.core.1 = true := by
  simp only [execImkGet, Host.Outcome.next.injEq] at h
  subst h
  refine State.keeper_wf _ _ _ _ _ (fun s hw => ?_) hw
  repeat' first | (with_reducible assumption) | (simp (maxDischargeDepth := 9) [*]; done) | split | (dsimp only; split) | (refine foldl_wf _ (fun _ _ _ => ?_) _ _ ?_) | (simp (maxDischargeDepth := 9) [*]; refine foldl_wf _ (fun _ _ _ => ?_) _ _ ?_)

theorem execSaImport_rest {tag : Half} {blob : List Byte} {s : State} {t : State} (h : execSaImport tag blob s = .next t) : t.core.2 = s.core.2 := by
  simp only [execSaImport, Host.Outcome.next.injEq] at h
  subst h
  refine State.keeper_rest _ _ _ _ _ (fun s => ?_)
  repeat' first | (with_reducible rfl) | (simp ; done) | split | (dsimp only; split) | (refine (foldl_rest _ (fun _ _ => ?_) _ _).trans ?_) | (simp ; refine (foldl_rest _ (fun _ _ => ?_) _ _).trans ?_)

theorem execSaImport_wf {tag : Half} {blob : List Byte} {s : State} {t : State} (h : execSaImport tag blob s = .next t) (hw : Memory.wf s.core.1 = true) : Memory.wf t.core.1 = true := by
  simp only [execSaImport, Host.Outcome.next.injEq] at h
  subst h
  refine State.keeper_wf _ _ _ _ _ (fun s hw => ?_) hw
  repeat' first | (with_reducible assumption) | (simp (maxDischargeDepth := 9) [*]; done) | split | (dsimp only; split) | (refine foldl_wf _ (fun _ _ _ => ?_) _ _ ?_) | (simp (maxDischargeDepth := 9) [*]; refine foldl_wf _ (fun _ _ _ => ?_) _ _ ?_)

theorem execAttest_rest {tag : Half} {nonce : List Byte} {s : State} {t : State} (h : execAttest tag nonce s = .next t) : t.core.2 = s.core.2 := by
  simp only [execAttest, Host.Outcome.next.injEq] at h
  subst h
  simp

theorem execAttest_wf {tag : Half} {nonce : List Byte} {s : State} {t : State} (h : execAttest tag nonce s = .next t) (hw : Memory.wf s.core.1 = true) : Memory.wf t.core.1 = true := by
  simp only [execAttest, Host.Outcome.next.injEq] at h
  subst h
  refine State.keeper_wf _ _ _ _ _ (fun s hw => ?_) hw
  repeat' first | (with_reducible assumption) | (simp (maxDischargeDepth := 9) [*]; done) | split | (dsimp only; split) | (refine foldl_wf _ (fun _ _ _ => ?_) _ _ ?_) | (simp (maxDischargeDepth := 9) [*]; refine foldl_wf _ (fun _ _ _ => ?_) _ _ ?_)

theorem execIdentProvision_rest {tag : Half} {subject : List Byte} {s : State} {t : State} (h : execIdentProvision tag subject s = .next t) : t.core.2 = s.core.2 := by
  simp only [execIdentProvision, Host.Outcome.next.injEq] at h
  subst h
  refine State.keeper_rest _ _ _ _ _ (fun s => ?_)
  repeat' first | (with_reducible rfl) | (simp ; done) | split | (dsimp only; split) | (refine (foldl_rest _ (fun _ _ => ?_) _ _).trans ?_) | (simp ; refine (foldl_rest _ (fun _ _ => ?_) _ _).trans ?_)

theorem execIdentProvision_wf {tag : Half} {subject : List Byte} {s : State} {t : State} (h : execIdentProvision tag subject s = .next t) (hw : Memory.wf s.core.1 = true) : Memory.wf t.core.1 = true := by
  simp only [execIdentProvision, Host.Outcome.next.injEq] at h
  subst h
  refine State.keeper_wf _ _ _ _ _ (fun s hw => ?_) hw
  repeat' first | (with_reducible assumption) | (simp (maxDischargeDepth := 9) [*]; done) | split | (dsimp only; split) | (refine foldl_wf _ (fun _ _ _ => ?_) _ _ ?_) | (simp (maxDischargeDepth := 9) [*]; refine foldl_wf _ (fun _ _ _ => ?_) _ _ ?_)

theorem execIdentCertSet_rest {tag : Half} {cert : List Byte} {s : State} {t : State} (h : execIdentCertSet tag cert s = .next t) : t.core.2 = s.core.2 := by
  simp only [execIdentCertSet, Host.Outcome.next.injEq] at h
  subst h
  refine State.keeper_rest _ _ _ _ _ (fun s => ?_)
  repeat' first | (with_reducible rfl) | (simp ; done) | split | (dsimp only; split) | (refine (foldl_rest _ (fun _ _ => ?_) _ _).trans ?_) | (simp ; refine (foldl_rest _ (fun _ _ => ?_) _ _).trans ?_)

theorem execIdentCertSet_wf {tag : Half} {cert : List Byte} {s : State} {t : State} (h : execIdentCertSet tag cert s = .next t) (hw : Memory.wf s.core.1 = true) : Memory.wf t.core.1 = true := by
  simp only [execIdentCertSet, Host.Outcome.next.injEq] at h
  subst h
  refine State.keeper_wf _ _ _ _ _ (fun s hw => ?_) hw
  repeat' first | (with_reducible assumption) | (simp (maxDischargeDepth := 9) [*]; done) | split | (dsimp only; split) | (refine foldl_wf _ (fun _ _ _ => ?_) _ _ ?_) | (simp (maxDischargeDepth := 9) [*]; refine foldl_wf _ (fun _ _ _ => ?_) _ _ ?_)

theorem execIdentGet_rest {tag : Half} {s : State} {t : State} (h : execIdentGet tag s = .next t) : t.core.2 = s.core.2 := by
  simp only [execIdentGet, Host.Outcome.next.injEq] at h
  subst h
  simp

theorem execIdentGet_wf {tag : Half} {s : State} {t : State} (h : execIdentGet tag s = .next t) (hw : Memory.wf s.core.1 = true) : Memory.wf t.core.1 = true := by
  simp only [execIdentGet, Host.Outcome.next.injEq] at h
  subst h
  refine State.keeper_wf _ _ _ _ _ (fun s hw => ?_) hw
  repeat' first | (with_reducible assumption) | (simp (maxDischargeDepth := 9) [*]; done) | split | (dsimp only; split) | (refine foldl_wf _ (fun _ _ _ => ?_) _ _ ?_) | (simp (maxDischargeDepth := 9) [*]; refine foldl_wf _ (fun _ _ _ => ?_) _ _ ?_)

theorem execZeroize_rest {confirm : Word} {s : State} {t : State} (h : execZeroize confirm s = .next t) : t.core.2 = s.core.2 := by
  unfold execZeroize at h
  split at h
  all_goals simp only [Host.Outcome.next.injEq] at h; subst h; simp

theorem execZeroize_wf {confirm : Word} {s : State} {t : State} (h : execZeroize confirm s = .next t) (hw : Memory.wf s.core.1 = true) : Memory.wf t.core.1 = true := by
  simp only [execZeroize, Host.Outcome.next.injEq] at h
  subst h
  refine State.keeper_wf _ _ _ _ _ (fun s hw => ?_) hw
  repeat' first | (with_reducible assumption) | (simp (maxDischargeDepth := 9) [*]; done) | split | (dsimp only; split) | (refine foldl_wf _ (fun _ _ _ => ?_) _ _ ?_) | (simp (maxDischargeDepth := 9) [*]; refine foldl_wf _ (fun _ _ _ => ?_) _ _ ?_)

theorem execRekey_rest {tag : Half} {g : Byte} {chan : Half} {s : State} {t : State} (h : execRekey tag g chan s = .next t) : t.core.2 = s.core.2 := by
  simp only [execRekey, Host.Outcome.next.injEq] at h
  subst h
  refine State.keeper_rest _ _ _ _ _ (fun s => ?_)
  repeat' first | (with_reducible rfl) | (simp ; done) | split | (dsimp only; split) | (refine (foldl_rest _ (fun _ _ => ?_) _ _).trans ?_) | (simp ; refine (foldl_rest _ (fun _ _ => ?_) _ _).trans ?_)

theorem execRekey_wf {tag : Half} {g : Byte} {chan : Half} {s : State} {t : State} (h : execRekey tag g chan s = .next t) (hw : Memory.wf s.core.1 = true) : Memory.wf t.core.1 = true := by
  simp only [execRekey, Host.Outcome.next.injEq] at h
  subst h
  refine State.keeper_wf _ _ _ _ _ (fun s hw => ?_) hw
  repeat' first | (with_reducible assumption) | (simp (maxDischargeDepth := 9) [*]; done) | split | (dsimp only; split) | (refine foldl_wf _ (fun _ _ _ => ?_) _ _ ?_) | (simp (maxDischargeDepth := 9) [*]; refine foldl_wf _ (fun _ _ _ => ?_) _ _ ?_)

theorem execSensePolicySet_rest {tag : Half} {word mask : Word} {s : State} {t : State} (h : execSensePolicySet tag word mask s = .next t) : t.core.2 = s.core.2 := by
  simp only [execSensePolicySet, Host.Outcome.next.injEq] at h
  subst h
  refine State.keeper_rest _ _ _ _ _ (fun s => ?_)
  repeat' first | (with_reducible rfl) | (simp ; done) | split | (dsimp only; split) | (refine (foldl_rest _ (fun _ _ => ?_) _ _).trans ?_) | (simp ; refine (foldl_rest _ (fun _ _ => ?_) _ _).trans ?_)

theorem execSensePolicySet_wf {tag : Half} {word mask : Word} {s : State} {t : State} (h : execSensePolicySet tag word mask s = .next t) (hw : Memory.wf s.core.1 = true) : Memory.wf t.core.1 = true := by
  simp only [execSensePolicySet, Host.Outcome.next.injEq] at h
  subst h
  refine State.keeper_wf _ _ _ _ _ (fun s hw => ?_) hw
  repeat' first | (with_reducible assumption) | (simp (maxDischargeDepth := 9) [*]; done) | split | (dsimp only; split) | (refine foldl_wf _ (fun _ _ _ => ?_) _ _ ?_) | (simp (maxDischargeDepth := 9) [*]; refine foldl_wf _ (fun _ _ _ => ?_) _ _ ?_)

@[simp] theorem State.keeper2_rest (s : State) (code : Nat) (tag : Half) (lenOk : Bool) (go : State → State) (h_go : ∀ s, (go s).core.2 = s.core.2) : (State.keeper2 s code tag lenOk go).core.2 = s.core.2 := by
  simp only [State.keeper2]
  repeat' first | (with_reducible rfl) | (simp [h_go]; done) | (simp [h_go, State.core]; done) | split

@[simp] theorem State.keeper2_wf (s : State) (code : Nat) (tag : Half) (lenOk : Bool) (go : State → State) (h_go : ∀ s, Memory.wf s.core.1 = true → Memory.wf (go s).core.1 = true) (hw : Memory.wf s.core.1 = true) : Memory.wf (State.keeper2 s code tag lenOk go).core.1 = true := by
  simp only [State.keeper2]
  repeat' first | (with_reducible assumption) | (simp (maxDischargeDepth := 9) [h_go, *]; done) | (simp (maxDischargeDepth := 9) [h_go, *, State.core]; done) | split

theorem execLifecycleAdvance_wf {tag : Half} {target : Byte} {confirm : Word} {s : State} {t : State} (h : execLifecycleAdvance tag target confirm s = .next t) (hw : Memory.wf s.core.1 = true) : Memory.wf t.core.1 = true := by
  simp only [execLifecycleAdvance, Host.Outcome.next.injEq] at h
  subst h
  refine State.keeper2_wf _ _ _ _ _ (fun s hw => ?_) hw
  split
  · exact State.done_wf _ _ _ _ _ hw
  · split
    · refine State.done_wf _ _ _ _ _ ?_
      rw [withBoot_fst, State.withVault_core]
      exact State.zeroize__wf _ _ _ hw
    · exact State.refuseFree_wf _ _ _ _ hw

theorem execIntegratorKeySet_wf {tag : Half} {n : Byte} {hash : List Byte} {s : State} {t : State} (h : execIntegratorKeySet tag n hash s = .next t) (hw : Memory.wf s.core.1 = true) : Memory.wf t.core.1 = true := by
  simp only [execIntegratorKeySet, Host.Outcome.next.injEq] at h
  subst h
  refine State.keeper2_wf _ _ _ _ _ (fun s hw => ?_) hw
  repeat' split
  · simp [hw]
  · simp [hw]
  · exact State.done_wf _ _ _ _ _ hw

theorem execIntegratorKeyRevoke_wf {tag : Half} {n : Byte} {s : State} {t : State} (h : execIntegratorKeyRevoke tag n s = .next t) (hw : Memory.wf s.core.1 = true) : Memory.wf t.core.1 = true := by
  simp only [execIntegratorKeyRevoke, Host.Outcome.next.injEq] at h
  subst h
  refine State.keeper2_wf _ _ _ _ _ (fun s hw => ?_) hw
  repeat' split
  · simp [hw]
  · exact State.done_wf _ _ _ _ _ hw

@[simp] theorem State.showFloors_core (s : State) : (State.showFloors s).core = s.core := by simp [State.showFloors]

theorem execFloorSet_wf {tag : Half} {which : Byte} {ver : Word} {s : State} {t : State} (h : execFloorSet tag which ver s = .next t) (hw : Memory.wf s.core.1 = true) : Memory.wf t.core.1 = true := by
  simp only [execFloorSet, Host.Outcome.next.injEq] at h
  subst h
  refine State.keeper2_wf _ _ _ _ _ (fun s hw => ?_) hw
  split
  · exact State.refuseFree_wf _ _ _ _ hw
  · exact State.done_wf _ _ _ _ _ hw

theorem execFwInfo_rest {tag : Half} {s : State} {t : State} (h : execFwInfo tag s = .next t) : t.core.2 = s.core.2 := by
  simp only [execFwInfo, Host.Outcome.next.injEq] at h
  subst h
  simp

theorem execFwInfo_wf {tag : Half} {s : State} {t : State} (h : execFwInfo tag s = .next t) (hw : Memory.wf s.core.1 = true) : Memory.wf t.core.1 = true := by
  simp only [execFwInfo, Host.Outcome.next.injEq] at h
  subst h
  refine State.manager_wf _ _ _ _ _ (fun s hw => ?_) hw
  repeat' first | (with_reducible assumption) | (simp (maxDischargeDepth := 9) [*]; done) | split | (dsimp only; split) | (refine foldl_wf _ (fun _ _ _ => ?_) _ _ ?_) | (simp (maxDischargeDepth := 9) [*]; refine foldl_wf _ (fun _ _ _ => ?_) _ _ ?_)

theorem execFwWrite_rest {tag : Half} {slot : Byte} {off : Word} {bytes : List Byte} {s : State} {t : State} (h : execFwWrite tag slot off bytes s = .next t) : t.core.2 = s.core.2 := by
  simp only [execFwWrite, Host.Outcome.next.injEq] at h
  subst h
  refine State.manager_rest _ _ _ _ _ (fun s => ?_)
  repeat' first | (with_reducible rfl) | (simp ; done) | split | (dsimp only; split) | (refine (foldl_rest _ (fun _ _ => ?_) _ _).trans ?_) | (simp ; refine (foldl_rest _ (fun _ _ => ?_) _ _).trans ?_)

theorem execFwWrite_wf {tag : Half} {slot : Byte} {off : Word} {bytes : List Byte} {s : State} {t : State} (h : execFwWrite tag slot off bytes s = .next t) (hw : Memory.wf s.core.1 = true) : Memory.wf t.core.1 = true := by
  simp only [execFwWrite, Host.Outcome.next.injEq] at h
  subst h
  refine State.manager_wf _ _ _ _ _ (fun s hw => ?_) hw
  repeat' first | (with_reducible assumption) | (simp (maxDischargeDepth := 9) [*]; done) | split | (dsimp only; split) | (refine foldl_wf _ (fun _ _ _ => ?_) _ _ ?_) | (simp (maxDischargeDepth := 9) [*]; refine foldl_wf _ (fun _ _ _ => ?_) _ _ ?_)

theorem execFwVerify_rest {tag : Half} {slot : Byte} {s : State} {t : State} (h : execFwVerify tag slot s = .next t) : t.core.2 = s.core.2 := by
  simp only [execFwVerify, Host.Outcome.next.injEq] at h
  subst h
  refine State.manager_rest _ _ _ _ _ (fun s => ?_)
  repeat' first | (split; · simp) | split
  all_goals first
    | exact (execResetNRelease_rest ‹_›).trans (by simp)
    | simp

theorem execFwVerify_wf {tag : Half} {slot : Byte} {s : State} {t : State} (h : execFwVerify tag slot s = .next t) (hw : Memory.wf s.core.1 = true) : Memory.wf t.core.1 = true := by
  simp only [execFwVerify, Host.Outcome.next.injEq] at h
  subst h
  refine State.manager_wf _ _ _ _ _ (fun s hw => ?_) hw
  repeat' first | (split; · simp [hw]) | split
  all_goals first
    | exact execResetNRelease_wf ‹_› (by simp [hw])
    | simp [hw]

theorem execStoreWrite_rest {tag : Half} {off : Word} {bytes : List Byte} {s : State} {t : State} (h : execStoreWrite tag off bytes s = .next t) : t.core.2 = s.core.2 := by
  unfold execStoreWrite at h
  split at h
  all_goals simp only [Host.Outcome.next.injEq] at h; subst h; simp

theorem execStoreWrite_wf {tag : Half} {off : Word} {bytes : List Byte} {s : State} {t : State} (h : execStoreWrite tag off bytes s = .next t) (hw : Memory.wf s.core.1 = true) : Memory.wf t.core.1 = true := by
  simp only [execStoreWrite, Host.Outcome.next.injEq] at h
  subst h
  refine State.manager_wf _ _ _ _ _ (fun s hw => ?_) hw
  repeat' first | (with_reducible assumption) | (simp (maxDischargeDepth := 9) [*]; done) | split | (dsimp only; split) | (refine foldl_wf _ (fun _ _ _ => ?_) _ _ ?_) | (simp (maxDischargeDepth := 9) [*]; refine foldl_wf _ (fun _ _ _ => ?_) _ _ ?_)

theorem execImagesReload_rest {tag : Half} {s : State} {t : State} (h : execImagesReload tag s = .next t) : t.core.2 = s.core.2 := by
  simp only [execImagesReload, Host.Outcome.next.injEq] at h
  subst h
  refine State.manager_rest _ _ _ _ _ (fun s => ?_)
  repeat' first | (with_reducible rfl) | (simp ; done) | split | (dsimp only; split) | (refine (foldl_rest _ (fun _ _ => ?_) _ _).trans ?_) | (simp ; refine (foldl_rest _ (fun _ _ => ?_) _ _).trans ?_)

theorem execImagesReload_wf {tag : Half} {s : State} {t : State} (h : execImagesReload tag s = .next t) (hw : Memory.wf s.core.1 = true) : Memory.wf t.core.1 = true := by
  simp only [execImagesReload, Host.Outcome.next.injEq] at h
  subst h
  refine State.manager_wf _ _ _ _ _ (fun s hw => ?_) hw
  refine State.done_wf _ _ _ _ _ (State.putImgs_wf _ _ _ _ ?_)
  rw [State.readStore_core]
  exact foldl_wf _ (fun _ _ h => State.endAll_wf _ _ _ h) _ _ hw

theorem execLogRead_rest {tag : Half} {start : Word} {s : State} {t : State} (h : execLogRead tag start s = .next t) : t.core.2 = s.core.2 := by
  simp only [execLogRead, Host.Outcome.next.injEq] at h
  subst h
  simp

theorem execLogRead_wf {tag : Half} {start : Word} {s : State} {t : State} (h : execLogRead tag start s = .next t) (hw : Memory.wf s.core.1 = true) : Memory.wf t.core.1 = true := by
  simp only [execLogRead, Host.Outcome.next.injEq] at h
  subst h
  refine State.manager_wf _ _ _ _ _ (fun s hw => ?_) hw
  repeat' first | (with_reducible assumption) | (simp (maxDischargeDepth := 9) [*]; done) | split | (dsimp only; split) | (refine foldl_wf _ (fun _ _ _ => ?_) _ _ ?_) | (simp (maxDischargeDepth := 9) [*]; refine foldl_wf _ (fun _ _ _ => ?_) _ _ ?_)

end Sys2Proof.Machine
end

