-- ==== Sys2Proof/Laws/FrameUnits.lean ====
section
/-! SUPPORT. What an operation leaves alone: the same for caches, sensing, faults, kilns, power, switching and firmware registers. -/
namespace Sys2Proof.Machine
set_option linter.unusedSimpArgs false

/-! Sense. -/

@[simp] theorem State.senseRekey_core (s : State) (g : Nat) : (State.senseRekey s g).core = s.core := by simp [State.senseRekey]

@[simp] theorem State.latchAlarm_core (s : State) (g act : Nat) (a : Alarm) : (State.latchAlarm s g act a).core = s.core := by
  unfold State.latchAlarm
  split <;> simp

@[simp] theorem State.alarms_rest (s : State) (g : Nat) (peer : Bool) (l : List Alarm) : (State.alarms s g peer l).core.2 = s.core.2 := by
  unfold State.alarms
  dsimp only
  repeat' first | (with_reducible rfl) | (simp ; done) | (simp [State.core]; done) | split | (dsimp only; split) | (refine (foldl_rest _ (fun _ _ => ?_) _ _).trans ?_) | (simp ; refine (foldl_rest _ (fun _ _ => ?_) _ _).trans ?_)

theorem latchAll_core (g act : Nat) (l : List Alarm) (s : State) : (l.foldl (fun s a => s.latchAlarm g act a) s).core = s.core :=
  foldl_core _ (fun _ _ => by simp) _ _

@[simp] theorem State.alarms_wf (s : State) (g : Nat) (peer : Bool) (l : List Alarm) (hw : Memory.wf s.core.1 = true) : Memory.wf (State.alarms s g peer l).core.1 = true := by
  unfold State.alarms
  dsimp only
  repeat' split
  all_goals first
    | (simp only [State.senseRekey_core, latchAll_core]; exact hw)
    | exact State.seal__wf _ _ _ _ (by simp only [latchAll_core]; exact hw)

@[simp] theorem State.setPair_core (s : State) (off : Nat) (v : Int) : (State.setPair s off v).core = s.core := by simp [State.setPair]

@[simp] theorem State.writeMeas_core (s : State) (g : Nat) (m : Meas) : (State.writeMeas s g m).core = s.core := by simp [State.writeMeas]

theorem State.delayTests_core {s : State} {g p : Nat} {m : Meas} {t : State × List Alarm} (h : State.delayTests s g p m = t) : t.1.core = s.core := by
  subst h
  simp [State.delayTests]

theorem State.skewBatch_core {s : State} {g : Nat} {skews : List Int} {armed : Bool} {t : State × List Alarm} (h : State.skewBatch s g skews armed = t) : t.1.core = s.core := by
  subst h
  unfold State.skewBatch
  dsimp only
  refine (State.setSense_core _ _ _).trans ?_
  exact foldl_keep (fun p : State × List Alarm => p.1.core) _ (fun _ _ => by simp) _ _

theorem State.lossBatch_core {s : State} {g : Nat} {t : State × List Alarm} (h : State.lossBatch s g = t) : t.1.core = s.core := by
  subst h
  unfold State.lossBatch
  exact foldl_keep (fun p : State × List Alarm => p.1.core) _ (fun _ _ => by simp) _ _

theorem State.track_core {s : State} {g : Nat} {m : Option Meas} {quiet : Bool} {t : State × List Alarm} (h : State.track s g m quiet = t) : t.1.core = s.core := by
  subst h
  unfold State.track
  dsimp only
  repeat' split
  all_goals simp

theorem State.tsStop_core {s : State} {g : Nat} {t : State × List Alarm} (h : State.tsStop s g = t) : t.1.core = s.core := by
  subst h
  unfold State.tsStop
  refine foldl_keep (fun p : State × List Alarm => p.1.core) _ (fun p n => ?_) _ _
  dsimp only
  split <;> simp

@[simp] theorem State.tsCheck_rest (s : State) : (State.tsCheck s).core.2 = s.core.2 := by
  unfold State.tsCheck
  exact foldl_rest _ (fun s g => by rw [State.alarms_rest, State.tsStop_core (Eq.refl (s.tsStop g))]) _ _

@[simp] theorem State.tsCheck_wf (s : State) (hw : Memory.wf s.core.1 = true) : Memory.wf (State.tsCheck s).core.1 = true := by
  unfold State.tsCheck
  exact foldl_wf _ (fun s g h => State.alarms_wf _ _ _ _ (by rw [State.tsStop_core (Eq.refl (s.tsStop g))]; exact h)) _ _ hw

@[simp] theorem State.rttCheck_core (s : State) (ms : List (Nat × Meas)) : (State.rttCheck s ms).core = s.core := by
  unfold State.rttCheck
  dsimp only
  repeat' first | (with_reducible rfl) | (simp ; done) | (simp [State.core]; done) | split | (dsimp only; split) | (refine (foldl_core _ (fun _ _ => ?_) _ _).trans ?_) | (simp ; refine (foldl_core _ (fun _ _ => ?_) _ _).trans ?_)

theorem State.delayAll_core {s : State} {g : Nat} {ms : List (Nat × Meas)} {t : State × List Alarm} (h : State.delayAll s g ms = t) : t.1.core = s.core := by
  subst h
  have hd : ∀ (p : State × List Alarm) (e : Nat × Meas), ((p.1.delayTests g e.1 e.2).1, p.2 ++ (p.1.delayTests g e.1 e.2).2).1.core = p.1.core :=
    fun p e => State.delayTests_core (t := p.1.delayTests g e.1 e.2) (by with_reducible rfl)
  exact foldl_keep (fun p : State × List Alarm => p.1.core) _ hd ms (s, [])

@[simp] theorem State.refMeas_core (s : State) (g : Nat) : (State.refMeas s g).core = s.core := by
  unfold State.refMeas
  split <;> simp

@[simp] theorem State.batch_rest (s : State) (g : Nat) (skews : List Int) : (State.batch s g skews).core.2 = s.core.2 := by
  have hs : ∀ s : State, (s.tsStop g).1.core = s.core := fun s => State.tsStop_core (Eq.refl _)
  have hl : ∀ s : State, (s.lossBatch g).1.core = s.core := fun s => State.lossBatch_core (Eq.refl _)
  have hk : ∀ (s : State) b, (s.skewBatch g skews b).1.core = s.core := fun s b => State.skewBatch_core (Eq.refl _)
  have ht : ∀ (s : State) m q, (s.track g m q).1.core = s.core := fun s m q => State.track_core (Eq.refl _)
  have hd : ∀ (s : State) ms, (s.delayAll g ms).1.core = s.core := fun s ms => State.delayAll_core (Eq.refl _)
  unfold State.batch
  dsimp only
  repeat' first | (with_reducible rfl) | split
  all_goals simp [hs, hl, hk, ht, hd]

@[simp] theorem State.batch_wf (s : State) (g : Nat) (skews : List Int) (hw : Memory.wf s.core.1 = true) : Memory.wf (State.batch s g skews).core.1 = true := by
  have hs : ∀ s : State, (s.tsStop g).1.core = s.core := fun s => State.tsStop_core (Eq.refl _)
  have hl : ∀ s : State, (s.lossBatch g).1.core = s.core := fun s => State.lossBatch_core (Eq.refl _)
  have hk : ∀ (s : State) b, (s.skewBatch g skews b).1.core = s.core := fun s b => State.skewBatch_core (Eq.refl _)
  have ht : ∀ (s : State) m q, (s.track g m q).1.core = s.core := fun s m q => State.track_core (Eq.refl _)
  have hd : ∀ (s : State) ms, (s.delayAll g ms).1.core = s.core := fun s ms => State.delayAll_core (Eq.refl _)
  unfold State.batch
  dsimp only
  repeat' first | (with_reducible assumption) | split
  all_goals simp (maxDischargeDepth := 9) [hs, hl, hk, ht, hd, hw]

theorem execSensingBatch_rest {g : Fin 8} {skews : List Int} {s : State} {t : State} (h : execSensingBatch g skews s = .next t) : t.core.2 = s.core.2 := by
  simp only [execSensingBatch, Host.Outcome.next.injEq] at h
  subst h
  exact State.batch_rest _ _ _

theorem execSensingBatch_wf {g : Fin 8} {skews : List Int} {s : State} {t : State} (h : execSensingBatch g skews s = .next t) (hw : Memory.wf s.core.1 = true) : Memory.wf t.core.1 = true := by
  simp only [execSensingBatch, Host.Outcome.next.injEq] at h
  subst h
  exact State.batch_wf _ _ _ hw

theorem execBatchMiss_core {g : Fin 8} {s : State} {t : State} (h : execBatchMiss g s = .next t) : t.core = s.core := by
  simp only [execBatchMiss, Host.Outcome.next.injEq] at h
  subst h
  simp

theorem execSenseLost_rest {g : Fin 8} {s : State} {t : State} (h : execSenseLost g s = .next t) : t.core.2 = s.core.2 := by
  unfold execSenseLost at h
  split at h
  all_goals simp only [Host.Outcome.next.injEq] at h; subst h; simp

theorem execSenseLost_wf {g : Fin 8} {s : State} {t : State} (h : execSenseLost g s = .next t) (hw : Memory.wf s.core.1 = true) : Memory.wf t.core.1 = true := by
  unfold execSenseLost at h
  split at h
  all_goals simp only [Host.Outcome.next.injEq] at h; subst h; simp (maxDischargeDepth := 9) [hw]

theorem execLearningEnd_core {g : Fin 8} {s : State} {t : State} (h : execLearningEnd g s = .next t) : t.core = s.core := by
  unfold execLearningEnd at h
  dsimp only at h
  split at h
  all_goals simp only [Host.Outcome.next.injEq] at h; subst h; simp

theorem execAlarmHoldoffEnd_rest {g : Fin 8} {s : State} {t : State} (h : execAlarmHoldoffEnd g s = .next t) : t.core.2 = s.core.2 := by
  unfold execAlarmHoldoffEnd at h
  dsimp only at h
  repeat' split at h
  all_goals simp only [Host.Outcome.next.injEq] at h; subst h; simp

theorem execAlarmHoldoffEnd_wf {g : Fin 8} {s : State} {t : State} (h : execAlarmHoldoffEnd g s = .next t) (hw : Memory.wf s.core.1 = true) : Memory.wf t.core.1 = true := by
  unfold execAlarmHoldoffEnd at h
  dsimp only at h
  repeat' split at h
  all_goals simp only [Host.Outcome.next.injEq] at h; subst h; simp (maxDischargeDepth := 9) [hw]

theorem execEqSnapshot_rest {l : Fin 32} {c : EqCodes} {s : State} {t : State} (h : execEqSnapshot l c s = .next t) : t.core.2 = s.core.2 := by
  unfold execEqSnapshot at h
  dsimp only at h
  repeat' split at h
  all_goals simp only [Host.Outcome.next.injEq] at h; subst h; simp

theorem execEqSnapshot_wf {l : Fin 32} {c : EqCodes} {s : State} {t : State} (h : execEqSnapshot l c s = .next t) (hw : Memory.wf s.core.1 = true) : Memory.wf t.core.1 = true := by
  unfold execEqSnapshot at h
  dsimp only at h
  repeat' split at h
  all_goals simp only [Host.Outcome.next.injEq] at h; subst h; simp (maxDischargeDepth := 9) [hw]

@[simp] theorem State.setSlotOf_core (s : State) (i : Nat) (x : Slot) : (State.setSlotOf s i x).core = s.core := by
  simp only [State.setSlotOf]
  repeat' first | (with_reducible rfl) | (simp ; done) | (simp [State.core]; done) | split

@[simp] theorem State.setSlotHalf_core (s : State) (i off lane : Nat) (v : Int) : (State.setSlotHalf s i off lane v).core = s.core := by simp [State.setSlotHalf]

@[simp] theorem State.selectPage_core (s : State) (i : Nat) : (State.selectPage s i).core = s.core := by simp [State.selectPage]

@[simp] theorem State.slotAnswers_core (s : State) (i : Nat) : (State.slotAnswers s i).core = s.core := by simp [State.slotAnswers]

@[simp] theorem State.slotMiss_rest (s : State) (i : Nat) : (State.slotMiss s i).core.2 = s.core.2 := by
  unfold State.slotMiss
  dsimp only
  split <;> simp

@[simp] theorem State.slotMiss_wf (s : State) (i : Nat) (hw : Memory.wf s.core.1 = true) : Memory.wf (State.slotMiss s i).core.1 = true := by
  unfold State.slotMiss
  dsimp only
  split <;> simp (maxDischargeDepth := 9) [hw]

theorem State.rxPower_core {s : State} {i : Nat} {fast : Bool} {rx : List Byte} {t : State × List Alarm} (h : State.rxPower s i fast rx = t) : t.1.core = s.core := by
  subst h
  unfold State.rxPower
  dsimp only
  refine foldl_keep (fun p : State × List Alarm => p.1.core) _ (fun _ _ => ?_) _ _
  split
  · rfl
  · dsimp only
    split <;> simp

theorem execOpticsFastPoll_rest {i : Fin 32} {r : Option SlotRead} {s : State} {t : State} (h : execOpticsFastPoll i r s = .next t) : t.core.2 = s.core.2 := by
  unfold execOpticsFastPoll at h
  repeat' first | (cases h; done) | (cases h; (with_reducible rfl)) | (cases h; (simp ; done)) | (cases h; (simp [State.rxPower_core ‹State.rxPower _ _ _ _ = _›]; done)) | split at h | (dsimp only at h; split at h) | cases h | (with_reducible rfl) | (simp ; done) | (simp [State.rxPower_core ‹State.rxPower _ _ _ _ = _›]; done) | split | (refine (foldl_rest _ (fun _ _ => ?_) _ _).trans ?_) | (dsimp only; split) | (simp ; refine (foldl_rest _ (fun _ _ => ?_) _ _).trans ?_)

theorem execOpticsFastPoll_wf {i : Fin 32} {r : Option SlotRead} {s : State} {t : State} (h : execOpticsFastPoll i r s = .next t) (hw : Memory.wf s.core.1 = true) : Memory.wf t.core.1 = true := by
  unfold execOpticsFastPoll at h
  repeat' first | (cases h; done) | (cases h; (with_reducible assumption)) | (cases h; (simp (maxDischargeDepth := 9) [*]; done)) | (cases h; (simp (maxDischargeDepth := 9) [*, State.rxPower_core ‹State.rxPower _ _ _ _ = _›]; done)) | split at h | (dsimp only at h; split at h) | cases h | (with_reducible assumption) | (simp (maxDischargeDepth := 9) [*]; done) | (simp (maxDischargeDepth := 9) [*, State.rxPower_core ‹State.rxPower _ _ _ _ = _›]; done) | split | (refine foldl_wf _ (fun _ _ _ => ?_) _ _ ?_) | (dsimp only; split) | (simp (maxDischargeDepth := 9) [*]; refine foldl_wf _ (fun _ _ _ => ?_) _ _ ?_)

theorem execOpticsSlowPoll_rest {i : Fin 32} {r : Option SlotRead} {s : State} {t : State} (h : execOpticsSlowPoll i r s = .next t) : t.core.2 = s.core.2 := by
  have hr : ∀ (s : State) i f rx, (s.rxPower i f rx).1.core = s.core := fun s i f rx => State.rxPower_core (Eq.refl _)
  unfold execOpticsSlowPoll at h
  dsimp only at h
  split at h
  · cases h; rfl
  · split at h
    · simp only [Host.Outcome.next.injEq] at h
      subst h
      simp
    · simp only [Host.Outcome.next.injEq] at h
      subst h
      rw [State.alarms_rest, hr, foldl_core _ (fun _ _ => by split <;> simp), State.setReg_core]
      split <;> simp

theorem execOpticsSlowPoll_wf {i : Fin 32} {r : Option SlotRead} {s : State} {t : State} (h : execOpticsSlowPoll i r s = .next t) (hw : Memory.wf s.core.1 = true) : Memory.wf t.core.1 = true := by
  have hr : ∀ (s : State) i f rx, (s.rxPower i f rx).1.core = s.core := fun s i f rx => State.rxPower_core (Eq.refl _)
  unfold execOpticsSlowPoll at h
  dsimp only at h
  split at h
  · cases h; exact hw
  · split at h
    · simp only [Host.Outcome.next.injEq] at h
      subst h
      simp [hw]
    · simp only [Host.Outcome.next.injEq] at h
      subst h
      refine State.alarms_wf _ _ _ _ ?_
      rw [hr, foldl_core _ (fun _ _ => by split <;> simp), State.setReg_core]
      split <;> simp [hw]

theorem execLostSlotPoll_core {i : Fin 32} {r : Option SlotRead} {s : State} {t : State} (h : execLostSlotPoll i r s = .next t) : t.core = s.core := by
  unfold execLostSlotPoll at h
  split at h
  all_goals simp only [Host.Outcome.next.injEq] at h; subst h; simp

/-! Faults. -/

theorem execRetireCmd_core {h : Fin 2} {v : Word} {s : State} {t : State} (h : execRetireCmd h v s = .next t) : t.core = s.core := by
  simp only [execRetireCmd] at h
  rcases gateO_cases h with h | h
  · repeat' first | (cases h; done) | (cases h; (with_reducible rfl)) | (cases h; (simp ; done)) | split at h
  · exact h

theorem execHbmScrub_rest {h : Fin 2} {f : HbmSweep} {s : State} {t : State} (h : execHbmScrub h f s = .next t) : t.core.2 = s.core.2 := by
  unfold execHbmScrub at h
  repeat' first | (cases h; done) | (cases h; (with_reducible rfl)) | (cases h; (simp ; done)) | split at h | (dsimp only at h; split at h) | cases h | (with_reducible rfl) | (simp ; done) | split | (refine (foldl_rest _ (fun _ _ => ?_) _ _).trans ?_) | (dsimp only; split) | (simp ; refine (foldl_rest _ (fun _ _ => ?_) _ _).trans ?_)

theorem execHbmScrub_wf {h : Fin 2} {f : HbmSweep} {s : State} {t : State} (h : execHbmScrub h f s = .next t) (hw : Memory.wf s.core.1 = true) : Memory.wf t.core.1 = true := by
  unfold execHbmScrub at h
  repeat' first | (cases h; done) | (cases h; (with_reducible assumption)) | (cases h; (simp (maxDischargeDepth := 9) [*]; done)) | split at h | (dsimp only at h; split at h) | cases h | (with_reducible assumption) | (simp (maxDischargeDepth := 9) [*]; done) | split | (refine foldl_wf _ (fun _ _ _ => ?_) _ _ ?_) | (dsimp only; split) | (simp (maxDischargeDepth := 9) [*]; refine foldl_wf _ (fun _ _ _ => ?_) _ _ ?_)

theorem execLighthouseScrub_rest {f : ScrubFinding} {s : State} {t : State} (h : execLighthouseScrub f s = .next t) : t.core.2 = s.core.2 := by
  unfold execLighthouseScrub at h
  repeat' split at h
  all_goals simp only [Host.Outcome.next.injEq] at h; subst h; simp

theorem execLighthouseScrub_wf {f : ScrubFinding} {s : State} {t : State} (h : execLighthouseScrub f s = .next t) (hw : Memory.wf s.core.1 = true) : Memory.wf t.core.1 = true := by
  unfold execLighthouseScrub at h
  repeat' split at h
  all_goals simp only [Host.Outcome.next.injEq] at h; subst h; simp (maxDischargeDepth := 9) [hw]

theorem execEngineScrub_rest {n : Fin 192} {iram : Bool} {f : ScrubFinding} {s : State} {t : State} (h : execEngineScrub n iram f s = .next t) : t.core.2 = s.core.2 := by
  unfold execEngineScrub at h
  dsimp only at h
  repeat' split at h
  all_goals simp only [Host.Outcome.next.injEq] at h; subst h; simp

theorem execEngineScrub_wf {n : Fin 192} {iram : Bool} {f : ScrubFinding} {s : State} {t : State} (h : execEngineScrub n iram f s = .next t) (hw : Memory.wf s.core.1 = true) : Memory.wf t.core.1 = true := by
  unfold execEngineScrub at h
  dsimp only at h
  repeat' split at h
  all_goals simp only [Host.Outcome.next.injEq] at h; subst h; simp (maxDischargeDepth := 9) [hw]

theorem execShmemScrub_rest {k : Fin 24} {f : ScrubFinding} {s : State} {t : State} (h : execShmemScrub k f s = .next t) : t.core.2 = s.core.2 := by
  unfold execShmemScrub at h
  repeat' split at h
  all_goals simp only [Host.Outcome.next.injEq] at h; subst h; simp

theorem execShmemScrub_wf {k : Fin 24} {f : ScrubFinding} {s : State} {t : State} (h : execShmemScrub k f s = .next t) (hw : Memory.wf s.core.1 = true) : Memory.wf t.core.1 = true := by
  unfold execShmemScrub at h
  repeat' split at h
  all_goals simp only [Host.Outcome.next.injEq] at h; subst h; simp (maxDischargeDepth := 9) [hw]

@[simp] theorem State.kilnPatch_rest (s : State) (k : Nat) : (State.kilnPatch s k).core.2 = s.core.2 := by
  unfold State.kilnPatch
  split <;> simp

@[simp] theorem State.kilnPatch_wf (s : State) (k : Nat) (hw : Memory.wf s.core.1 = true) : Memory.wf (State.kilnPatch s k).core.1 = true := by
  unfold State.kilnPatch
  split <;> simp (maxDischargeDepth := 9) [hw]

@[simp] theorem State.controlStore_rest (s : State) (k : Nat) (patchRam : Bool) : (State.controlStore s k patchRam).core.2 = s.core.2 := by
  unfold State.controlStore
  dsimp only
  split
  · simp
  · rw [State.withKiln_core]
    simp

@[simp] theorem State.controlStore_wf (s : State) (k : Nat) (patchRam : Bool) (hw : Memory.wf s.core.1 = true) : Memory.wf (State.controlStore s k patchRam).core.1 = true := by
  unfold State.controlStore
  dsimp only
  split
  · simp (maxDischargeDepth := 9) [hw]
  · rw [State.withKiln_core]
    simp (maxDischargeDepth := 9) [hw]

theorem execControlStoreCheck_rest {k : Fin 24} {f : ScrubFinding} {s : State} {t : State} (h : execControlStoreCheck k f s = .next t) : t.core.2 = s.core.2 := by
  unfold execControlStoreCheck at h
  repeat' split at h
  all_goals
    simp only [Host.Outcome.next.injEq] at h
    subst h
    first | with_reducible rfl | exact State.controlStore_rest _ _ _

theorem execControlStoreCheck_wf {k : Fin 24} {f : ScrubFinding} {s : State} {t : State} (h : execControlStoreCheck k f s = .next t) (hw : Memory.wf s.core.1 = true) : Memory.wf t.core.1 = true := by
  unfold execControlStoreCheck at h
  repeat' split at h
  all_goals
    simp only [Host.Outcome.next.injEq] at h
    subst h
    first | with_reducible exact hw | exact State.controlStore_wf _ _ _ hw

@[simp] theorem State.badSlot_core (s : State) (d c : Nat) : (State.badSlot s d c).core = s.core := by simp [State.badSlot]

@[simp] theorem State.laneLine_rest (s : State) (d n b : Nat) (chans : List Nat) : (State.laneLine s d n b chans).core.2 = s.core.2 := by
  unfold State.laneLine
  dsimp only
  repeat' first | (with_reducible rfl) | (simp ; done) | (simp [State.core]; done) | split | (dsimp only; split) | (refine (foldl_rest _ (fun _ _ => ?_) _ _).trans ?_) | (simp ; refine (foldl_rest _ (fun _ _ => ?_) _ _).trans ?_)

@[simp] theorem State.laneLine_wf (s : State) (d n b : Nat) (chans : List Nat) (hw : Memory.wf s.core.1 = true) : Memory.wf (State.laneLine s d n b chans).core.1 = true := by
  unfold State.laneLine
  dsimp only
  repeat' first | (with_reducible assumption) | (simp (maxDischargeDepth := 9) [*]; done) | (simp (maxDischargeDepth := 9) [*, State.core]; done) | split | (dsimp only; split) | (refine foldl_wf _ (fun _ _ _ => ?_) _ _ ?_) | (simp (maxDischargeDepth := 9) [*]; refine foldl_wf _ (fun _ _ _ => ?_) _ _ ?_)

@[simp] theorem State.closeAll_core (s : State) (chans : List Nat) : (State.closeAll s chans).core = s.core := by
  unfold State.closeAll
  repeat' first | (with_reducible rfl) | (simp ; done) | (simp [State.core]; done) | split | (refine (foldl_core _ (fun _ _ => ?_) _ _).trans ?_) | (dsimp only; split) | (simp ; refine (foldl_core _ (fun _ _ => ?_) _ _).trans ?_)

theorem setGaps_core (l : List Nat) (s : State) : (l.foldl State.setGap s).core = s.core := foldl_core _ (fun _ _ => by simp) _ _

@[simp] theorem State.bufUe_rest (s : State) (strait : Bool) (g : Nat) : (State.bufUe s strait g).core.2 = s.core.2 := by
  unfold State.bufUe
  dsimp only
  split <;> simp

@[simp] theorem State.bufUe_wf (s : State) (strait : Bool) (g : Nat) (hw : Memory.wf s.core.1 = true) : Memory.wf (State.bufUe s strait g).core.1 = true := by
  unfold State.bufUe
  dsimp only
  split <;> simp (maxDischargeDepth := 9) [hw]

@[simp] theorem State.line_rest (s : State) (p : Page) (b : Nat) (chans : List Nat) : (State.line s p b chans).core.2 = s.core.2 := by
  unfold State.line
  cases p <;> dsimp only
  case asx => split <;> simp [setGaps_core]
  case qmg => split <;> simp
  case vlt => split <;> simp
  case drb => repeat' split
              all_goals simp
  case kln => repeat' split
              all_goals simp
  all_goals first | (simp; done) | (split <;> simp)

@[simp] theorem State.line_wf (s : State) (p : Page) (b : Nat) (chans : List Nat) (hw : Memory.wf s.core.1 = true) : Memory.wf (State.line s p b chans).core.1 = true := by
  unfold State.line
  cases p <;> dsimp only
  case asx => split <;> simp [setGaps_core, hw]
  case qmg => split <;> simp [hw]
  case vlt => split <;> simp [hw]
  case drb => repeat' split
              all_goals simp [hw]
  case kln => repeat' split
              all_goals simp [hw]
  all_goals first | (simp [hw]; done) | (split <;> simp [hw])

theorem execFaultLineAssert_rest {p : Page} {bit : Fin 6} {chans : List (Fin 8192)} {s : State} {t : State} (h : execFaultLineAssert p bit chans s = .next t) : t.core.2 = s.core.2 := by
  unfold execFaultLineAssert at h
  split at h
  all_goals simp only [Host.Outcome.next.injEq] at h; subst h; simp

theorem execFaultLineAssert_wf {p : Page} {bit : Fin 6} {chans : List (Fin 8192)} {s : State} {t : State} (h : execFaultLineAssert p bit chans s = .next t) (hw : Memory.wf s.core.1 = true) : Memory.wf t.core.1 = true := by
  unfold execFaultLineAssert at h
  split at h
  all_goals simp only [Host.Outcome.next.injEq] at h; subst h; simp (maxDischargeDepth := 9) [hw]

@[simp] theorem State.inject_rest (s : State) (p : Page) (b : Nat) : (State.inject s p b).core.2 = s.core.2 := by
  unfold State.inject
  dsimp only
  repeat' split
  all_goals simp

@[simp] theorem State.inject_wf (s : State) (p : Page) (b : Nat) (hw : Memory.wf s.core.1 = true) : Memory.wf (State.inject s p b).core.1 = true := by
  unfold State.inject
  dsimp only
  repeat' split
  all_goals simp (maxDischargeDepth := 9) [hw]

theorem execFaultInj_rest {p : Page} {v : Word} {s : State} {t : State} (h : execFaultInj p v s = .next t) : t.core.2 = s.core.2 := by
  unfold execFaultInj at h
  rcases gateA_cases h with h | h
  · repeat' first | (cases h; done) | (cases h; (with_reducible rfl)) | (cases h; (simp ; done)) | split at h | (dsimp only at h; split at h) | cases h | (with_reducible rfl) | (simp ; done) | split | (refine (foldl_rest _ (fun _ _ => ?_) _ _).trans ?_) | (dsimp only; split) | (simp ; refine (foldl_rest _ (fun _ _ => ?_) _ _).trans ?_)
  · exact congrArg Prod.snd h

theorem execFaultInj_wf {p : Page} {v : Word} {s : State} {t : State} (h : execFaultInj p v s = .next t) (hw : Memory.wf s.core.1 = true) : Memory.wf t.core.1 = true := by
  unfold execFaultInj at h
  rcases gateA_cases h with h | h
  · repeat' first | (cases h; done) | (cases h; (with_reducible assumption)) | (cases h; (simp (maxDischargeDepth := 9) [*]; done)) | split at h | (dsimp only at h; split at h) | cases h | (with_reducible assumption) | (simp (maxDischargeDepth := 9) [*]; done) | split | (refine foldl_wf _ (fun _ _ _ => ?_) _ _ ?_) | (dsimp only; split) | (simp (maxDischargeDepth := 9) [*]; refine foldl_wf _ (fun _ _ _ => ?_) _ _ ?_)
  · rw [h]; exact hw

/-! Kiln. -/

@[simp] theorem State.fwWrite_core (s : State) : (State.fwWrite s).core = s.core := by simp [State.fwWrite]

@[simp] theorem State.ignored_core (s : State) (k : Nat) (a : Agent) : (State.ignored s k a).core = s.core := by
  unfold State.ignored
  split <;> simp

@[simp] theorem State.setDma_core (s : State) (k ch : Nat) (d : Dma) : (State.setDma s k ch d).core = s.core := by simp [State.setDma]

@[simp] theorem State.dmaStatus_core (s : State) (k ch st cause kind : Nat) : (State.dmaStatus s k ch st cause kind).core = s.core := by simp [State.dmaStatus]

@[simp] theorem State.dmaLine_core (s : State) (k ch i : Nat) : (State.dmaLine s k ch i).core = s.core := by simp [State.dmaLine]

@[simp] theorem State.dmaStart_core (s : State) (k ch : Nat) (a : Agent) : (State.dmaStart s k ch a).core = s.core := by simp [State.dmaStart]

theorem execDmaGo_core {k : Fin 24} {ch : Fin 8} {a : Agent} {s : State} {t : State} (h : execDmaGo k ch a s = .next t) : t.core = s.core := by
  unfold execDmaGo at h
  split at h
  all_goals simp only [Host.Outcome.next.injEq] at h; subst h; simp

@[simp] theorem State.setHash_core (s : State) (k h : Nat) (x : Hash) : (State.setHash s k h x).core = s.core := by simp [State.setHash]

@[simp] theorem State.hashBegin_core (s : State) (k h : Nat) (a : Agent) (v : Word) : (State.hashBegin s k h a v).core = s.core := by simp [State.hashBegin]

@[simp] theorem State.hashCtrl_core (s : State) (k h : Nat) (a : Agent) (v : Word) : (State.hashCtrl s k h a v).core = s.core := by simp [State.hashCtrl]

theorem execHashStart_core {k : Fin 24} {h : Fin 4} {a : Agent} {v : Word} {s : State} {t : State} (h : execHashStart k h a v s = .next t) : t.core = s.core := by
  simp only [execHashStart, Host.Outcome.next.injEq] at h
  subst h
  simp

@[simp] theorem State.hashIn_core (s : State) (k h : Nat) (l : List Byte) : (State.hashIn s k h l).core = s.core := by simp [State.hashIn]

@[simp] theorem State.hashFree_core (s : State) (k h : Nat) (a : Agent) (v : Word) : (State.hashFree s k h a v).core = s.core := by simp [State.hashFree]

theorem execHsRelease_core {k : Fin 24} {h : Fin 4} {a : Agent} {v : Word} {s : State} {t : State} (h : execHsRelease k h a v s = .next t) : t.core = s.core := by
  simp only [execHsRelease, Host.Outcome.next.injEq] at h
  subst h
  simp

@[simp] theorem State.hashOut_core (s : State) (k h : Nat) (l : List Byte) : (State.hashOut s k h l).core = s.core := by
  unfold State.hashOut
  repeat' first | (with_reducible rfl) | (simp ; done) | (simp [State.core]; done) | split | (refine (foldl_core _ (fun _ _ => ?_) _ _).trans ?_) | (dsimp only; split) | (simp ; refine (foldl_core _ (fun _ _ => ?_) _ _).trans ?_)

@[simp] theorem State.hashToPort_core (s : State) (k : Nat) (o : Option (Nat × Nat)) (l : List Byte) : (State.hashToPort s k o l).core = s.core := by
  unfold State.hashToPort
  repeat' split
  all_goals simp

@[simp] theorem State.hashLine_core (s : State) (k : Nat) (o : Option (Nat × Nat)) : (State.hashLine s k o).core = s.core := by
  unfold State.hashLine
  repeat' split
  all_goals simp

theorem execHashDone_core {k : Fin 24} {h : Fin 4} {s : State} {t : State} (h : execHashDone k h s = .next t) : t.core = s.core := by
  unfold execHashDone at h
  dsimp only at h
  repeat' split at h
  all_goals simp only [Host.Outcome.next.injEq] at h; subst h; simp

@[simp] theorem State.hashStreamBy_core (s : State) (k h : Nat) (o : Nat × Nat) : (State.hashStreamBy s k h o).2.core = s.core := by
  unfold State.hashStreamBy
  dsimp only
  split <;> simp

theorem State.hashStream_core {s : State} {k h : Nat} {a : Agent} {t : Word × State} (h : State.hashStream s k h a = t) : t.2.core = s.core := by
  subst h
  exact State.hashStreamBy_core _ _ _ _

@[simp] theorem State.kpUse_core (s : State) (n : Nat) (a : Agent) (go : State → State) (h_go : ∀ s, (go s).core = s.core) : (State.kpUse s n a go).core = s.core := by
  simp only [State.kpUse]
  repeat' first | (with_reducible rfl) | (simp [h_go]; done) | (simp [h_go, State.core]; done) | split

@[simp] theorem State.kpWrite_core (s : State) (n o : Nat) (a : Agent) (v : Word) : (State.kpWrite s n o a v).core = s.core := by simp [State.kpWrite]

@[simp] theorem State.kpNext_core (s : State) (n : Nat) : (State.kpNext s n).2.core = s.core := by simp [State.kpNext]

theorem State.kpTake_core {s : State} {n : Nat} {a : Agent} {t : Word × State} (h : State.kpTake s n a = t) : t.2.core = s.core := by
  subst h
  unfold State.kpTake
  repeat' split
  all_goals simp

@[simp] theorem State.kpDmaBar_core (s : State) (k : Nat) (d : Dma) (e : Nat) : (State.kpDmaBar s k d e).core = s.core := by
  unfold State.kpDmaBar
  split <;> simp

@[simp] theorem State.fifoTake_core (s : State) (k : Nat) (d : Dma) (f : Nat × Nat) : (State.fifoTake s k d f).2.core = s.core := by
  unfold State.fifoTake
  repeat' split
  all_goals simp

@[simp] theorem State.fifoPut_core (s : State) (k : Nat) (d : Dma) (f : Nat × Nat) (l : List Byte) : (State.fifoPut s k d f l).core = s.core := by
  unfold State.fifoPut
  repeat' split
  all_goals simp

theorem State.fifoBytes_core (k : Nat) (d : Dma) (f : Nat × Nat) : ∀ (n : Nat) (s : State), (State.fifoBytes s k d f n).2.core = s.core
  | 0, _ => rfl
  | n + 1, s => by
    unfold State.fifoBytes
    exact (State.fifoBytes_core k d f n _).trans (State.fifoTake_core s k d f)

theorem State.dmaFrom_core {s : State} {k : Nat} {d : Dma} {src len : Nat} {t : List Byte × State} (h : State.dmaFrom s k d src len = t) : t.2.core = s.core := by
  subst h
  unfold State.dmaFrom
  split
  · rfl
  · exact State.fifoBytes_core _ _ _ _ _
  · rfl

@[simp] theorem State.dmaTo_rest (s : State) (k : Nat) (d : Dma) (src dst len flags : Nat) (bytes : List Byte) : (State.dmaTo s k d src dst len flags bytes).core.2 = s.core.2 := by
  unfold State.dmaTo
  dsimp only
  split <;> simp

@[simp] theorem State.dmaTo_wf (s : State) (k : Nat) (d : Dma) (src dst len flags : Nat) (bytes : List Byte) (hw : Memory.wf s.core.1 = true) : Memory.wf (State.dmaTo s k d src dst len flags bytes).core.1 = true := by
  unfold State.dmaTo
  dsimp only
  split <;> simp (maxDischargeDepth := 9) [hw]

@[simp] theorem State.dmaCopy_rest (s : State) (k : Nat) (d : Dma) (src dst len flags : Nat) : (State.dmaCopy s k d src dst len flags).core.2 = s.core.2 := by
  unfold State.dmaCopy
  repeat' first | (with_reducible rfl) | (simp ; done) | (simp [State.dmaFrom_core ‹State.dmaFrom _ _ _ _ _ = _›]; done) | (simp [State.core]; done) | split | (refine (foldl_rest _ (fun _ _ => ?_) _ _).trans ?_) | (dsimp only; split) | (simp ; refine (foldl_rest _ (fun _ _ => ?_) _ _).trans ?_)

@[simp] theorem State.dmaCopy_wf (s : State) (k : Nat) (d : Dma) (src dst len flags : Nat) (hw : Memory.wf s.core.1 = true) : Memory.wf (State.dmaCopy s k d src dst len flags).core.1 = true := by
  unfold State.dmaCopy
  repeat' first | (with_reducible assumption) | (simp (maxDischargeDepth := 9) [*]; done) | (simp (maxDischargeDepth := 9) [*, State.dmaFrom_core ‹State.dmaFrom _ _ _ _ _ = _›]; done) | (simp (maxDischargeDepth := 9) [*, State.core]; done) | split | (refine foldl_wf _ (fun _ _ _ => ?_) _ _ ?_) | (dsimp only; split) | (simp (maxDischargeDepth := 9) [*]; refine foldl_wf _ (fun _ _ _ => ?_) _ _ ?_)

@[simp] theorem State.dmaFault_core (s : State) (k ch kind : Nat) : (State.dmaFault s k ch kind).core = s.core := by simp [State.dmaFault]

@[simp] theorem State.dmaPart_rest (s : State) (k ch : Nat) : (State.dmaPart s k ch).core.2 = s.core.2 := by
  unfold State.dmaPart
  dsimp only
  repeat' split
  all_goals simp

@[simp] theorem State.dmaPart_wf (s : State) (k ch : Nat) (hw : Memory.wf s.core.1 = true) : Memory.wf (State.dmaPart s k ch).core.1 = true := by
  unfold State.dmaPart
  dsimp only
  repeat' split
  all_goals simp (maxDischargeDepth := 9) [hw]

theorem execDmaEntryDone_rest {k : Fin 24} {ch : Fin 8} {memErr : Bool} {s : State} {t : State} (h : execDmaEntryDone k ch memErr s = .next t) : t.core.2 = s.core.2 := by
  unfold execDmaEntryDone at h
  dsimp only at h
  repeat' split at h
  all_goals simp only [Host.Outcome.next.injEq] at h; subst h; simp

theorem execDmaEntryDone_wf {k : Fin 24} {ch : Fin 8} {memErr : Bool} {s : State} {t : State} (h : execDmaEntryDone k ch memErr s = .next t) (hw : Memory.wf s.core.1 = true) : Memory.wf t.core.1 = true := by
  unfold execDmaEntryDone at h
  dsimp only at h
  repeat' split at h
  all_goals simp only [Host.Outcome.next.injEq] at h; subst h; simp (maxDischargeDepth := 9) [hw]

@[simp] theorem State.dmaStop_rest (s : State) (k ch cause : Nat) : (State.dmaStop s k ch cause).core.2 = s.core.2 := by
  unfold State.dmaStop
  split <;> simp

@[simp] theorem State.dmaStop_wf (s : State) (k ch cause : Nat) (hw : Memory.wf s.core.1 = true) : Memory.wf (State.dmaStop s k ch cause).core.1 = true := by
  unfold State.dmaStop
  split <;> simp (maxDischargeDepth := 9) [hw]

theorem execDmaStop_rest {k : Fin 24} {ch : Fin 8} {a : Agent} {s : State} {t : State} (h : execDmaStop k ch a s = .next t) : t.core.2 = s.core.2 := by
  unfold execDmaStop at h
  dsimp only at h
  repeat' split at h
  all_goals simp only [Host.Outcome.next.injEq] at h; subst h; simp

theorem execDmaStop_wf {k : Fin 24} {ch : Fin 8} {a : Agent} {s : State} {t : State} (h : execDmaStop k ch a s = .next t) (hw : Memory.wf s.core.1 = true) : Memory.wf t.core.1 = true := by
  unfold execDmaStop at h
  dsimp only at h
  repeat' split at h
  all_goals simp only [Host.Outcome.next.injEq] at h; subst h; simp (maxDischargeDepth := 9) [hw]

@[simp] theorem State.dmaGoOn_core (s : State) (k ch : Nat) : (State.dmaGoOn s k ch).core = s.core := by simp [State.dmaGoOn]

theorem execDmaResume_core {k : Fin 24} {ch : Fin 8} {a : Agent} {s : State} {t : State} (h : execDmaResume k ch a s = .next t) : t.core = s.core := by
  unfold execDmaResume at h
  split at h
  all_goals simp only [Host.Outcome.next.injEq] at h; subst h; simp

@[simp] theorem State.dmaAbort_rest (s : State) (k : Nat) (e : Option Nat) : (State.dmaAbort s k e).core.2 = s.core.2 := by
  unfold State.dmaAbort
  dsimp only
  repeat' first | (with_reducible rfl) | (simp ; done) | (simp [State.core]; done) | split | (dsimp only; split) | (refine (foldl_rest _ (fun _ _ => ?_) _ _).trans ?_) | (simp ; refine (foldl_rest _ (fun _ _ => ?_) _ _).trans ?_)

@[simp] theorem State.dmaAbort_wf (s : State) (k : Nat) (e : Option Nat) (hw : Memory.wf s.core.1 = true) : Memory.wf (State.dmaAbort s k e).core.1 = true := by
  unfold State.dmaAbort
  dsimp only
  repeat' first | (with_reducible assumption) | (simp (maxDischargeDepth := 9) [*]; done) | (simp (maxDischargeDepth := 9) [*, State.core]; done) | split | (dsimp only; split) | (refine foldl_wf _ (fun _ _ _ => ?_) _ _ ?_) | (simp (maxDischargeDepth := 9) [*]; refine foldl_wf _ (fun _ _ _ => ?_) _ _ ?_)

@[simp] theorem State.queueSet_core (s : State) (k q off : Nat) (v : Word) : (State.queueSet s k q off v).core = s.core := by simp [State.queueSet]

@[simp] theorem State.queueWrite_core (s : State) (k q o : Nat) (a : Agent) (v : Word) : (State.queueWrite s k q o a v).core = s.core := by simp [State.queueWrite]

theorem execQTailDoorbell_core {h : Fin 2} {k : Fin 24} {q : Fin 4} {v : Word} {s : State} {t : State} (h : execQTailDoorbell h k q v s = .next t) : t.core = s.core := by
  simp only [execQTailDoorbell, Host.Outcome.next.injEq] at h
  subst h
  simp

theorem execJobDispatch_rest {k : Fin 24} {s : State} {t : State} (h : execJobDispatch k s = .next t) : t.core.2 = s.core.2 := by
  simp only [execJobDispatch, Host.Outcome.next.injEq] at h
  subst h
  simp

theorem execJobDispatch_wf {k : Fin 24} {s : State} {t : State} (h : execJobDispatch k s = .next t) (hw : Memory.wf s.core.1 = true) : Memory.wf t.core.1 = true := by
  simp only [execJobDispatch, Host.Outcome.next.injEq] at h
  subst h
  simp (maxDischargeDepth := 9) [hw]

theorem execJobTimeout_rest {n : Fin 192} {ctx : Fin 64} {s : State} {t : State} (h : execJobTimeout n ctx s = .next t) : t.core.2 = s.core.2 := by
  unfold execJobTimeout at h
  split at h
  all_goals simp only [Host.Outcome.next.injEq] at h; subst h; simp

theorem execJobTimeout_wf {n : Fin 192} {ctx : Fin 64} {s : State} {t : State} (h : execJobTimeout n ctx s = .next t) (hw : Memory.wf s.core.1 = true) : Memory.wf t.core.1 = true := by
  unfold execJobTimeout at h
  split at h
  all_goals simp only [Host.Outcome.next.injEq] at h; subst h; simp (maxDischargeDepth := 9) [hw]

@[simp] theorem State.resumeCtx_rest (s : State) (n c : Nat) : (State.resumeCtx s n c).core.2 = s.core.2 := by simp [State.resumeCtx]

@[simp] theorem State.resumeCtx_wf (s : State) (n c : Nat) (hw : Memory.wf s.core.1 = true) : Memory.wf (State.resumeCtx s n c).core.1 = true := by simp (maxDischargeDepth := 9) [State.resumeCtx, *]

@[simp] theorem State.killCtx_rest (s : State) (n c : Nat) : (State.killCtx s n c).core.2 = s.core.2 := by
  unfold State.killCtx
  split <;> simp

@[simp] theorem State.killCtx_wf (s : State) (n c : Nat) (hw : Memory.wf s.core.1 = true) : Memory.wf (State.killCtx s n c).core.1 = true := by
  unfold State.killCtx
  split <;> simp (maxDischargeDepth := 9) [hw]

theorem execResume_rest {_h : Fin 2} {n : Fin 192} {ctx : Fin 64} {s : State} {t : State} (h : execResume _h n ctx s = .next t) : t.core.2 = s.core.2 := by
  simp only [execResume, Host.Outcome.next.injEq] at h
  subst h
  simp

theorem execResume_wf {_h : Fin 2} {n : Fin 192} {ctx : Fin 64} {s : State} {t : State} (h : execResume _h n ctx s = .next t) (hw : Memory.wf s.core.1 = true) : Memory.wf t.core.1 = true := by
  simp only [execResume, Host.Outcome.next.injEq] at h
  subst h
  simp (maxDischargeDepth := 9) [hw]

theorem execKill_rest {_h : Fin 2} {n : Fin 192} {ctx : Fin 64} {s : State} {t : State} (h : execKill _h n ctx s = .next t) : t.core.2 = s.core.2 := by
  simp only [execKill, Host.Outcome.next.injEq] at h
  subst h
  simp

theorem execKill_wf {_h : Fin 2} {n : Fin 192} {ctx : Fin 64} {s : State} {t : State} (h : execKill _h n ctx s = .next t) (hw : Memory.wf s.core.1 = true) : Memory.wf t.core.1 = true := by
  simp only [execKill, Host.Outcome.next.injEq] at h
  subst h
  simp (maxDischargeDepth := 9) [hw]

@[simp] theorem State.engBell_core (s : State) (k : Nat) (v : Word) : (State.engBell s k v).core = s.core := by
  unfold State.engBell
  repeat' first | (with_reducible rfl) | (simp ; done) | (simp [State.core]; done) | split | (refine (foldl_core _ (fun _ _ => ?_) _ _).trans ?_) | (dsimp only; split) | (simp ; refine (foldl_core _ (fun _ _ => ?_) _ _).trans ?_)

theorem execEngDoorbell_core {_h : Fin 2} {k : Fin 24} {v : Word} {s : State} {t : State} (h : execEngDoorbell _h k v s = .next t) : t.core = s.core := by
  simp only [execEngDoorbell, Host.Outcome.next.injEq] at h
  subst h
  simp

theorem execTimerCmpMatch_core {k : Fin 24} {s : State} {t : State} (h : execTimerCmpMatch k s = .next t) : t.core = s.core := by
  unfold execTimerCmpMatch at h
  repeat' first | (cases h; done) | (cases h; (with_reducible rfl)) | (cases h; (simp ; done)) | split at h | (dsimp only at h; split at h) | cases h | (with_reducible rfl) | (simp ; done) | split | (refine (foldl_core _ (fun _ _ => ?_) _ _).trans ?_) | (dsimp only; split) | (simp ; refine (foldl_core _ (fun _ _ => ?_) _ _).trans ?_)

@[simp] theorem State.klnHashWrite_core (s : State) (k o h r : Nat) (a : Agent) (v : Word) : (State.klnHashWrite s k o h r a v).core = s.core := by simp [State.klnHashWrite]

@[simp] theorem State.klnDmaCtrl_rest (s : State) (k ch : Nat) (a : Agent) (v : Word) : (State.klnDmaCtrl s k ch a v).core.2 = s.core.2 := by
  unfold State.klnDmaCtrl
  dsimp only
  repeat' split
  all_goals simp

@[simp] theorem State.klnDmaCtrl_wf (s : State) (k ch : Nat) (a : Agent) (v : Word) (hw : Memory.wf s.core.1 = true) : Memory.wf (State.klnDmaCtrl s k ch a v).core.1 = true := by
  unfold State.klnDmaCtrl
  dsimp only
  repeat' split
  all_goals simp (maxDischargeDepth := 9) [hw]

@[simp] theorem State.klnFwWrite_rest (s : State) (k o : Nat) (v : Word) : (State.klnFwWrite s k o v).core.2 = s.core.2 := by
  unfold State.klnFwWrite
  repeat' split
  all_goals simp

@[simp] theorem State.klnFwWrite_wf (s : State) (k o : Nat) (v : Word) (hw : Memory.wf s.core.1 = true) : Memory.wf (State.klnFwWrite s k o v).core.1 = true := by
  unfold State.klnFwWrite
  repeat' split
  all_goals simp (maxDischargeDepth := 9) [hw]

@[simp] theorem State.klnEngWrite_core (s : State) (k o : Nat) (a : Agent) (v : Word) : (State.klnEngWrite s k o a v).core = s.core := by
  unfold State.klnEngWrite
  split <;> simp

@[simp] theorem State.klnWrite_rest (s : State) (k o : Nat) (a : Agent) (v : Word) : (State.klnWrite s k o a v).core.2 = s.core.2 := by
  unfold State.klnWrite
  dsimp only
  repeat' split
  all_goals simp

@[simp] theorem State.klnWrite_wf (s : State) (k o : Nat) (a : Agent) (v : Word) (hw : Memory.wf s.core.1 = true) : Memory.wf (State.klnWrite s k o a v).core.1 = true := by
  unfold State.klnWrite
  dsimp only
  repeat' split
  all_goals simp (maxDischargeDepth := 9) [hw]

/-! Power. -/

@[simp] theorem State.cmdResult_core (s : State) (i code rule : Nat) : (State.cmdResult s i code rule).core = s.core := by simp [State.cmdResult]

@[simp] theorem State.cmdDone_core (s : State) (i code : Nat) : (State.cmdDone s i code).core = s.core := by simp [State.cmdDone]

@[simp] theorem State.cmdRefuse_core (s : State) (i rule : Nat) : (State.cmdRefuse s i rule).core = s.core := by simp [State.cmdRefuse]

@[simp] theorem State.kilnOff_rest (s : State) (k : Nat) : (State.kilnOff s k).core.2 = s.core.2 := by
  unfold State.kilnOff
  dsimp only
  rw [foldl_core _ (fun _ _ => by simp), foldl_core _ (fun _ _ => by simp), State.clearKiln_rest, foldl_rest _ (fun _ _ => by simp)]

@[simp] theorem State.kilnOff_wf (s : State) (k : Nat) (hw : Memory.wf s.core.1 = true) : Memory.wf (State.kilnOff s k).core.1 = true := by
  unfold State.kilnOff
  dsimp only
  rw [foldl_core _ (fun _ _ => by simp), foldl_core _ (fun _ _ => by simp)]
  exact State.clearKiln_wf _ _ (foldl_wf _ (fun _ _ h => by simp [h]) _ _ hw)

@[simp] theorem State.dropPageBut_core (s : State) (base : Nat) (keep : List Nat) : (State.dropPageBut s base keep).core = s.core := by
  unfold State.dropPageBut
  dsimp only
  repeat' first | (with_reducible rfl) | (simp ; done) | (simp [State.core]; done) | split | (dsimp only; split) | (refine (foldl_core _ (fun _ _ => ?_) _ _).trans ?_) | (simp ; refine (foldl_core _ (fun _ _ => ?_) _ _).trans ?_)

@[simp] theorem State.dropCls_core (s : State) : (State.dropCls s).core = s.core := by simp [State.dropCls]

@[simp] theorem State.islandLoses_rest (s : State) (i : Nat) : (State.islandLoses s i).core.2 = s.core.2 := by
  unfold State.islandLoses
  repeat' split
  all_goals simp

@[simp] theorem State.islandLoses_wf (s : State) (i : Nat) (hw : Memory.wf s.core.1 = true) : Memory.wf (State.islandLoses s i).core.1 = true := by
  unfold State.islandLoses
  repeat' split
  all_goals simp (maxDischargeDepth := 9) [hw]

@[simp] theorem State.goOff_rest (s : State) (i : Nat) : (State.goOff s i).core.2 = s.core.2 := by simp [State.goOff]

@[simp] theorem State.goOff_wf (s : State) (i : Nat) (hw : Memory.wf s.core.1 = true) : Memory.wf (State.goOff s i).core.1 = true := by simp (maxDischargeDepth := 9) [State.goOff, *]

@[simp] theorem State.startWake_core (s : State) (i : Nat) (cmd : Bool) : (State.startWake s i cmd).core = s.core := by simp [State.startWake]

@[simp] theorem State.startHold_rest (s : State) (i : Nat) : (State.startHold s i).core.2 = s.core.2 := by
  unfold State.startHold
  dsimp only
  split
  · rw [State.leaveService_rest, foldl_rest _ (fun _ _ => by simp), State.bump_core, State.setIsland_core]
  · rw [State.bump_core, State.setIsland_core]

@[simp] theorem State.startHold_wf (s : State) (i : Nat) (hw : Memory.wf s.core.1 = true) : Memory.wf (State.startHold s i).core.1 = true := by
  unfold State.startHold
  dsimp only
  split
  · exact State.leaveService_wf _ _ _ (foldl_wf _ (fun _ _ h => by simp [h]) _ _ (by rw [State.bump_core, State.setIsland_core]; exact hw))
  · rw [State.bump_core, State.setIsland_core]; exact hw

@[simp] theorem State.islCmd_rest (s : State) (i : Nat) (up : Bool) : (State.islCmd s i up).core.2 = s.core.2 := by
  unfold State.islCmd
  dsimp only
  repeat' split
  all_goals simp

@[simp] theorem State.islCmd_wf (s : State) (i : Nat) (up : Bool) (hw : Memory.wf s.core.1 = true) : Memory.wf (State.islCmd s i up).core.1 = true := by
  unfold State.islCmd
  dsimp only
  repeat' split
  all_goals simp (maxDischargeDepth := 9) [hw]

theorem execIslCmdUp_rest {i : Fin 260} {s : State} {t : State} (h : execIslCmdUp i s = .next t) : t.core.2 = s.core.2 := by
  simp only [execIslCmdUp] at h
  rcases gateO_cases h with h | h
  · repeat' first | (cases h; done) | (cases h; (with_reducible rfl)) | (cases h; (simp ; done)) | split at h
  · exact congrArg Prod.snd h

theorem execIslCmdUp_wf {i : Fin 260} {s : State} {t : State} (h : execIslCmdUp i s = .next t) (hw : Memory.wf s.core.1 = true) : Memory.wf t.core.1 = true := by
  simp only [execIslCmdUp] at h
  rcases gateO_cases h with h | h
  · repeat' first | (cases h; done) | (cases h; (with_reducible assumption)) | (cases h; (simp (maxDischargeDepth := 9) [*]; done)) | split at h
  · rw [h]; exact hw

theorem execIslCmdDown_rest {i : Fin 260} {s : State} {t : State} (h : execIslCmdDown i s = .next t) : t.core.2 = s.core.2 := by
  simp only [execIslCmdDown] at h
  rcases gateO_cases h with h | h
  · repeat' first | (cases h; done) | (cases h; (with_reducible rfl)) | (cases h; (simp ; done)) | split at h
  · exact congrArg Prod.snd h

theorem execIslCmdDown_wf {i : Fin 260} {s : State} {t : State} (h : execIslCmdDown i s = .next t) (hw : Memory.wf s.core.1 = true) : Memory.wf t.core.1 = true := by
  simp only [execIslCmdDown] at h
  rcases gateO_cases h with h | h
  · repeat' first | (cases h; done) | (cases h; (with_reducible assumption)) | (cases h; (simp (maxDischargeDepth := 9) [*]; done)) | split at h
  · rw [h]; exact hw

@[simp] theorem State.applyKept_rest (s : State) (i : Nat) : (State.applyKept s i).core.2 = s.core.2 := by
  unfold State.applyKept
  dsimp only
  split <;> simp

@[simp] theorem State.applyKept_wf (s : State) (i : Nat) (hw : Memory.wf s.core.1 = true) : Memory.wf (State.applyKept s i).core.1 = true := by
  unfold State.applyKept
  dsimp only
  split <;> simp (maxDischargeDepth := 9) [hw]

@[simp] theorem State.endHold_rest (s : State) (i code : Nat) : (State.endHold s i code).core.2 = s.core.2 := by simp [State.endHold]

@[simp] theorem State.endHold_wf (s : State) (i code : Nat) (hw : Memory.wf s.core.1 = true) : Memory.wf (State.endHold s i code).core.1 = true := by simp (maxDischargeDepth := 9) [State.endHold, *]

theorem execPowerHoldDone_rest {i : Fin 260} {s : State} {t : State} (h : execPowerHoldDone i s = .next t) : t.core.2 = s.core.2 := by
  unfold execPowerHoldDone at h
  split at h
  all_goals simp only [Host.Outcome.next.injEq] at h; subst h; simp

theorem execPowerHoldDone_wf {i : Fin 260} {s : State} {t : State} (h : execPowerHoldDone i s = .next t) (hw : Memory.wf s.core.1 = true) : Memory.wf t.core.1 = true := by
  unfold execPowerHoldDone at h
  split at h
  all_goals simp only [Host.Outcome.next.injEq] at h; subst h; simp (maxDischargeDepth := 9) [hw]

theorem execHoldLimitExpiry_rest {i : Fin 260} {s : State} {t : State} (h : execHoldLimitExpiry i s = .next t) : t.core.2 = s.core.2 := by
  unfold execHoldLimitExpiry at h
  repeat' split at h
  all_goals simp only [Host.Outcome.next.injEq] at h; subst h; simp

theorem execHoldLimitExpiry_wf {i : Fin 260} {s : State} {t : State} (h : execHoldLimitExpiry i s = .next t) (hw : Memory.wf s.core.1 = true) : Memory.wf t.core.1 = true := by
  unfold execHoldLimitExpiry at h
  repeat' split at h
  all_goals simp only [Host.Outcome.next.injEq] at h; subst h; simp (maxDischargeDepth := 9) [hw]

@[simp] theorem State.islandUp_rest (s : State) (i : Nat) : (State.islandUp s i).core.2 = s.core.2 := by
  unfold State.islandUp
  repeat' split
  all_goals simp

@[simp] theorem State.islandUp_wf (s : State) (i : Nat) (hw : Memory.wf s.core.1 = true) : Memory.wf (State.islandUp s i).core.1 = true := by
  unfold State.islandUp
  repeat' split
  all_goals simp (maxDischargeDepth := 9) [hw]

theorem execIslandWakeDone_rest {i : Fin 260} {s : State} {t : State} (h : execIslandWakeDone i s = .next t) : t.core.2 = s.core.2 := by
  unfold execIslandWakeDone at h
  dsimp only at h
  split at h
  all_goals simp only [Host.Outcome.next.injEq] at h; subst h; simp

theorem execIslandWakeDone_wf {i : Fin 260} {s : State} {t : State} (h : execIslandWakeDone i s = .next t) (hw : Memory.wf s.core.1 = true) : Memory.wf t.core.1 = true := by
  unfold execIslandWakeDone at h
  dsimp only at h
  split at h
  all_goals simp only [Host.Outcome.next.injEq] at h; subst h; simp (maxDischargeDepth := 9) [hw]

@[simp] theorem State.islandFails_rest (s : State) (i : Nat) : (State.islandFails s i).core.2 = s.core.2 := by
  unfold State.islandFails
  dsimp only
  repeat' first | (with_reducible rfl) | (simp ; done) | (simp [State.core]; done) | split | (dsimp only; split) | (refine (foldl_rest _ (fun _ _ => ?_) _ _).trans ?_) | (simp ; refine (foldl_rest _ (fun _ _ => ?_) _ _).trans ?_)

@[simp] theorem State.islandFails_wf (s : State) (i : Nat) (hw : Memory.wf s.core.1 = true) : Memory.wf (State.islandFails s i).core.1 = true := by
  unfold State.islandFails
  dsimp only
  repeat' first | (with_reducible assumption) | (simp (maxDischargeDepth := 9) [*]; done) | (simp (maxDischargeDepth := 9) [*, State.core]; done) | split | (dsimp only; split) | (refine foldl_wf _ (fun _ _ _ => ?_) _ _ ?_) | (simp (maxDischargeDepth := 9) [*]; refine foldl_wf _ (fun _ _ _ => ?_) _ _ ?_)

theorem execIslandSwitchTimeout_rest {i : Fin 260} {s : State} {t : State} (h : execIslandSwitchTimeout i s = .next t) : t.core.2 = s.core.2 := by
  unfold execIslandSwitchTimeout at h
  split at h
  all_goals simp only [Host.Outcome.next.injEq] at h; subst h; simp

theorem execIslandSwitchTimeout_wf {i : Fin 260} {s : State} {t : State} (h : execIslandSwitchTimeout i s = .next t) (hw : Memory.wf s.core.1 = true) : Memory.wf t.core.1 = true := by
  unfold execIslandSwitchTimeout at h
  split at h
  all_goals simp only [Host.Outcome.next.injEq] at h; subst h; simp (maxDischargeDepth := 9) [hw]

theorem execEngineSleep_rest {n : Fin 192} {s : State} {t : State} (h : execEngineSleep n s = .next t) : t.core.2 = s.core.2 := by
  unfold execEngineSleep at h
  split at h
  all_goals simp only [Host.Outcome.next.injEq] at h; subst h; simp

theorem execEngineSleep_wf {n : Fin 192} {s : State} {t : State} (h : execEngineSleep n s = .next t) (hw : Memory.wf s.core.1 = true) : Memory.wf t.core.1 = true := by
  unfold execEngineSleep at h
  split at h
  all_goals simp only [Host.Outcome.next.injEq] at h; subst h; simp (maxDischargeDepth := 9) [hw]

theorem execEngineWake_core {n : Fin 192} {s : State} {t : State} (h : execEngineWake n s = .next t) : t.core = s.core := by
  simp only [execEngineWake, Host.Outcome.next.injEq] at h
  subst h
  simp

theorem execKilnPllStop_core {k : Fin 24} {s : State} {t : State} (h : execKilnPllStop k s = .next t) : t.core = s.core := by
  simp only [execKilnPllStop, Host.Outcome.next.injEq] at h
  subst h
  simp

@[simp] theorem State.followGen_rest (s : State) : (State.followGen s).core.2 = s.core.2 := by
  unfold State.followGen
  dsimp only
  repeat' first | (with_reducible rfl) | (simp ; done) | (simp [State.core]; done) | split | (dsimp only; split) | (refine (foldl_rest _ (fun _ _ => ?_) _ _).trans ?_) | (simp ; refine (foldl_rest _ (fun _ _ => ?_) _ _).trans ?_)

@[simp] theorem State.followGen_wf (s : State) (hw : Memory.wf s.core.1 = true) : Memory.wf (State.followGen s).core.1 = true := by
  unfold State.followGen
  dsimp only
  repeat' first | (with_reducible assumption) | (simp (maxDischargeDepth := 9) [*]; done) | (simp (maxDischargeDepth := 9) [*, State.core]; done) | split | (dsimp only; split) | (refine foldl_wf _ (fun _ _ _ => ?_) _ _ ?_) | (simp (maxDischargeDepth := 9) [*]; refine foldl_wf _ (fun _ _ _ => ?_) _ _ ?_)

@[simp] theorem State.deepEnter_rest (s : State) : (State.deepEnter s).core.2 = s.core.2 := by
  unfold State.deepEnter
  dsimp only
  repeat' first | (with_reducible rfl) | (simp ; done) | (simp [State.core]; done) | split | (dsimp only; split) | (refine (foldl_rest _ (fun _ _ => ?_) _ _).trans ?_) | (simp ; refine (foldl_rest _ (fun _ _ => ?_) _ _).trans ?_)

@[simp] theorem State.deepEnter_wf (s : State) (hw : Memory.wf s.core.1 = true) : Memory.wf (State.deepEnter s).core.1 = true := by
  unfold State.deepEnter
  dsimp only
  repeat' first | (with_reducible assumption) | (simp (maxDischargeDepth := 9) [*]; done) | (simp (maxDischargeDepth := 9) [*, State.core]; done) | split | (dsimp only; split) | (refine foldl_wf _ (fun _ _ _ => ?_) _ _ ?_) | (simp (maxDischargeDepth := 9) [*]; refine foldl_wf _ (fun _ _ _ => ?_) _ _ ?_)

theorem execDeepIdleEnter_rest {s : State} {t : State} (h : execDeepIdleEnter s = .next t) : t.core.2 = s.core.2 := by
  simp only [execDeepIdleEnter] at h
  rcases gateO_cases h with h | h
  · repeat' first | (cases h; done) | (cases h; (with_reducible rfl)) | (cases h; (simp ; done)) | split at h
  · exact congrArg Prod.snd h

theorem execDeepIdleEnter_wf {s : State} {t : State} (h : execDeepIdleEnter s = .next t) (hw : Memory.wf s.core.1 = true) : Memory.wf t.core.1 = true := by
  simp only [execDeepIdleEnter] at h
  rcases gateO_cases h with h | h
  · repeat' first | (cases h; done) | (cases h; (with_reducible assumption)) | (cases h; (simp (maxDischargeDepth := 9) [*]; done)) | split at h
  · rw [h]; exact hw

@[simp] theorem State.deepLeave_rest (s : State) : (State.deepLeave s).core.2 = s.core.2 := by
  unfold State.deepLeave
  dsimp only
  repeat' first | (with_reducible rfl) | (simp ; done) | (simp [State.core]; done) | split | (dsimp only; split) | (refine (foldl_rest _ (fun _ _ => ?_) _ _).trans ?_) | (simp ; refine (foldl_rest _ (fun _ _ => ?_) _ _).trans ?_)

@[simp] theorem State.deepLeave_wf (s : State) (hw : Memory.wf s.core.1 = true) : Memory.wf (State.deepLeave s).core.1 = true := by
  unfold State.deepLeave
  dsimp only
  repeat' first | (with_reducible assumption) | (simp (maxDischargeDepth := 9) [*]; done) | (simp (maxDischargeDepth := 9) [*, State.core]; done) | split | (dsimp only; split) | (refine foldl_wf _ (fun _ _ _ => ?_) _ _ ?_) | (simp (maxDischargeDepth := 9) [*]; refine foldl_wf _ (fun _ _ _ => ?_) _ _ ?_)

theorem execDeepIdleLeave_rest {s : State} {t : State} (h : execDeepIdleLeave s = .next t) : t.core.2 = s.core.2 := by
  simp only [execDeepIdleLeave] at h
  rcases gateO_cases h with h | h
  · repeat' first | (cases h; done) | (cases h; (with_reducible rfl)) | (cases h; (simp ; done)) | split at h
  · exact congrArg Prod.snd h

theorem execDeepIdleLeave_wf {s : State} {t : State} (h : execDeepIdleLeave s = .next t) (hw : Memory.wf s.core.1 = true) : Memory.wf t.core.1 = true := by
  simp only [execDeepIdleLeave] at h
  rcases gateO_cases h with h | h
  · repeat' first | (cases h; done) | (cases h; (with_reducible assumption)) | (cases h; (simp (maxDischargeDepth := 9) [*]; done)) | split at h
  · rw [h]; exact hw

/-! Gen. -/

@[simp] theorem State.fireResult_core (s : State) (code page : Nat) : (State.fireResult s code page).core = s.core := by simp [State.fireResult]

theorem execGreenOpen_core {v : Word} {s : State} {t : State} (h : execGreenOpen v s = .next t) : t.core = s.core := by
  simp only [execGreenOpen] at h
  rcases gateO_cases h with h | h
  · repeat' first | (cases h; done) | (cases h; (with_reducible rfl)) | (cases h; (simp ; done)) | split at h
  · exact h

theorem execGreenAbort_core {v : Word} {s : State} {t : State} (h : execGreenAbort v s = .next t) : t.core = s.core := by
  simp only [execGreenAbort] at h
  rcases gateO_cases h with h | h
  · repeat' first | (cases h; done) | (cases h; (with_reducible rfl)) | (cases h; (simp ; done)) | split at h
  · exact h

theorem execFire_core {v : Word} {s : State} {t : State} (h : execFire v s = .next t) : t.core = s.core := by
  simp only [execFire] at h
  rcases gateO_cases h with h | h
  · repeat' first | (cases h; done) | (cases h; (with_reducible rfl)) | (cases h; (simp ; done)) | split at h
  · exact h

theorem execRefire_core {v : Word} {s : State} {t : State} (h : execRefire v s = .next t) : t.core = s.core := by
  simp only [execRefire] at h
  rcases gateO_cases h with h | h
  · repeat' first | (cases h; done) | (cases h; (with_reducible rfl)) | (cases h; (simp ; done)) | split at h
  · exact h

@[simp] theorem State.checkPage_core (s : State) (page fc fault val ev : Nat) : (State.checkPage s page fc fault val ev).core = s.core := by simp [State.checkPage]

theorem State.allChecks_core {s : State} {t : State × Option Nat} (h : State.allChecks s = t) : t.1.core = s.core := by
  subst h
  unfold State.allChecks
  dsimp only
  repeat' first | (with_reducible rfl) | (simp ; done) | (simp [State.core]; done) | split | (dsimp only; split) | (refine (foldl_core _ (fun _ _ => ?_) _ _).trans ?_) | (simp ; refine (foldl_core _ (fun _ _ => ?_) _ _).trans ?_)

@[simp] theorem State.tableChecks_core (s : State) : (State.tableChecks s).core = s.core := by
  unfold State.tableChecks
  dsimp only
  repeat' split
  all_goals simp

theorem execFireChecksDone_core {s : State} {t : State} (h : execFireChecksDone s = .next t) : t.core = s.core := by
  unfold execFireChecksDone at h
  repeat' first | (cases h; done) | (cases h; (with_reducible rfl)) | (cases h; (simp ; done)) | (cases h; (simp [State.allChecks_core ‹State.allChecks _ = _›]; done)) | split at h | (dsimp only at h; split at h) | cases h | (with_reducible rfl) | (simp ; done) | (simp [State.allChecks_core ‹State.allChecks _ = _›]; done) | split | (refine (foldl_core _ (fun _ _ => ?_) _ _).trans ?_) | (dsimp only; split) | (simp ; refine (foldl_core _ (fun _ _ => ?_) _ _).trans ?_)

theorem execPortSwitchPoint_rest {side : Side} {p : Fin 32} {s : State} {t : State} (h : execPortSwitchPoint side p s = .next t) : t.core.2 = s.core.2 := by
  simp only [execPortSwitchPoint, Host.Outcome.next.injEq] at h
  subst h
  simp

theorem execPortSwitchPoint_wf {side : Side} {p : Fin 32} {s : State} {t : State} (h : execPortSwitchPoint side p s = .next t) (hw : Memory.wf s.core.1 = true) : Memory.wf t.core.1 = true := by
  simp only [execPortSwitchPoint, Host.Outcome.next.injEq] at h
  subst h
  simp (maxDischargeDepth := 9) [hw]

@[simp] theorem State.restartGroup_rest (s : State) (strait : Bool) (g : Nat) : (State.restartGroup s strait g).core.2 = s.core.2 := by
  unfold State.restartGroup
  dsimp only
  repeat' first | (with_reducible rfl) | (simp ; done) | (simp [State.core]; done) | split | (dsimp only; split) | (refine (foldl_rest _ (fun _ _ => ?_) _ _).trans ?_) | (simp ; refine (foldl_rest _ (fun _ _ => ?_) _ _).trans ?_)

@[simp] theorem State.restartGroup_wf (s : State) (strait : Bool) (g : Nat) (hw : Memory.wf s.core.1 = true) : Memory.wf (State.restartGroup s strait g).core.1 = true := by
  unfold State.restartGroup
  dsimp only
  repeat' first | (with_reducible assumption) | (simp (maxDischargeDepth := 9) [*]; done) | (simp (maxDischargeDepth := 9) [*, State.core]; done) | split | (dsimp only; split) | (refine foldl_wf _ (fun _ _ _ => ?_) _ _ ?_) | (simp (maxDischargeDepth := 9) [*]; refine foldl_wf _ (fun _ _ _ => ?_) _ _ ?_)

@[simp] theorem State.laneRoles_core (s : State) : (State.laneRoles s).core = s.core := by
  unfold State.laneRoles
  dsimp only
  repeat' first | (with_reducible rfl) | (simp ; done) | (simp [State.core]; done) | split | (dsimp only; split) | (refine (foldl_core _ (fun _ _ => ?_) _ _).trans ?_) | (simp ; refine (foldl_core _ (fun _ _ => ?_) _ _).trans ?_)

@[simp] theorem State.senseSwitch_core (s : State) (oldUs : Nat) : (State.senseSwitch s oldUs).core = s.core := by
  unfold State.senseSwitch
  dsimp only
  repeat' first | (with_reducible rfl) | (simp ; done) | (simp [State.core]; done) | split | (dsimp only; split) | (refine (foldl_core _ (fun _ _ => ?_) _ _).trans ?_) | (simp ; refine (foldl_core _ (fun _ _ => ?_) _ _).trans ?_)

@[simp] theorem State.sendOcis_core (s : State) : (State.sendOcis s).core = s.core := by
  unfold State.sendOcis
  exact foldl_core _ (fun _ _ => by simp) _ _

@[simp] theorem State.afterSwitch_rest (s : State) (oldUs : Nat) : (State.afterSwitch s oldUs).core.2 = s.core.2 := by
  unfold State.afterSwitch
  dsimp only
  repeat' first | (with_reducible rfl) | (simp ; done) | (simp [State.core]; done) | split | (dsimp only; split) | (refine (foldl_rest _ (fun _ _ => ?_) _ _).trans ?_) | (simp ; refine (foldl_rest _ (fun _ _ => ?_) _ _).trans ?_)

@[simp] theorem State.afterSwitch_wf (s : State) (oldUs : Nat) (hw : Memory.wf s.core.1 = true) : Memory.wf (State.afterSwitch s oldUs).core.1 = true := by
  unfold State.afterSwitch
  dsimp only
  repeat' first | (with_reducible assumption) | (simp (maxDischargeDepth := 9) [*]; done) | (simp (maxDischargeDepth := 9) [*, State.core]; done) | split | (dsimp only; split) | (refine foldl_wf _ (fun _ _ _ => ?_) _ _ ?_) | (simp (maxDischargeDepth := 9) [*]; refine foldl_wf _ (fun _ _ _ => ?_) _ _ ?_)

@[simp] theorem State.finishOld_rest (s : State) : (State.finishOld s).core.2 = s.core.2 := by
  unfold State.finishOld
  repeat' first | (with_reducible rfl) | (simp ; done) | (simp [State.core]; done) | split | (refine (foldl_rest _ (fun _ _ => ?_) _ _).trans ?_) | (dsimp only; split) | (simp ; refine (foldl_rest _ (fun _ _ => ?_) _ _).trans ?_)

@[simp] theorem State.finishOld_wf (s : State) (hw : Memory.wf s.core.1 = true) : Memory.wf (State.finishOld s).core.1 = true := by
  unfold State.finishOld
  repeat' first | (with_reducible assumption) | (simp (maxDischargeDepth := 9) [*]; done) | (simp (maxDischargeDepth := 9) [*, State.core]; done) | split | (refine foldl_wf _ (fun _ _ _ => ?_) _ _ ?_) | (dsimp only; split) | (simp (maxDischargeDepth := 9) [*]; refine foldl_wf _ (fun _ _ _ => ?_) _ _ ?_)

@[simp] theorem State.closeRecast_core (s : State) : (State.closeRecast s).core = s.core := by
  unfold State.closeRecast
  repeat' first | (with_reducible rfl) | (simp ; done) | (simp [State.core]; done) | split | (refine (foldl_core _ (fun _ _ => ?_) _ _).trans ?_) | (dsimp only; split) | (simp ; refine (foldl_core _ (fun _ _ => ?_) _ _).trans ?_)

@[simp] theorem State.regroupAll_rest (s : State) : (State.regroupAll s).core.2 = s.core.2 := by
  unfold State.regroupAll
  repeat' first | (with_reducible rfl) | (simp ; done) | (simp [State.core]; done) | split | (refine (foldl_rest _ (fun _ _ => ?_) _ _).trans ?_) | (dsimp only; split) | (simp ; refine (foldl_rest _ (fun _ _ => ?_) _ _).trans ?_)

@[simp] theorem State.regroupAll_wf (s : State) (hw : Memory.wf s.core.1 = true) : Memory.wf (State.regroupAll s).core.1 = true := by
  unfold State.regroupAll
  repeat' first | (with_reducible assumption) | (simp (maxDischargeDepth := 9) [*]; done) | (simp (maxDischargeDepth := 9) [*, State.core]; done) | split | (refine foldl_wf _ (fun _ _ _ => ?_) _ _ ?_) | (dsimp only; split) | (simp (maxDischargeDepth := 9) [*]; refine foldl_wf _ (fun _ _ _ => ?_) _ _ ?_)

@[simp] theorem State.climitChanged_core (s old : State) : (State.climitChanged s old).core = s.core := by
  simp only [State.climitChanged]
  repeat' first | (with_reducible rfl) | (simp ; done) | (simp [State.core]; done) | split

@[simp] theorem State.switchOver_rest (s : State) (ns : Word) : (State.switchOver s ns).core.2 = s.core.2 := by simp [State.switchOver]

@[simp] theorem State.switchOver_wf (s : State) (ns : Word) (hw : Memory.wf s.core.1 = true) : Memory.wf (State.switchOver s ns).core.1 = true := by simp (maxDischargeDepth := 9) [State.switchOver, *]

theorem execGenerationSwitchDone_rest {ns : Word} {s : State} {t : State} (h : execGenerationSwitchDone ns s = .next t) : t.core.2 = s.core.2 := by
  unfold execGenerationSwitchDone at h
  split at h
  all_goals simp only [Host.Outcome.next.injEq] at h; subst h; simp

theorem execGenerationSwitchDone_wf {ns : Word} {s : State} {t : State} (h : execGenerationSwitchDone ns s = .next t) (hw : Memory.wf s.core.1 = true) : Memory.wf t.core.1 = true := by
  unfold execGenerationSwitchDone at h
  split at h
  all_goals simp only [Host.Outcome.next.injEq] at h; subst h; simp (maxDischargeDepth := 9) [hw]

/-! Header. -/

@[simp] theorem State.headW_core (s : State) (host : Bool) (off : Nat) (go : State → State) (h_go : ∀ s, (go s).core = s.core) : (State.headW s host off go).core = s.core := by
  simp only [State.headW]
  repeat' first | (with_reducible rfl) | (simp [h_go]; done) | (simp [h_go, State.barred_core ‹State.barred _ _ = _›]; done) | (simp [h_go, State.core]; done) | split

@[simp] theorem State.headU_core (s : State) (host : Bool) (off : Nat) (go : State → State) (h_go : ∀ s, (go s).core = s.core) : (State.headU s host off go).core = s.core := by simp [State.headU, h_go]

@[simp] theorem State.lockWrite_core (s : State) (host : Bool) (pb : Nat) (v : Word) : (State.lockWrite s host pb v).core = s.core := by simp [State.lockWrite]

@[simp] theorem State.evtClear_core (s : State) (host : Bool) (pb : Nat) (v : Word) : (State.evtClear s host pb v).core = s.core := by
  unfold State.evtClear
  refine State.headU_core _ _ _ _ (fun s => ?_)
  repeat' first | (with_reducible rfl) | (simp ; done) | (simp [State.core]; done) | split | (dsimp only; split) | (refine (foldl_core _ (fun _ _ => ?_) _ _).trans ?_) | (simp ; refine (foldl_core _ (fun _ _ => ?_) _ _).trans ?_)

@[simp] theorem State.evtForce_core (s : State) (host : Bool) (pb : Nat) (v : Word) : (State.evtForce s host pb v).core = s.core := by
  unfold State.evtForce
  refine State.headW_core _ _ _ _ (fun s => ?_)
  repeat' first | (with_reducible rfl) | (simp ; done) | (simp [State.core]; done) | split | (dsimp only; split) | (refine (foldl_core _ (fun _ _ => ?_) _ _).trans ?_) | (simp ; refine (foldl_core _ (fun _ _ => ?_) _ _).trans ?_)

@[simp] theorem State.evtEnable_core (s : State) (host : Bool) (pb : Nat) (v : Word) : (State.evtEnable s host pb v).core = s.core := by
  unfold State.evtEnable
  refine State.headW_core _ _ _ _ (fun s => ?_)
  repeat' first | (with_reducible rfl) | (simp ; done) | (simp [State.core]; done) | split | (dsimp only; split) | (refine (foldl_core _ (fun _ _ => ?_) _ _).trans ?_) | (simp ; refine (foldl_core _ (fun _ _ => ?_) _ _).trans ?_)

@[simp] theorem State.faultEnable_core (s : State) (host : Bool) (pb : Nat) (v : Word) : (State.faultEnable s host pb v).core = s.core := by simp [State.faultEnable]

@[simp] theorem State.faultClear_core (s : State) (host : Bool) (pb : Nat) (v : Word) : (State.faultClear s host pb v).core = s.core := by simp [State.faultClear]

@[simp] theorem State.routeWrite_core (s : State) (n : Nat) (v : Word) : (State.routeWrite s n v).core = s.core := by simp [State.routeWrite]

theorem State.hosted_core {s : State} {go : State → State} (h_go : ∀ s, (go s).core = s.core) {t : State} (h : State.hosted s go = .next t) : t.core = s.core := by
  simp only [State.hosted] at h
  repeat' first | (cases h; done) | (cases h; (with_reducible rfl)) | (cases h; (simp [h_go]; done)) | split at h

theorem execLockWrite_core {p : Page} {v : Word} {s : State} {t : State} (h : execLockWrite p v s = .next t) : t.core = s.core := by
  cases h
  simp

theorem execEvtPendClear_core {p : Page} {v : Word} {s : State} {t : State} (h : execEvtPendClear p v s = .next t) : t.core = s.core := by
  cases h
  simp

theorem execEvtForce_core {p : Page} {v : Word} {s : State} {t : State} (h : execEvtForce p v s = .next t) : t.core = s.core := by
  cases h
  simp

theorem execEvtEnWrite_core {p : Page} {v : Word} {s : State} {t : State} (h : execEvtEnWrite p v s = .next t) : t.core = s.core := by
  cases h
  simp

theorem execFaultPendClear_core {p : Page} {v : Word} {s : State} {t : State} (h : execFaultPendClear p v s = .next t) : t.core = s.core := by
  cases h
  simp

theorem execHostRouteWrite_core {n : Fin 640} {v : Word} {s : State} {t : State} (h : execHostRouteWrite n v s = .next t) : t.core = s.core := by
  cases h
  simp

theorem execMsixMessage_core {v : Fin 256} {s : State} {t : State} (h : execMsixMessage v s = .next t) : t.core = s.core := by
  unfold execMsixMessage at h
  split at h
  all_goals simp only [Host.Outcome.next.injEq] at h; subst h; simp

@[simp] theorem State.msixTable_core (s : State) (v d : Nat) (w : Word) : (State.msixTable s v d w).core = s.core := by simp [State.msixTable]

/-! FwRegs. -/

@[simp] theorem State.intWrite_core (s : State) (n o : Nat) (v : Word) : (State.intWrite s n o v).core = s.core := by
  unfold State.intWrite
  dsimp only
  repeat' first | (with_reducible rfl) | (simp ; done) | (simp [State.core]; done) | split | (dsimp only; split) | (refine (foldl_core _ (fun _ _ => ?_) _ _).trans ?_) | (simp ; refine (foldl_core _ (fun _ _ => ?_) _ _).trans ?_)

@[simp] theorem State.engCtrl_core (s : State) (n : Nat) (v : Word) : (State.engCtrl s n v).core = s.core := by simp [State.engCtrl]

@[simp] theorem State.engWrite_core (s : State) (n o : Nat) (v : Word) : (State.engWrite s n o v).core = s.core := by
  unfold State.engWrite
  repeat' split
  all_goals simp

@[simp] theorem State.ctxWrite_core (s : State) (n c o : Nat) (v : Word) : (State.ctxWrite s n c o v).core = s.core := by simp [State.ctxWrite]

@[simp] theorem State.fwInject_rest (s : State) (pg : Nat) (v : Word) : (State.fwInject s pg v).core.2 = s.core.2 := by
  unfold State.fwInject
  dsimp only
  repeat' first | (with_reducible rfl) | (simp ; done) | (simp [State.core]; done) | split | (dsimp only; split) | (refine (foldl_rest _ (fun _ _ => ?_) _ _).trans ?_) | (simp ; refine (foldl_rest _ (fun _ _ => ?_) _ _).trans ?_)

@[simp] theorem State.fwInject_wf (s : State) (pg : Nat) (v : Word) (hw : Memory.wf s.core.1 = true) : Memory.wf (State.fwInject s pg v).core.1 = true := by
  unfold State.fwInject
  dsimp only
  repeat' first | (with_reducible assumption) | (simp (maxDischargeDepth := 9) [*]; done) | (simp (maxDischargeDepth := 9) [*, State.core]; done) | split | (dsimp only; split) | (refine foldl_wf _ (fun _ _ _ => ?_) _ _ ?_) | (simp (maxDischargeDepth := 9) [*]; refine foldl_wf _ (fun _ _ _ => ?_) _ _ ?_)

@[simp] theorem State.fwPageWrite_rest (s : State) (h : Fin 2) (pg o : Nat) (v : Word) : (State.fwPageWrite s h pg o v).core.2 = s.core.2 := by
  simp only [State.fwPageWrite]
  repeat' first | (with_reducible rfl) | (simp ; done) | (simp [State.core]; done) | split

@[simp] theorem State.fwPageWrite_wf (s : State) (h : Fin 2) (pg o : Nat) (v : Word) (hw : Memory.wf s.core.1 = true) : Memory.wf (State.fwPageWrite s h pg o v).core.1 = true := by
  simp only [State.fwPageWrite]
  repeat' first | (with_reducible assumption) | (simp (maxDischargeDepth := 9) [*]; done) | (simp (maxDischargeDepth := 9) [*, State.core]; done) | split

@[simp] theorem State.fwTodWrite_core (s : State) (h : Fin 2) (o : Nat) (v : Word) : (State.fwTodWrite s h o v).core = s.core := by
  unfold State.fwTodWrite
  dsimp only
  split
  · split
    · exact execTodStep_core ‹_›
    · exact (rfl)
  split
  · split
    · exact execTodLoad_core ‹_›
    · exact (rfl)
  split
  · split
    · exact execRateWrite_core ‹_›
    · exact (rfl)
  split
  · exact (core_ite _ _ _).trans (by simp)
  · exact (rfl)

@[simp] theorem State.fwRouteWrite_core (s : State) (n : Nat) (v : Word) : (State.fwRouteWrite s n v).core = s.core := by simp [State.fwRouteWrite]

theorem State.headW_rest (s : State) (host : Bool) (off : Nat) (go : State → State) (h : ∀ s, (go s).core.2 = s.core.2) :
    (s.headW host off go).core.2 = s.core.2 := by
  simp only [State.headW]
  split
  · rw [State.fwWrite_core]
  · split
    · rw [State.barred_core ‹_›]
    · exact h s

theorem State.headW_wf (s : State) (host : Bool) (off : Nat) (go : State → State) (h : ∀ s, Memory.wf s.core.1 = true → Memory.wf (go s).core.1 = true)
    (hw : Memory.wf s.core.1 = true) : Memory.wf (s.headW host off go).core.1 = true := by
  simp only [State.headW]
  split
  · rw [State.fwWrite_core]; exact hw
  · split
    · rw [State.barred_core ‹_›]; exact hw
    · exact h s hw

@[simp] theorem State.fwOwnWrite_rest (s : State) (h : Fin 2) (pg o : Nat) (v : Word) : (State.fwOwnWrite s h pg o v).core.2 = s.core.2 := by
  unfold State.fwOwnWrite
  dsimp only
  repeat' first | (with_reducible rfl) | (simp ; done) | (refine State.headW_rest _ _ _ _ (fun s => ?_)) | split

@[simp] theorem State.fwOwnWrite_wf (s : State) (h : Fin 2) (pg o : Nat) (v : Word) (hw : Memory.wf s.core.1 = true) : Memory.wf (State.fwOwnWrite s h pg o v).core.1 = true := by
  unfold State.fwOwnWrite
  dsimp only
  repeat' first | (with_reducible exact hw) | (simp [hw] ; done) | (refine State.headW_wf _ _ _ _ (fun s hs => ?_) hw; simp [hs]; done) | split

@[simp] theorem State.fwRegWrite_rest (s : State) (h : Fin 2) (off : Nat) (v : Word) : (State.fwRegWrite s h off v).core.2 = s.core.2 := by
  simp only [State.fwRegWrite]
  repeat' first | (with_reducible rfl) | (simp ; done) | (simp [State.core]; done) | split

@[simp] theorem State.fwRegWrite_wf (s : State) (h : Fin 2) (off : Nat) (v : Word) (hw : Memory.wf s.core.1 = true) : Memory.wf (State.fwRegWrite s h off v).core.1 = true := by
  simp only [State.fwRegWrite]
  repeat' first | (with_reducible assumption) | (simp (maxDischargeDepth := 9) [*]; done) | (simp (maxDischargeDepth := 9) [*, State.core]; done) | split

theorem execHalt_core {n : Fin 192} {v : Word} {s : State} {t : State} (h : execHalt n v s = .next t) : t.core = s.core := by
  simp only [execHalt, Host.Outcome.next.injEq] at h
  subst h
  simp

/-! Peek. -/

theorem State.klnRead_rest {s : State} {k o : Nat} {a : Agent} {t : Word × State} (h : State.klnRead s k o a = some t) : t.2.core.2 = s.core.2 := by
  unfold State.klnRead at h
  dsimp only at h
  split at h
  · split at h
    · cases h
      rename_i e
      simp [State.rndWord_core e]
    · cases h
  · split at h
    · cases h
      first | (rw [State.hashStream_core rfl]; done) | exact State.hashStream_rest rfl
    · split at h
      · cases h
        first | exact congrArg Prod.snd (State.kpTake_core rfl) | exact State.kpTake_rest rfl
      · split at h
        · cases h
          split <;> simp
        · cases h; rfl

theorem State.klnRead_wf {s : State} {k o : Nat} {a : Agent} {t : Word × State} (h : State.klnRead s k o a = some t) (hw : Memory.wf s.core.1 = true) : Memory.wf t.2.core.1 = true := by
  unfold State.klnRead at h
  dsimp only at h
  split at h
  · split at h
    · cases h
      rename_i e
      simp [State.rndWord_core e, hw]
    · cases h
  · split at h
    · cases h
      first | (rw [State.hashStream_core rfl]; exact hw) | exact State.hashStream_wf rfl hw
    · split at h
      · cases h
        first | (rw [State.kpTake_core rfl]; exact hw) | exact State.kpTake_wf rfl hw
      · split at h
        · cases h
          split <;> simp [hw]
        · cases h; exact hw

@[simp] theorem State.readEffect_core (s : State) (off : Nat) : (State.readEffect s off).core = s.core := by
  unfold State.readEffect
  dsimp only
  repeat' split
  all_goals simp

theorem State.regRead_rest {s : State} {off : Nat} {t : Word × State} (h : State.regRead s off = t) : t.2.core.2 = s.core.2 := by
  subst h
  simp only [State.regRead]
  repeat' first | (with_reducible rfl) | (simp ; done) | (simp [State.klnRead_rest ‹State.klnRead _ _ _ _ = _›]; done) | (simp [State.core]; done) | split

theorem State.regRead_wf {s : State} {off : Nat} {t : Word × State} (h : State.regRead s off = t) (hw : Memory.wf s.core.1 = true) : Memory.wf t.2.core.1 = true := by
  subst h
  simp only [State.regRead]
  repeat' first | (with_reducible assumption) | (simp (maxDischargeDepth := 9) [*]; done) | (simp (maxDischargeDepth := 9) [*, State.klnRead_wf ‹State.klnRead _ _ _ _ = _›]; done) | (simp (maxDischargeDepth := 9) [*, State.core]; done) | split

@[simp] theorem State.accessErr_core (s : State) (off : Nat) : (State.accessErr s off).core = s.core := by simp [State.accessErr]

@[simp] theorem State.hostRead_rest (s : State) (off : Nat) : (State.hostRead s off).core.2 = s.core.2 := by
  unfold State.hostRead
  repeat' first | (with_reducible rfl) | (simp ; done) | (simp [State.regRead_rest ‹State.regRead _ _ = _›]; done) | (simp [State.core]; done) | split | (refine (foldl_rest _ (fun _ _ => ?_) _ _).trans ?_) | (dsimp only; split) | (simp ; refine (foldl_rest _ (fun _ _ => ?_) _ _).trans ?_)

@[simp] theorem State.hostRead_wf (s : State) (off : Nat) (hw : Memory.wf s.core.1 = true) : Memory.wf (State.hostRead s off).core.1 = true := by
  unfold State.hostRead
  repeat' first | (with_reducible assumption) | (simp (maxDischargeDepth := 9) [*]; done) | (simp (maxDischargeDepth := 9) [*, State.regRead_wf ‹State.regRead _ _ = _›]; done) | (simp (maxDischargeDepth := 9) [*, State.core]; done) | split | (refine foldl_wf _ (fun _ _ _ => ?_) _ _ ?_) | (dsimp only; split) | (simp (maxDischargeDepth := 9) [*]; refine foldl_wf _ (fun _ _ _ => ?_) _ _ ?_)

theorem execRcRead_rest {off : Word} {s : State} {t : State} (h : execRcRead off s = .next t) : t.core.2 = s.core.2 := by
  simp only [execRcRead, Host.Outcome.next.injEq] at h
  subst h
  simp

theorem execRcRead_wf {off : Word} {s : State} {t : State} (h : execRcRead off s = .next t) (hw : Memory.wf s.core.1 = true) : Memory.wf t.core.1 = true := by
  simp only [execRcRead, Host.Outcome.next.injEq] at h
  subst h
  simp (maxDischargeDepth := 9) [hw]

theorem execCounterLowRead_rest {off : Word} {s : State} {t : State} (h : execCounterLowRead off s = .next t) : t.core.2 = s.core.2 := by
  simp only [execCounterLowRead, Host.Outcome.next.injEq] at h
  subst h
  simp

theorem execCounterLowRead_wf {off : Word} {s : State} {t : State} (h : execCounterLowRead off s = .next t) (hw : Memory.wf s.core.1 = true) : Memory.wf t.core.1 = true := by
  simp only [execCounterLowRead, Host.Outcome.next.injEq] at h
  subst h
  simp (maxDischargeDepth := 9) [hw]

end Sys2Proof.Machine
end

