-- ==== Sys2Proof/Laws/FrameTraim.lean ====
section
/-! SUPPORT. What an operation leaves alone: the same for the Traim operations. -/
namespace Sys2Proof.Machine
set_option linter.unusedSimpArgs false

/-! Operands. -/

theorem State.engPart_rest {s : State} {n a len : Nat} {t : List Byte × State} (h : State.engPart s n a len = t) : t.2.core.2 = s.core.2 := by
  subst h
  unfold State.engPart
  split
  · exact (rfl)
  · exact State.loadPart_rest (by with_reducible rfl)

theorem State.engPart_wf {s : State} {n a len : Nat} {t : List Byte × State} (h : State.engPart s n a len = t) (hw : Memory.wf s.core.1 = true) : Memory.wf t.2.core.1 = true := by
  subst h
  unfold State.engPart
  split
  · exact hw
  · exact State.loadPart_wf (by with_reducible rfl) hw

theorem State.engParts_rest (n : Nat) : ∀ (l : List (Nat × Nat)) (s : State), (s.engParts n l).2.core.2 = s.core.2
  | [], _ => (rfl)
  | (a, len) :: t, s => by
    unfold State.engParts
    exact (State.engParts_rest n t _).trans (State.engPart_rest (t := s.engPart n a len) (by with_reducible rfl))

theorem State.engParts_wf (n : Nat) : ∀ (l : List (Nat × Nat)) (s : State), Memory.wf s.core.1 = true → Memory.wf (s.engParts n l).2.core.1 = true
  | [], _, hw => hw
  | (a, len) :: t, s, hw => by
    unfold State.engParts
    exact State.engParts_wf n t _ (State.engPart_wf (t := s.engPart n a len) (by with_reducible rfl) hw)

theorem State.engLoad_rest {s : State} {n : Nat} {a : Word} {size : Nat} {t : List Byte × Bool × State} (h : State.engLoad s n a size = some t) : t.2.2.core.2 = s.core.2 := by
  unfold State.engLoad at h
  split at h
  · split at h
    · cases h
      exact State.klnRead_rest ‹_›
    · cases h
  · cases h
    exact State.engParts_rest _ _ _

theorem State.engLoad_wf {s : State} {n : Nat} {a : Word} {size : Nat} {t : List Byte × Bool × State} (h : State.engLoad s n a size = some t) (hw : Memory.wf s.core.1 = true) : Memory.wf t.2.2.core.1 = true := by
  unfold State.engLoad at h
  split at h
  · split at h
    · cases h
      exact State.klnRead_wf ‹_› hw
    · cases h
  · cases h
    exact State.engParts_wf _ _ _ hw

@[simp] theorem State.storePart_rest (s : State) (n a : Nat) (b : List Byte) : (State.storePart s n a b).core.2 = s.core.2 := by
  unfold State.storePart
  repeat' split
  all_goals simp

@[simp] theorem State.storePart_wf (s : State) (n a : Nat) (b : List Byte) (hw : Memory.wf s.core.1 = true) : Memory.wf (State.storePart s n a b).core.1 = true := by
  unfold State.storePart
  repeat' split
  all_goals simp (maxDischargeDepth := 9) [hw]

@[simp] theorem State.engStore_rest (s : State) (n : Nat) (a : Word) (b : List Byte) : (State.engStore s n a b).core.2 = s.core.2 := by
  unfold State.engStore
  repeat' split
  all_goals simp

@[simp] theorem State.engStore_wf (s : State) (n : Nat) (a : Word) (b : List Byte) (hw : Memory.wf s.core.1 = true) : Memory.wf (State.engStore s n a b).core.1 = true := by
  unfold State.engStore
  repeat' split
  all_goals simp (maxDischargeDepth := 9) [hw]

theorem State.engPart_rest' (s : State) (n a len : Nat) : (s.engPart n a len).2.core.2 = s.core.2 :=
  State.engPart_rest (t := s.engPart n a len) (by with_reducible rfl)

theorem State.engPart_wf' (s : State) (n a len : Nat) (hw : Memory.wf s.core.1 = true) : Memory.wf (s.engPart n a len).2.core.1 = true :=
  State.engPart_wf (t := s.engPart n a len) (by with_reducible rfl) hw

theorem State.vMem_rest {s : State} {n : Nat} {x : Ctx} {a : Nat} {inc : Bool} {t : Vec × State} (h : State.vMem s n x a inc = t) : t.2.core.2 = s.core.2 := by
  subst h
  unfold State.vMem
  dsimp only
  repeat' split
  all_goals simp [State.engPart_rest']

theorem State.vMem_wf {s : State} {n : Nat} {x : Ctx} {a : Nat} {inc : Bool} {t : Vec × State} (h : State.vMem s n x a inc = t) (hw : Memory.wf s.core.1 = true) : Memory.wf t.2.core.1 = true := by
  subst h
  unfold State.vMem
  dsimp only
  repeat' split
  all_goals simp (maxDischargeDepth := 9) [State.engPart_wf', hw]

theorem State.vSrc_rest {s : State} {n : Nat} {x : Ctx} {b : VSrc} {t : Vec × Option (Nat × Word) × List Act × State} (h : State.vSrc s n x b = t) : t.2.2.2.core.2 = s.core.2 := by
  subst h
  cases b with
  | reg v => exact (rfl)
  | mem r inc =>
    unfold State.vSrc
    dsimp only
    split
    · exact (rfl)
    · exact State.vMem_rest (by with_reducible rfl)

theorem State.vSrc_wf {s : State} {n : Nat} {x : Ctx} {b : VSrc} {t : Vec × Option (Nat × Word) × List Act × State} (h : State.vSrc s n x b = t) (hw : Memory.wf s.core.1 = true) : Memory.wf t.2.2.2.core.1 = true := by
  subst h
  cases b with
  | reg v => exact hw
  | mem r inc =>
    unfold State.vSrc
    dsimp only
    split
    · exact hw
    · exact State.vMem_wf (by with_reducible rfl) hw

theorem State.hcRegLoad_rest {s : State} {h off : Nat} {t : List Byte × State} (h : State.hcRegLoad s h off = t) : t.2.core.2 = s.core.2 := by
  subst h
  unfold State.hcRegLoad
  split
  · split
    · rfl
    · split
      · exact State.klnRead_rest ‹_›
      · rfl
  · exact State.regRead_rest (Eq.refl _)

theorem State.hcRegLoad_wf {s : State} {h off : Nat} {t : List Byte × State} (h : State.hcRegLoad s h off = t) (hw : Memory.wf s.core.1 = true) : Memory.wf t.2.core.1 = true := by
  subst h
  unfold State.hcRegLoad
  split
  · split
    · exact hw
    · split
      · exact State.klnRead_wf ‹_› hw
      · exact hw
  · exact State.regRead_wf (Eq.refl _) hw

theorem State.hcLoad_rest {s : State} {h : Nat} {a : Word} {n : Nat} {t : List Byte × State} (h : State.hcLoad s h a n = t) : t.2.core.2 = s.core.2 := by
  subst h
  unfold State.hcLoad
  split
  · exact State.hcRegLoad_rest rfl
  · rfl

theorem State.hcLoad_wf {s : State} {h : Nat} {a : Word} {n : Nat} {t : List Byte × State} (h : State.hcLoad s h a n = t) (hw : Memory.wf s.core.1 = true) : Memory.wf t.2.core.1 = true := by
  subst h
  unfold State.hcLoad
  split
  · exact State.hcRegLoad_wf rfl hw
  · exact hw

@[simp] theorem State.hcStore_rest (s : State) (h : Nat) (a : Word) (b : List Byte) : (State.hcStore s h a b).core.2 = s.core.2 := by
  simp only [State.hcStore]
  repeat' first | (with_reducible rfl) | (simp ; done) | (simp [State.core]; done) | split

@[simp] theorem State.hcStore_wf (s : State) (h : Nat) (a : Word) (b : List Byte) (hw : Memory.wf s.core.1 = true) : Memory.wf (State.hcStore s h a b).core.1 = true := by
  simp only [State.hcStore]
  repeat' first | (with_reducible assumption) | (simp (maxDischargeDepth := 9) [*]; done) | (simp (maxDischargeDepth := 9) [*, State.core]; done) | split

/-! Bundle. -/

@[simp] theorem State.fpFault_rest (s : State) (n c : Nat) (precise : Bool) : (State.fpFault s n c precise).core.2 = s.core.2 := by simp [State.fpFault]

@[simp] theorem State.fpFault_wf (s : State) (n c : Nat) (precise : Bool) (hw : Memory.wf s.core.1 = true) : Memory.wf (State.fpFault s n c precise).core.1 = true := by simp (maxDischargeDepth := 9) [State.fpFault, *]

@[simp] theorem State.stopRun_rest (s : State) (n code : Nat) (addr pc : Word) (again : Bool) : (State.stopRun s n code addr pc again).core.2 = s.core.2 := by
  unfold State.stopRun
  dsimp only
  repeat' split
  all_goals simp

@[simp] theorem State.stopRun_wf (s : State) (n code : Nat) (addr pc : Word) (again : Bool) (hw : Memory.wf s.core.1 = true) : Memory.wf (State.stopRun s n code addr pc again).core.1 = true := by
  unfold State.stopRun
  dsimp only
  repeat' split
  all_goals simp (maxDischargeDepth := 9) [hw]

theorem State.saveFp_rest {s : State} {n o : Nat} {t : State} (h : State.saveFp s n o = some t) : t.core.2 = s.core.2 := by
  simp only [State.saveFp] at h
  repeat' first | (cases h; done) | (cases h; (with_reducible rfl)) | (cases h; (simp ; done)) | (cases h; (simp [State.takeArea_rest ‹State.takeArea _ _ _ = _›]; done)) | split at h

theorem State.saveFp_wf {s : State} {n o : Nat} {t : State} (h : State.saveFp s n o = some t) (hw : Memory.wf s.core.1 = true) : Memory.wf t.core.1 = true := by
  simp only [State.saveFp] at h
  repeat' first | (cases h; done) | (cases h; (with_reducible assumption)) | (cases h; (simp (maxDischargeDepth := 9) [*]; done)) | (cases h; (simp (maxDischargeDepth := 9) [*, State.takeArea_wf ‹State.takeArea _ _ _ = _›]; done)) | split at h

theorem State.lazyFp_rest {s : State} {n : Nat} {t : State} (h : State.lazyFp s n = some t) : t.core.2 = s.core.2 := by
  unfold State.lazyFp at h
  dsimp only at h
  split at h
  · split at h
    · cases h; with_reducible rfl
    · split at h
      · rename_i o _
        cases ho : s.saveFp n o with
        | none => rw [ho] at h; cases h
        | some s1 =>
          rw [ho] at h
          simp only [Option.map_some, Option.some.injEq] at h
          subst h
          simp [State.saveFp_rest ho]
      · simp only [Option.map_some, Option.some.injEq] at h
        subst h
        simp
  · cases h; with_reducible rfl

theorem State.lazyFp_wf {s : State} {n : Nat} {t : State} (h : State.lazyFp s n = some t) (hw : Memory.wf s.core.1 = true) : Memory.wf t.core.1 = true := by
  unfold State.lazyFp at h
  dsimp only at h
  split at h
  · split at h
    · cases h; with_reducible exact hw
    · split at h
      · rename_i o _
        cases ho : s.saveFp n o with
        | none => rw [ho] at h; cases h
        | some s1 =>
          rw [ho] at h
          simp only [Option.map_some, Option.some.injEq] at h
          subst h
          simp [State.saveFp_wf ho hw]
      · simp only [Option.map_some, Option.some.injEq] at h
        subst h
        simp [hw]
  · cases h; with_reducible exact hw

@[simp] theorem State.endRun_rest (s : State) (n c : Nat) : (State.endRun s n c).core.2 = s.core.2 := by simp [State.endRun]

@[simp] theorem State.endRun_wf (s : State) (n c : Nat) (hw : Memory.wf s.core.1 = true) : Memory.wf (State.endRun s n c).core.1 = true := by simp (maxDischargeDepth := 9) [State.endRun, *]

@[simp] theorem State.yieldRun_core (s : State) (n c : Nat) : (State.yieldRun s n c).core = s.core := by simp [State.yieldRun]

@[simp] theorem State.retLevel1_core (s : State) (n : Nat) : (State.retLevel1 s n).core = s.core := by
  unfold State.retLevel1
  dsimp only
  rw [State.setCur_core]
  exact (State.resumeMicro_core (Eq.refl _)).trans (by simp)

@[simp] theorem State.retLevel2_rest (s : State) (n h : Nat) : (State.retLevel2 s n h).core.2 = s.core.2 := by
  unfold State.retLevel2
  dsimp only
  split <;> simp

@[simp] theorem State.retLevel2_wf (s : State) (n h : Nat) (hw : Memory.wf s.core.1 = true) : Memory.wf (State.retLevel2 s n h).core.1 = true := by
  unfold State.retLevel2
  dsimp only
  split <;> simp (maxDischargeDepth := 9) [hw]

@[simp] theorem State.retInt_rest (s : State) (n : Nat) : (State.retInt s n).core.2 = s.core.2 := by
  unfold State.retInt
  repeat' split
  all_goals simp

@[simp] theorem State.retInt_wf (s : State) (n : Nat) (hw : Memory.wf s.core.1 = true) : Memory.wf (State.retInt s n).core.1 = true := by
  unfold State.retInt
  repeat' split
  all_goals simp (maxDischargeDepth := 9) [hw]

@[simp] theorem State.tryAgain_rest (s : State) (n : Nat) (r : Option Retry) : (s.tryAgain n r).core.2 = s.core.2 := by
  unfold State.tryAgain
  split <;> simp

@[simp] theorem State.tryAgain_wf (s : State) (n : Nat) (r : Option Retry) (hw : Memory.wf s.core.1 = true) : Memory.wf (s.tryAgain n r).core.1 = true := by
  unfold State.tryAgain
  split <;> simp [hw]

@[simp] theorem State.retMc_rest (s : State) (n : Nat) : (State.retMc s n).core.2 = s.core.2 := by
  unfold State.retMc
  dsimp only
  split
  · rfl
  · rw [State.tryAgain_rest, State.runNext_core]
    exact (foldl_rest _ (fun _ _ => by simp) _ _).trans (by simp)

@[simp] theorem State.retMc_wf (s : State) (n : Nat) (hw : Memory.wf s.core.1 = true) : Memory.wf (State.retMc s n).core.1 = true := by
  unfold State.retMc
  dsimp only
  split
  · exact hw
  · refine State.tryAgain_wf _ _ _ ?_
    rw [State.runNext_core]
    exact foldl_wf _ (fun _ _ h => by simp [h]) _ _ (by simp [hw])

@[simp] theorem State.bankPut_core (s : State) (n b r : Nat) (v : Word) : (State.bankPut s n b r v).core = s.core := by
  unfold State.bankPut
  dsimp only
  repeat' split
  all_goals simp

@[simp] theorem State.engSys_rest (s : State) (n : Nat) (op : SysOp) : (State.engSys s n op).core.2 = s.core.2 := by
  cases op <;> unfold State.engSys <;> dsimp only
  all_goals repeat' split
  all_goals simp

@[simp] theorem State.engSys_wf (s : State) (n : Nat) (op : SysOp) (hw : Memory.wf s.core.1 = true) : Memory.wf (State.engSys s n op).core.1 = true := by
  cases op <;> unfold State.engSys <;> dsimp only
  all_goals repeat' split
  all_goals simp (maxDischargeDepth := 9) [hw]

theorem State.engMem_rest {s : State} {n : Nat} {fixed : Bool} {next : Word} {x : Ctx} {a : Act} {t : State × Ctx × Option Word} (h : State.engMem s n fixed next x a = some t) : t.1.core.2 = s.core.2 := by
  simp only [State.engMem] at h
  repeat' first | (cases h; done) | (cases h; (with_reducible rfl)) | (cases h; (simp ; done)) | (cases h; (simp [State.engLoad_rest ‹State.engLoad _ _ _ _ = _›]; done)) | split at h

theorem State.engMem_wf {s : State} {n : Nat} {fixed : Bool} {next : Word} {x : Ctx} {a : Act} {t : State × Ctx × Option Word} (h : State.engMem s n fixed next x a = some t) (hw : Memory.wf s.core.1 = true) : Memory.wf t.1.core.1 = true := by
  simp only [State.engMem] at h
  repeat' first | (cases h; done) | (cases h; (with_reducible assumption)) | (cases h; (simp (maxDischargeDepth := 9) [*]; done)) | (cases h; (simp (maxDischargeDepth := 9) [*, State.engLoad_wf ‹State.engLoad _ _ _ _ = _›]; done)) | split at h

@[simp] theorem State.preMem_rest (s : State) (n : Nat) (b : Bundle) : (State.preMem s n b).core.2 = s.core.2 := by
  unfold State.preMem
  repeat' split
  all_goals simp

@[simp] theorem State.preMem_wf (s : State) (n : Nat) (b : Bundle) (hw : Memory.wf s.core.1 = true) : Memory.wf (State.preMem s n b).core.1 = true := by
  unfold State.preMem
  repeat' split
  all_goals simp (maxDischargeDepth := 9) [hw]

@[simp] theorem State.countDown_core (s : State) (n : Nat) (x : Ctx) (b : Bundle) (j : Option Word) : (State.countDown s n x b j).core = s.core := by simp [State.countDown]

@[simp] theorem State.ran_core (s : State) (n : Nat) (x : Ctx) (words : Nat) (branches : List Bool) (unaligned : Nat) : (State.ran s n x words branches unaligned).core = s.core := by simp [State.ran]

@[simp] theorem State.engSyss_rest (s : State) (n : Nat) (acts : List Act) : (State.engSyss s n acts).core.2 = s.core.2 := by
  unfold State.engSyss
  repeat' first | (with_reducible rfl) | (simp ; done) | (simp [State.core]; done) | split | (refine (foldl_rest _ (fun _ _ => ?_) _ _).trans ?_) | (dsimp only; split) | (simp ; refine (foldl_rest _ (fun _ _ => ?_) _ _).trans ?_)

@[simp] theorem State.engSyss_wf (s : State) (n : Nat) (acts : List Act) (hw : Memory.wf s.core.1 = true) : Memory.wf (State.engSyss s n acts).core.1 = true := by
  unfold State.engSyss
  repeat' first | (with_reducible assumption) | (simp (maxDischargeDepth := 9) [*]; done) | (simp (maxDischargeDepth := 9) [*, State.core]; done) | split | (refine foldl_wf _ (fun _ _ _ => ?_) _ _ ?_) | (dsimp only; split) | (simp (maxDischargeDepth := 9) [*]; refine foldl_wf _ (fun _ _ _ => ?_) _ _ ?_)

theorem State.engMems_rest (n : Nat) (fixed : Bool) (next : Word) : ∀ (l : List Act) (s : State) (x : Ctx) (j : Option Word) (t : State × Ctx × Option Word),
    s.engMems n fixed next x j l = some t → t.1.core.2 = s.core.2
  | [], s, x, j, t, h => by unfold State.engMems at h; cases h; with_reducible rfl
  | a :: l, s, x, j, t, h => by
    unfold State.engMems at h
    cases hm : s.engMem n fixed next x a with
    | none => rw [hm] at h; cases h
    | some p =>
      obtain ⟨s1, x1, j1⟩ := p
      rw [hm] at h
      exact (State.engMems_rest n fixed next l _ _ _ _ h).trans (State.engMem_rest hm)

theorem State.engMems_wf (n : Nat) (fixed : Bool) (next : Word) : ∀ (l : List Act) (s : State) (x : Ctx) (j : Option Word) (t : State × Ctx × Option Word),
    s.engMems n fixed next x j l = some t → Memory.wf s.core.1 = true → Memory.wf t.1.core.1 = true
  | [], s, x, j, t, h, hw => by unfold State.engMems at h; cases h; with_reducible exact hw
  | a :: l, s, x, j, t, h, hw => by
    unfold State.engMems at h
    cases hm : s.engMem n fixed next x a with
    | none => rw [hm] at h; cases h
    | some p =>
      obtain ⟨s1, x1, j1⟩ := p
      rw [hm] at h
      exact State.engMems_wf n fixed next l _ _ _ _ h (State.engMem_wf hm hw)

theorem State.engApply_rest {s : State} {n : Nat} {x : Ctx} {b : Bundle} {t : State} (h : State.engApply s n x b = some t) : t.core.2 = s.core.2 := by
  unfold State.engApply at h
  cases hm : ((s.ran n x b.words (List.replicate b.cond (jumps b.acts)) (splits b.acts)).preMem n b).engMems n (s.fixedOn n) (x.fall b) (x.applied (s.fixedOn n) b) none b.acts with
  | none => rw [hm] at h; cases h
  | some p =>
    obtain ⟨s1, y, j⟩ := p
    rw [hm] at h
    simp only [Option.some.injEq] at h
    subst h
    have hq := State.engMems_rest _ _ _ _ _ _ _ _ hm
    simp at hq
    simp [hq]

theorem State.engApply_wf {s : State} {n : Nat} {x : Ctx} {b : Bundle} {t : State} (h : State.engApply s n x b = some t) (hw : Memory.wf s.core.1 = true) : Memory.wf t.core.1 = true := by
  unfold State.engApply at h
  cases hm : ((s.ran n x b.words (List.replicate b.cond (jumps b.acts)) (splits b.acts)).preMem n b).engMems n (s.fixedOn n) (x.fall b) (x.applied (s.fixedOn n) b) none b.acts with
  | none => rw [hm] at h; cases h
  | some p =>
    obtain ⟨s1, y, j⟩ := p
    rw [hm] at h
    simp only [Option.some.injEq] at h
    subst h
    have hq := State.engMems_wf _ _ _ _ _ _ _ _ hm (by simp [hw])
    simp at hq
    simp (maxDischargeDepth := 9) [hq]

theorem State.savesArea_rest {s : State} {n : Nat} {acts : List Act} {t : State} (h : State.savesArea s n acts = some t) : t.core.2 = s.core.2 := by
  unfold State.savesArea at h
  split at h
  · split at h
    · rename_i c _ _ _
      cases ho : s.takeArea n c with
      | none => rw [ho] at h; cases h
      | some p => rw [ho] at h; cases h; exact State.takeArea_rest ho
    · cases h; with_reducible rfl
  · cases h; with_reducible rfl

theorem State.savesArea_wf {s : State} {n : Nat} {acts : List Act} {t : State} (h : State.savesArea s n acts = some t) (hw : Memory.wf s.core.1 = true) : Memory.wf t.core.1 = true := by
  unfold State.savesArea at h
  split at h
  · split at h
    · rename_i c _ _ _
      cases ho : s.takeArea n c with
      | none => rw [ho] at h; cases h
      | some p => rw [ho] at h; cases h; exact State.takeArea_wf ho hw
    · cases h; with_reducible exact hw
  · cases h; with_reducible exact hw

theorem State.engPrep_rest {s : State} {n : Nat} {b : Bundle} {t : State} (h : State.engPrep s n b = some t) : t.core.2 = s.core.2 := by
  unfold State.engPrep at h
  split at h
  · cases h
  · rename_i s1 h1
    rw [State.savesArea_rest h]
    split at h1
    · exact State.lazyFp_rest h1
    · cases h1; with_reducible rfl

theorem State.engPrep_wf {s : State} {n : Nat} {b : Bundle} {t : State} (h : State.engPrep s n b = some t) (hw : Memory.wf s.core.1 = true) : Memory.wf t.core.1 = true := by
  unfold State.engPrep at h
  split at h
  · cases h
  · rename_i s1 h1
    refine State.savesArea_wf h ?_
    split at h1
    · exact State.lazyFp_wf h1 hw
    · cases h1; with_reducible exact hw

theorem State.gatherDone_rest {s : State} {n : Nat} {x : Ctx} {acts l : List Act} {t : State} (h : s.gatherDone n x acts = (l, some t)) : t.core.2 = s.core.2 := by
  unfold State.gatherDone at h
  dsimp only at h
  split at h
  · cases h
  · split at h
    · cases h
    · simp only [Prod.mk.injEq, Option.some.injEq] at h
      obtain ⟨-, rfl⟩ := h
      simp

theorem State.gatherDone_wf {s : State} {n : Nat} {x : Ctx} {acts l : List Act} {t : State} (h : s.gatherDone n x acts = (l, some t)) (hw : Memory.wf s.core.1 = true) : Memory.wf t.core.1 = true := by
  unfold State.gatherDone at h
  dsimp only at h
  split at h
  · cases h
  · split at h
    · cases h
    · simp only [Prod.mk.injEq, Option.some.injEq] at h
      obtain ⟨-, rfl⟩ := h
      simp (maxDischargeDepth := 9) [hw]

theorem State.engRun_rest {s : State} {n : Nat} {b : Bundle} {t : State} (h : State.engRun s n b = some t) : t.core.2 = s.core.2 := by
  unfold State.engRun at h
  cases hp : s.engPrep n b with
  | none => rw [hp] at h; simp only [Option.some.injEq] at h; subst h; simp
  | some s1 =>
    rw [hp] at h
    dsimp only at h
    cases hg : s1.gatherDone n (s1.cur n) b.acts with
    | mk l o =>
      rw [hg] at h
      cases o with
      | some u => simp only [Option.some.injEq] at h; subst h; exact (State.gatherDone_rest hg).trans (State.engPrep_rest hp)
      | none => exact (State.engApply_rest h).trans (State.engPrep_rest hp)

theorem State.engRun_wf {s : State} {n : Nat} {b : Bundle} {t : State} (h : State.engRun s n b = some t) (hw : Memory.wf s.core.1 = true) : Memory.wf t.core.1 = true := by
  unfold State.engRun at h
  cases hp : s.engPrep n b with
  | none => rw [hp] at h; simp only [Option.some.injEq] at h; subst h; simp [hw]
  | some s1 =>
    rw [hp] at h
    dsimp only at h
    cases hg : s1.gatherDone n (s1.cur n) b.acts with
    | mk l o =>
      rw [hg] at h
      cases o with
      | some u => simp only [Option.some.injEq] at h; subst h; exact State.gatherDone_wf hg (State.engPrep_wf hp hw)
      | none => exact State.engApply_wf h (State.engPrep_wf hp hw)

@[simp] theorem State.trapRun_rest (s : State) (n : Nat) (precise : Bool) : (State.trapRun s n precise).core.2 = s.core.2 := by
  unfold State.trapRun
  split <;> simp

@[simp] theorem State.trapRun_wf (s : State) (n : Nat) (precise : Bool) (hw : Memory.wf s.core.1 = true) : Memory.wf (State.trapRun s n precise).core.1 = true := by
  unfold State.trapRun
  split <;> simp (maxDischargeDepth := 9) [hw]

theorem State.engCommit_rest {s : State} {n : Nat} {b : Bundle} {t : State} (h : State.engCommit s n b = some t) : t.core.2 = s.core.2 := by
  unfold State.engCommit at h
  repeat' first | (cases h; done) | (cases h; (with_reducible rfl)) | (cases h; (simp ; done)) | (cases h; (simp [State.engRun_rest ‹State.engRun _ _ _ = _›]; done)) | split at h | (dsimp only at h; split at h) | cases h | (with_reducible rfl) | (simp ; done) | (simp [State.engRun_rest ‹State.engRun _ _ _ = _›]; done) | split | (refine (foldl_rest _ (fun _ _ => ?_) _ _).trans ?_) | (dsimp only; split) | (simp ; refine (foldl_rest _ (fun _ _ => ?_) _ _).trans ?_)

theorem State.engCommit_wf {s : State} {n : Nat} {b : Bundle} {t : State} (h : State.engCommit s n b = some t) (hw : Memory.wf s.core.1 = true) : Memory.wf t.core.1 = true := by
  unfold State.engCommit at h
  repeat' first | (cases h; done) | (cases h; (with_reducible assumption)) | (cases h; (simp (maxDischargeDepth := 9) [*]; done)) | (cases h; (simp (maxDischargeDepth := 9) [*, State.engRun_wf ‹State.engRun _ _ _ = _›]; done)) | split at h | (dsimp only at h; split at h) | cases h | (with_reducible assumption) | (simp (maxDischargeDepth := 9) [*]; done) | (simp (maxDischargeDepth := 9) [*, State.engRun_wf ‹State.engRun _ _ _ = _›]; done) | split | (refine foldl_wf _ (fun _ _ _ => ?_) _ _ ?_) | (dsimp only; split) | (simp (maxDischargeDepth := 9) [*]; refine foldl_wf _ (fun _ _ _ => ?_) _ _ ?_)

@[simp] theorem State.opReady_core (s : State) (n : Nat) (o : Op) : (State.opReady s n o).core = s.core := by simp [State.opReady]

/-- A meaning that changes no more than reading its operands does. -/
def Keeps (f : Meaning) : Prop :=
  ∀ s x, (f s x).2.2.core.2 = s.core.2 ∧ (Memory.wf s.core.1 = true → Memory.wf (f s x).2.2.core.1 = true)

theorem keeps_pure (g : State → Ctx → Option (Nat × Word) × List Act) : Keeps (fun s x => ((g s x).1, (g s x).2, s)) :=
  fun _ _ => ⟨rfl, id⟩

theorem keeps_rest {f : Meaning} (hf : Keeps f) (s : State) (x : Ctx) : (f s x).2.2.core.2 = s.core.2 := (hf s x).1
theorem keeps_wf {f : Meaning} (hf : Keeps f) {s : State} (x : Ctx) (hw : Memory.wf s.core.1 = true) : Memory.wf (f s x).2.2.core.1 = true := (hf s x).2 hw
theorem opArg_rest {s s1 : State} {x : Ctx} {c : Bool} {f : Meaning} (hf : Keeps f) (h1 : s1.core.2 = s.core.2) :
    (if c = true then ((none, [], s1) : Option (Nat × Word) × List Act × State) else f s1 x).2.2.core.2 = s.core.2 := by
  cases c
  · exact (keeps_rest hf s1 x).trans h1
  · exact h1

theorem opArg_wf {s1 : State} {x : Ctx} {c : Bool} {f : Meaning} (hf : Keeps f) (h1 : Memory.wf s1.core.1 = true) :
    Memory.wf (if c = true then ((none, [], s1) : Option (Nat × Word) × List Act × State) else f s1 x).2.2.core.1 = true := by
  cases c
  · exact keeps_wf hf x h1
  · exact h1

theorem State.opAdd_rest {old : State} {n : Nat} {w : At} {o : Op} {r : Option (Nat × Word) × List Act × State} (h : r.2.2.core.2 = old.core.2) : (State.opAdd old n w o r).core.2 = old.core.2 := by
  unfold State.opAdd
  dsimp only
  split
  · simp [h]
  · split
    · rename_i he; exact (State.engCommit_rest he).trans h
    · with_reducible rfl

theorem State.opAdd_wf {old : State} {n : Nat} {w : At} {o : Op} {r : Option (Nat × Word) × List Act × State} (h : Memory.wf r.2.2.core.1 = true) (hw : Memory.wf old.core.1 = true) : Memory.wf (State.opAdd old n w o r).core.1 = true := by
  unfold State.opAdd
  dsimp only
  split
  · simp [h]
  · split
    · rename_i he; exact State.engCommit_wf he h
    · with_reducible exact hw

@[simp] theorem State.opStart_rest (s : State) (n : Nat) : (State.opStart s n).core.2 = s.core.2 := by
  unfold State.opStart
  dsimp only
  split <;> simp

@[simp] theorem State.opStart_wf (s : State) (n : Nat) (hw : Memory.wf s.core.1 = true) : Memory.wf (State.opStart s n).core.1 = true := by
  unfold State.opStart
  dsimp only
  split <;> simp (maxDischargeDepth := 9) [hw]

theorem State.engOpOn_rest (s : State) (n : Nat) (w : At) (o : Op) (f : Meaning) (hf : Keeps f) : (State.engOpOn s n w o f).core.2 = s.core.2 := by
  unfold State.engOpOn
  dsimp only
  split
  · with_reducible rfl
  split
  · exact State.opAdd_rest (by simp)
  · exact State.opAdd_rest (opArg_rest hf (by simp))

theorem State.engOpOn_wf (s : State) (n : Nat) (w : At) (o : Op) (f : Meaning) (hf : Keeps f) (hw : Memory.wf s.core.1 = true) : Memory.wf (State.engOpOn s n w o f).core.1 = true := by
  unfold State.engOpOn
  dsimp only
  split
  · with_reducible exact hw
  split
  · exact State.opAdd_wf (by simp [hw]) hw
  · exact State.opAdd_wf (opArg_wf hf (by simp [hw])) hw

@[simp] theorem State.engOp_rest (s : State) (n : Nat) (w : At) (o : Op) (f : Meaning) (hf : Keeps f) : (State.engOp s n w o f).core.2 = s.core.2 := by
  unfold State.engOp
  split
  · with_reducible rfl
  · exact (State.engOpOn_rest _ _ _ _ _ hf).trans (State.opStart_rest _ _)

@[simp] theorem State.engOp_wf (s : State) (n : Nat) (w : At) (o : Op) (f : Meaning) (hf : Keeps f) (hw : Memory.wf s.core.1 = true) : Memory.wf (State.engOp s n w o f).core.1 = true := by
  unfold State.engOp
  split
  · with_reducible exact hw
  · exact State.engOpOn_wf _ _ _ _ _ hf (State.opStart_wf _ _ hw)

@[simp] theorem State.hcTrap_rest (s : State) (h cause : Nat) (tval epc : Word) : (State.hcTrap s h cause tval epc).core.2 = s.core.2 := by
  unfold State.hcTrap
  dsimp only
  split <;> simp

@[simp] theorem State.hcTrap_wf (s : State) (h cause : Nat) (tval epc : Word) (hw : Memory.wf s.core.1 = true) : Memory.wf (State.hcTrap s h cause tval epc).core.1 = true := by
  unfold State.hcTrap
  dsimp only
  split <;> simp (maxDischargeDepth := 9) [hw]

theorem State.csrRead_core {s : State} {h n : Nat} {t : Word × State} (h : State.csrRead s h n = t) : t.2.core = s.core := by
  subst h
  unfold State.csrRead
  repeat' split
  all_goals simp

@[simp] theorem State.hcSys_rest (s : State) (h : Nat) (pc : Word) (op : SysOp) : (State.hcSys s h pc op).core.2 = s.core.2 := by
  unfold State.hcSys
  repeat' first | (with_reducible rfl) | (simp ; done) | (simp [State.csrRead_core ‹State.csrRead _ _ _ = _›]; done) | (simp [State.core]; done) | split | (refine (foldl_rest _ (fun _ _ => ?_) _ _).trans ?_) | (dsimp only; split) | (simp ; refine (foldl_rest _ (fun _ _ => ?_) _ _).trans ?_)

@[simp] theorem State.hcSys_wf (s : State) (h : Nat) (pc : Word) (op : SysOp) (hw : Memory.wf s.core.1 = true) : Memory.wf (State.hcSys s h pc op).core.1 = true := by
  unfold State.hcSys
  repeat' first | (with_reducible assumption) | (simp (maxDischargeDepth := 9) [*]; done) | (simp (maxDischargeDepth := 9) [*, State.csrRead_core ‹State.csrRead _ _ _ = _›]; done) | (simp (maxDischargeDepth := 9) [*, State.core]; done) | split | (refine foldl_wf _ (fun _ _ _ => ?_) _ _ ?_) | (dsimp only; split) | (simp (maxDischargeDepth := 9) [*]; refine foldl_wf _ (fun _ _ _ => ?_) _ _ ?_)

theorem State.hcMem_rest {s : State} {h : Nat} {next : Word} {x : Ctx} {a : Act} {t : State × Ctx × Option Word} (h : State.hcMem s h next x a = t) : t.1.core.2 = s.core.2 := by
  subst h
  unfold State.hcMem
  split
  · exact State.hcLoad_rest (Eq.refl _)
  · simp
  · simp
  · exact State.hcLoad_rest (Eq.refl _)
  · with_reducible rfl
  · with_reducible rfl

theorem State.hcMem_wf {s : State} {h : Nat} {next : Word} {x : Ctx} {a : Act} {t : State × Ctx × Option Word} (h : State.hcMem s h next x a = t) (hw : Memory.wf s.core.1 = true) : Memory.wf t.1.core.1 = true := by
  subst h
  unfold State.hcMem
  split
  · exact State.hcLoad_wf (Eq.refl _) hw
  · simp [hw]
  · simp [hw]
  · exact State.hcLoad_wf (Eq.refl _) hw
  · with_reducible exact hw
  · with_reducible exact hw

theorem hcMems_rest (h : Nat) (fall : Word) (l : List Act) : ∀ (t : State × Ctx × Option Word),
    (l.foldl (fun (t : State × Ctx × Option Word) a =>
        let (s', x', j') := t.1.hcMem h fall t.2.1 a
        (s', x', if j'.isSome then j' else t.2.2)) t).1.core.2 = t.1.core.2 := by
  intro t
  refine foldl_keep (fun (t : State × Ctx × Option Word) => t.1.core.2) _ (fun b a => ?_) l t
  exact State.hcMem_rest (t := b.1.hcMem h fall b.2.1 a) (by with_reducible rfl)

theorem hcMems_wf (h : Nat) (fall : Word) (l : List Act) : ∀ (t : State × Ctx × Option Word), Memory.wf t.1.core.1 = true →
    Memory.wf (l.foldl (fun (t : State × Ctx × Option Word) a =>
        let (s', x', j') := t.1.hcMem h fall t.2.1 a
        (s', x', if j'.isSome then j' else t.2.2)) t).1.core.1 = true := by
  intro t hw
  refine foldl_holds (fun (t : State × Ctx × Option Word) => Memory.wf t.1.core.1 = true) _ (fun b a hw => ?_) l t hw
  exact State.hcMem_wf (t := b.1.hcMem h fall b.2.1 a) (by with_reducible rfl) hw

@[simp] theorem State.hcCommit_rest (s : State) (h : Nat) (b : Bundle) : (State.hcCommit s h b).core.2 = s.core.2 := by
  unfold State.hcCommit
  dsimp only
  split
  · simp
  split
  · simp
  split
  · simp
  · refine (foldl_rest _ (fun _ _ => State.hcSys_rest _ _ _ _) _ _).trans ?_
    have hq := hcMems_rest h ((s.hcCur h).pc + w32 (4 * b.words)) b.acts
      (s.setHc h { s.hc h with bundle := {}, step := false, waiting := false }, (ordered b.acts).foldl (Ctx.act true ((s.hcCur h).pc + w32 (4 * b.words))) (s.hcCur h), none)
    dsimp only at hq
    simp only [State.setHc_core] at hq ⊢
    exact hq

@[simp] theorem State.hcCommit_wf (s : State) (h : Nat) (b : Bundle) (hw : Memory.wf s.core.1 = true) : Memory.wf (State.hcCommit s h b).core.1 = true := by
  unfold State.hcCommit
  dsimp only
  split
  · simp [hw]
  split
  · simp [hw]
  split
  · simp [hw]
  · refine foldl_wf _ (fun _ _ hw => State.hcSys_wf _ _ _ _ hw) _ _ ?_
    have hq := hcMems_wf h ((s.hcCur h).pc + w32 (4 * b.words)) b.acts
      (s.setHc h { s.hc h with bundle := {}, step := false, waiting := false }, (ordered b.acts).foldl (Ctx.act true ((s.hcCur h).pc + w32 (4 * b.words))) (s.hcCur h), none) (by simp [hw])
    dsimp only at hq
    simp only [State.setHc_core] at hq ⊢
    exact hq

@[simp] theorem State.hcOp_rest (s : State) (h : Nat) (w : At) (o : Op) (f : Meaning) (hf : Keeps f) : (State.hcOp s h w o f).core.2 = s.core.2 := by
  unfold State.hcOp
  dsimp only
  split
  · with_reducible rfl
  · split
    · simp [keeps_rest hf]
    · simp [keeps_rest hf]

@[simp] theorem State.hcOp_wf (s : State) (h : Nat) (w : At) (o : Op) (f : Meaning) (hf : Keeps f) (hw : Memory.wf s.core.1 = true) : Memory.wf (State.hcOp s h w o f).core.1 = true := by
  unfold State.hcOp
  dsimp only
  split
  · with_reducible exact hw
  · split
    · simp [keeps_wf hf _ hw]
    · simp [keeps_wf hf _ hw]

@[simp] theorem State.op_rest (s : State) (w : At) (o : Op) (f : Meaning) (hf : Keeps f) : (State.op s w o f).core.2 = s.core.2 := by
  unfold State.op
  split <;> simp [hf]

@[simp] theorem State.op_wf (s : State) (w : At) (o : Op) (f : Meaning) (hf : Keeps f) (hw : Memory.wf s.core.1 = true) : Memory.wf (State.op s w o f).core.1 = true := by
  unfold State.op
  split <;> simp [hf, hw]

@[simp] theorem State.pureOp_rest (s : State) (w : At) (o : Op) (g : Ctx → List Act) : (State.pureOp s w o g).core.2 = s.core.2 := by
  unfold State.pureOp
  exact State.op_rest _ _ _ _ (fun _ _ => ⟨rfl, id⟩)

@[simp] theorem State.pureOp_wf (s : State) (w : At) (o : Op) (g : Ctx → List Act) (hw : Memory.wf s.core.1 = true) : Memory.wf (State.pureOp s w o g).core.1 = true := by
  unfold State.pureOp
  exact State.op_wf _ _ _ _ (fun _ _ => ⟨rfl, id⟩) hw

/-! Alu. -/

@[simp] theorem State.alu_rest (s : State) (w : At) (rd ra rb : Reg) (g : Word → Word → Word) : (State.alu s w rd ra rb g).core.2 = s.core.2 := by simp [State.alu]

@[simp] theorem State.alu_wf (s : State) (w : At) (rd ra rb : Reg) (g : Word → Word → Word) (hw : Memory.wf s.core.1 = true) : Memory.wf (State.alu s w rd ra rb g).core.1 = true := by simp (maxDischargeDepth := 9) [State.alu, *]

@[simp] theorem State.aluF_rest (s : State) (w : At) (rd ra rb : Reg) (g : Word → Word → Word × Nat) : (State.aluF s w rd ra rb g).core.2 = s.core.2 := by simp [State.aluF]

@[simp] theorem State.aluF_wf (s : State) (w : At) (rd ra rb : Reg) (g : Word → Word → Word × Nat) (hw : Memory.wf s.core.1 = true) : Memory.wf (State.aluF s w rd ra rb g).core.1 = true := by simp (maxDischargeDepth := 9) [State.aluF, *]

@[simp] theorem State.alu2_rest (s : State) (w : At) (rd ra : Reg) (g : Word → Word) : (State.alu2 s w rd ra g).core.2 = s.core.2 := by simp [State.alu2]

@[simp] theorem State.alu2_wf (s : State) (w : At) (rd ra : Reg) (g : Word → Word) (hw : Memory.wf s.core.1 = true) : Memory.wf (State.alu2 s w rd ra g).core.1 = true := by simp (maxDischargeDepth := 9) [State.alu2, *]

@[simp] theorem State.aluI_rest (s : State) (w : At) (rd ra : Reg) (g : Word → Word) : (State.aluI s w rd ra g).core.2 = s.core.2 := by simp [State.aluI]

@[simp] theorem State.aluI_wf (s : State) (w : At) (rd ra : Reg) (g : Word → Word) (hw : Memory.wf s.core.1 = true) : Memory.wf (State.aluI s w rd ra g).core.1 = true := by simp (maxDischargeDepth := 9) [State.aluI, hw]

@[simp] theorem State.alu2F_rest (s : State) (w : At) (rd ra : Reg) (g : Word → Word × Nat) : (State.alu2F s w rd ra g).core.2 = s.core.2 := by simp [State.alu2F]

@[simp] theorem State.alu2F_wf (s : State) (w : At) (rd ra : Reg) (g : Word → Word × Nat) (hw : Memory.wf s.core.1 = true) : Memory.wf (State.alu2F s w rd ra g).core.1 = true := by simp (maxDischargeDepth := 9) [State.alu2F, *]

@[simp] theorem State.aluC_rest (s : State) (w : At) (rd ra rb : Reg) (g : Word → Word → Bool → Word × Bool) : (State.aluC s w rd ra rb g).core.2 = s.core.2 := by simp [State.aluC]

@[simp] theorem State.aluC_wf (s : State) (w : At) (rd ra rb : Reg) (g : Word → Word → Bool → Word × Bool) (hw : Memory.wf s.core.1 = true) : Memory.wf (State.aluC s w rd ra rb g).core.1 = true := by simp (maxDischargeDepth := 9) [State.aluC, *]

@[simp] theorem State.divide_rest (s : State) (w : At) (rd ra rb : Reg) (g : Word → Word → Word × Nat) : (State.divide s w rd ra rb g).core.2 = s.core.2 := by simp [State.divide]

@[simp] theorem State.divide_wf (s : State) (w : At) (rd ra rb : Reg) (g : Word → Word → Word × Nat) (hw : Memory.wf s.core.1 = true) : Memory.wf (State.divide s w rd ra rb g).core.1 = true := by simp (maxDischargeDepth := 9) [State.divide, *]

theorem execAdd_rest {w : At} {rd ra rb : Reg} {s : State} {t : State} (h : execAdd w rd ra rb s = .next t) : t.core.2 = s.core.2 := by
  simp only [execAdd, Host.Outcome.next.injEq] at h
  subst h
  simp

theorem execAdd_wf {w : At} {rd ra rb : Reg} {s : State} {t : State} (h : execAdd w rd ra rb s = .next t) (hw : Memory.wf s.core.1 = true) : Memory.wf t.core.1 = true := by
  simp only [execAdd, Host.Outcome.next.injEq] at h
  subst h
  simp (maxDischargeDepth := 9) [hw]

theorem execSub_rest {w : At} {rd ra rb : Reg} {s : State} {t : State} (h : execSub w rd ra rb s = .next t) : t.core.2 = s.core.2 := by
  simp only [execSub, Host.Outcome.next.injEq] at h
  subst h
  simp

theorem execSub_wf {w : At} {rd ra rb : Reg} {s : State} {t : State} (h : execSub w rd ra rb s = .next t) (hw : Memory.wf s.core.1 = true) : Memory.wf t.core.1 = true := by
  simp only [execSub, Host.Outcome.next.injEq] at h
  subst h
  simp (maxDischargeDepth := 9) [hw]

theorem execAnd_rest {w : At} {rd ra rb : Reg} {s : State} {t : State} (h : execAnd w rd ra rb s = .next t) : t.core.2 = s.core.2 := by
  simp only [execAnd, Host.Outcome.next.injEq] at h
  subst h
  simp

theorem execAnd_wf {w : At} {rd ra rb : Reg} {s : State} {t : State} (h : execAnd w rd ra rb s = .next t) (hw : Memory.wf s.core.1 = true) : Memory.wf t.core.1 = true := by
  simp only [execAnd, Host.Outcome.next.injEq] at h
  subst h
  simp (maxDischargeDepth := 9) [hw]

theorem execOr_rest {w : At} {rd ra rb : Reg} {s : State} {t : State} (h : execOr w rd ra rb s = .next t) : t.core.2 = s.core.2 := by
  simp only [execOr, Host.Outcome.next.injEq] at h
  subst h
  simp

theorem execOr_wf {w : At} {rd ra rb : Reg} {s : State} {t : State} (h : execOr w rd ra rb s = .next t) (hw : Memory.wf s.core.1 = true) : Memory.wf t.core.1 = true := by
  simp only [execOr, Host.Outcome.next.injEq] at h
  subst h
  simp (maxDischargeDepth := 9) [hw]

theorem execXor_rest {w : At} {rd ra rb : Reg} {s : State} {t : State} (h : execXor w rd ra rb s = .next t) : t.core.2 = s.core.2 := by
  simp only [execXor, Host.Outcome.next.injEq] at h
  subst h
  simp

theorem execXor_wf {w : At} {rd ra rb : Reg} {s : State} {t : State} (h : execXor w rd ra rb s = .next t) (hw : Memory.wf s.core.1 = true) : Memory.wf t.core.1 = true := by
  simp only [execXor, Host.Outcome.next.injEq] at h
  subst h
  simp (maxDischargeDepth := 9) [hw]

theorem execAndn_rest {w : At} {rd ra rb : Reg} {s : State} {t : State} (h : execAndn w rd ra rb s = .next t) : t.core.2 = s.core.2 := by
  simp only [execAndn, Host.Outcome.next.injEq] at h
  subst h
  simp

theorem execAndn_wf {w : At} {rd ra rb : Reg} {s : State} {t : State} (h : execAndn w rd ra rb s = .next t) (hw : Memory.wf s.core.1 = true) : Memory.wf t.core.1 = true := by
  simp only [execAndn, Host.Outcome.next.injEq] at h
  subst h
  simp (maxDischargeDepth := 9) [hw]

theorem execSll_rest {w : At} {rd ra rb : Reg} {s : State} {t : State} (h : execSll w rd ra rb s = .next t) : t.core.2 = s.core.2 := by
  simp only [execSll, Host.Outcome.next.injEq] at h
  subst h
  simp

theorem execSll_wf {w : At} {rd ra rb : Reg} {s : State} {t : State} (h : execSll w rd ra rb s = .next t) (hw : Memory.wf s.core.1 = true) : Memory.wf t.core.1 = true := by
  simp only [execSll, Host.Outcome.next.injEq] at h
  subst h
  simp (maxDischargeDepth := 9) [hw]

theorem execSrl_rest {w : At} {rd ra rb : Reg} {s : State} {t : State} (h : execSrl w rd ra rb s = .next t) : t.core.2 = s.core.2 := by
  simp only [execSrl, Host.Outcome.next.injEq] at h
  subst h
  simp

theorem execSrl_wf {w : At} {rd ra rb : Reg} {s : State} {t : State} (h : execSrl w rd ra rb s = .next t) (hw : Memory.wf s.core.1 = true) : Memory.wf t.core.1 = true := by
  simp only [execSrl, Host.Outcome.next.injEq] at h
  subst h
  simp (maxDischargeDepth := 9) [hw]

theorem execSra_rest {w : At} {rd ra rb : Reg} {s : State} {t : State} (h : execSra w rd ra rb s = .next t) : t.core.2 = s.core.2 := by
  simp only [execSra, Host.Outcome.next.injEq] at h
  subst h
  simp

theorem execSra_wf {w : At} {rd ra rb : Reg} {s : State} {t : State} (h : execSra w rd ra rb s = .next t) (hw : Memory.wf s.core.1 = true) : Memory.wf t.core.1 = true := by
  simp only [execSra, Host.Outcome.next.injEq] at h
  subst h
  simp (maxDischargeDepth := 9) [hw]

theorem execRor_rest {w : At} {rd ra rb : Reg} {s : State} {t : State} (h : execRor w rd ra rb s = .next t) : t.core.2 = s.core.2 := by
  simp only [execRor, Host.Outcome.next.injEq] at h
  subst h
  simp

theorem execRor_wf {w : At} {rd ra rb : Reg} {s : State} {t : State} (h : execRor w rd ra rb s = .next t) (hw : Memory.wf s.core.1 = true) : Memory.wf t.core.1 = true := by
  simp only [execRor, Host.Outcome.next.injEq] at h
  subst h
  simp (maxDischargeDepth := 9) [hw]

theorem execRol_rest {w : At} {rd ra rb : Reg} {s : State} {t : State} (h : execRol w rd ra rb s = .next t) : t.core.2 = s.core.2 := by
  simp only [execRol, Host.Outcome.next.injEq] at h
  subst h
  simp

theorem execRol_wf {w : At} {rd ra rb : Reg} {s : State} {t : State} (h : execRol w rd ra rb s = .next t) (hw : Memory.wf s.core.1 = true) : Memory.wf t.core.1 = true := by
  simp only [execRol, Host.Outcome.next.injEq] at h
  subst h
  simp (maxDischargeDepth := 9) [hw]

theorem execSlt_rest {w : At} {rd ra rb : Reg} {s : State} {t : State} (h : execSlt w rd ra rb s = .next t) : t.core.2 = s.core.2 := by
  simp only [execSlt, Host.Outcome.next.injEq] at h
  subst h
  simp

theorem execSlt_wf {w : At} {rd ra rb : Reg} {s : State} {t : State} (h : execSlt w rd ra rb s = .next t) (hw : Memory.wf s.core.1 = true) : Memory.wf t.core.1 = true := by
  simp only [execSlt, Host.Outcome.next.injEq] at h
  subst h
  simp (maxDischargeDepth := 9) [hw]

theorem execSltu_rest {w : At} {rd ra rb : Reg} {s : State} {t : State} (h : execSltu w rd ra rb s = .next t) : t.core.2 = s.core.2 := by
  simp only [execSltu, Host.Outcome.next.injEq] at h
  subst h
  simp

theorem execSltu_wf {w : At} {rd ra rb : Reg} {s : State} {t : State} (h : execSltu w rd ra rb s = .next t) (hw : Memory.wf s.core.1 = true) : Memory.wf t.core.1 = true := by
  simp only [execSltu, Host.Outcome.next.injEq] at h
  subst h
  simp (maxDischargeDepth := 9) [hw]

theorem execMin_rest {w : At} {rd ra rb : Reg} {s : State} {t : State} (h : execMin w rd ra rb s = .next t) : t.core.2 = s.core.2 := by
  simp only [execMin, Host.Outcome.next.injEq] at h
  subst h
  simp

theorem execMin_wf {w : At} {rd ra rb : Reg} {s : State} {t : State} (h : execMin w rd ra rb s = .next t) (hw : Memory.wf s.core.1 = true) : Memory.wf t.core.1 = true := by
  simp only [execMin, Host.Outcome.next.injEq] at h
  subst h
  simp (maxDischargeDepth := 9) [hw]

theorem execMax_rest {w : At} {rd ra rb : Reg} {s : State} {t : State} (h : execMax w rd ra rb s = .next t) : t.core.2 = s.core.2 := by
  simp only [execMax, Host.Outcome.next.injEq] at h
  subst h
  simp

theorem execMax_wf {w : At} {rd ra rb : Reg} {s : State} {t : State} (h : execMax w rd ra rb s = .next t) (hw : Memory.wf s.core.1 = true) : Memory.wf t.core.1 = true := by
  simp only [execMax, Host.Outcome.next.injEq] at h
  subst h
  simp (maxDischargeDepth := 9) [hw]

theorem execMinu_rest {w : At} {rd ra rb : Reg} {s : State} {t : State} (h : execMinu w rd ra rb s = .next t) : t.core.2 = s.core.2 := by
  simp only [execMinu, Host.Outcome.next.injEq] at h
  subst h
  simp

theorem execMinu_wf {w : At} {rd ra rb : Reg} {s : State} {t : State} (h : execMinu w rd ra rb s = .next t) (hw : Memory.wf s.core.1 = true) : Memory.wf t.core.1 = true := by
  simp only [execMinu, Host.Outcome.next.injEq] at h
  subst h
  simp (maxDischargeDepth := 9) [hw]

theorem execMaxu_rest {w : At} {rd ra rb : Reg} {s : State} {t : State} (h : execMaxu w rd ra rb s = .next t) : t.core.2 = s.core.2 := by
  simp only [execMaxu, Host.Outcome.next.injEq] at h
  subst h
  simp

theorem execMaxu_wf {w : At} {rd ra rb : Reg} {s : State} {t : State} (h : execMaxu w rd ra rb s = .next t) (hw : Memory.wf s.core.1 = true) : Memory.wf t.core.1 = true := by
  simp only [execMaxu, Host.Outcome.next.injEq] at h
  subst h
  simp (maxDischargeDepth := 9) [hw]

theorem execAdds_rest {w : At} {rd ra rb : Reg} {s : State} {t : State} (h : execAdds w rd ra rb s = .next t) : t.core.2 = s.core.2 := by
  simp only [execAdds, Host.Outcome.next.injEq] at h
  subst h
  simp

theorem execAdds_wf {w : At} {rd ra rb : Reg} {s : State} {t : State} (h : execAdds w rd ra rb s = .next t) (hw : Memory.wf s.core.1 = true) : Memory.wf t.core.1 = true := by
  simp only [execAdds, Host.Outcome.next.injEq] at h
  subst h
  simp (maxDischargeDepth := 9) [hw]

theorem execSubs_rest {w : At} {rd ra rb : Reg} {s : State} {t : State} (h : execSubs w rd ra rb s = .next t) : t.core.2 = s.core.2 := by
  simp only [execSubs, Host.Outcome.next.injEq] at h
  subst h
  simp

theorem execSubs_wf {w : At} {rd ra rb : Reg} {s : State} {t : State} (h : execSubs w rd ra rb s = .next t) (hw : Memory.wf s.core.1 = true) : Memory.wf t.core.1 = true := by
  simp only [execSubs, Host.Outcome.next.injEq] at h
  subst h
  simp (maxDischargeDepth := 9) [hw]

theorem execNeg_rest {w : At} {rd ra : Reg} {s : State} {t : State} (h : execNeg w rd ra s = .next t) : t.core.2 = s.core.2 := by
  simp only [execNeg, Host.Outcome.next.injEq] at h
  subst h
  simp

theorem execNeg_wf {w : At} {rd ra : Reg} {s : State} {t : State} (h : execNeg w rd ra s = .next t) (hw : Memory.wf s.core.1 = true) : Memory.wf t.core.1 = true := by
  simp only [execNeg, Host.Outcome.next.injEq] at h
  subst h
  simp (maxDischargeDepth := 9) [hw]

theorem execNegs_rest {w : At} {rd ra : Reg} {s : State} {t : State} (h : execNegs w rd ra s = .next t) : t.core.2 = s.core.2 := by
  simp only [execNegs, Host.Outcome.next.injEq] at h
  subst h
  simp

theorem execNegs_wf {w : At} {rd ra : Reg} {s : State} {t : State} (h : execNegs w rd ra s = .next t) (hw : Memory.wf s.core.1 = true) : Memory.wf t.core.1 = true := by
  simp only [execNegs, Host.Outcome.next.injEq] at h
  subst h
  simp (maxDischargeDepth := 9) [hw]

theorem execAbs_rest {w : At} {rd ra : Reg} {s : State} {t : State} (h : execAbs w rd ra s = .next t) : t.core.2 = s.core.2 := by
  simp only [execAbs, Host.Outcome.next.injEq] at h
  subst h
  simp

theorem execAbs_wf {w : At} {rd ra : Reg} {s : State} {t : State} (h : execAbs w rd ra s = .next t) (hw : Memory.wf s.core.1 = true) : Memory.wf t.core.1 = true := by
  simp only [execAbs, Host.Outcome.next.injEq] at h
  subst h
  simp (maxDischargeDepth := 9) [hw]

theorem execAbss_rest {w : At} {rd ra : Reg} {s : State} {t : State} (h : execAbss w rd ra s = .next t) : t.core.2 = s.core.2 := by
  simp only [execAbss, Host.Outcome.next.injEq] at h
  subst h
  simp

theorem execAbss_wf {w : At} {rd ra : Reg} {s : State} {t : State} (h : execAbss w rd ra s = .next t) (hw : Memory.wf s.core.1 = true) : Memory.wf t.core.1 = true := by
  simp only [execAbss, Host.Outcome.next.injEq] at h
  subst h
  simp (maxDischargeDepth := 9) [hw]

theorem execAddc_rest {w : At} {rd ra rb : Reg} {s : State} {t : State} (h : execAddc w rd ra rb s = .next t) : t.core.2 = s.core.2 := by
  simp only [execAddc, Host.Outcome.next.injEq] at h
  subst h
  simp

theorem execAddc_wf {w : At} {rd ra rb : Reg} {s : State} {t : State} (h : execAddc w rd ra rb s = .next t) (hw : Memory.wf s.core.1 = true) : Memory.wf t.core.1 = true := by
  simp only [execAddc, Host.Outcome.next.injEq] at h
  subst h
  simp (maxDischargeDepth := 9) [hw]

theorem execSubc_rest {w : At} {rd ra rb : Reg} {s : State} {t : State} (h : execSubc w rd ra rb s = .next t) : t.core.2 = s.core.2 := by
  simp only [execSubc, Host.Outcome.next.injEq] at h
  subst h
  simp

theorem execSubc_wf {w : At} {rd ra rb : Reg} {s : State} {t : State} (h : execSubc w rd ra rb s = .next t) (hw : Memory.wf s.core.1 = true) : Memory.wf t.core.1 = true := by
  simp only [execSubc, Host.Outcome.next.injEq] at h
  subst h
  simp (maxDischargeDepth := 9) [hw]

theorem execClz_rest {w : At} {rd ra : Reg} {s : State} {t : State} (h : execClz w rd ra s = .next t) : t.core.2 = s.core.2 := by
  simp only [execClz, Host.Outcome.next.injEq] at h
  subst h
  simp

theorem execClz_wf {w : At} {rd ra : Reg} {s : State} {t : State} (h : execClz w rd ra s = .next t) (hw : Memory.wf s.core.1 = true) : Memory.wf t.core.1 = true := by
  simp only [execClz, Host.Outcome.next.injEq] at h
  subst h
  simp (maxDischargeDepth := 9) [hw]

theorem execPopc_rest {w : At} {rd ra : Reg} {s : State} {t : State} (h : execPopc w rd ra s = .next t) : t.core.2 = s.core.2 := by
  simp only [execPopc, Host.Outcome.next.injEq] at h
  subst h
  simp

theorem execPopc_wf {w : At} {rd ra : Reg} {s : State} {t : State} (h : execPopc w rd ra s = .next t) (hw : Memory.wf s.core.1 = true) : Memory.wf t.core.1 = true := by
  simp only [execPopc, Host.Outcome.next.injEq] at h
  subst h
  simp (maxDischargeDepth := 9) [hw]

theorem execBrev_rest {w : At} {rd ra : Reg} {s : State} {t : State} (h : execBrev w rd ra s = .next t) : t.core.2 = s.core.2 := by
  simp only [execBrev, Host.Outcome.next.injEq] at h
  subst h
  simp

theorem execBrev_wf {w : At} {rd ra : Reg} {s : State} {t : State} (h : execBrev w rd ra s = .next t) (hw : Memory.wf s.core.1 = true) : Memory.wf t.core.1 = true := by
  simp only [execBrev, Host.Outcome.next.injEq] at h
  subst h
  simp (maxDischargeDepth := 9) [hw]

theorem execBswap_rest {w : At} {rd ra : Reg} {s : State} {t : State} (h : execBswap w rd ra s = .next t) : t.core.2 = s.core.2 := by
  simp only [execBswap, Host.Outcome.next.injEq] at h
  subst h
  simp

theorem execBswap_wf {w : At} {rd ra : Reg} {s : State} {t : State} (h : execBswap w rd ra s = .next t) (hw : Memory.wf s.core.1 = true) : Memory.wf t.core.1 = true := by
  simp only [execBswap, Host.Outcome.next.injEq] at h
  subst h
  simp (maxDischargeDepth := 9) [hw]

theorem execAddi_rest {w : At} {rd ra : Reg} {imm : Word} {s : State} {t : State} (h : execAddi w rd ra imm s = .next t) : t.core.2 = s.core.2 := by
  simp only [execAddi, Host.Outcome.next.injEq] at h
  subst h
  simp

theorem execAddi_wf {w : At} {rd ra : Reg} {imm : Word} {s : State} {t : State} (h : execAddi w rd ra imm s = .next t) (hw : Memory.wf s.core.1 = true) : Memory.wf t.core.1 = true := by
  simp only [execAddi, Host.Outcome.next.injEq] at h
  subst h
  simp (maxDischargeDepth := 9) [hw]

theorem execAndi_rest {w : At} {rd ra : Reg} {imm : Word} {s : State} {t : State} (h : execAndi w rd ra imm s = .next t) : t.core.2 = s.core.2 := by
  simp only [execAndi, Host.Outcome.next.injEq] at h
  subst h
  simp

theorem execAndi_wf {w : At} {rd ra : Reg} {imm : Word} {s : State} {t : State} (h : execAndi w rd ra imm s = .next t) (hw : Memory.wf s.core.1 = true) : Memory.wf t.core.1 = true := by
  simp only [execAndi, Host.Outcome.next.injEq] at h
  subst h
  simp (maxDischargeDepth := 9) [hw]

theorem execOri_rest {w : At} {rd ra : Reg} {imm : Word} {s : State} {t : State} (h : execOri w rd ra imm s = .next t) : t.core.2 = s.core.2 := by
  simp only [execOri, Host.Outcome.next.injEq] at h
  subst h
  simp

theorem execOri_wf {w : At} {rd ra : Reg} {imm : Word} {s : State} {t : State} (h : execOri w rd ra imm s = .next t) (hw : Memory.wf s.core.1 = true) : Memory.wf t.core.1 = true := by
  simp only [execOri, Host.Outcome.next.injEq] at h
  subst h
  simp (maxDischargeDepth := 9) [hw]

theorem execXori_rest {w : At} {rd ra : Reg} {imm : Word} {s : State} {t : State} (h : execXori w rd ra imm s = .next t) : t.core.2 = s.core.2 := by
  simp only [execXori, Host.Outcome.next.injEq] at h
  subst h
  simp

theorem execXori_wf {w : At} {rd ra : Reg} {imm : Word} {s : State} {t : State} (h : execXori w rd ra imm s = .next t) (hw : Memory.wf s.core.1 = true) : Memory.wf t.core.1 = true := by
  simp only [execXori, Host.Outcome.next.injEq] at h
  subst h
  simp (maxDischargeDepth := 9) [hw]

theorem execSlti_rest {w : At} {rd ra : Reg} {imm : Word} {s : State} {t : State} (h : execSlti w rd ra imm s = .next t) : t.core.2 = s.core.2 := by
  simp only [execSlti, Host.Outcome.next.injEq] at h
  subst h
  simp

theorem execSlti_wf {w : At} {rd ra : Reg} {imm : Word} {s : State} {t : State} (h : execSlti w rd ra imm s = .next t) (hw : Memory.wf s.core.1 = true) : Memory.wf t.core.1 = true := by
  simp only [execSlti, Host.Outcome.next.injEq] at h
  subst h
  simp (maxDischargeDepth := 9) [hw]

theorem execSltiu_rest {w : At} {rd ra : Reg} {imm : Word} {s : State} {t : State} (h : execSltiu w rd ra imm s = .next t) : t.core.2 = s.core.2 := by
  simp only [execSltiu, Host.Outcome.next.injEq] at h
  subst h
  simp

theorem execSltiu_wf {w : At} {rd ra : Reg} {imm : Word} {s : State} {t : State} (h : execSltiu w rd ra imm s = .next t) (hw : Memory.wf s.core.1 = true) : Memory.wf t.core.1 = true := by
  simp only [execSltiu, Host.Outcome.next.injEq] at h
  subst h
  simp (maxDischargeDepth := 9) [hw]

theorem execSlli_rest {w : At} {rd ra : Reg} {n : Byte} {s : State} {t : State} (h : execSlli w rd ra n s = .next t) : t.core.2 = s.core.2 := by
  simp only [execSlli, Host.Outcome.next.injEq] at h
  subst h
  simp

theorem execSlli_wf {w : At} {rd ra : Reg} {n : Byte} {s : State} {t : State} (h : execSlli w rd ra n s = .next t) (hw : Memory.wf s.core.1 = true) : Memory.wf t.core.1 = true := by
  simp only [execSlli, Host.Outcome.next.injEq] at h
  subst h
  simp (maxDischargeDepth := 9) [hw]

theorem execSrli_rest {w : At} {rd ra : Reg} {n : Byte} {s : State} {t : State} (h : execSrli w rd ra n s = .next t) : t.core.2 = s.core.2 := by
  simp only [execSrli, Host.Outcome.next.injEq] at h
  subst h
  simp

theorem execSrli_wf {w : At} {rd ra : Reg} {n : Byte} {s : State} {t : State} (h : execSrli w rd ra n s = .next t) (hw : Memory.wf s.core.1 = true) : Memory.wf t.core.1 = true := by
  simp only [execSrli, Host.Outcome.next.injEq] at h
  subst h
  simp (maxDischargeDepth := 9) [hw]

theorem execSrai_rest {w : At} {rd ra : Reg} {n : Byte} {s : State} {t : State} (h : execSrai w rd ra n s = .next t) : t.core.2 = s.core.2 := by
  simp only [execSrai, Host.Outcome.next.injEq] at h
  subst h
  simp

theorem execSrai_wf {w : At} {rd ra : Reg} {n : Byte} {s : State} {t : State} (h : execSrai w rd ra n s = .next t) (hw : Memory.wf s.core.1 = true) : Memory.wf t.core.1 = true := by
  simp only [execSrai, Host.Outcome.next.injEq] at h
  subst h
  simp (maxDischargeDepth := 9) [hw]

theorem execRori_rest {w : At} {rd ra : Reg} {n : Byte} {s : State} {t : State} (h : execRori w rd ra n s = .next t) : t.core.2 = s.core.2 := by
  simp only [execRori, Host.Outcome.next.injEq] at h
  subst h
  simp

theorem execRori_wf {w : At} {rd ra : Reg} {n : Byte} {s : State} {t : State} (h : execRori w rd ra n s = .next t) (hw : Memory.wf s.core.1 = true) : Memory.wf t.core.1 = true := by
  simp only [execRori, Host.Outcome.next.injEq] at h
  subst h
  simp (maxDischargeDepth := 9) [hw]

theorem execMov_rest {w : At} {rd ra : Reg} {s : State} {t : State} (h : execMov w rd ra s = .next t) : t.core.2 = s.core.2 := by
  simp only [execMov, Host.Outcome.next.injEq] at h
  subst h
  simp

theorem execMov_wf {w : At} {rd ra : Reg} {s : State} {t : State} (h : execMov w rd ra s = .next t) (hw : Memory.wf s.core.1 = true) : Memory.wf t.core.1 = true := by
  simp only [execMov, Host.Outcome.next.injEq] at h
  subst h
  simp (maxDischargeDepth := 9) [hw]

theorem execLi_rest {w : At} {rd : Reg} {imm : Word} {s : State} {t : State} (h : execLi w rd imm s = .next t) : t.core.2 = s.core.2 := by
  simp only [execLi, Host.Outcome.next.injEq] at h
  subst h
  simp

theorem execLi_wf {w : At} {rd : Reg} {imm : Word} {s : State} {t : State} (h : execLi w rd imm s = .next t) (hw : Memory.wf s.core.1 = true) : Memory.wf t.core.1 = true := by
  simp only [execLi, Host.Outcome.next.injEq] at h
  subst h
  simp (maxDischargeDepth := 9) [hw]

theorem execDiv_rest {w : At} {rd ra rb : Reg} {s : State} {t : State} (h : execDiv w rd ra rb s = .next t) : t.core.2 = s.core.2 := by
  simp only [execDiv, Host.Outcome.next.injEq] at h
  subst h
  simp

theorem execDiv_wf {w : At} {rd ra rb : Reg} {s : State} {t : State} (h : execDiv w rd ra rb s = .next t) (hw : Memory.wf s.core.1 = true) : Memory.wf t.core.1 = true := by
  simp only [execDiv, Host.Outcome.next.injEq] at h
  subst h
  simp (maxDischargeDepth := 9) [hw]

theorem execDivu_rest {w : At} {rd ra rb : Reg} {s : State} {t : State} (h : execDivu w rd ra rb s = .next t) : t.core.2 = s.core.2 := by
  simp only [execDivu, Host.Outcome.next.injEq] at h
  subst h
  simp

theorem execDivu_wf {w : At} {rd ra rb : Reg} {s : State} {t : State} (h : execDivu w rd ra rb s = .next t) (hw : Memory.wf s.core.1 = true) : Memory.wf t.core.1 = true := by
  simp only [execDivu, Host.Outcome.next.injEq] at h
  subst h
  simp (maxDischargeDepth := 9) [hw]

theorem execRem_rest {w : At} {rd ra rb : Reg} {s : State} {t : State} (h : execRem w rd ra rb s = .next t) : t.core.2 = s.core.2 := by
  simp only [execRem, Host.Outcome.next.injEq] at h
  subst h
  simp

theorem execRem_wf {w : At} {rd ra rb : Reg} {s : State} {t : State} (h : execRem w rd ra rb s = .next t) (hw : Memory.wf s.core.1 = true) : Memory.wf t.core.1 = true := by
  simp only [execRem, Host.Outcome.next.injEq] at h
  subst h
  simp (maxDischargeDepth := 9) [hw]

theorem execRemu_rest {w : At} {rd ra rb : Reg} {s : State} {t : State} (h : execRemu w rd ra rb s = .next t) : t.core.2 = s.core.2 := by
  simp only [execRemu, Host.Outcome.next.injEq] at h
  subst h
  simp

theorem execRemu_wf {w : At} {rd ra rb : Reg} {s : State} {t : State} (h : execRemu w rd ra rb s = .next t) (hw : Memory.wf s.core.1 = true) : Memory.wf t.core.1 = true := by
  simp only [execRemu, Host.Outcome.next.injEq] at h
  subst h
  simp (maxDischargeDepth := 9) [hw]

theorem State.specialReg_core {s : State} {c : Core} {x : Ctx} {n : Nat} {t : Word × State} (h : State.specialReg s c x n = t) : t.2.core = s.core := by
  subst h
  unfold State.specialReg
  repeat' split
  all_goals simp

theorem execMvs_rest {w : At} {rd : Reg} {n : Fin 32} {s : State} {t : State} (h : execMvs w rd n s = .next t) : t.core.2 = s.core.2 := by
  unfold execMvs at h
  simp only [Host.Outcome.next.injEq] at h
  subst h
  exact State.op_rest _ _ _ _ (fun s x => ⟨congrArg Prod.snd (State.specialReg_core (t := s.specialReg w.core x n.val) (by with_reducible rfl)), fun hw => (congrArg (fun c => Memory.wf c.1) (State.specialReg_core (t := s.specialReg w.core x n.val) (by with_reducible rfl))).trans hw⟩)

theorem execMvs_wf {w : At} {rd : Reg} {n : Fin 32} {s : State} {t : State} (h : execMvs w rd n s = .next t) (hw : Memory.wf s.core.1 = true) : Memory.wf t.core.1 = true := by
  unfold execMvs at h
  simp only [Host.Outcome.next.injEq] at h
  subst h
  exact State.op_wf _ _ _ _ (fun s x => ⟨congrArg Prod.snd (State.specialReg_core (t := s.specialReg w.core x n.val) (by with_reducible rfl)), fun hw => (congrArg (fun c => Memory.wf c.1) (State.specialReg_core (t := s.specialReg w.core x n.val) (by with_reducible rfl))).trans hw⟩) hw

theorem execMvts_rest {w : At} {n : Fin 32} {ra : Reg} {s : State} {t : State} (h : execMvts w n ra s = .next t) : t.core.2 = s.core.2 := by
  simp only [execMvts, Host.Outcome.next.injEq] at h
  subst h
  simp

theorem execMvts_wf {w : At} {n : Fin 32} {ra : Reg} {s : State} {t : State} (h : execMvts w n ra s = .next t) (hw : Memory.wf s.core.1 = true) : Memory.wf t.core.1 = true := by
  simp only [execMvts, Host.Outcome.next.injEq] at h
  subst h
  simp (maxDischargeDepth := 9) [hw]

theorem execEstclr_rest {w : At} {s : State} {t : State} (h : execEstclr w s = .next t) : t.core.2 = s.core.2 := by
  simp only [execEstclr, Host.Outcome.next.injEq] at h
  subst h
  simp

theorem execEstclr_wf {w : At} {s : State} {t : State} (h : execEstclr w s = .next t) (hw : Memory.wf s.core.1 = true) : Memory.wf t.core.1 = true := by
  simp only [execEstclr, Host.Outcome.next.injEq] at h
  subst h
  simp (maxDischargeDepth := 9) [hw]

@[simp] theorem State.mulOp_rest (s : State) (w : At) (rd ra rb : Reg) (g : Word → Word → Word) : (State.mulOp s w rd ra rb g).core.2 = s.core.2 := by simp [State.mulOp]

@[simp] theorem State.mulOp_wf (s : State) (w : At) (rd ra rb : Reg) (g : Word → Word → Word) (hw : Memory.wf s.core.1 = true) : Memory.wf (State.mulOp s w rd ra rb g).core.1 = true := by simp (maxDischargeDepth := 9) [State.mulOp, *]

theorem execMul_rest {w : At} {rd ra rb : Reg} {s : State} {t : State} (h : execMul w rd ra rb s = .next t) : t.core.2 = s.core.2 := by
  simp only [execMul, Host.Outcome.next.injEq] at h
  subst h
  simp

theorem execMul_wf {w : At} {rd ra rb : Reg} {s : State} {t : State} (h : execMul w rd ra rb s = .next t) (hw : Memory.wf s.core.1 = true) : Memory.wf t.core.1 = true := by
  simp only [execMul, Host.Outcome.next.injEq] at h
  subst h
  simp (maxDischargeDepth := 9) [hw]

theorem execMulh_rest {w : At} {rd ra rb : Reg} {s : State} {t : State} (h : execMulh w rd ra rb s = .next t) : t.core.2 = s.core.2 := by
  simp only [execMulh, Host.Outcome.next.injEq] at h
  subst h
  simp

theorem execMulh_wf {w : At} {rd ra rb : Reg} {s : State} {t : State} (h : execMulh w rd ra rb s = .next t) (hw : Memory.wf s.core.1 = true) : Memory.wf t.core.1 = true := by
  simp only [execMulh, Host.Outcome.next.injEq] at h
  subst h
  simp (maxDischargeDepth := 9) [hw]

theorem execMulhu_rest {w : At} {rd ra rb : Reg} {s : State} {t : State} (h : execMulhu w rd ra rb s = .next t) : t.core.2 = s.core.2 := by
  simp only [execMulhu, Host.Outcome.next.injEq] at h
  subst h
  simp

theorem execMulhu_wf {w : At} {rd ra rb : Reg} {s : State} {t : State} (h : execMulhu w rd ra rb s = .next t) (hw : Memory.wf s.core.1 = true) : Memory.wf t.core.1 = true := by
  simp only [execMulhu, Host.Outcome.next.injEq] at h
  subst h
  simp (maxDischargeDepth := 9) [hw]

/-! Branch. -/

@[simp] theorem State.branch_rest (s : State) (w : At) (ra rb : Reg) (disp : Word) (p : Word → Word → Bool) : (State.branch s w ra rb disp p).core.2 = s.core.2 := by simp [State.branch]

@[simp] theorem State.branch_wf (s : State) (w : At) (ra rb : Reg) (disp : Word) (p : Word → Word → Bool) (hw : Memory.wf s.core.1 = true) : Memory.wf (State.branch s w ra rb disp p).core.1 = true := by simp (maxDischargeDepth := 9) [State.branch, *]

@[simp] theorem State.branchZ_rest (s : State) (w : At) (ra : Reg) (disp : Word) (p : Word → Bool) : (State.branchZ s w ra disp p).core.2 = s.core.2 := by simp [State.branchZ]

@[simp] theorem State.branchZ_wf (s : State) (w : At) (ra : Reg) (disp : Word) (p : Word → Bool) (hw : Memory.wf s.core.1 = true) : Memory.wf (State.branchZ s w ra disp p).core.1 = true := by simp (maxDischargeDepth := 9) [State.branchZ, *]

theorem execBeq_rest {w : At} {ra rb : Reg} {disp : Word} {s : State} {t : State} (h : execBeq w ra rb disp s = .next t) : t.core.2 = s.core.2 := by
  simp only [execBeq, Host.Outcome.next.injEq] at h
  subst h
  simp

theorem execBeq_wf {w : At} {ra rb : Reg} {disp : Word} {s : State} {t : State} (h : execBeq w ra rb disp s = .next t) (hw : Memory.wf s.core.1 = true) : Memory.wf t.core.1 = true := by
  simp only [execBeq, Host.Outcome.next.injEq] at h
  subst h
  simp (maxDischargeDepth := 9) [hw]

theorem execBne_rest {w : At} {ra rb : Reg} {disp : Word} {s : State} {t : State} (h : execBne w ra rb disp s = .next t) : t.core.2 = s.core.2 := by
  simp only [execBne, Host.Outcome.next.injEq] at h
  subst h
  simp

theorem execBne_wf {w : At} {ra rb : Reg} {disp : Word} {s : State} {t : State} (h : execBne w ra rb disp s = .next t) (hw : Memory.wf s.core.1 = true) : Memory.wf t.core.1 = true := by
  simp only [execBne, Host.Outcome.next.injEq] at h
  subst h
  simp (maxDischargeDepth := 9) [hw]

theorem execBlt_rest {w : At} {ra rb : Reg} {disp : Word} {s : State} {t : State} (h : execBlt w ra rb disp s = .next t) : t.core.2 = s.core.2 := by
  simp only [execBlt, Host.Outcome.next.injEq] at h
  subst h
  simp

theorem execBlt_wf {w : At} {ra rb : Reg} {disp : Word} {s : State} {t : State} (h : execBlt w ra rb disp s = .next t) (hw : Memory.wf s.core.1 = true) : Memory.wf t.core.1 = true := by
  simp only [execBlt, Host.Outcome.next.injEq] at h
  subst h
  simp (maxDischargeDepth := 9) [hw]

theorem execBge_rest {w : At} {ra rb : Reg} {disp : Word} {s : State} {t : State} (h : execBge w ra rb disp s = .next t) : t.core.2 = s.core.2 := by
  simp only [execBge, Host.Outcome.next.injEq] at h
  subst h
  simp

theorem execBge_wf {w : At} {ra rb : Reg} {disp : Word} {s : State} {t : State} (h : execBge w ra rb disp s = .next t) (hw : Memory.wf s.core.1 = true) : Memory.wf t.core.1 = true := by
  simp only [execBge, Host.Outcome.next.injEq] at h
  subst h
  simp (maxDischargeDepth := 9) [hw]

theorem execBltu_rest {w : At} {ra rb : Reg} {disp : Word} {s : State} {t : State} (h : execBltu w ra rb disp s = .next t) : t.core.2 = s.core.2 := by
  simp only [execBltu, Host.Outcome.next.injEq] at h
  subst h
  simp

theorem execBltu_wf {w : At} {ra rb : Reg} {disp : Word} {s : State} {t : State} (h : execBltu w ra rb disp s = .next t) (hw : Memory.wf s.core.1 = true) : Memory.wf t.core.1 = true := by
  simp only [execBltu, Host.Outcome.next.injEq] at h
  subst h
  simp (maxDischargeDepth := 9) [hw]

theorem execBgeu_rest {w : At} {ra rb : Reg} {disp : Word} {s : State} {t : State} (h : execBgeu w ra rb disp s = .next t) : t.core.2 = s.core.2 := by
  simp only [execBgeu, Host.Outcome.next.injEq] at h
  subst h
  simp

theorem execBgeu_wf {w : At} {ra rb : Reg} {disp : Word} {s : State} {t : State} (h : execBgeu w ra rb disp s = .next t) (hw : Memory.wf s.core.1 = true) : Memory.wf t.core.1 = true := by
  simp only [execBgeu, Host.Outcome.next.injEq] at h
  subst h
  simp (maxDischargeDepth := 9) [hw]

theorem execBeqz_rest {w : At} {ra : Reg} {disp : Word} {s : State} {t : State} (h : execBeqz w ra disp s = .next t) : t.core.2 = s.core.2 := by
  simp only [execBeqz, Host.Outcome.next.injEq] at h
  subst h
  simp

theorem execBeqz_wf {w : At} {ra : Reg} {disp : Word} {s : State} {t : State} (h : execBeqz w ra disp s = .next t) (hw : Memory.wf s.core.1 = true) : Memory.wf t.core.1 = true := by
  simp only [execBeqz, Host.Outcome.next.injEq] at h
  subst h
  simp (maxDischargeDepth := 9) [hw]

theorem execBnez_rest {w : At} {ra : Reg} {disp : Word} {s : State} {t : State} (h : execBnez w ra disp s = .next t) : t.core.2 = s.core.2 := by
  simp only [execBnez, Host.Outcome.next.injEq] at h
  subst h
  simp

theorem execBnez_wf {w : At} {ra : Reg} {disp : Word} {s : State} {t : State} (h : execBnez w ra disp s = .next t) (hw : Memory.wf s.core.1 = true) : Memory.wf t.core.1 = true := by
  simp only [execBnez, Host.Outcome.next.injEq] at h
  subst h
  simp (maxDischargeDepth := 9) [hw]

theorem execDbnz_rest {w : At} {ra : Reg} {disp : Word} {s : State} {t : State} (h : execDbnz w ra disp s = .next t) : t.core.2 = s.core.2 := by
  simp only [execDbnz, Host.Outcome.next.injEq] at h
  subst h
  simp

theorem execDbnz_wf {w : At} {ra : Reg} {disp : Word} {s : State} {t : State} (h : execDbnz w ra disp s = .next t) (hw : Memory.wf s.core.1 = true) : Memory.wf t.core.1 = true := by
  simp only [execDbnz, Host.Outcome.next.injEq] at h
  subst h
  simp (maxDischargeDepth := 9) [hw]

theorem execJ_rest {w : At} {disp : Word} {s : State} {t : State} (h : execJ w disp s = .next t) : t.core.2 = s.core.2 := by
  simp only [execJ, Host.Outcome.next.injEq] at h
  subst h
  simp

theorem execJ_wf {w : At} {disp : Word} {s : State} {t : State} (h : execJ w disp s = .next t) (hw : Memory.wf s.core.1 = true) : Memory.wf t.core.1 = true := by
  simp only [execJ, Host.Outcome.next.injEq] at h
  subst h
  simp (maxDischargeDepth := 9) [hw]

theorem execJr_rest {w : At} {ra : Reg} {s : State} {t : State} (h : execJr w ra s = .next t) : t.core.2 = s.core.2 := by
  simp only [execJr, Host.Outcome.next.injEq] at h
  subst h
  simp

theorem execJr_wf {w : At} {ra : Reg} {s : State} {t : State} (h : execJr w ra s = .next t) (hw : Memory.wf s.core.1 = true) : Memory.wf t.core.1 = true := by
  simp only [execJr, Host.Outcome.next.injEq] at h
  subst h
  simp (maxDischargeDepth := 9) [hw]

@[simp] theorem State.callTo_rest (s : State) (w : At) (ext : Bool) (reads : List Nat) (t : Ctx → Word) : (State.callTo s w ext reads t).core.2 = s.core.2 := by
  unfold State.callTo
  exact State.op_rest _ _ _ _ (fun _ _ => ⟨(rfl), id⟩)

@[simp] theorem State.callTo_wf (s : State) (w : At) (ext : Bool) (reads : List Nat) (t : Ctx → Word) (hw : Memory.wf s.core.1 = true) : Memory.wf (State.callTo s w ext reads t).core.1 = true := by
  unfold State.callTo
  exact State.op_wf _ _ _ _ (fun _ _ => ⟨(rfl), id⟩) hw

theorem execCall_rest {w : At} {disp : Word} {s : State} {t : State} (h : execCall w disp s = .next t) : t.core.2 = s.core.2 := by
  simp only [execCall, Host.Outcome.next.injEq] at h
  subst h
  simp

theorem execCall_wf {w : At} {disp : Word} {s : State} {t : State} (h : execCall w disp s = .next t) (hw : Memory.wf s.core.1 = true) : Memory.wf t.core.1 = true := by
  simp only [execCall, Host.Outcome.next.injEq] at h
  subst h
  simp (maxDischargeDepth := 9) [hw]

theorem execCallr_rest {w : At} {ra : Reg} {s : State} {t : State} (h : execCallr w ra s = .next t) : t.core.2 = s.core.2 := by
  simp only [execCallr, Host.Outcome.next.injEq] at h
  subst h
  simp

theorem execCallr_wf {w : At} {ra : Reg} {s : State} {t : State} (h : execCallr w ra s = .next t) (hw : Memory.wf s.core.1 = true) : Memory.wf t.core.1 = true := by
  simp only [execCallr, Host.Outcome.next.injEq] at h
  subst h
  simp (maxDischargeDepth := 9) [hw]

theorem execRet_rest {w : At} {s : State} {t : State} (h : execRet w s = .next t) : t.core.2 = s.core.2 := by
  unfold execRet at h
  simp only [Host.Outcome.next.injEq] at h
  subst h
  exact State.op_rest _ _ _ _ (fun _ _ => ⟨(rfl), id⟩)

theorem execRet_wf {w : At} {s : State} {t : State} (h : execRet w s = .next t) (hw : Memory.wf s.core.1 = true) : Memory.wf t.core.1 = true := by
  unfold execRet at h
  simp only [Host.Outcome.next.injEq] at h
  subst h
  exact State.op_wf _ _ _ _ (fun _ _ => ⟨(rfl), id⟩) hw

theorem execLoop_rest {w : At} {level : Fin 4} {count : Count} {endDisp : Fin 2048} {s : State} {t : State} (h : execLoop w level count endDisp s = .next t) : t.core.2 = s.core.2 := by
  unfold execLoop at h
  simp only [Host.Outcome.next.injEq] at h
  subst h
  exact State.op_rest _ _ _ _ (fun _ _ => ⟨(rfl), id⟩)

theorem execLoop_wf {w : At} {level : Fin 4} {count : Count} {endDisp : Fin 2048} {s : State} {t : State} (h : execLoop w level count endDisp s = .next t) (hw : Memory.wf s.core.1 = true) : Memory.wf t.core.1 = true := by
  unfold execLoop at h
  simp only [Host.Outcome.next.injEq] at h
  subst h
  exact State.op_wf _ _ _ _ (fun _ _ => ⟨(rfl), id⟩) hw

theorem execRpt_rest {w : At} {count : Count} {s : State} {t : State} (h : execRpt w count s = .next t) : t.core.2 = s.core.2 := by
  simp only [execRpt, Host.Outcome.next.injEq] at h
  subst h
  simp

theorem execRpt_wf {w : At} {count : Count} {s : State} {t : State} (h : execRpt w count s = .next t) (hw : Memory.wf s.core.1 = true) : Memory.wf t.core.1 = true := by
  simp only [execRpt, Host.Outcome.next.injEq] at h
  subst h
  simp (maxDischargeDepth := 9) [hw]

/-! Events. -/

@[simp] theorem State.lineTaken_core (s : State) (n i : Nat) : (State.lineTaken s n i).core = s.core := by simp [State.lineTaken]

@[simp] theorem State.pauseRoutine_rest (s : State) (n c : Nat) (r : Run) : (State.pauseRoutine s n c r).core.2 = s.core.2 := by
  unfold State.pauseRoutine
  repeat' first | (with_reducible rfl) | (simp ; done) | (simp [State.someSteps_rest ‹State.someSteps _ _ _ = _›]; done) | (simp [State.core]; done) | split | (refine (foldl_rest _ (fun _ _ => ?_) _ _).trans ?_) | (dsimp only; split) | (simp ; refine (foldl_rest _ (fun _ _ => ?_) _ _).trans ?_)

@[simp] theorem State.pauseRoutine_wf (s : State) (n c : Nat) (r : Run) (hw : Memory.wf s.core.1 = true) : Memory.wf (State.pauseRoutine s n c r).core.1 = true := by
  unfold State.pauseRoutine
  repeat' first | (with_reducible assumption) | (simp (maxDischargeDepth := 9) [*]; done) | (simp (maxDischargeDepth := 9) [*, State.someSteps_wf ‹State.someSteps _ _ _ = _›]; done) | (simp (maxDischargeDepth := 9) [*, State.core]; done) | split | (refine foldl_wf _ (fun _ _ _ => ?_) _ _ ?_) | (dsimp only; split) | (simp (maxDischargeDepth := 9) [*]; refine foldl_wf _ (fun _ _ _ => ?_) _ _ ?_)

@[simp] theorem State.pause_rest (s : State) (n c : Nat) : (State.pause s n c).core.2 = s.core.2 := by
  unfold State.pause
  dsimp only
  repeat' split
  all_goals simp

@[simp] theorem State.pause_wf (s : State) (n c : Nat) (hw : Memory.wf s.core.1 = true) : Memory.wf (State.pause s n c).core.1 = true := by
  unfold State.pause
  dsimp only
  repeat' split
  all_goals simp (maxDischargeDepth := 9) [hw]

@[simp] theorem State.takeLevel1_rest (s : State) (n i : Nat) : (State.takeLevel1 s n i).core.2 = s.core.2 := by
  unfold State.takeLevel1
  split <;> simp

@[simp] theorem State.takeLevel1_wf (s : State) (n i : Nat) (hw : Memory.wf s.core.1 = true) : Memory.wf (State.takeLevel1 s n i).core.1 = true := by
  unfold State.takeLevel1
  split <;> simp (maxDischargeDepth := 9) [hw]

@[simp] theorem State.takeLevel2_rest (s : State) (n i : Nat) : (State.takeLevel2 s n i).core.2 = s.core.2 := by
  unfold State.takeLevel2
  dsimp only
  repeat' split
  all_goals simp

@[simp] theorem State.takeLevel2_wf (s : State) (n i : Nat) (hw : Memory.wf s.core.1 = true) : Memory.wf (State.takeLevel2 s n i).core.1 = true := by
  unfold State.takeLevel2
  dsimp only
  repeat' split
  all_goals simp (maxDischargeDepth := 9) [hw]

theorem execInterruptLevel1_rest {n : Fin 192} {line : Fin 16} {s : State} {t : State} (h : execInterruptLevel1 n line s = .next t) : t.core.2 = s.core.2 := by
  unfold execInterruptLevel1 at h
  split at h
  all_goals simp only [Host.Outcome.next.injEq] at h; subst h; simp

theorem execInterruptLevel1_wf {n : Fin 192} {line : Fin 16} {s : State} {t : State} (h : execInterruptLevel1 n line s = .next t) (hw : Memory.wf s.core.1 = true) : Memory.wf t.core.1 = true := by
  unfold execInterruptLevel1 at h
  split at h
  all_goals simp only [Host.Outcome.next.injEq] at h; subst h; simp (maxDischargeDepth := 9) [hw]

theorem execInterruptLevel2_rest {n : Fin 192} {line : Fin 16} {s : State} {t : State} (h : execInterruptLevel2 n line s = .next t) : t.core.2 = s.core.2 := by
  unfold execInterruptLevel2 at h
  split at h
  all_goals simp only [Host.Outcome.next.injEq] at h; subst h; simp

theorem execInterruptLevel2_wf {n : Fin 192} {line : Fin 16} {s : State} {t : State} (h : execInterruptLevel2 n line s = .next t) (hw : Memory.wf s.core.1 = true) : Memory.wf t.core.1 = true := by
  unfold execInterruptLevel2 at h
  split at h
  all_goals simp only [Host.Outcome.next.injEq] at h; subst h; simp (maxDischargeDepth := 9) [hw]

theorem execDintLimit_rest {n : Fin 192} {s : State} {t : State} (h : execDintLimit n s = .next t) : t.core.2 = s.core.2 := by
  unfold execDintLimit at h
  dsimp only at h
  repeat' split at h
  all_goals simp only [Host.Outcome.next.injEq] at h; subst h; simp

theorem execDintLimit_wf {n : Fin 192} {s : State} {t : State} (h : execDintLimit n s = .next t) (hw : Memory.wf s.core.1 = true) : Memory.wf t.core.1 = true := by
  unfold execDintLimit at h
  dsimp only at h
  repeat' split at h
  all_goals simp only [Host.Outcome.next.injEq] at h; subst h; simp (maxDischargeDepth := 9) [hw]

@[simp] theorem State.abandon_rest (s : State) (n : Nat) : (State.abandon s n).core.2 = s.core.2 := by
  unfold State.abandon
  dsimp only
  rw [State.setCur_core]
  split
  · exact State.someSteps_rest (Eq.refl _)
  · rfl

@[simp] theorem State.abandon_wf (s : State) (n : Nat) (hw : Memory.wf s.core.1 = true) : Memory.wf (State.abandon s n).core.1 = true := by
  unfold State.abandon
  dsimp only
  rw [State.setCur_core]
  split
  · exact State.someSteps_wf (Eq.refl _) hw
  · exact hw

theorem execMachineCheck_rest {n : Fin 192} {cause : Byte} {addr : Word} {bank : Fin 8} {s : State} {t : State} (h : execMachineCheck n cause addr bank s = .next t) : t.core.2 = s.core.2 := by
  unfold execMachineCheck at h
  dsimp only at h
  repeat' split at h
  all_goals simp only [Host.Outcome.next.injEq] at h; subst h; simp

theorem execMachineCheck_wf {n : Fin 192} {cause : Byte} {addr : Word} {bank : Fin 8} {s : State} {t : State} (h : execMachineCheck n cause addr bank s = .next t) (hw : Memory.wf s.core.1 = true) : Memory.wf t.core.1 = true := by
  unfold execMachineCheck at h
  dsimp only at h
  repeat' split at h
  all_goals simp only [Host.Outcome.next.injEq] at h; subst h; simp (maxDischargeDepth := 9) [hw]

theorem execContextFault_rest {n : Fin 192} {code : Byte} {addr : Word} {s : State} {t : State} (h : execContextFault n code addr s = .next t) : t.core.2 = s.core.2 := by
  unfold execContextFault at h
  dsimp only at h
  repeat' split at h
  all_goals simp only [Host.Outcome.next.injEq] at h; subst h; simp

theorem execContextFault_wf {n : Fin 192} {code : Byte} {addr : Word} {s : State} {t : State} (h : execContextFault n code addr s = .next t) (hw : Memory.wf s.core.1 = true) : Memory.wf t.core.1 = true := by
  unfold execContextFault at h
  dsimp only at h
  repeat' split at h
  all_goals simp only [Host.Outcome.next.injEq] at h; subst h; simp (maxDischargeDepth := 9) [hw]

theorem execFpTrap_rest {n : Fin 192} {s : State} {t : State} (h : execFpTrap n s = .next t) : t.core.2 = s.core.2 := by
  unfold execFpTrap at h
  split at h
  all_goals simp only [Host.Outcome.next.injEq] at h; subst h; simp

theorem execFpTrap_wf {n : Fin 192} {s : State} {t : State} (h : execFpTrap n s = .next t) (hw : Memory.wf s.core.1 = true) : Memory.wf t.core.1 = true := by
  unfold execFpTrap at h
  split at h
  all_goals simp only [Host.Outcome.next.injEq] at h; subst h; simp (maxDischargeDepth := 9) [hw]

theorem execContextFill_rest {n : Fin 192} {ctx : Fin 64} {s : State} {t : State} (h : execContextFill n ctx s = .next t) : t.core.2 = s.core.2 := by
  unfold execContextFill at h
  split at h
  all_goals simp only [Host.Outcome.next.injEq] at h; subst h; simp

theorem execContextFill_wf {n : Fin 192} {ctx : Fin 64} {s : State} {t : State} (h : execContextFill n ctx s = .next t) (hw : Memory.wf s.core.1 = true) : Memory.wf t.core.1 = true := by
  unfold execContextFill at h
  split at h
  all_goals simp only [Host.Outcome.next.injEq] at h; subst h; simp (maxDischargeDepth := 9) [hw]

theorem execLongOpComplete_rest {n : Fin 192} {s : State} {t : State} (h : execLongOpComplete n s = .next t) : t.core.2 = s.core.2 := by
  unfold execLongOpComplete at h
  dsimp only at h
  repeat' split at h
  all_goals simp only [Host.Outcome.next.injEq] at h; subst h; simp

theorem execLongOpComplete_wf {n : Fin 192} {s : State} {t : State} (h : execLongOpComplete n s = .next t) (hw : Memory.wf s.core.1 = true) : Memory.wf t.core.1 = true := by
  unfold execLongOpComplete at h
  dsimp only at h
  repeat' split at h
  all_goals simp only [Host.Outcome.next.injEq] at h; subst h; simp (maxDischargeDepth := 9) [hw]

theorem execHarbourTrap_rest {h : Fin 2} {cause : Byte} {tval : Word} {s : State} {t : State} (h : execHarbourTrap h cause tval s = .next t) : t.core.2 = s.core.2 := by
  unfold execHarbourTrap at h
  dsimp only at h
  split at h
  all_goals simp only [Host.Outcome.next.injEq] at h; subst h; simp

theorem execHarbourTrap_wf {h : Fin 2} {cause : Byte} {tval : Word} {s : State} {t : State} (h : execHarbourTrap h cause tval s = .next t) (hw : Memory.wf s.core.1 = true) : Memory.wf t.core.1 = true := by
  unfold execHarbourTrap at h
  dsimp only at h
  split at h
  all_goals simp only [Host.Outcome.next.injEq] at h; subst h; simp (maxDischargeDepth := 9) [hw]

/-! Fp. -/

@[simp] theorem State.fpOp_rest (s : State) (w : At) (fd fa fb : FReg) (g : Nat → Word → Word → Word × Nat) : (State.fpOp s w fd fa fb g).core.2 = s.core.2 := by simp [State.fpOp]

@[simp] theorem State.fpOp_wf (s : State) (w : At) (fd fa fb : FReg) (g : Nat → Word → Word → Word × Nat) (hw : Memory.wf s.core.1 = true) : Memory.wf (State.fpOp s w fd fa fb g).core.1 = true := by simp (maxDischargeDepth := 9) [State.fpOp, *]

theorem execFadd_rest {w : At} {fd fa fb : FReg} {s : State} {t : State} (h : execFadd w fd fa fb s = .next t) : t.core.2 = s.core.2 := by
  simp only [execFadd, Host.Outcome.next.injEq] at h
  subst h
  simp

theorem execFadd_wf {w : At} {fd fa fb : FReg} {s : State} {t : State} (h : execFadd w fd fa fb s = .next t) (hw : Memory.wf s.core.1 = true) : Memory.wf t.core.1 = true := by
  simp only [execFadd, Host.Outcome.next.injEq] at h
  subst h
  simp (maxDischargeDepth := 9) [hw]

theorem execFsub_rest {w : At} {fd fa fb : FReg} {s : State} {t : State} (h : execFsub w fd fa fb s = .next t) : t.core.2 = s.core.2 := by
  simp only [execFsub, Host.Outcome.next.injEq] at h
  subst h
  simp

theorem execFsub_wf {w : At} {fd fa fb : FReg} {s : State} {t : State} (h : execFsub w fd fa fb s = .next t) (hw : Memory.wf s.core.1 = true) : Memory.wf t.core.1 = true := by
  simp only [execFsub, Host.Outcome.next.injEq] at h
  subst h
  simp (maxDischargeDepth := 9) [hw]

theorem execFmul_rest {w : At} {fd fa fb : FReg} {s : State} {t : State} (h : execFmul w fd fa fb s = .next t) : t.core.2 = s.core.2 := by
  simp only [execFmul, Host.Outcome.next.injEq] at h
  subst h
  simp

theorem execFmul_wf {w : At} {fd fa fb : FReg} {s : State} {t : State} (h : execFmul w fd fa fb s = .next t) (hw : Memory.wf s.core.1 = true) : Memory.wf t.core.1 = true := by
  simp only [execFmul, Host.Outcome.next.injEq] at h
  subst h
  simp (maxDischargeDepth := 9) [hw]

theorem execFmin_rest {w : At} {fd fa fb : FReg} {s : State} {t : State} (h : execFmin w fd fa fb s = .next t) : t.core.2 = s.core.2 := by
  simp only [execFmin, Host.Outcome.next.injEq] at h
  subst h
  simp

theorem execFmin_wf {w : At} {fd fa fb : FReg} {s : State} {t : State} (h : execFmin w fd fa fb s = .next t) (hw : Memory.wf s.core.1 = true) : Memory.wf t.core.1 = true := by
  simp only [execFmin, Host.Outcome.next.injEq] at h
  subst h
  simp (maxDischargeDepth := 9) [hw]

theorem execFmax_rest {w : At} {fd fa fb : FReg} {s : State} {t : State} (h : execFmax w fd fa fb s = .next t) : t.core.2 = s.core.2 := by
  simp only [execFmax, Host.Outcome.next.injEq] at h
  subst h
  simp

theorem execFmax_wf {w : At} {fd fa fb : FReg} {s : State} {t : State} (h : execFmax w fd fa fb s = .next t) (hw : Memory.wf s.core.1 = true) : Memory.wf t.core.1 = true := by
  simp only [execFmax, Host.Outcome.next.injEq] at h
  subst h
  simp (maxDischargeDepth := 9) [hw]

theorem execFma_rest {w : At} {fd fa fb : FReg} {s : State} {t : State} (h : execFma w fd fa fb s = .next t) : t.core.2 = s.core.2 := by
  unfold execFma at h
  simp only [Host.Outcome.next.injEq] at h
  subst h
  exact State.op_rest _ _ _ _ (fun s x => ⟨congrArg Prod.snd (State.drawn_core s), fun hw => (congrArg (fun c => Memory.wf c.1) (State.drawn_core s)).trans hw⟩)

theorem execFma_wf {w : At} {fd fa fb : FReg} {s : State} {t : State} (h : execFma w fd fa fb s = .next t) (hw : Memory.wf s.core.1 = true) : Memory.wf t.core.1 = true := by
  unfold execFma at h
  simp only [Host.Outcome.next.injEq] at h
  subst h
  exact State.op_wf _ _ _ _ (fun s x => ⟨congrArg Prod.snd (State.drawn_core s), fun hw => (congrArg (fun c => Memory.wf c.1) (State.drawn_core s)).trans hw⟩) hw

@[simp] theorem State.fpLong_rest (s : State) (w : At) (fd : FReg) (reads : List Nat) (g : Ctx → Word × Nat) : (State.fpLong s w fd reads g).core.2 = s.core.2 := by simp [State.fpLong]

@[simp] theorem State.fpLong_wf (s : State) (w : At) (fd : FReg) (reads : List Nat) (g : Ctx → Word × Nat) (hw : Memory.wf s.core.1 = true) : Memory.wf (State.fpLong s w fd reads g).core.1 = true := by simp (maxDischargeDepth := 9) [State.fpLong, *]

theorem execFdiv_rest {w : At} {fd fa fb : FReg} {s : State} {t : State} (h : execFdiv w fd fa fb s = .next t) : t.core.2 = s.core.2 := by
  simp only [execFdiv, Host.Outcome.next.injEq] at h
  subst h
  simp

theorem execFdiv_wf {w : At} {fd fa fb : FReg} {s : State} {t : State} (h : execFdiv w fd fa fb s = .next t) (hw : Memory.wf s.core.1 = true) : Memory.wf t.core.1 = true := by
  simp only [execFdiv, Host.Outcome.next.injEq] at h
  subst h
  simp (maxDischargeDepth := 9) [hw]

theorem execFsqrt_rest {w : At} {fd fa : FReg} {s : State} {t : State} (h : execFsqrt w fd fa s = .next t) : t.core.2 = s.core.2 := by
  simp only [execFsqrt, Host.Outcome.next.injEq] at h
  subst h
  simp

theorem execFsqrt_wf {w : At} {fd fa : FReg} {s : State} {t : State} (h : execFsqrt w fd fa s = .next t) (hw : Memory.wf s.core.1 = true) : Memory.wf t.core.1 = true := by
  simp only [execFsqrt, Host.Outcome.next.injEq] at h
  subst h
  simp (maxDischargeDepth := 9) [hw]

theorem execFcvtWS_rest {w : At} {rd : Reg} {fa : FReg} {s : State} {t : State} (h : execFcvtWS w rd fa s = .next t) : t.core.2 = s.core.2 := by
  simp only [execFcvtWS, Host.Outcome.next.injEq] at h
  subst h
  simp

theorem execFcvtWS_wf {w : At} {rd : Reg} {fa : FReg} {s : State} {t : State} (h : execFcvtWS w rd fa s = .next t) (hw : Memory.wf s.core.1 = true) : Memory.wf t.core.1 = true := by
  simp only [execFcvtWS, Host.Outcome.next.injEq] at h
  subst h
  simp (maxDischargeDepth := 9) [hw]

theorem execFcvtSW_rest {w : At} {fd : FReg} {ra : Reg} {s : State} {t : State} (h : execFcvtSW w fd ra s = .next t) : t.core.2 = s.core.2 := by
  simp only [execFcvtSW, Host.Outcome.next.injEq] at h
  subst h
  simp

theorem execFcvtSW_wf {w : At} {fd : FReg} {ra : Reg} {s : State} {t : State} (h : execFcvtSW w fd ra s = .next t) (hw : Memory.wf s.core.1 = true) : Memory.wf t.core.1 = true := by
  simp only [execFcvtSW, Host.Outcome.next.injEq] at h
  subst h
  simp (maxDischargeDepth := 9) [hw]

theorem execFcmp_rest {w : At} {rd : Reg} {fa fb : FReg} {c : Fin 4} {s : State} {t : State} (h : execFcmp w rd fa fb c s = .next t) : t.core.2 = s.core.2 := by
  simp only [execFcmp, Host.Outcome.next.injEq] at h
  subst h
  simp

theorem execFcmp_wf {w : At} {rd : Reg} {fa fb : FReg} {c : Fin 4} {s : State} {t : State} (h : execFcmp w rd fa fb c s = .next t) (hw : Memory.wf s.core.1 = true) : Memory.wf t.core.1 = true := by
  simp only [execFcmp, Host.Outcome.next.injEq] at h
  subst h
  simp (maxDischargeDepth := 9) [hw]

theorem State.vSrc_rest' (n : Nat) (s : State) (x : Ctx) (b : VSrc) : (s.vSrc n x b).2.2.2.core.2 = s.core.2 :=
  State.vSrc_rest (t := s.vSrc n x b) (by with_reducible rfl)

theorem State.vSrc_wf' (n : Nat) (s : State) (x : Ctx) (b : VSrc) (hw : Memory.wf s.core.1 = true) : Memory.wf (s.vSrc n x b).2.2.2.core.1 = true :=
  State.vSrc_wf (t := s.vSrc n x b) (by with_reducible rfl) hw

@[simp] theorem State.vfpOp_rest (s : State) (w : At) (vd va : VReg) (b : VSrc) (extra : List Nat) (g : Nat → State → Ctx → Nat → Word → Word → Word × Nat) : (State.vfpOp s w vd va b extra g).core.2 = s.core.2 := by
  unfold State.vfpOp
  exact State.op_rest _ _ _ _ (fun s x => ⟨(congrArg Prod.snd (withFree_core _ _)).trans (State.vSrc_rest' _ s x b), fun hw => (congrArg (fun c => Memory.wf c.1) (withFree_core _ _)).trans (State.vSrc_wf' _ s x b hw)⟩)

@[simp] theorem State.vfpOp_wf (s : State) (w : At) (vd va : VReg) (b : VSrc) (extra : List Nat) (g : Nat → State → Ctx → Nat → Word → Word → Word × Nat) (hw : Memory.wf s.core.1 = true) : Memory.wf (State.vfpOp s w vd va b extra g).core.1 = true := by
  unfold State.vfpOp
  exact State.op_wf _ _ _ _ (fun s x => ⟨(congrArg Prod.snd (withFree_core _ _)).trans (State.vSrc_rest' _ s x b), fun hw => (congrArg (fun c => Memory.wf c.1) (withFree_core _ _)).trans (State.vSrc_wf' _ s x b hw)⟩) hw

theorem execVfadd_rest {w : At} {vd va : VReg} {b : VSrc} {s : State} {t : State} (h : execVfadd w vd va b s = .next t) : t.core.2 = s.core.2 := by
  simp only [execVfadd, Host.Outcome.next.injEq] at h
  subst h
  simp

theorem execVfadd_wf {w : At} {vd va : VReg} {b : VSrc} {s : State} {t : State} (h : execVfadd w vd va b s = .next t) (hw : Memory.wf s.core.1 = true) : Memory.wf t.core.1 = true := by
  simp only [execVfadd, Host.Outcome.next.injEq] at h
  subst h
  simp (maxDischargeDepth := 9) [hw]

theorem execVfsub_rest {w : At} {vd va : VReg} {b : VSrc} {s : State} {t : State} (h : execVfsub w vd va b s = .next t) : t.core.2 = s.core.2 := by
  simp only [execVfsub, Host.Outcome.next.injEq] at h
  subst h
  simp

theorem execVfsub_wf {w : At} {vd va : VReg} {b : VSrc} {s : State} {t : State} (h : execVfsub w vd va b s = .next t) (hw : Memory.wf s.core.1 = true) : Memory.wf t.core.1 = true := by
  simp only [execVfsub, Host.Outcome.next.injEq] at h
  subst h
  simp (maxDischargeDepth := 9) [hw]

theorem execVfmul_rest {w : At} {vd va : VReg} {b : VSrc} {s : State} {t : State} (h : execVfmul w vd va b s = .next t) : t.core.2 = s.core.2 := by
  simp only [execVfmul, Host.Outcome.next.injEq] at h
  subst h
  simp

theorem execVfmul_wf {w : At} {vd va : VReg} {b : VSrc} {s : State} {t : State} (h : execVfmul w vd va b s = .next t) (hw : Memory.wf s.core.1 = true) : Memory.wf t.core.1 = true := by
  simp only [execVfmul, Host.Outcome.next.injEq] at h
  subst h
  simp (maxDischargeDepth := 9) [hw]

theorem execVfma_rest {w : At} {vd va : VReg} {b : VSrc} {s : State} {t : State} (h : execVfma w vd va b s = .next t) : t.core.2 = s.core.2 := by
  simp only [execVfma, Host.Outcome.next.injEq] at h
  subst h
  simp

theorem execVfma_wf {w : At} {vd va : VReg} {b : VSrc} {s : State} {t : State} (h : execVfma w vd va b s = .next t) (hw : Memory.wf s.core.1 = true) : Memory.wf t.core.1 = true := by
  simp only [execVfma, Host.Outcome.next.injEq] at h
  subst h
  simp (maxDischargeDepth := 9) [hw]

theorem execMvsf_rest {w : At} {fd : FReg} {ra : Reg} {s : State} {t : State} (h : execMvsf w fd ra s = .next t) : t.core.2 = s.core.2 := by
  simp only [execMvsf, Host.Outcome.next.injEq] at h
  subst h
  simp

theorem execMvsf_wf {w : At} {fd : FReg} {ra : Reg} {s : State} {t : State} (h : execMvsf w fd ra s = .next t) (hw : Memory.wf s.core.1 = true) : Memory.wf t.core.1 = true := by
  simp only [execMvsf, Host.Outcome.next.injEq] at h
  subst h
  simp (maxDischargeDepth := 9) [hw]

theorem execMvfs_rest {w : At} {rd : Reg} {fa : FReg} {s : State} {t : State} (h : execMvfs w rd fa s = .next t) : t.core.2 = s.core.2 := by
  simp only [execMvfs, Host.Outcome.next.injEq] at h
  subst h
  simp

theorem execMvfs_wf {w : At} {rd : Reg} {fa : FReg} {s : State} {t : State} (h : execMvfs w rd fa s = .next t) (hw : Memory.wf s.core.1 = true) : Memory.wf t.core.1 = true := by
  simp only [execMvfs, Host.Outcome.next.injEq] at h
  subst h
  simp (maxDischargeDepth := 9) [hw]

/-! Mem. -/

@[simp] theorem State.loadOp_rest (s : State) (w : At) (rt : Reg) (a : Addr) (size : Nat) (signed : Bool) : (State.loadOp s w rt a size signed).core.2 = s.core.2 := by
  unfold State.loadOp
  exact State.op_rest _ _ _ _ (fun _ _ => ⟨(rfl), id⟩)

@[simp] theorem State.loadOp_wf (s : State) (w : At) (rt : Reg) (a : Addr) (size : Nat) (signed : Bool) (hw : Memory.wf s.core.1 = true) : Memory.wf (State.loadOp s w rt a size signed).core.1 = true := by
  unfold State.loadOp
  exact State.op_wf _ _ _ _ (fun _ _ => ⟨(rfl), id⟩) hw

theorem execLdB_rest {w : At} {rt : Reg} {a : Addr} {s : State} {t : State} (h : execLdB w rt a s = .next t) : t.core.2 = s.core.2 := by
  simp only [execLdB, Host.Outcome.next.injEq] at h
  subst h
  simp

theorem execLdB_wf {w : At} {rt : Reg} {a : Addr} {s : State} {t : State} (h : execLdB w rt a s = .next t) (hw : Memory.wf s.core.1 = true) : Memory.wf t.core.1 = true := by
  simp only [execLdB, Host.Outcome.next.injEq] at h
  subst h
  simp (maxDischargeDepth := 9) [hw]

theorem execLdBu_rest {w : At} {rt : Reg} {a : Addr} {s : State} {t : State} (h : execLdBu w rt a s = .next t) : t.core.2 = s.core.2 := by
  simp only [execLdBu, Host.Outcome.next.injEq] at h
  subst h
  simp

theorem execLdBu_wf {w : At} {rt : Reg} {a : Addr} {s : State} {t : State} (h : execLdBu w rt a s = .next t) (hw : Memory.wf s.core.1 = true) : Memory.wf t.core.1 = true := by
  simp only [execLdBu, Host.Outcome.next.injEq] at h
  subst h
  simp (maxDischargeDepth := 9) [hw]

theorem execLdH_rest {w : At} {rt : Reg} {a : Addr} {s : State} {t : State} (h : execLdH w rt a s = .next t) : t.core.2 = s.core.2 := by
  simp only [execLdH, Host.Outcome.next.injEq] at h
  subst h
  simp

theorem execLdH_wf {w : At} {rt : Reg} {a : Addr} {s : State} {t : State} (h : execLdH w rt a s = .next t) (hw : Memory.wf s.core.1 = true) : Memory.wf t.core.1 = true := by
  simp only [execLdH, Host.Outcome.next.injEq] at h
  subst h
  simp (maxDischargeDepth := 9) [hw]

theorem execLdHu_rest {w : At} {rt : Reg} {a : Addr} {s : State} {t : State} (h : execLdHu w rt a s = .next t) : t.core.2 = s.core.2 := by
  simp only [execLdHu, Host.Outcome.next.injEq] at h
  subst h
  simp

theorem execLdHu_wf {w : At} {rt : Reg} {a : Addr} {s : State} {t : State} (h : execLdHu w rt a s = .next t) (hw : Memory.wf s.core.1 = true) : Memory.wf t.core.1 = true := by
  simp only [execLdHu, Host.Outcome.next.injEq] at h
  subst h
  simp (maxDischargeDepth := 9) [hw]

theorem execLdW_rest {w : At} {rt : Reg} {a : Addr} {s : State} {t : State} (h : execLdW w rt a s = .next t) : t.core.2 = s.core.2 := by
  simp only [execLdW, Host.Outcome.next.injEq] at h
  subst h
  simp

theorem execLdW_wf {w : At} {rt : Reg} {a : Addr} {s : State} {t : State} (h : execLdW w rt a s = .next t) (hw : Memory.wf s.core.1 = true) : Memory.wf t.core.1 = true := by
  simp only [execLdW, Host.Outcome.next.injEq] at h
  subst h
  simp (maxDischargeDepth := 9) [hw]

theorem execLdD_rest {w : At} {rt : Reg} {a : Addr} {s : State} {t : State} (h : execLdD w rt a s = .next t) : t.core.2 = s.core.2 := by
  simp only [execLdD, Host.Outcome.next.injEq] at h
  subst h
  simp

theorem execLdD_wf {w : At} {rt : Reg} {a : Addr} {s : State} {t : State} (h : execLdD w rt a s = .next t) (hw : Memory.wf s.core.1 = true) : Memory.wf t.core.1 = true := by
  simp only [execLdD, Host.Outcome.next.injEq] at h
  subst h
  simp (maxDischargeDepth := 9) [hw]

@[simp] theorem State.storeOp_rest (s : State) (w : At) (rt : Reg) (a : Addr) (size : Nat) : (State.storeOp s w rt a size).core.2 = s.core.2 := by
  unfold State.storeOp
  exact State.op_rest _ _ _ _ (fun _ _ => ⟨(rfl), id⟩)

@[simp] theorem State.storeOp_wf (s : State) (w : At) (rt : Reg) (a : Addr) (size : Nat) (hw : Memory.wf s.core.1 = true) : Memory.wf (State.storeOp s w rt a size).core.1 = true := by
  unfold State.storeOp
  exact State.op_wf _ _ _ _ (fun _ _ => ⟨(rfl), id⟩) hw

theorem execStB_rest {w : At} {rt : Reg} {a : Addr} {s : State} {t : State} (h : execStB w rt a s = .next t) : t.core.2 = s.core.2 := by
  simp only [execStB, Host.Outcome.next.injEq] at h
  subst h
  simp

theorem execStB_wf {w : At} {rt : Reg} {a : Addr} {s : State} {t : State} (h : execStB w rt a s = .next t) (hw : Memory.wf s.core.1 = true) : Memory.wf t.core.1 = true := by
  simp only [execStB, Host.Outcome.next.injEq] at h
  subst h
  simp (maxDischargeDepth := 9) [hw]

theorem execStH_rest {w : At} {rt : Reg} {a : Addr} {s : State} {t : State} (h : execStH w rt a s = .next t) : t.core.2 = s.core.2 := by
  simp only [execStH, Host.Outcome.next.injEq] at h
  subst h
  simp

theorem execStH_wf {w : At} {rt : Reg} {a : Addr} {s : State} {t : State} (h : execStH w rt a s = .next t) (hw : Memory.wf s.core.1 = true) : Memory.wf t.core.1 = true := by
  simp only [execStH, Host.Outcome.next.injEq] at h
  subst h
  simp (maxDischargeDepth := 9) [hw]

theorem execStW_rest {w : At} {rt : Reg} {a : Addr} {s : State} {t : State} (h : execStW w rt a s = .next t) : t.core.2 = s.core.2 := by
  simp only [execStW, Host.Outcome.next.injEq] at h
  subst h
  simp

theorem execStW_wf {w : At} {rt : Reg} {a : Addr} {s : State} {t : State} (h : execStW w rt a s = .next t) (hw : Memory.wf s.core.1 = true) : Memory.wf t.core.1 = true := by
  simp only [execStW, Host.Outcome.next.injEq] at h
  subst h
  simp (maxDischargeDepth := 9) [hw]

theorem execStD_rest {w : At} {rt : Reg} {a : Addr} {s : State} {t : State} (h : execStD w rt a s = .next t) : t.core.2 = s.core.2 := by
  simp only [execStD, Host.Outcome.next.injEq] at h
  subst h
  simp

theorem execStD_wf {w : At} {rt : Reg} {a : Addr} {s : State} {t : State} (h : execStD w rt a s = .next t) (hw : Memory.wf s.core.1 = true) : Memory.wf t.core.1 = true := by
  simp only [execStD, Host.Outcome.next.injEq] at h
  subst h
  simp (maxDischargeDepth := 9) [hw]

theorem execVldQ_rest {w : At} {vt : VReg} {a : Addr} {s : State} {t : State} (h : execVldQ w vt a s = .next t) : t.core.2 = s.core.2 := by
  unfold execVldQ at h
  simp only [Host.Outcome.next.injEq] at h
  subst h
  exact State.op_rest _ _ _ _ (fun _ _ => ⟨(rfl), id⟩)

theorem execVldQ_wf {w : At} {vt : VReg} {a : Addr} {s : State} {t : State} (h : execVldQ w vt a s = .next t) (hw : Memory.wf s.core.1 = true) : Memory.wf t.core.1 = true := by
  unfold execVldQ at h
  simp only [Host.Outcome.next.injEq] at h
  subst h
  exact State.op_wf _ _ _ _ (fun _ _ => ⟨(rfl), id⟩) hw

theorem execVstQ_rest {w : At} {vt : VReg} {a : Addr} {s : State} {t : State} (h : execVstQ w vt a s = .next t) : t.core.2 = s.core.2 := by
  unfold execVstQ at h
  simp only [Host.Outcome.next.injEq] at h
  subst h
  exact State.op_rest _ _ _ _ (fun _ _ => ⟨(rfl), id⟩)

theorem execVstQ_wf {w : At} {vt : VReg} {a : Addr} {s : State} {t : State} (h : execVstQ w vt a s = .next t) (hw : Memory.wf s.core.1 = true) : Memory.wf t.core.1 = true := by
  unfold execVstQ at h
  simp only [Host.Outcome.next.injEq] at h
  subst h
  exact State.op_wf _ _ _ _ (fun _ _ => ⟨(rfl), id⟩) hw

theorem execVgathH_rest {w : At} {vd : VReg} {sn : Reg} {vi : VReg} {s : State} {t : State} (h : execVgathH w vd sn vi s = .next t) : t.core.2 = s.core.2 := by
  simp only [execVgathH, Host.Outcome.next.injEq] at h
  subst h
  simp

theorem execVgathH_wf {w : At} {vd : VReg} {sn : Reg} {vi : VReg} {s : State} {t : State} (h : execVgathH w vd sn vi s = .next t) (hw : Memory.wf s.core.1 = true) : Memory.wf t.core.1 = true := by
  simp only [execVgathH, Host.Outcome.next.injEq] at h
  subst h
  simp (maxDischargeDepth := 9) [hw]

@[simp] theorem State.halfOp_rest (s : State) (w : At) (upper save : Bool) : (State.halfOp s w upper save).core.2 = s.core.2 := by
  unfold State.halfOp
  exact State.op_rest _ _ _ _ (fun _ _ => ⟨(rfl), id⟩)

@[simp] theorem State.halfOp_wf (s : State) (w : At) (upper save : Bool) (hw : Memory.wf s.core.1 = true) : Memory.wf (State.halfOp s w upper save).core.1 = true := by
  unfold State.halfOp
  exact State.op_wf _ _ _ _ (fun _ _ => ⟨(rfl), id⟩) hw

theorem execSavel_rest {w : At} {s : State} {t : State} (h : execSavel w s = .next t) : t.core.2 = s.core.2 := by
  simp only [execSavel, Host.Outcome.next.injEq] at h
  subst h
  simp

theorem execSavel_wf {w : At} {s : State} {t : State} (h : execSavel w s = .next t) (hw : Memory.wf s.core.1 = true) : Memory.wf t.core.1 = true := by
  simp only [execSavel, Host.Outcome.next.injEq] at h
  subst h
  simp (maxDischargeDepth := 9) [hw]

theorem execSaveu_rest {w : At} {s : State} {t : State} (h : execSaveu w s = .next t) : t.core.2 = s.core.2 := by
  simp only [execSaveu, Host.Outcome.next.injEq] at h
  subst h
  simp

theorem execSaveu_wf {w : At} {s : State} {t : State} (h : execSaveu w s = .next t) (hw : Memory.wf s.core.1 = true) : Memory.wf t.core.1 = true := by
  simp only [execSaveu, Host.Outcome.next.injEq] at h
  subst h
  simp (maxDischargeDepth := 9) [hw]

theorem execRestl_rest {w : At} {s : State} {t : State} (h : execRestl w s = .next t) : t.core.2 = s.core.2 := by
  simp only [execRestl, Host.Outcome.next.injEq] at h
  subst h
  simp

theorem execRestl_wf {w : At} {s : State} {t : State} (h : execRestl w s = .next t) (hw : Memory.wf s.core.1 = true) : Memory.wf t.core.1 = true := by
  simp only [execRestl, Host.Outcome.next.injEq] at h
  subst h
  simp (maxDischargeDepth := 9) [hw]

theorem execRestu_rest {w : At} {s : State} {t : State} (h : execRestu w s = .next t) : t.core.2 = s.core.2 := by
  simp only [execRestu, Host.Outcome.next.injEq] at h
  subst h
  simp

theorem execRestu_wf {w : At} {s : State} {t : State} (h : execRestu w s = .next t) (hw : Memory.wf s.core.1 = true) : Memory.wf t.core.1 = true := by
  simp only [execRestu, Host.Outcome.next.injEq] at h
  subst h
  simp (maxDischargeDepth := 9) [hw]

/-! Sys. -/

@[simp] theorem State.sysE_rest (s : State) (w : At) (ctl : Bool) (op : SysOp) : (State.sysE s w ctl op).core.2 = s.core.2 := by simp [State.sysE]

@[simp] theorem State.sysE_wf (s : State) (w : At) (ctl : Bool) (op : SysOp) (hw : Memory.wf s.core.1 = true) : Memory.wf (State.sysE s w ctl op).core.1 = true := by simp (maxDischargeDepth := 9) [State.sysE, *]

theorem execNop_rest {w : At} {s : State} {t : State} (h : execNop w s = .next t) : t.core.2 = s.core.2 := by
  simp only [execNop, Host.Outcome.next.injEq] at h
  subst h
  simp

theorem execNop_wf {w : At} {s : State} {t : State} (h : execNop w s = .next t) (hw : Memory.wf s.core.1 = true) : Memory.wf t.core.1 = true := by
  simp only [execNop, Host.Outcome.next.injEq] at h
  subst h
  simp (maxDischargeDepth := 9) [hw]

theorem execDint_rest {w : At} {s : State} {t : State} (h : execDint w s = .next t) : t.core.2 = s.core.2 := by
  simp only [execDint, Host.Outcome.next.injEq] at h
  subst h
  simp

theorem execDint_wf {w : At} {s : State} {t : State} (h : execDint w s = .next t) (hw : Memory.wf s.core.1 = true) : Memory.wf t.core.1 = true := by
  simp only [execDint, Host.Outcome.next.injEq] at h
  subst h
  simp (maxDischargeDepth := 9) [hw]

theorem execEint_rest {w : At} {s : State} {t : State} (h : execEint w s = .next t) : t.core.2 = s.core.2 := by
  simp only [execEint, Host.Outcome.next.injEq] at h
  subst h
  simp

theorem execEint_wf {w : At} {s : State} {t : State} (h : execEint w s = .next t) (hw : Memory.wf s.core.1 = true) : Memory.wf t.core.1 = true := by
  simp only [execEint, Host.Outcome.next.injEq] at h
  subst h
  simp (maxDischargeDepth := 9) [hw]

theorem execSwi_rest {w : At} {n : Byte} {s : State} {t : State} (h : execSwi w n s = .next t) : t.core.2 = s.core.2 := by
  simp only [execSwi, Host.Outcome.next.injEq] at h
  subst h
  simp

theorem execSwi_wf {w : At} {n : Byte} {s : State} {t : State} (h : execSwi w n s = .next t) (hw : Memory.wf s.core.1 = true) : Memory.wf t.core.1 = true := by
  simp only [execSwi, Host.Outcome.next.injEq] at h
  subst h
  simp (maxDischargeDepth := 9) [hw]

theorem execBrk_rest {w : At} {s : State} {t : State} (h : execBrk w s = .next t) : t.core.2 = s.core.2 := by
  simp only [execBrk, Host.Outcome.next.injEq] at h
  subst h
  simp

theorem execBrk_wf {w : At} {s : State} {t : State} (h : execBrk w s = .next t) (hw : Memory.wf s.core.1 = true) : Memory.wf t.core.1 = true := by
  simp only [execBrk, Host.Outcome.next.injEq] at h
  subst h
  simp (maxDischargeDepth := 9) [hw]

theorem execSyncW_rest {w : At} {s : State} {t : State} (h : execSyncW w s = .next t) : t.core.2 = s.core.2 := by
  simp only [execSyncW, Host.Outcome.next.injEq] at h
  subst h
  simp

theorem execSyncW_wf {w : At} {s : State} {t : State} (h : execSyncW w s = .next t) (hw : Memory.wf s.core.1 = true) : Memory.wf t.core.1 = true := by
  simp only [execSyncW, Host.Outcome.next.injEq] at h
  subst h
  simp (maxDischargeDepth := 9) [hw]

theorem execIflush_rest {w : At} {s : State} {t : State} (h : execIflush w s = .next t) : t.core.2 = s.core.2 := by
  simp only [execIflush, Host.Outcome.next.injEq] at h
  subst h
  simp

theorem execIflush_wf {w : At} {s : State} {t : State} (h : execIflush w s = .next t) (hw : Memory.wf s.core.1 = true) : Memory.wf t.core.1 = true := by
  simp only [execIflush, Host.Outcome.next.injEq] at h
  subst h
  simp (maxDischargeDepth := 9) [hw]

theorem execPflush_rest {w : At} {s : State} {t : State} (h : execPflush w s = .next t) : t.core.2 = s.core.2 := by
  simp only [execPflush, Host.Outcome.next.injEq] at h
  subst h
  simp

theorem execPflush_wf {w : At} {s : State} {t : State} (h : execPflush w s = .next t) (hw : Memory.wf s.core.1 = true) : Memory.wf t.core.1 = true := by
  simp only [execPflush, Host.Outcome.next.injEq] at h
  subst h
  simp (maxDischargeDepth := 9) [hw]

theorem execPbar_rest {w : At} {n : Byte} {s : State} {t : State} (h : execPbar w n s = .next t) : t.core.2 = s.core.2 := by
  simp only [execPbar, Host.Outcome.next.injEq] at h
  subst h
  simp

theorem execPbar_wf {w : At} {n : Byte} {s : State} {t : State} (h : execPbar w n s = .next t) (hw : Memory.wf s.core.1 = true) : Memory.wf t.core.1 = true := by
  simp only [execPbar, Host.Outcome.next.injEq] at h
  subst h
  simp (maxDischargeDepth := 9) [hw]

theorem execDcwb_rest {w : At} {ra : Reg} {s : State} {t : State} (h : execDcwb w ra s = .next t) : t.core.2 = s.core.2 := by
  simp only [execDcwb, Host.Outcome.next.injEq] at h
  subst h
  simp

theorem execDcwb_wf {w : At} {ra : Reg} {s : State} {t : State} (h : execDcwb w ra s = .next t) (hw : Memory.wf s.core.1 = true) : Memory.wf t.core.1 = true := by
  simp only [execDcwb, Host.Outcome.next.injEq] at h
  subst h
  simp (maxDischargeDepth := 9) [hw]

theorem execDcinv_rest {w : At} {ra : Reg} {s : State} {t : State} (h : execDcinv w ra s = .next t) : t.core.2 = s.core.2 := by
  simp only [execDcinv, Host.Outcome.next.injEq] at h
  subst h
  simp

theorem execDcinv_wf {w : At} {ra : Reg} {s : State} {t : State} (h : execDcinv w ra s = .next t) (hw : Memory.wf s.core.1 = true) : Memory.wf t.core.1 = true := by
  simp only [execDcinv, Host.Outcome.next.injEq] at h
  subst h
  simp (maxDischargeDepth := 9) [hw]

theorem execReti_rest {w : At} {s : State} {t : State} (h : execReti w s = .next t) : t.core.2 = s.core.2 := by
  simp only [execReti, Host.Outcome.next.injEq] at h
  subst h
  simp

theorem execReti_wf {w : At} {s : State} {t : State} (h : execReti w s = .next t) (hw : Memory.wf s.core.1 = true) : Memory.wf t.core.1 = true := by
  simp only [execReti, Host.Outcome.next.injEq] at h
  subst h
  simp (maxDischargeDepth := 9) [hw]

theorem execMret_rest {w : At} {s : State} {t : State} (h : execMret w s = .next t) : t.core.2 = s.core.2 := by
  simp only [execMret, Host.Outcome.next.injEq] at h
  subst h
  simp

theorem execMret_wf {w : At} {s : State} {t : State} (h : execMret w s = .next t) (hw : Memory.wf s.core.1 = true) : Memory.wf t.core.1 = true := by
  simp only [execMret, Host.Outcome.next.injEq] at h
  subst h
  simp (maxDischargeDepth := 9) [hw]

theorem execLclr_rest {w : At} {n : Fin 4} {s : State} {t : State} (h : execLclr w n s = .next t) : t.core.2 = s.core.2 := by
  simp only [execLclr, Host.Outcome.next.injEq] at h
  subst h
  simp

theorem execLclr_wf {w : At} {n : Fin 4} {s : State} {t : State} (h : execLclr w n s = .next t) (hw : Memory.wf s.core.1 = true) : Memory.wf t.core.1 = true := by
  simp only [execLclr, Host.Outcome.next.injEq] at h
  subst h
  simp (maxDischargeDepth := 9) [hw]

theorem execEnd_rest {w : At} {s : State} {t : State} (h : execEnd w s = .next t) : t.core.2 = s.core.2 := by
  simp only [execEnd, Host.Outcome.next.injEq] at h
  subst h
  simp

theorem execEnd_wf {w : At} {s : State} {t : State} (h : execEnd w s = .next t) (hw : Memory.wf s.core.1 = true) : Memory.wf t.core.1 = true := by
  simp only [execEnd, Host.Outcome.next.injEq] at h
  subst h
  simp (maxDischargeDepth := 9) [hw]

theorem execYield_rest {w : At} {s : State} {t : State} (h : execYield w s = .next t) : t.core.2 = s.core.2 := by
  simp only [execYield, Host.Outcome.next.injEq] at h
  subst h
  simp

theorem execYield_wf {w : At} {s : State} {t : State} (h : execYield w s = .next t) (hw : Memory.wf s.core.1 = true) : Memory.wf t.core.1 = true := by
  simp only [execYield, Host.Outcome.next.injEq] at h
  subst h
  simp (maxDischargeDepth := 9) [hw]

theorem execFpbar_rest {w : At} {s : State} {t : State} (h : execFpbar w s = .next t) : t.core.2 = s.core.2 := by
  simp only [execFpbar, Host.Outcome.next.injEq] at h
  subst h
  simp

theorem execFpbar_wf {w : At} {s : State} {t : State} (h : execFpbar w s = .next t) (hw : Memory.wf s.core.1 = true) : Memory.wf t.core.1 = true := by
  simp only [execFpbar, Host.Outcome.next.injEq] at h
  subst h
  simp (maxDischargeDepth := 9) [hw]

theorem State.bankGet_core {s : State} {c : Core} {x : Ctx} {b r : Nat} {t : Word × State} (h : State.bankGet s c x b r = t) : t.2.core = s.core := by
  subst h
  unfold State.bankGet
  dsimp only
  repeat' split
  all_goals simp

theorem execMcrd_rest {w : At} {rd : Reg} {bank : Fin 8} {rs : Reg} {s : State} {t : State} (h : execMcrd w rd bank rs s = .next t) : t.core.2 = s.core.2 := by
  unfold execMcrd at h
  simp only [Host.Outcome.next.injEq] at h
  subst h
  exact State.op_rest _ _ _ _ (fun s x => ⟨congrArg Prod.snd (State.bankGet_core (t := s.bankGet w.core x bank rs) (by with_reducible rfl)), fun hw => (congrArg (fun c => Memory.wf c.1) (State.bankGet_core (t := s.bankGet w.core x bank rs) (by with_reducible rfl))).trans hw⟩)

theorem execMcrd_wf {w : At} {rd : Reg} {bank : Fin 8} {rs : Reg} {s : State} {t : State} (h : execMcrd w rd bank rs s = .next t) (hw : Memory.wf s.core.1 = true) : Memory.wf t.core.1 = true := by
  unfold execMcrd at h
  simp only [Host.Outcome.next.injEq] at h
  subst h
  exact State.op_wf _ _ _ _ (fun s x => ⟨congrArg Prod.snd (State.bankGet_core (t := s.bankGet w.core x bank rs) (by with_reducible rfl)), fun hw => (congrArg (fun c => Memory.wf c.1) (State.bankGet_core (t := s.bankGet w.core x bank rs) (by with_reducible rfl))).trans hw⟩) hw

theorem execMcwr_rest {w : At} {rs : Reg} {bank : Fin 8} {rd : Reg} {s : State} {t : State} (h : execMcwr w rs bank rd s = .next t) : t.core.2 = s.core.2 := by
  unfold execMcwr at h
  simp only [Host.Outcome.next.injEq] at h
  subst h
  exact State.op_rest _ _ _ _ (fun _ _ => ⟨(rfl), id⟩)

theorem execMcwr_wf {w : At} {rs : Reg} {bank : Fin 8} {rd : Reg} {s : State} {t : State} (h : execMcwr w rs bank rd s = .next t) (hw : Memory.wf s.core.1 = true) : Memory.wf t.core.1 = true := by
  unfold execMcwr at h
  simp only [Host.Outcome.next.injEq] at h
  subst h
  exact State.op_wf _ _ _ _ (fun _ _ => ⟨(rfl), id⟩) hw

theorem execEcall_rest {w : At} {s : State} {t : State} (h : execEcall w s = .next t) : t.core.2 = s.core.2 := by
  simp only [execEcall, Host.Outcome.next.injEq] at h
  subst h
  simp

theorem execEcall_wf {w : At} {s : State} {t : State} (h : execEcall w s = .next t) (hw : Memory.wf s.core.1 = true) : Memory.wf t.core.1 = true := by
  simp only [execEcall, Host.Outcome.next.injEq] at h
  subst h
  simp (maxDischargeDepth := 9) [hw]

theorem execEret_rest {w : At} {s : State} {t : State} (h : execEret w s = .next t) : t.core.2 = s.core.2 := by
  unfold execEret at h
  simp only [Host.Outcome.next.injEq] at h
  subst h
  exact State.op_rest _ _ _ _ (fun _ _ => ⟨(rfl), id⟩)

theorem execEret_wf {w : At} {s : State} {t : State} (h : execEret w s = .next t) (hw : Memory.wf s.core.1 = true) : Memory.wf t.core.1 = true := by
  unfold execEret at h
  simp only [Host.Outcome.next.injEq] at h
  subst h
  exact State.op_wf _ _ _ _ (fun _ _ => ⟨(rfl), id⟩) hw

theorem execWfi_rest {w : At} {s : State} {t : State} (h : execWfi w s = .next t) : t.core.2 = s.core.2 := by
  unfold execWfi at h
  simp only [Host.Outcome.next.injEq] at h
  subst h
  exact State.op_rest _ _ _ _ (fun _ _ => ⟨(rfl), id⟩)

theorem execWfi_wf {w : At} {s : State} {t : State} (h : execWfi w s = .next t) (hw : Memory.wf s.core.1 = true) : Memory.wf t.core.1 = true := by
  unfold execWfi at h
  simp only [Host.Outcome.next.injEq] at h
  subst h
  exact State.op_wf _ _ _ _ (fun _ _ => ⟨(rfl), id⟩) hw

theorem execCsrr_rest {w : At} {rd : Reg} {n : Fin 32} {s : State} {t : State} (h : execCsrr w rd n s = .next t) : t.core.2 = s.core.2 := by
  unfold execCsrr at h
  simp only [Host.Outcome.next.injEq] at h
  subst h
  exact State.op_rest _ _ _ _ (fun _ _ => ⟨(rfl), id⟩)

theorem execCsrr_wf {w : At} {rd : Reg} {n : Fin 32} {s : State} {t : State} (h : execCsrr w rd n s = .next t) (hw : Memory.wf s.core.1 = true) : Memory.wf t.core.1 = true := by
  unfold execCsrr at h
  simp only [Host.Outcome.next.injEq] at h
  subst h
  exact State.op_wf _ _ _ _ (fun _ _ => ⟨(rfl), id⟩) hw

theorem execCsrw_rest {w : At} {n : Fin 32} {ra : Reg} {s : State} {t : State} (h : execCsrw w n ra s = .next t) : t.core.2 = s.core.2 := by
  unfold execCsrw at h
  simp only [Host.Outcome.next.injEq] at h
  subst h
  exact State.op_rest _ _ _ _ (fun _ _ => ⟨(rfl), id⟩)

theorem execCsrw_wf {w : At} {n : Fin 32} {ra : Reg} {s : State} {t : State} (h : execCsrw w n ra s = .next t) (hw : Memory.wf s.core.1 = true) : Memory.wf t.core.1 = true := by
  unfold execCsrw at h
  simp only [Host.Outcome.next.injEq] at h
  subst h
  exact State.op_wf _ _ _ _ (fun _ _ => ⟨(rfl), id⟩) hw

/-! Vec. -/

@[simp] theorem State.vecOp_rest (s : State) (w : At) (fp : Bool) (vd va : VReg) (b : VSrc) (extra : List Nat) (g : Ctx → Vec → Vec → Vec × Nat) : (State.vecOp s w fp vd va b extra g).core.2 = s.core.2 := by
  unfold State.vecOp
  exact State.op_rest _ _ _ _ (fun s x => ⟨State.vSrc_rest' _ s x b, State.vSrc_wf' _ s x b⟩)

@[simp] theorem State.vecOp_wf (s : State) (w : At) (fp : Bool) (vd va : VReg) (b : VSrc) (extra : List Nat) (g : Ctx → Vec → Vec → Vec × Nat) (hw : Memory.wf s.core.1 = true) : Memory.wf (State.vecOp s w fp vd va b extra g).core.1 = true := by
  unfold State.vecOp
  exact State.op_wf _ _ _ _ (fun s x => ⟨State.vSrc_rest' _ s x b, State.vSrc_wf' _ s x b⟩) hw

@[simp] theorem State.vecI_rest (s : State) (w : At) (vd va : VReg) (b : VSrc) (g : Vec → Vec → Vec) : (State.vecI s w vd va b g).core.2 = s.core.2 := by simp [State.vecI]

@[simp] theorem State.vecI_wf (s : State) (w : At) (vd va : VReg) (b : VSrc) (g : Vec → Vec → Vec) (hw : Memory.wf s.core.1 = true) : Memory.wf (State.vecI s w vd va b g).core.1 = true := by simp (maxDischargeDepth := 9) [State.vecI, *]

theorem execVaddH_rest {w : At} {vd va : VReg} {b : VSrc} {s : State} {t : State} (h : execVaddH w vd va b s = .next t) : t.core.2 = s.core.2 := by
  simp only [execVaddH, Host.Outcome.next.injEq] at h
  subst h
  simp

theorem execVaddH_wf {w : At} {vd va : VReg} {b : VSrc} {s : State} {t : State} (h : execVaddH w vd va b s = .next t) (hw : Memory.wf s.core.1 = true) : Memory.wf t.core.1 = true := by
  simp only [execVaddH, Host.Outcome.next.injEq] at h
  subst h
  simp (maxDischargeDepth := 9) [hw]

theorem execVsubH_rest {w : At} {vd va : VReg} {b : VSrc} {s : State} {t : State} (h : execVsubH w vd va b s = .next t) : t.core.2 = s.core.2 := by
  simp only [execVsubH, Host.Outcome.next.injEq] at h
  subst h
  simp

theorem execVsubH_wf {w : At} {vd va : VReg} {b : VSrc} {s : State} {t : State} (h : execVsubH w vd va b s = .next t) (hw : Memory.wf s.core.1 = true) : Memory.wf t.core.1 = true := by
  simp only [execVsubH, Host.Outcome.next.injEq] at h
  subst h
  simp (maxDischargeDepth := 9) [hw]

theorem execVand_rest {w : At} {vd va : VReg} {b : VSrc} {s : State} {t : State} (h : execVand w vd va b s = .next t) : t.core.2 = s.core.2 := by
  simp only [execVand, Host.Outcome.next.injEq] at h
  subst h
  simp

theorem execVand_wf {w : At} {vd va : VReg} {b : VSrc} {s : State} {t : State} (h : execVand w vd va b s = .next t) (hw : Memory.wf s.core.1 = true) : Memory.wf t.core.1 = true := by
  simp only [execVand, Host.Outcome.next.injEq] at h
  subst h
  simp (maxDischargeDepth := 9) [hw]

theorem execVor_rest {w : At} {vd va : VReg} {b : VSrc} {s : State} {t : State} (h : execVor w vd va b s = .next t) : t.core.2 = s.core.2 := by
  simp only [execVor, Host.Outcome.next.injEq] at h
  subst h
  simp

theorem execVor_wf {w : At} {vd va : VReg} {b : VSrc} {s : State} {t : State} (h : execVor w vd va b s = .next t) (hw : Memory.wf s.core.1 = true) : Memory.wf t.core.1 = true := by
  simp only [execVor, Host.Outcome.next.injEq] at h
  subst h
  simp (maxDischargeDepth := 9) [hw]

theorem execVxor_rest {w : At} {vd va : VReg} {b : VSrc} {s : State} {t : State} (h : execVxor w vd va b s = .next t) : t.core.2 = s.core.2 := by
  simp only [execVxor, Host.Outcome.next.injEq] at h
  subst h
  simp

theorem execVxor_wf {w : At} {vd va : VReg} {b : VSrc} {s : State} {t : State} (h : execVxor w vd va b s = .next t) (hw : Memory.wf s.core.1 = true) : Memory.wf t.core.1 = true := by
  simp only [execVxor, Host.Outcome.next.injEq] at h
  subst h
  simp (maxDischargeDepth := 9) [hw]

theorem execVsllH_rest {w : At} {vd va : VReg} {b : VSrc} {s : State} {t : State} (h : execVsllH w vd va b s = .next t) : t.core.2 = s.core.2 := by
  simp only [execVsllH, Host.Outcome.next.injEq] at h
  subst h
  simp

theorem execVsllH_wf {w : At} {vd va : VReg} {b : VSrc} {s : State} {t : State} (h : execVsllH w vd va b s = .next t) (hw : Memory.wf s.core.1 = true) : Memory.wf t.core.1 = true := by
  simp only [execVsllH, Host.Outcome.next.injEq] at h
  subst h
  simp (maxDischargeDepth := 9) [hw]

theorem execVsraH_rest {w : At} {vd va : VReg} {b : VSrc} {s : State} {t : State} (h : execVsraH w vd va b s = .next t) : t.core.2 = s.core.2 := by
  simp only [execVsraH, Host.Outcome.next.injEq] at h
  subst h
  simp

theorem execVsraH_wf {w : At} {vd va : VReg} {b : VSrc} {s : State} {t : State} (h : execVsraH w vd va b s = .next t) (hw : Memory.wf s.core.1 = true) : Memory.wf t.core.1 = true := by
  simp only [execVsraH, Host.Outcome.next.injEq] at h
  subst h
  simp (maxDischargeDepth := 9) [hw]

theorem execVaddW_rest {w : At} {vd va : VReg} {b : VSrc} {s : State} {t : State} (h : execVaddW w vd va b s = .next t) : t.core.2 = s.core.2 := by
  simp only [execVaddW, Host.Outcome.next.injEq] at h
  subst h
  simp

theorem execVaddW_wf {w : At} {vd va : VReg} {b : VSrc} {s : State} {t : State} (h : execVaddW w vd va b s = .next t) (hw : Memory.wf s.core.1 = true) : Memory.wf t.core.1 = true := by
  simp only [execVaddW, Host.Outcome.next.injEq] at h
  subst h
  simp (maxDischargeDepth := 9) [hw]

theorem execVsubW_rest {w : At} {vd va : VReg} {b : VSrc} {s : State} {t : State} (h : execVsubW w vd va b s = .next t) : t.core.2 = s.core.2 := by
  simp only [execVsubW, Host.Outcome.next.injEq] at h
  subst h
  simp

theorem execVsubW_wf {w : At} {vd va : VReg} {b : VSrc} {s : State} {t : State} (h : execVsubW w vd va b s = .next t) (hw : Memory.wf s.core.1 = true) : Memory.wf t.core.1 = true := by
  simp only [execVsubW, Host.Outcome.next.injEq] at h
  subst h
  simp (maxDischargeDepth := 9) [hw]

theorem execVshuf_rest {w : At} {vd va : VReg} {b : VSrc} {s : State} {t : State} (h : execVshuf w vd va b s = .next t) : t.core.2 = s.core.2 := by
  simp only [execVshuf, Host.Outcome.next.injEq] at h
  subst h
  simp

theorem execVshuf_wf {w : At} {vd va : VReg} {b : VSrc} {s : State} {t : State} (h : execVshuf w vd va b s = .next t) (hw : Memory.wf s.core.1 = true) : Memory.wf t.core.1 = true := by
  simp only [execVshuf, Host.Outcome.next.injEq] at h
  subst h
  simp (maxDischargeDepth := 9) [hw]

theorem execVbcastH_rest {w : At} {vd : VReg} {sa : Reg} {s : State} {t : State} (h : execVbcastH w vd sa s = .next t) : t.core.2 = s.core.2 := by
  simp only [execVbcastH, Host.Outcome.next.injEq] at h
  subst h
  simp

theorem execVbcastH_wf {w : At} {vd : VReg} {sa : Reg} {s : State} {t : State} (h : execVbcastH w vd sa s = .next t) (hw : Memory.wf s.core.1 = true) : Memory.wf t.core.1 = true := by
  simp only [execVbcastH, Host.Outcome.next.injEq] at h
  subst h
  simp (maxDischargeDepth := 9) [hw]

@[simp] theorem State.macOp_rest (s : State) (w : At) (ad : AReg) (va : VReg) (b : VSrc) (g : Int → Int → Int) : (State.macOp s w ad va b g).core.2 = s.core.2 := by
  unfold State.macOp
  exact State.op_rest _ _ _ _ (fun s x => ⟨State.vSrc_rest' _ s x b, State.vSrc_wf' _ s x b⟩)

@[simp] theorem State.macOp_wf (s : State) (w : At) (ad : AReg) (va : VReg) (b : VSrc) (g : Int → Int → Int) (hw : Memory.wf s.core.1 = true) : Memory.wf (State.macOp s w ad va b g).core.1 = true := by
  unfold State.macOp
  exact State.op_wf _ _ _ _ (fun s x => ⟨State.vSrc_rest' _ s x b, State.vSrc_wf' _ s x b⟩) hw

theorem execVmacH_rest {w : At} {ad : AReg} {va : VReg} {b : VSrc} {s : State} {t : State} (h : execVmacH w ad va b s = .next t) : t.core.2 = s.core.2 := by
  simp only [execVmacH, Host.Outcome.next.injEq] at h
  subst h
  simp

theorem execVmacH_wf {w : At} {ad : AReg} {va : VReg} {b : VSrc} {s : State} {t : State} (h : execVmacH w ad va b s = .next t) (hw : Memory.wf s.core.1 = true) : Memory.wf t.core.1 = true := by
  simp only [execVmacH, Host.Outcome.next.injEq] at h
  subst h
  simp (maxDischargeDepth := 9) [hw]

theorem execVmsuH_rest {w : At} {ad : AReg} {va : VReg} {b : VSrc} {s : State} {t : State} (h : execVmsuH w ad va b s = .next t) : t.core.2 = s.core.2 := by
  simp only [execVmsuH, Host.Outcome.next.injEq] at h
  subst h
  simp

theorem execVmsuH_wf {w : At} {ad : AReg} {va : VReg} {b : VSrc} {s : State} {t : State} (h : execVmsuH w ad va b s = .next t) (hw : Memory.wf s.core.1 = true) : Memory.wf t.core.1 = true := by
  simp only [execVmsuH, Host.Outcome.next.injEq] at h
  subst h
  simp (maxDischargeDepth := 9) [hw]

theorem execVmulH_rest {w : At} {ad : AReg} {va : VReg} {b : VSrc} {s : State} {t : State} (h : execVmulH w ad va b s = .next t) : t.core.2 = s.core.2 := by
  simp only [execVmulH, Host.Outcome.next.injEq] at h
  subst h
  simp

theorem execVmulH_wf {w : At} {ad : AReg} {va : VReg} {b : VSrc} {s : State} {t : State} (h : execVmulH w ad va b s = .next t) (hw : Memory.wf s.core.1 = true) : Memory.wf t.core.1 = true := by
  simp only [execVmulH, Host.Outcome.next.injEq] at h
  subst h
  simp (maxDischargeDepth := 9) [hw]

theorem execVaclr_rest {w : At} {ad : AReg} {s : State} {t : State} (h : execVaclr w ad s = .next t) : t.core.2 = s.core.2 := by
  simp only [execVaclr, Host.Outcome.next.injEq] at h
  subst h
  simp

theorem execVaclr_wf {w : At} {ad : AReg} {s : State} {t : State} (h : execVaclr w ad s = .next t) (hw : Memory.wf s.core.1 = true) : Memory.wf t.core.1 = true := by
  simp only [execVaclr, Host.Outcome.next.injEq] at h
  subst h
  simp (maxDischargeDepth := 9) [hw]

theorem execVacstH_rest {w : At} {vd : VReg} {aa : AReg} {k : Fin 32} {rnd : Bool} {s : State} {t : State} (h : execVacstH w vd aa k rnd s = .next t) : t.core.2 = s.core.2 := by
  simp only [execVacstH, Host.Outcome.next.injEq] at h
  subst h
  simp

theorem execVacstH_wf {w : At} {vd : VReg} {aa : AReg} {k : Fin 32} {rnd : Bool} {s : State} {t : State} (h : execVacstH w vd aa k rnd s = .next t) (hw : Memory.wf s.core.1 = true) : Memory.wf t.core.1 = true := by
  simp only [execVacstH, Host.Outcome.next.injEq] at h
  subst h
  simp (maxDischargeDepth := 9) [hw]

theorem execVacstW_rest {w : At} {vd : VReg} {aa : AReg} {k : Fin 32} {rnd : Bool} {s : State} {t : State} (h : execVacstW w vd aa k rnd s = .next t) : t.core.2 = s.core.2 := by
  simp only [execVacstW, Host.Outcome.next.injEq] at h
  subst h
  simp

theorem execVacstW_wf {w : At} {vd : VReg} {aa : AReg} {k : Fin 32} {rnd : Bool} {s : State} {t : State} (h : execVacstW w vd aa k rnd s = .next t) (hw : Memory.wf s.core.1 = true) : Memory.wf t.core.1 = true := by
  simp only [execVacstW, Host.Outcome.next.injEq] at h
  subst h
  simp (maxDischargeDepth := 9) [hw]

@[simp] theorem State.modOp_rest (s : State) (w : At) (vd va : VReg) (b : VSrc) (g : Word → Int → Int → Nat) : (State.modOp s w vd va b g).core.2 = s.core.2 := by simp [State.modOp]

@[simp] theorem State.modOp_wf (s : State) (w : At) (vd va : VReg) (b : VSrc) (g : Word → Int → Int → Nat) (hw : Memory.wf s.core.1 = true) : Memory.wf (State.modOp s w vd va b g).core.1 = true := by simp (maxDischargeDepth := 9) [State.modOp, *]

theorem execVmontH_rest {w : At} {vd va : VReg} {b : VSrc} {s : State} {t : State} (h : execVmontH w vd va b s = .next t) : t.core.2 = s.core.2 := by
  simp only [execVmontH, Host.Outcome.next.injEq] at h
  subst h
  simp

theorem execVmontH_wf {w : At} {vd va : VReg} {b : VSrc} {s : State} {t : State} (h : execVmontH w vd va b s = .next t) (hw : Memory.wf s.core.1 = true) : Memory.wf t.core.1 = true := by
  simp only [execVmontH, Host.Outcome.next.injEq] at h
  subst h
  simp (maxDischargeDepth := 9) [hw]

theorem execVbarrH_rest {w : At} {vd va : VReg} {s : State} {t : State} (h : execVbarrH w vd va s = .next t) : t.core.2 = s.core.2 := by
  simp only [execVbarrH, Host.Outcome.next.injEq] at h
  subst h
  simp

theorem execVbarrH_wf {w : At} {vd va : VReg} {s : State} {t : State} (h : execVbarrH w vd va s = .next t) (hw : Memory.wf s.core.1 = true) : Memory.wf t.core.1 = true := by
  simp only [execVbarrH, Host.Outcome.next.injEq] at h
  subst h
  simp (maxDischargeDepth := 9) [hw]

theorem execVmaddH_rest {w : At} {vd va : VReg} {b : VSrc} {s : State} {t : State} (h : execVmaddH w vd va b s = .next t) : t.core.2 = s.core.2 := by
  simp only [execVmaddH, Host.Outcome.next.injEq] at h
  subst h
  simp

theorem execVmaddH_wf {w : At} {vd va : VReg} {b : VSrc} {s : State} {t : State} (h : execVmaddH w vd va b s = .next t) (hw : Memory.wf s.core.1 = true) : Memory.wf t.core.1 = true := by
  simp only [execVmaddH, Host.Outcome.next.injEq] at h
  subst h
  simp (maxDischargeDepth := 9) [hw]

theorem execVmsubH_rest {w : At} {vd va : VReg} {b : VSrc} {s : State} {t : State} (h : execVmsubH w vd va b s = .next t) : t.core.2 = s.core.2 := by
  simp only [execVmsubH, Host.Outcome.next.injEq] at h
  subst h
  simp

theorem execVmsubH_wf {w : At} {vd va : VReg} {b : VSrc} {s : State} {t : State} (h : execVmsubH w vd va b s = .next t) (hw : Memory.wf s.core.1 = true) : Memory.wf t.core.1 = true := by
  simp only [execVmsubH, Host.Outcome.next.injEq] at h
  subst h
  simp (maxDischargeDepth := 9) [hw]

@[simp] theorem State.nttOp_rest (s : State) (w : At) (sn : Reg) (k : Nat) (inverse : Bool) : (State.nttOp s w sn k inverse).core.2 = s.core.2 := by
  unfold State.nttOp
  refine State.op_rest _ _ _ _ (fun s x => ⟨?_, fun hw => ?_⟩) <;> dsimp only <;> repeat' split
  all_goals simp (maxDischargeDepth := 9) [*]

@[simp] theorem State.nttOp_wf (s : State) (w : At) (sn : Reg) (k : Nat) (inverse : Bool) (hw : Memory.wf s.core.1 = true) : Memory.wf (State.nttOp s w sn k inverse).core.1 = true := by
  unfold State.nttOp
  refine State.op_wf _ _ _ _ (fun s x => ⟨?_, fun hw => ?_⟩) hw <;> dsimp only <;> repeat' split
  all_goals simp (maxDischargeDepth := 9) [*]

theorem execVnttL_rest {w : At} {sn : Reg} {n : Fin 16} {s : State} {t : State} (h : execVnttL w sn n s = .next t) : t.core.2 = s.core.2 := by
  simp only [execVnttL, Host.Outcome.next.injEq] at h
  subst h
  simp

theorem execVnttL_wf {w : At} {sn : Reg} {n : Fin 16} {s : State} {t : State} (h : execVnttL w sn n s = .next t) (hw : Memory.wf s.core.1 = true) : Memory.wf t.core.1 = true := by
  simp only [execVnttL, Host.Outcome.next.injEq] at h
  subst h
  simp (maxDischargeDepth := 9) [hw]

theorem execVinttL_rest {w : At} {sn : Reg} {n : Fin 16} {s : State} {t : State} (h : execVinttL w sn n s = .next t) : t.core.2 = s.core.2 := by
  simp only [execVinttL, Host.Outcome.next.injEq] at h
  subst h
  simp

theorem execVinttL_wf {w : At} {sn : Reg} {n : Fin 16} {s : State} {t : State} (h : execVinttL w sn n s = .next t) (hw : Memory.wf s.core.1 = true) : Memory.wf t.core.1 = true := by
  simp only [execVinttL, Host.Outcome.next.injEq] at h
  subst h
  simp (maxDischargeDepth := 9) [hw]

theorem State.reduce_core {s : State} {x : Ctx} {T : Nat} {t : Nat × Nat × State} (h : State.reduce s x T = t) : t.2.2.core = s.core := by
  subst h
  unfold State.reduce
  dsimp only
  repeat' split
  all_goals simp

@[simp] theorem State.multiOp_rest (s : State) (w : At) (vd : VReg) (bad : Bool) (srcs : List Nat) (T : Ctx → Nat) : (State.multiOp s w vd bad srcs T).core.2 = s.core.2 := by
  unfold State.multiOp
  exact State.op_rest _ _ _ _ (fun s x => ⟨congrArg Prod.snd (State.reduce_core (t := s.reduce x (T x)) (by with_reducible rfl)), fun hw => (congrArg (fun c => Memory.wf c.1) (State.reduce_core (t := s.reduce x (T x)) (by with_reducible rfl))).trans hw⟩)

@[simp] theorem State.multiOp_wf (s : State) (w : At) (vd : VReg) (bad : Bool) (srcs : List Nat) (T : Ctx → Nat) (hw : Memory.wf s.core.1 = true) : Memory.wf (State.multiOp s w vd bad srcs T).core.1 = true := by
  unfold State.multiOp
  exact State.op_wf _ _ _ _ (fun s x => ⟨congrArg Prod.snd (State.reduce_core (t := s.reduce x (T x)) (by with_reducible rfl)), fun hw => (congrArg (fun c => Memory.wf c.1) (State.reduce_core (t := s.reduce x (T x)) (by with_reducible rfl))).trans hw⟩) hw

theorem execMmulW_rest {w : At} {vd va vb : VReg} {s : State} {t : State} (h : execMmulW w vd va vb s = .next t) : t.core.2 = s.core.2 := by
  simp only [execMmulW, Host.Outcome.next.injEq] at h
  subst h
  simp

theorem execMmulW_wf {w : At} {vd va vb : VReg} {s : State} {t : State} (h : execMmulW w vd va vb s = .next t) (hw : Memory.wf s.core.1 = true) : Memory.wf t.core.1 = true := by
  simp only [execMmulW, Host.Outcome.next.injEq] at h
  subst h
  simp (maxDischargeDepth := 9) [hw]

theorem execMredW_rest {w : At} {vd va : VReg} {s : State} {t : State} (h : execMredW w vd va s = .next t) : t.core.2 = s.core.2 := by
  simp only [execMredW, Host.Outcome.next.injEq] at h
  subst h
  simp

theorem execMredW_wf {w : At} {vd va : VReg} {s : State} {t : State} (h : execMredW w vd va s = .next t) (hw : Memory.wf s.core.1 = true) : Memory.wf t.core.1 = true := by
  simp only [execMredW, Host.Outcome.next.injEq] at h
  subst h
  simp (maxDischargeDepth := 9) [hw]

theorem execMvsvW_rest {w : At} {vd : VReg} {lane : Fin 4} {ra : Reg} {s : State} {t : State} (h : execMvsvW w vd lane ra s = .next t) : t.core.2 = s.core.2 := by
  simp only [execMvsvW, Host.Outcome.next.injEq] at h
  subst h
  simp

theorem execMvsvW_wf {w : At} {vd : VReg} {lane : Fin 4} {ra : Reg} {s : State} {t : State} (h : execMvsvW w vd lane ra s = .next t) (hw : Memory.wf s.core.1 = true) : Memory.wf t.core.1 = true := by
  simp only [execMvsvW, Host.Outcome.next.injEq] at h
  subst h
  simp (maxDischargeDepth := 9) [hw]

theorem execMvvsW_rest {w : At} {rd : Reg} {va : VReg} {lane : Fin 4} {s : State} {t : State} (h : execMvvsW w rd va lane s = .next t) : t.core.2 = s.core.2 := by
  simp only [execMvvsW, Host.Outcome.next.injEq] at h
  subst h
  simp

theorem execMvvsW_wf {w : At} {rd : Reg} {va : VReg} {lane : Fin 4} {s : State} {t : State} (h : execMvvsW w rd va lane s = .next t) (hw : Memory.wf s.core.1 = true) : Memory.wf t.core.1 = true := by
  simp only [execMvvsW, Host.Outcome.next.injEq] at h
  subst h
  simp (maxDischargeDepth := 9) [hw]

end Sys2Proof.Machine
end

