-- ==== Sys2Proof/Laws/FrameHost.lean ====
section
/-! SUPPORT. What an operation leaves alone: the same for host accesses and the TAP. -/
namespace Sys2Proof.Machine
set_option linter.unusedSimpArgs false

/-! Host. -/

@[simp] theorem State.ringStop_core (s : State) (r code : Nat) : (State.ringStop s r code).core = s.core := by simp [State.ringStop]

@[simp] theorem State.ringCtrl_core (s : State) (r : Nat) (v : Word) : (State.ringCtrl s r v).core = s.core := by simp [State.ringCtrl]

theorem execRingEnable_core {r : Fin 64} {v : Word} {s : State} {t : State} (h : execRingEnable r v s = .next t) : t.core = s.core := by
  simp only [execRingEnable] at h
  rcases gateO_cases h with h | h
  · repeat' first | (cases h; done) | (cases h; (with_reducible rfl)) | (cases h; (simp ; done)) | split at h
  · exact h

@[simp] theorem State.ringTail_core (s : State) (r : Nat) (v : Word) : (State.ringTail s r v).core = s.core := by simp [State.ringTail]

theorem execCopyDoorbell_core {r : Fin 64} {v : Word} {s : State} {t : State} (h : execCopyDoorbell r v s = .next t) : t.core = s.core := by
  simp only [execCopyDoorbell] at h
  rcases gateO_cases h with h | h
  · repeat' first | (cases h; done) | (cases h; (with_reducible rfl)) | (cases h; (simp ; done)) | split at h
  · exact h

@[simp] theorem State.ringWrite_core (s : State) (r o : Nat) (v : Word) : (State.ringWrite s r o v).core = s.core := by simp [State.ringWrite]

@[simp] theorem State.clearCounters_core (s : State) (v : Word) : (State.clearCounters s v).core = s.core := by simp [State.clearCounters]

theorem execCntClear_core {v : Word} {s : State} {t : State} (h : execCntClear v s = .next t) : t.core = s.core := by
  simp only [execCntClear] at h
  rcases gateO_cases h with h | h
  · repeat' first | (cases h; done) | (cases h; (with_reducible rfl)) | (cases h; (simp ; done)) | split at h
  · exact h

@[simp] theorem State.stage1_core (s : State) (off : Nat) (mask v : Word) : (State.stage1 s off mask v).core = s.core := by simp [State.stage1]

@[simp] theorem State.reqTail_core (s : State) (c : Nat) (v : Word) : (State.reqTail s c v).core = s.core := by simp [State.reqTail]

@[simp] theorem State.rowWrite_core (s : State) (pg o : Nat) (r : Row) (v : Word) : (State.rowWrite s pg o r v).core = s.core := by
  unfold State.rowWrite
  split <;> simp

theorem outState_keep {s : State} {x : Host.Outcome State Fault Refusal} (h : ∀ t, x = .next t → t.core = s.core) : (outState s x).core = s.core := by
  unfold outState
  split
  · exact h _ rfl
  · with_reducible rfl

theorem outState_rest {s : State} {x : Host.Outcome State Fault Refusal} (h : ∀ t, x = .next t → t.core.2 = s.core.2) : (outState s x).core.2 = s.core.2 := by
  unfold outState
  split
  · exact h _ rfl
  · with_reducible rfl

theorem outState_wf {s : State} {x : Host.Outcome State Fault Refusal} (h : ∀ t, x = .next t → Memory.wf t.core.1 = true) (hw : Memory.wf s.core.1 = true) : Memory.wf (outState s x).core.1 = true := by
  unfold outState
  split
  · exact h _ rfl
  · with_reducible exact hw

theorem State.cfgCommand_core {s : State} {o : Nat} {v : Word} {t : State} (h : State.cfgCommand s o v = some t) : t.core = s.core := by
  unfold State.cfgCommand at h
  try dsimp only at h
  repeat' split at h
  all_goals first
    | (cases h; done)
    | (simp only [Option.some.injEq] at h; subst h)
  all_goals first
    | with_reducible refine outState_keep (fun _ ht => ?_)
    | (simp; done)
  all_goals repeat' split at ht
  all_goals first
    | (with_reducible exact execFire_core ht)
    | (with_reducible exact execGreenAbort_core ht)
    | (with_reducible exact execGreenOpen_core ht)
    | (with_reducible exact execRefire_core ht)
    | (rcases gateO_cases ht with ht | ht
       · simp only [Host.Outcome.next.injEq] at ht; subst ht; repeat' split
         all_goals simp
       · exact ht)

theorem State.pwrCommand_rest {s : State} {o : Nat} {v : Word} {t : State} (h : State.pwrCommand s o v = some t) : t.core.2 = s.core.2 := by
  unfold State.pwrCommand at h
  try dsimp only at h
  repeat' split at h
  all_goals first
    | (cases h; done)
    | (simp only [Option.some.injEq] at h; subst h)
  all_goals first
    | with_reducible refine outState_rest (fun _ ht => ?_)
    | (simp; done)
  all_goals repeat' split at ht
  all_goals first
    | (with_reducible exact execDeepIdleEnter_rest ht)
    | (with_reducible exact execDeepIdleLeave_rest ht)
    | (rcases gateO_cases ht with ht | ht
       · simp only [Host.Outcome.next.injEq] at ht; subst ht; repeat' split
         all_goals simp
       · exact congrArg Prod.snd ht)

theorem State.pwrCommand_wf {s : State} {o : Nat} {v : Word} {t : State} (h : State.pwrCommand s o v = some t) (hw : Memory.wf s.core.1 = true) : Memory.wf t.core.1 = true := by
  unfold State.pwrCommand at h
  try dsimp only at h
  repeat' split at h
  all_goals first
    | (cases h; done)
    | (simp only [Option.some.injEq] at h; subst h)
  all_goals first
    | with_reducible refine outState_wf (fun _ ht => ?_) hw
    | (simp (maxDischargeDepth := 9) [hw]; done)
  all_goals repeat' split at ht
  all_goals first
    | (with_reducible exact execDeepIdleEnter_wf ht hw)
    | (with_reducible exact execDeepIdleLeave_wf ht hw)
    | (rcases gateO_cases ht with ht | ht
       · simp only [Host.Outcome.next.injEq] at ht; subst ht; repeat' split
         all_goals simp (maxDischargeDepth := 9) [hw]
       · exact (congrArg (fun c => Memory.wf c.1) ht).trans hw)

theorem State.rstCommand_rest {s : State} {o : Nat} {v : Word} {t : State} (h : State.rstCommand s o v = some t) : t.core.2 = s.core.2 := by
  unfold State.rstCommand at h
  try dsimp only at h
  repeat' split at h
  all_goals first
    | (cases h; done)
    | (simp only [Option.some.injEq] at h; subst h)
  all_goals first
    | with_reducible refine outState_rest (fun _ ht => ?_)
    | (simp; done)
  all_goals repeat' split at ht
  all_goals first
    | (with_reducible exact execEmber_rest ht)
    | (rcases gateO_cases ht with ht | ht
       · simp only [Host.Outcome.next.injEq] at ht; subst ht; repeat' split
         all_goals simp
       · exact congrArg Prod.snd ht)

theorem State.rstCommand_wf {s : State} {o : Nat} {v : Word} {t : State} (h : State.rstCommand s o v = some t) (hw : Memory.wf s.core.1 = true) : Memory.wf t.core.1 = true := by
  unfold State.rstCommand at h
  try dsimp only at h
  repeat' split at h
  all_goals first
    | (cases h; done)
    | (simp only [Option.some.injEq] at h; subst h)
  all_goals first
    | with_reducible refine outState_wf (fun _ ht => ?_) hw
    | (simp (maxDischargeDepth := 9) [hw]; done)
  all_goals repeat' split at ht
  all_goals first
    | (with_reducible exact execEmber_wf ht hw)
    | (rcases gateO_cases ht with ht | ht
       · simp only [Host.Outcome.next.injEq] at ht; subst ht; repeat' split
         all_goals simp (maxDischargeDepth := 9) [hw]
       · exact (congrArg (fun c => Memory.wf c.1) ht).trans hw)

theorem State.safCommand_rest {s : State} {o : Nat} {v : Word} {t : State} (h : State.safCommand s o v = some t) : t.core.2 = s.core.2 := by
  unfold State.safCommand at h
  try dsimp only at h
  repeat' split at h
  all_goals first
    | (cases h; done)
    | (simp only [Option.some.injEq] at h; subst h)
  all_goals first
    | with_reducible refine outState_rest (fun _ ht => ?_)
    | (simp; done)
  all_goals repeat' split at ht
  all_goals first
    | (with_reducible exact congrArg Prod.snd (execProofArm_core ht))
    | (with_reducible exact execSealCmd_rest ht)
    | (rcases gateO_cases ht with ht | ht
       · simp only [Host.Outcome.next.injEq] at ht; subst ht; repeat' split
         all_goals simp
       · exact congrArg Prod.snd ht)

theorem State.safCommand_wf {s : State} {o : Nat} {v : Word} {t : State} (h : State.safCommand s o v = some t) (hw : Memory.wf s.core.1 = true) : Memory.wf t.core.1 = true := by
  unfold State.safCommand at h
  try dsimp only at h
  repeat' split at h
  all_goals first
    | (cases h; done)
    | (simp only [Option.some.injEq] at h; subst h)
  all_goals first
    | with_reducible refine outState_wf (fun _ ht => ?_) hw
    | (simp (maxDischargeDepth := 9) [hw]; done)
  all_goals repeat' split at ht
  all_goals first
    | (with_reducible exact (congrArg (fun c => Memory.wf c.1) (execProofArm_core ht)).trans hw)
    | (with_reducible exact execSealCmd_wf ht hw)
    | (rcases gateO_cases ht with ht | ht
       · simp only [Host.Outcome.next.injEq] at ht; subst ht; repeat' split
         all_goals simp (maxDischargeDepth := 9) [hw]
       · exact (congrArg (fun c => Memory.wf c.1) ht).trans hw)

theorem State.asxCommand_core {s : State} {o : Nat} {v : Word} {t : State} (h : State.asxCommand s o v = some t) : t.core = s.core := by
  unfold State.asxCommand at h
  try dsimp only at h
  repeat' split at h
  all_goals first
    | (cases h; done)
    | (simp only [Option.some.injEq] at h; subst h)
  all_goals first
    | with_reducible refine outState_keep (fun _ ht => ?_)
    | (simp; done)
  all_goals repeat' split at ht
  all_goals first
    | (with_reducible exact execClearForce_core ht)
    | (with_reducible exact execClosePeer_core ht)
    | (with_reducible exact execForceToProtect_core ht)
    | (with_reducible exact execForceToWorking_core ht)
    | (rcases gateO_cases ht with ht | ht
       · simp only [Host.Outcome.next.injEq] at ht; subst ht; repeat' split
         all_goals simp
       · exact ht)

theorem State.timCommand_core {s : State} {o : Nat} {v : Word} {t : State} (h : State.timCommand s o v = some t) : t.core = s.core := by
  unfold State.timCommand at h
  try dsimp only at h
  repeat' split at h
  all_goals first
    | (cases h; done)
    | (simp only [Option.some.injEq] at h; subst h)
  all_goals first
    | with_reducible refine outState_keep (fun _ ht => ?_)
    | (simp; done)
  all_goals repeat' split at ht
  all_goals first
    | (with_reducible exact execRateWrite_core ht)
    | (with_reducible exact execTodLoad_core ht)
    | (with_reducible exact execTodStep_core ht)
    | (rcases gateO_cases ht with ht | ht
       · simp only [Host.Outcome.next.injEq] at ht; subst ht; repeat' split
         all_goals simp
       · exact ht)

theorem State.ringCommand_core {s : State} {pg o : Nat} {v : Word} {t : State} (h : State.ringCommand s pg o v = some t) : t.core = s.core := by
  unfold State.ringCommand at h
  try dsimp only at h
  repeat' split at h
  all_goals first
    | (cases h; done)
    | (simp only [Option.some.injEq] at h; subst h)
  all_goals first
    | with_reducible refine outState_keep (fun _ ht => ?_)
    | (simp; done)
  all_goals repeat' split at ht
  all_goals first
    | (with_reducible exact execCopyDoorbell_core ht)
    | (with_reducible exact execRingEnable_core ht)
    | (rcases gateO_cases ht with ht | ht
       · simp only [Host.Outcome.next.injEq] at ht; subst ht; repeat' split
         all_goals simp
       · exact ht)

theorem State.unitCommand_core {s : State} {pg o : Nat} {v : Word} {t : State} (h : State.unitCommand s pg o v = some t) : t.core = s.core := by
  unfold State.unitCommand at h
  try dsimp only at h
  repeat' split at h
  all_goals first
    | (cases h; done)
    | (simp only [Option.some.injEq] at h; subst h)
  all_goals first
    | with_reducible refine outState_keep (fun _ ht => ?_)
    | (simp; done)
  all_goals repeat' split at ht
  all_goals first
    | (with_reducible exact execCntClear_core ht)
    | (with_reducible exact execEclkSelWrite_core ht)
    | (with_reducible exact execMmClear_core ht)
    | (with_reducible exact execPortCntClear_core ht)
    | (with_reducible exact execRetireCmd_core ht)
    | (rcases gateO_cases ht with ht | ht
       · simp only [Host.Outcome.next.injEq] at ht; subst ht; repeat' split
         all_goals simp
       · exact ht)

theorem State.command_rest {s : State} {pg o : Nat} {v : Word} {t : State} (h : State.command s pg o v = some t) : t.core.2 = s.core.2 := by
  unfold State.command at h
  repeat' split at h
  · exact congrArg Prod.snd (State.cfgCommand_core h)
  · exact State.pwrCommand_rest h
  · exact State.rstCommand_rest h
  · exact State.safCommand_rest h
  · exact congrArg Prod.snd (State.asxCommand_core h)
  · exact congrArg Prod.snd (State.timCommand_core h)
  · exact congrArg Prod.snd (State.ringCommand_core h)
  · exact congrArg Prod.snd (State.unitCommand_core h)

theorem State.command_wf {s : State} {pg o : Nat} {v : Word} {t : State} (h : State.command s pg o v = some t) (hw : Memory.wf s.core.1 = true) : Memory.wf t.core.1 = true := by
  unfold State.command at h
  repeat' split at h
  · exact (congrArg (fun c => Memory.wf c.1) (State.cfgCommand_core h)).trans hw
  · exact State.pwrCommand_wf h hw
  · exact State.rstCommand_wf h hw
  · exact State.safCommand_wf h hw
  · exact (congrArg (fun c => Memory.wf c.1) (State.asxCommand_core h)).trans hw
  · exact (congrArg (fun c => Memory.wf c.1) (State.timCommand_core h)).trans hw
  · exact (congrArg (fun c => Memory.wf c.1) (State.ringCommand_core h)).trans hw
  · exact (congrArg (fun c => Memory.wf c.1) (State.unitCommand_core h)).trans hw

@[simp] theorem State.hostInj_rest (s : State) (pg : Nat) (v : Word) : (State.hostInj s pg v).core.2 = s.core.2 := by
  unfold State.hostInj
  dsimp only
  split
  · exact outState_rest (fun _ ht => execFaultInj_rest ht)
  · simp

@[simp] theorem State.hostInj_wf (s : State) (pg : Nat) (v : Word) (hw : Memory.wf s.core.1 = true) : Memory.wf (State.hostInj s pg v).core.1 = true := by
  unfold State.hostInj
  dsimp only
  split
  · exact outState_wf (fun _ ht => execFaultInj_wf ht hw) hw
  · simp [hw]

@[simp] theorem State.stagedWrite_core (s : State) (off : Nat) (mask v : Word) : (State.stagedWrite s off mask v).core = s.core := by simp [State.stagedWrite]

@[simp] theorem State.headWrite_rest (s : State) (pg o : Nat) (v : Word) : (State.headWrite s pg o v).core.2 = s.core.2 := by
  unfold State.headWrite
  repeat' split
  all_goals simp

@[simp] theorem State.headWrite_wf (s : State) (pg o : Nat) (v : Word) (hw : Memory.wf s.core.1 = true) : Memory.wf (State.headWrite s pg o v).core.1 = true := by
  unfold State.headWrite
  repeat' split
  all_goals simp (maxDischargeDepth := 9) [hw]

@[simp] theorem State.pageWrite_rest (s : State) (pg o : Nat) (v : Word) : (State.pageWrite s pg o v).core.2 = s.core.2 := by
  simp only [State.pageWrite]
  repeat' first | (with_reducible rfl) | (simp ; done) | (simp [State.command_rest ‹State.command _ _ _ _ = _›]; done) | (simp [State.core]; done) | split

@[simp] theorem State.pageWrite_wf (s : State) (pg o : Nat) (v : Word) (hw : Memory.wf s.core.1 = true) : Memory.wf (State.pageWrite s pg o v).core.1 = true := by
  simp only [State.pageWrite]
  repeat' first | (with_reducible assumption) | (simp (maxDischargeDepth := 9) [*]; done) | (simp (maxDischargeDepth := 9) [*, State.command_wf ‹State.command _ _ _ _ = _›]; done) | (simp (maxDischargeDepth := 9) [*, State.core]; done) | split

@[simp] theorem State.dwordWrite_rest (s : State) (off : Nat) (v : Word) : (State.dwordWrite s off v).core.2 = s.core.2 := by
  unfold State.dwordWrite
  repeat' split
  all_goals simp

@[simp] theorem State.dwordWrite_wf (s : State) (off : Nat) (v : Word) (hw : Memory.wf s.core.1 = true) : Memory.wf (State.dwordWrite s off v).core.1 = true := by
  unfold State.dwordWrite
  repeat' split
  all_goals simp (maxDischargeDepth := 9) [hw]

@[simp] theorem State.hostWrite_rest (s : State) (off size : Nat) (v : DWord) : (State.hostWrite s off size v).core.2 = s.core.2 := by
  unfold State.hostWrite
  repeat' split
  all_goals simp

@[simp] theorem State.hostWrite_wf (s : State) (off size : Nat) (v : DWord) (hw : Memory.wf s.core.1 = true) : Memory.wf (State.hostWrite s off size v).core.1 = true := by
  unfold State.hostWrite
  repeat' split
  all_goals simp (maxDischargeDepth := 9) [hw]

theorem execRegisterWrite_rest {off : Word} {size : Nat} {v : DWord} {s : State} {t : State} (h : execRegisterWrite off size v s = .next t) : t.core.2 = s.core.2 := by
  simp only [execRegisterWrite, Host.Outcome.next.injEq] at h
  subst h
  simp

theorem execRegisterWrite_wf {off : Word} {size : Nat} {v : DWord} {s : State} {t : State} (h : execRegisterWrite off size v s = .next t) (hw : Memory.wf s.core.1 = true) : Memory.wf t.core.1 = true := by
  simp only [execRegisterWrite, Host.Outcome.next.injEq] at h
  subst h
  simp (maxDischargeDepth := 9) [hw]

theorem execStagedWrite_rest {off v : Word} {s : State} {t : State} (h : execStagedWrite off v s = .next t) : t.core.2 = s.core.2 := by
  simp only [execStagedWrite, Host.Outcome.next.injEq] at h
  subst h
  simp

theorem execStagedWrite_wf {off v : Word} {s : State} {t : State} (h : execStagedWrite off v s = .next t) (hw : Memory.wf s.core.1 = true) : Memory.wf t.core.1 = true := by
  simp only [execStagedWrite, Host.Outcome.next.injEq] at h
  subst h
  simp (maxDischargeDepth := 9) [hw]

@[simp] theorem State.copyDone_core (s : State) (r : Nat) (entry : Nat) (d : CopyDesc) (code bytes : Nat) : (State.copyDone s r entry d code bytes).core = s.core := by simp [State.copyDone]

theorem State.copyIn_rest (r : Nat) : ∀ (l : List Word) (s : State) (off : Nat), (s.copyIn r off l).2.core.2 = s.core.2
  | [], _, _ => by unfold State.copyIn; with_reducible rfl
  | w :: t, s, off => by
    unfold State.copyIn
    split
    · with_reducible rfl
    · exact (State.copyIn_rest r t _ _).trans (State.dwordWrite_rest s off w)

theorem State.copyIn_wf (r : Nat) : ∀ (l : List Word) (s : State) (off : Nat), Memory.wf s.core.1 = true → Memory.wf (s.copyIn r off l).2.core.1 = true
  | [], _, _, hw => by unfold State.copyIn; with_reducible exact hw
  | w :: t, s, off, hw => by
    unfold State.copyIn
    split
    · with_reducible exact hw
    · exact State.copyIn_wf r t _ _ (State.dwordWrite_wf s off w hw)

theorem State.copyOut_rest (r : Nat) : ∀ (n : Nat) (s : State) (off : Nat), (s.copyOut r off n).2.core.2 = s.core.2
  | 0, _, _ => by unfold State.copyOut; with_reducible rfl
  | n + 1, s, off => by
    unfold State.copyOut
    split
    · with_reducible rfl
    · exact (State.copyOut_rest r n _ _).trans (State.regRead_rest (t := s.regRead off) (by with_reducible rfl))

theorem State.copyOut_wf (r : Nat) : ∀ (n : Nat) (s : State) (off : Nat), Memory.wf s.core.1 = true → Memory.wf (s.copyOut r off n).2.core.1 = true
  | 0, _, _, hw => by unfold State.copyOut; with_reducible exact hw
  | n + 1, s, off, hw => by
    unfold State.copyOut
    split
    · with_reducible exact hw
    · exact State.copyOut_wf r n _ _ (State.regRead_wf (t := s.regRead off) (by with_reducible rfl) hw)

@[simp] theorem State.ringTurn_core (s : State) (r : Nat) : (State.ringTurn s r).core = s.core := by simp [State.ringTurn]

theorem execCopyDescriptor_rest {r : Fin 64} {d : CopyDesc} {host : List Word} {hostErr : Bool} {s : State} {t : State} (h : execCopyDescriptor r d host hostErr s = .next t) : t.core.2 = s.core.2 := by
  unfold execCopyDescriptor at h
  dsimp only at h
  repeat' split at h
  all_goals simp only [Host.Outcome.next.injEq] at h; subst h
  all_goals simp [State.copyIn_rest, State.copyOut_rest]

theorem execCopyDescriptor_wf {r : Fin 64} {d : CopyDesc} {host : List Word} {hostErr : Bool} {s : State} {t : State} (h : execCopyDescriptor r d host hostErr s = .next t) (hw : Memory.wf s.core.1 = true) : Memory.wf t.core.1 = true := by
  unfold execCopyDescriptor at h
  dsimp only at h
  repeat' split at h
  all_goals simp only [Host.Outcome.next.injEq] at h; subst h
  all_goals simp (maxDischargeDepth := 9) [State.copyIn_wf, State.copyOut_wf, hw]

/-! Tap. -/

@[simp] theorem State.tapDrive_core (s : State) (drive : Option (List Bool)) : (State.tapDrive s drive).core = s.core := by simp [State.tapDrive]

@[simp] theorem State.debugHalt_core (s : State) (n : Nat) : (State.debugHalt s n).core = s.core := by simp [State.debugHalt]

theorem execTapInstruction_rest {op : TapOp} {s : State} {t : State} (h : execTapInstruction op s = .next t) : t.core.2 = s.core.2 := by
  unfold execTapInstruction at h
  repeat' split at h
  all_goals simp only [Host.Outcome.next.injEq] at h; subst h; simp

theorem execTapInstruction_wf {op : TapOp} {s : State} {t : State} (h : execTapInstruction op s = .next t) (hw : Memory.wf s.core.1 = true) : Memory.wf t.core.1 = true := by
  unfold execTapInstruction at h
  dsimp only at h
  split at h
  all_goals simp only [Host.Outcome.next.injEq] at h; subst h
  all_goals repeat' split
  all_goals first
    | exact memWrite_wf _ _ _ hw
    | simp (maxDischargeDepth := 9) [hw]

end Sys2Proof.Machine
end

