-- ==== Sys2Proof/Laws/Tables.lean ====
section
/-! SUPPORT. Tables, bit fields, memory, registers, events and fault bits: what a write leaves to a read. -/
namespace Sys2Proof.Machine

/-! Tables. -/

theorem tget_filter_ne {α : Type} (t : Tbl α) {k k' : Nat} (d : α) (h : k' ≠ k) : tget (t.filter (fun e => e.1 != k)) k' d = tget t k' d := by
  induction t with
  | nil => rfl
  | cons e t ih =>
    obtain ⟨i, x⟩ := e
    by_cases hk : i = k
    · simp [hk, tget, ih, Ne.symm h]
    · simp [hk, tget, ih]

theorem tget_tput {α : Type} (t : Tbl α) (k : Nat) (v d : α) : tget (tput t k v) k d = v := by
  simp [tput, tget]

theorem tget_tput_ne {α : Type} (t : Tbl α) {k k' : Nat} (v d : α) (h : k' ≠ k) : tget (tput t k v) k' d = tget t k' d := by
  simp [tput, tget, Ne.symm h, tget_filter_ne t d h]

theorem tput_tput {α : Type} (t : Tbl α) (k : Nat) (v w : α) : tput (tput t k v) k w = tput t k w := by
  simp [tput]

/-- A table filtered by its keys. -/
theorem tget_filter {α : Type} (p : Nat → Bool) (t : Tbl α) (k : Nat) (d : α) :
    tget (t.filter (fun e => p e.1)) k d = if p k then tget t k d else d := by
  induction t with
  | nil => simp [tget]
  | cons e t ih =>
    obtain ⟨i, x⟩ := e
    by_cases hk : i = k
    · subst hk; cases hp : p i <;> simp [hp, tget, ih]
    · cases hp : p i <;> simp [hp, tget, ih, hk]

/-! Bit fields. -/

theorem fld_zero (lo n : Nat) : fld 0 lo n = 0 := by simp [fld]

theorem bit_or (a b : Word) (i : Nat) : bit (a ||| b) i = (bit a i || bit b i) := by
  have h : ∀ x : Nat, (x / 2 ^ i % 2 == 1) = x.testBit i := fun x => by
    rw [Nat.testBit_eq_decide_div_mod_eq]; rfl
  simp only [bit, h, BitVec.toNat_or, Nat.testBit_or]

theorem bit_pow (i : Nat) (h : i < 32) : bit (w32 (2 ^ i)) i = true := by
  have h2 : 2 ^ i < 2 ^ 32 := Nat.pow_lt_pow_right (by omega) h
  have h1 : (2 : Nat) ^ i / 2 ^ i = 1 := Nat.div_self (Nat.two_pow_pos i)
  rw [bit, w32, BitVec.toNat_ofNat, Nat.mod_eq_of_lt h2, h1]
  rfl

/-- What a written field reads as. -/
theorem fld_setFld (w : Word) (lo n v : Nat) (h : lo + n ≤ 32) : fld (setFld w lo n v) lo n = v % 2 ^ n := by
  have hw := w.isLt
  have hp := Nat.two_pow_pos lo
  have hn := Nat.two_pow_pos n
  have hs : 2 ^ (lo + n) = 2 ^ lo * 2 ^ n := Nat.pow_add _ _ _
  have hle : 2 ^ (lo + n) ≤ 2 ^ 32 := Nat.pow_le_pow_right (by omega) h
  unfold fld setFld
  have e1 : w.toNat = w.toNat % 2 ^ lo + 2 ^ lo * (w.toNat / 2 ^ lo % 2 ^ n) + 2 ^ lo * 2 ^ n * (w.toNat / 2 ^ lo / 2 ^ n) := by
    have a := Nat.mod_add_div w.toNat (2 ^ lo)
    have b := Nat.mod_add_div (w.toNat / 2 ^ lo) (2 ^ n)
    calc w.toNat = w.toNat % 2 ^ lo + 2 ^ lo * (w.toNat / 2 ^ lo) := a.symm
      _ = w.toNat % 2 ^ lo + 2 ^ lo * (w.toNat / 2 ^ lo % 2 ^ n + 2 ^ n * (w.toNat / 2 ^ lo / 2 ^ n)) := by rw [b]
      _ = _ := by rw [Nat.mul_add, Nat.mul_assoc, Nat.add_assoc]
  generalize hA : w.toNat % 2 ^ lo = a at *
  generalize hB : w.toNat / 2 ^ lo % 2 ^ n = b at *
  generalize hC : w.toNat / 2 ^ lo / 2 ^ n = c at *
  have ha : a < 2 ^ lo := hA ▸ Nat.mod_lt _ hp
  have hv : v % 2 ^ n < 2 ^ n := Nat.mod_lt _ hn
  have e2 : w.toNat - b * 2 ^ lo + v % 2 ^ n * 2 ^ lo = a + 2 ^ lo * (v % 2 ^ n + 2 ^ n * c) := by
    rw [e1, Nat.mul_comm b, Nat.mul_comm (v % 2 ^ n), Nat.mul_add, Nat.mul_assoc]
    omega
  have hd : 2 ^ (32 - (lo + n)) * (2 ^ lo * 2 ^ n) = 2 ^ 32 := by
    rw [← Nat.pow_add, ← Nat.pow_add]; congr 1; omega
  have hc : c < 2 ^ (32 - (lo + n)) := by
    rcases Nat.lt_or_ge c (2 ^ (32 - (lo + n))) with h' | h'
    · exact h'
    · exfalso
      have := Nat.mul_le_mul_right (2 ^ lo * 2 ^ n) h'
      rw [hd, Nat.mul_comm c] at this
      omega
  have hlt : a + 2 ^ lo * (v % 2 ^ n + 2 ^ n * c) < 2 ^ 32 := by
    have h1 : v % 2 ^ n + 2 ^ n * c + 1 ≤ 2 ^ n * (c + 1) := by rw [Nat.mul_add]; omega
    have h2 := Nat.mul_le_mul_left (2 ^ lo) h1
    have h3 := Nat.mul_le_mul_left (2 ^ lo * 2 ^ n) hc
    rw [Nat.mul_comm (2 ^ lo * 2 ^ n) (2 ^ (32 - (lo + n))), hd, Nat.mul_assoc] at h3
    rw [Nat.mul_add, Nat.mul_one] at h2
    have h4 : 2 ^ lo * (2 ^ n * (c + 1)) ≤ 2 ^ 32 := h3
    omega
  rw [BitVec.toNat_ofNat, e2, Nat.mod_eq_of_lt hlt, Nat.add_mul_div_left _ _ hp, Nat.div_eq_of_lt ha, Nat.zero_add, Nat.add_mul_mod_self_left,
    Nat.mod_mod]

/-! Memory. -/

theorem memRead_filter (p : Nat → Bool) (m : List Host.Cell) (a : Nat) :
    memRead (m.filter (fun c => p c.1)) a = if p a then memRead m a else 0 := by
  induction m with
  | nil => simp [memRead]
  | cons e t ih =>
    obtain ⟨i, x⟩ := e
    by_cases hk : a = i
    · subst hk; cases hp : p a <;> simp [hp, memRead, ih]
    · cases hp : p i <;> simp [hp, memRead, ih, hk]

/-! Registers. -/

@[simp] theorem State.setReg_reg (s : State) (off : Nat) (v : Word) : (s.setReg off v).reg off = v := tget_tput _ _ _ _

theorem State.setReg_reg_ne (s : State) {off o : Nat} (v : Word) (h : o ≠ off) : (s.setReg off v).reg o = s.reg o := tget_tput_ne _ _ _ h

theorem State.reg_congr {s t : State} (h : t.regs = s.regs) (h48 : t.dev.h48 = s.dev.h48) (o : Nat) : t.reg o = s.reg o := by
  simp [State.reg, h, h48]

theorem State.setRegFld_reg_ne (s : State) {off o : Nat} (lo n v : Nat) (h : o ≠ off) : (s.setRegFld off lo n v).reg o = s.reg o :=
  State.setReg_reg_ne s _ h

theorem State.bumpBy_reg_ne (s : State) {off o : Nat} (n : Nat) (h : o ≠ off) : (s.bumpBy off n).reg o = s.reg o := by
  unfold State.bumpBy
  simp only
  repeat' split
  all_goals exact State.setReg_reg_ne s _ h

theorem State.bump_reg_ne (s : State) {off o : Nat} (h : o ≠ off) : (s.bump off).reg o = s.reg o := State.bumpBy_reg_ne s 1 h

theorem State.bump_reg (s : State) (off : Nat) (h : (s.reg off).toNat + 1 < 2 ^ 32) : (s.bump off).reg off = s.reg off + 1 := by
  simp only [State.bump, State.bumpBy, if_pos h, State.setReg_reg]
  apply BitVec.eq_of_toNat_eq
  simp [w32, BitVec.toNat_add]

/-! Events and fault bits: a record, and a vector, touch rings, their counters and what leaves the device. -/

/-- The state but for registers, counters, the host interface, what left the device and the free values. -/
def State.still (s : State) : State := { s with regs := [], cnt := [], pci := {}, out := [], free := 0 }

@[simp] theorem State.setReg_still (s : State) (o : Nat) (v : Word) : (s.setReg o v).still = s.still := (rfl)
@[simp] theorem State.withPci_still (s : State) (x : Pci) : (s.withPci x).still = s.still := (rfl)
@[simp] theorem State.emit_still (s : State) (o : Out) : (s.emit o).still = s.still := (rfl)
@[simp] theorem State.drawn_still (s : State) : s.drawn.still = s.still := (rfl)
@[simp] theorem State.cntAdd_still (s : State) (o n : Nat) : (s.cntAdd o n).still = s.still := (rfl)
@[simp] theorem State.makeDue_still (s : State) (v : Nat) : (s.makeDue v).still = s.still := (rfl)

@[simp] theorem State.bump_still (s : State) (o : Nat) : (s.bump o).still = s.still := by
  simp only [State.bump, State.bumpBy]
  repeat' split
  all_goals rfl

@[simp] theorem State.dueFrom_still (old s : State) (n : Nat) : (State.dueFrom old s n).still = s.still := by
  simp only [State.dueFrom]
  split <;> rfl

@[simp] theorem State.ringVec_still (s : State) (r : Nat) : (s.ringVec r).still = s.still := by
  simp only [State.ringVec]
  split <;> rfl

@[simp] theorem State.evRecord_still (s : State) (n : Nat) (raw : Word) : (s.evRecord n raw).still = s.still := by
  unfold State.evRecord
  dsimp only
  repeat' first | (with_reducible rfl) | (simp; done) | split

/-- An event changes registers, the host interface and its records. -/
@[simp] theorem State.raise_still (s : State) (pb b : Nat) : (s.raise pb b).still = s.still := by
  unfold State.raise
  dsimp only
  split <;> simp

@[simp] theorem State.faultBit_still (s : State) (pb b : Nat) : (s.faultBit pb b).still = s.still := by
  unfold State.faultBit
  dsimp only
  split <;> simp

/-- A register off the ring pages. -/
def offRings (o : Nat) : Prop := o < 0xB0000 ∨ 0xF0000 ≤ o

theorem State.ringVec_reg (s : State) (r o : Nat) : (s.ringVec r).reg o = s.reg o := by
  simp only [State.ringVec]
  split <;> rfl

theorem fld_lt (w : Word) (lo n : Nat) : fld w lo n < 2 ^ n := Nat.mod_lt _ (Nat.two_pow_pos n)

theorem State.evRecord_reg (s : State) (n : Nat) (raw : Word) {o : Nat} (h : offRings o) : (s.evRecord n raw).reg o = s.reg o := by
  have hr := fld_lt (s.route n) 9 6
  have ne : ∀ k, k < 0x1000 → o ≠ pRing (fld (s.route n) 9 6) + k := by
    intro k hk; unfold pRing; unfold offRings at h; omega
  have cnt : ∀ (s : State) o' m, (s.cntAdd o' m).reg o = s.reg o := fun _ _ _ => rfl
  have pci : ∀ (s : State) x, (s.withPci x).reg o = s.reg o := fun _ _ => rfl
  have em : ∀ (s : State) x, (s.emit x).reg o = s.reg o := fun _ _ => rfl
  unfold State.evRecord
  dsimp only
  repeat' split
  all_goals
    simp only [State.ringVec_reg, cnt, pci, em, State.bump_reg_ne _ (ne 0x118 (by omega)), State.bump_reg_ne _ (ne 0x11C (by omega)),
      State.setReg_reg_ne _ _ (ne 0x110 (by omega))]

theorem State.dueFrom_reg (old s : State) (n o : Nat) : (State.dueFrom old s n).reg o = s.reg o := by
  simp only [State.dueFrom]
  split <;> rfl

/-- An event sets its bit in EVT_RAW. -/
theorem State.raise_reg_raw (s : State) (pb b : Nat) (h : offRings (pb + 0x10)) :
    (s.raise pb b).reg (pb + 0x10) = s.reg (pb + 0x10) ||| w32 (2 ^ b) := by
  unfold State.raise
  dsimp only
  split
  · exact State.setReg_reg _ _ _
  · rw [State.evRecord_reg _ _ _ h, State.dueFrom_reg, State.setReg_reg]

/-- Every other register outside the ring pages stands. -/
theorem State.raise_reg (s : State) (pb b : Nat) {o : Nat} (h : offRings o) (hn : o ≠ pb + 0x10) : (s.raise pb b).reg o = s.reg o := by
  unfold State.raise
  dsimp only
  split
  · exact State.setReg_reg_ne _ _ hn
  · rw [State.evRecord_reg _ _ _ h, State.dueFrom_reg, State.setReg_reg_ne _ _ hn]

/-- A fault bit is set. -/
theorem State.faultBit_reg_raw (s : State) (pb b : Nat) (h : offRings (pb + 0x20)) (hn : pb + 0x20 ≠ pSaf + 0x10) :
    (s.faultBit pb b).reg (pb + 0x20) = s.reg (pb + 0x20) ||| w32 (2 ^ b) := by
  unfold State.faultBit
  dsimp only
  split
  · rw [State.raise_reg _ _ _ h hn, State.setReg_reg]
  · exact State.setReg_reg _ _ _

theorem State.faultBit_reg (s : State) (pb b : Nat) {o : Nat} (h : offRings o) (hn : o ≠ pb + 0x20) (he : o ≠ pSaf + 0x10) :
    (s.faultBit pb b).reg o = s.reg o := by
  unfold State.faultBit
  dsimp only
  split
  · rw [State.raise_reg _ _ _ h he, State.setReg_reg_ne _ _ hn]
  · exact State.setReg_reg_ne _ _ hn

end Sys2Proof.Machine
end

