-- ==== Sys2Proof/Laws/Traim.lean ====
section
/-! SUPPORT. What a bundle of one operation does on a calm engine and on a calm harbour pair. -/
namespace Sys2Proof.Machine

@[simp] theorem State.setEng_eng (s : State) (n : Nat) (e : Engine) : (s.setEng n e).eng n = e := tget_tput _ _ _ _

@[simp] theorem State.setEng_setEng (s : State) (n : Nat) (e f : Engine) : (s.setEng n e).setEng n f = s.setEng n f := by
  simp only [State.setEng, tput_tput]

@[simp] theorem Engine.setCtx_ctx (e : Engine) (c : Nat) (x : Ctx) : (e.setCtx c x).ctx c = x := tget_tput _ _ _ _

@[simp] theorem Engine.setCtx_setCtx (e : Engine) (c : Nat) (x y : Ctx) : (e.setCtx c x).setCtx c y = e.setCtx c y := by
  simp only [Engine.setCtx, tput_tput]

theorem State.cur_calm {s : State} {n c : Nat} (h : Calm s n c) : s.cur n = s.ctx n c := by
  simp [State.cur, h.mc, h.run, h.shadow, State.ctx]

/-- Acts that need no memory, no jump and no unit of the engine. -/
def Act.light : Act → Bool
  | .set _ _ | .late _ _ _ | .long _ _ _ _ | .flag _ | .special _ _ | .loop _ _ _ | .lclr _ | .rpt _ => true
  | _ => false

theorem State.engMems_light (n : Nat) (fixed : Bool) (next : Word) : ∀ (l : List Act) (s : State) (x : Ctx) (j : Option Word),
    l.all Act.light = true → s.engMems n fixed next x j l = some (s, x, j)
  | [], _, _, _, _ => rfl
  | a :: t, s, x, j, h => by
    simp only [List.all_cons, Bool.and_eq_true] at h
    have hm : s.engMem n fixed next x a = some (s, x, none) := by
      cases a <;> first | (cases h.1; done) | rfl
    unfold State.engMems
    rw [hm]
    exact State.engMems_light n fixed next t s x j h.2

theorem light_sys : ∀ {l : List Act}, l.all Act.light = true → sysOps l = []
  | [], _ => rfl
  | a :: t, h => by
    simp only [List.all_cons, Bool.and_eq_true] at h
    have ht := light_sys h.2
    simp only [sysOps] at ht ⊢
    rw [List.flatMap_cons, ht]
    cases a <;> first | (cases h.1; done) | rfl

theorem light_routine : ∀ {l : List Act}, l.all Act.light = true → routineOf l = none
  | [], _ => rfl
  | a :: t, h => by
    simp only [List.all_cons, Bool.and_eq_true] at h
    have ht := light_routine h.2
    simp only [routineOf] at ht ⊢
    rw [List.findSome?_cons, ht]
    cases a <;> first | (cases h.1; done) | rfl

theorem light_serial : ∀ {l : List Act}, l.all Act.light = true → hasSerial l = false
  | [], _ => rfl
  | a :: t, h => by
    simp only [List.all_cons, Bool.and_eq_true] at h
    have ht := light_serial h.2
    simp only [hasSerial] at ht ⊢
    rw [List.any_cons, ht]
    cases a <;> first | (cases h.1; done) | rfl

theorem light_gather : ∀ {l : List Act}, l.all Act.light = true →
    gatherOf l = none
  | [], _ => rfl
  | a :: t, h => by
    simp only [List.all_cons, Bool.and_eq_true] at h
    have ht := light_gather h.2
    simp only [gatherOf] at ht ⊢
    rw [List.findSome?_cons, ht]
    cases a <;> first | (cases h.1; done) | rfl

theorem light_jumps : ∀ {l : List Act}, l.all Act.light = true → jumps l = false
  | [], _ => rfl
  | a :: t, h => by
    simp only [List.all_cons, Bool.and_eq_true] at h
    have ht := light_jumps h.2
    simp only [jumps] at ht ⊢
    rw [List.any_cons, ht]
    cases a <;> first | (cases h.1; done) | rfl

theorem light_splits : ∀ {l : List Act}, l.all Act.light = true → splits l = 0
  | [], _ => rfl
  | a :: t, h => by
    simp only [List.all_cons, Bool.and_eq_true] at h
    have ht := light_splits h.2
    simp only [splits, List.length_eq_zero_iff] at ht ⊢
    rw [List.filter_cons, ht]
    cases a <;> first | (cases h.1; done) | rfl

/-- The registers after an operation whose acts are light. -/
def Ctx.acted (x : Ctx) (fixed : Bool) (k : Nat) (acts : List Act) : Ctx :=
  (ordered acts).foldl (Ctx.act fixed (x.pc + w32 (4 * k))) { x with brkAt := if x.brkAt = some x.pc then none else x.brkAt }

theorem Ctx.ageBy_none (x : Ctx) (l : List Nat) (h : x.pend = []) : x.ageBy l = x := by
  simp only [Ctx.ageBy, h, List.map_nil, List.filter_nil, List.foldl_nil]
  rw [← h]

theorem Ctx.begun_calm {x : Ctx} (hr : x.rpt = none) (he : x.ending = []) :
    x.begun = { x with brkAt := if x.brkAt = some x.pc then none else x.brkAt } := by
  simp only [Ctx.begun, hr, he, loopTests, beq_iff_eq]

theorem Ctx.applied_calm {x : Ctx} (hp : x.pend = []) (hr : x.rpt = none) (he : x.ending = []) (fixed : Bool) (b : Bundle) :
    x.applied fixed b = x.acted fixed b.words b.acts := by
  simp only [Ctx.applied, Ctx.acted, Ctx.fall]
  rw [Ctx.begun_calm hr he, Ctx.ageBy_none _ _ (by exact hp)]

theorem Ctx.nextPc_calm {x : Ctx} (hr : x.rpt = none) (he : x.ending = []) (b : Bundle) : x.nextPc b none = x.pc + w32 (4 * b.words) := by
  simp only [Ctx.nextPc, hr, he, loopTests, Ctx.fall]
  rfl

theorem Ctx.tests_calm {x : Ctx} (he : x.ending = []) : x.tests = [] := by simp only [Ctx.tests, he, loopOuts]

/-! No act of an operation starts a routine on the side. -/

theorem Ctx.write_routine (x : Ctx) (d : Dst) (v : Val) : (x.write d v).routine = x.routine := by
  cases d <;> cases v <;> rfl

theorem Ctx.flag_routine (x : Ctx) (fl : Nat) : (x.flag fl).routine = x.routine := rfl

theorem Ctx.land_routine (x : Ctx) (p : Pend) : (x.land p).routine = x.routine := by
  unfold Ctx.land
  rw [Ctx.flag_routine]
  cases p.dst with
  | none => rfl
  | some d => exact Ctx.write_routine _ _ _

theorem Ctx.addLate_routine (x : Ctx) (fixed : Bool) (p : Pend) : (x.addLate fixed p).routine = x.routine := by
  unfold Ctx.addLate; split
  · exact Ctx.land_routine _ _
  · rfl

theorem Ctx.addLong_routine (x : Ctx) (fixed : Bool) (p : Pend) : (x.addLong fixed p).routine = x.routine := by
  unfold Ctx.addLong; simp only; split
  · rw [Ctx.land_routine]; rfl
  · split
    · rw [Ctx.land_routine]; rfl
    · rfl

theorem Ctx.special_routine (x : Ctx) (n : Nat) (v : Word) : (x.special n v).routine = x.routine := by
  unfold Ctx.special; repeat' split
  all_goals rfl

theorem Ctx.act_routine (fixed : Bool) (next : Word) (x : Ctx) (a : Act) : (x.act fixed next a).routine = x.routine := by
  cases a with
  | set d v => exact Ctx.write_routine x d v
  | late d v fl => exact Ctx.addLate_routine x fixed { dst := some d, val := v, flags := fl }
  | long d v fl src => exact Ctx.addLong_routine x fixed { dst := some d, val := v, flags := fl, src := src }
  | special k v => exact Ctx.special_routine x k v
  | _ => rfl

theorem Ctx.acts_routine (fixed : Bool) (next : Word) : ∀ (l : List Act) (x : Ctx), (l.foldl (Ctx.act fixed next) x).routine = x.routine
  | [], _ => rfl
  | a :: t, x => by rw [List.foldl_cons, Ctx.acts_routine fixed next t, Ctx.act_routine]

theorem Ctx.acted_routine {x : Ctx} (h : x.routine = none) (fixed : Bool) (k : Nat) (acts : List Act) : (x.acted fixed k acts).routine = none := by
  unfold Ctx.acted; rw [Ctx.acts_routine]; exact h

theorem Ctx.setRoutine_none {x : Ctx} (h : x.routine = none) (p : Word) : { x with pc := p, routine := none } = { x with pc := p } := by
  cases x; simp only at h; subst h; rfl

/-! The repeat cache changes nothing else of the engine. -/

theorem Engine.noRep_setCtx (e : Engine) (c : Nat) (y : Ctx) : (e.setCtx c y).noRep = e.noRep.setCtx c y := rfl

theorem Engine.inBody_setCtx (e : Engine) (c : Nat) (x y : Ctx) : (e.setCtx c y).inBody x = e.inBody x := rfl

theorem Engine.track_eq (e : Engine) (x : Ctx) (t : Bool) : ∃ r b, e.track x t = { e with rep := r, repBody := b } := by
  unfold Engine.track; simp only [Engine.noRep]
  repeat' split
  all_goals exact ⟨_, _, rfl⟩

theorem Engine.track_setCtx (e : Engine) (c : Nat) (x y : Ctx) (t : Bool) : (e.setCtx c y).track x t = (e.track x t).setCtx c y := by
  unfold Engine.track
  cases x.body with
  | none => rfl
  | some p =>
    simp only [apply_ite (fun e : Engine => e.setCtx c y)]
    rfl

/-- What is not the repeat cache stays. -/
theorem Engine.track_keeps (e : Engine) (x : Ctx) (t : Bool) : (e.track x t).mc = e.mc ∧ (e.track x t).run = e.run ∧
    (e.track x t).shadowIn = e.shadowIn ∧ (e.track x t).ctxs = e.ctxs := by
  obtain ⟨r, b, h⟩ := e.track_eq x t
  rw [h]; exact ⟨rfl, rfl, rfl, rfl⟩

/-! The front end changes nothing else. -/

theorem State.perfAdd_eq (s : State) (n ev k : Nat) : ∃ F, s.perfAdd n ev k = { s with fronts := F } := by
  unfold State.perfAdd State.setFront; split <;> exact ⟨_, rfl⟩

theorem State.ran_form (s : State) (n : Nat) (x : Ctx) (k : Nat) (l : List Bool) (u : Nat) :
    ∃ F, s.ran n x k l u = ((s.setFront n F).perfAdd n 2 1).perfAdd n 0x0A u := ⟨_, rfl⟩

theorem State.ran_eq (s : State) (n : Nat) (x : Ctx) (k : Nat) (l : List Bool) (u : Nat) : ∃ F, s.ran n x k l u = { s with fronts := F } := by
  obtain ⟨F, h⟩ := s.ran_form n x k l u
  obtain ⟨G, h1⟩ := (s.setFront n F).perfAdd_eq n 2 1
  obtain ⟨H, h2⟩ := ({ s.setFront n F with fronts := G } : State).perfAdd_eq n 0x0A u
  rw [h, h1, h2]
  exact ⟨H, rfl⟩

@[simp] theorem State.ran_eng (s : State) (n m : Nat) (x : Ctx) (k : Nat) (l : List Bool) (u : Nat) : (s.ran n x k l u).eng m = s.eng m := by
  obtain ⟨F, h⟩ := s.ran_eq n x k l u
  rw [h]; rfl

theorem State.fixedOn_setEng (s : State) (n : Nat) (e : Engine) (h1 : e.halted = (s.eng n).halted) (h2 : e.fixed = (s.eng n).fixed) :
    (s.setEng n e).fixedOn n = s.fixedOn n := by
  simp only [State.fixedOn, State.engHalted, State.setEng_eng, h1, h2]
  rfl

theorem State.perfAdd_setEng {s : State} {n : Nat} {e : Engine} (h : (s.setEng n e).sealedNow n = s.sealedNow n) (ev k : Nat) :
    (s.setEng n e).perfAdd n ev k = (s.perfAdd n ev k).setEng n e := by
  simp only [State.perfAdd, h]
  split <;> rfl

/-- The front end looks at the repeat cache, PBAR, the mode and whether the running context is sealed. -/
theorem State.ran_setEng {s : State} {n : Nat} {e : Engine} (h1 : e.halted = (s.eng n).halted) (h2 : e.fixed = (s.eng n).fixed)
    (h3 : e.repBody = (s.eng n).repBody) (h4 : e.pbar = (s.eng n).pbar) (h5 : (s.setEng n e).sealedNow n = s.sealedNow n)
    (x : Ctx) (k : Nat) (l : List Bool) (u : Nat) : (s.setEng n e).ran n x k l u = (s.ran n x k l u).setEng n e := by
  have hx : (s.setEng n e).strict n x = s.strict n x := by simp only [State.strict, State.fixedOn_setEng s n e h1 h2]
  have hb : ((s.setEng n e).eng n).inBody x = (s.eng n).inBody x := by simp only [State.setEng_eng, Engine.inBody, h3]
  have hp : ((s.setEng n e).eng n).pbar = (s.eng n).pbar := by simp only [State.setEng_eng, h4]
  have hf : (s.setEng n e).front n = s.front n := rfl
  unfold State.ran
  simp only [hx, hb, hp, hf]
  generalize (if s.strict n x = true then _ else _ : Front) = F
  have e1 : (s.setEng n e).setFront n F = (s.setFront n F).setEng n e := rfl
  have hs : ((s.setFront n F).setEng n e).sealedNow n = (s.setFront n F).sealedNow n := h5
  rw [e1, State.perfAdd_setEng hs]
  refine State.perfAdd_setEng ?_ _ _
  obtain ⟨G, hG⟩ := (s.setFront n F).perfAdd_eq n 2 1
  rw [hG]; exact h5

/-- A calm state stays calm when only free values and the front end move. -/
theorem Calm.of_eq {s t : State} {n c : Nat} (h : Calm s n c) (hr : t.engRuns n = s.engRuns n) (he : t.eng n = s.eng n) : Calm t n c := by
  have hx : t.ctx n c = s.ctx n c := by simp only [State.ctx, he]
  constructor <;> first | (rw [hr]; exact h.runs) | (simp only [he]; first | exact h.mc | exact h.run | exact h.shadow | exact h.bundle | exact h.stbuf | exact h.micros) |
    (rw [hx]; first | exact h.pend | exact h.longs | exact h.trap | exact h.rpt | exact h.micro | exact h.routine | exact h.ending)

theorem State.savesArea_light (s : State) (n : Nat) {l : List Act} (h : l.all Act.light = true) : s.savesArea n l = some s := by
  simp only [State.savesArea, light_routine h]

theorem State.gatherDone_light (s : State) (n : Nat) (x : Ctx) {l : List Act} (h : l.all Act.light = true) : s.gatherDone n x l = (l, none) := by
  simp only [State.gatherDone, light_gather h]

theorem State.preMem_light {s : State} {n : Nat} {b : Bundle} (hb : (s.eng n).stbuf = []) (hz : hasSerial b.acts = false) : s.preMem n b = s := by
  simp only [State.preMem, hz]
  split
  · contradiction
  · split
    · rfl
    · simp [State.drainN, hb]

theorem State.engApply_light {s : State} {n : Nat} {x : Ctx} {b : Bundle} (hb : (s.eng n).stbuf = []) (ha : b.acts.all Act.light = true) :
    s.engApply n x b = some (((s.ran n x b.words (List.replicate b.cond false) 0).countDown n x b none).setCur n
      { (x.applied (s.fixedOn n) b) with pc := x.nextPc b none, routine := none }) := by
  have hd : (s.ran n x b.words (List.replicate b.cond false) 0).preMem n b = s.ran n x b.words (List.replicate b.cond false) 0 :=
    State.preMem_light (by rw [State.ran_eng]; exact hb) (light_serial ha)
  simp only [State.engApply, light_jumps ha, light_splits ha, hd, State.engMems_light _ _ _ _ _ _ _ ha, State.started, light_routine ha, State.engSyss, light_sys ha, List.foldl_nil, Option.map_none]

theorem State.lazyFp_owner {s : State} {n c : Nat} (hm : (s.eng n).mc = false) (hr : (s.eng n).run = some c) (ho : (s.eng n).fpOwner = some c) : s.lazyFp n = some s := by
  simp [State.lazyFp, hm, hr, ho]

theorem State.engPrep_light {s : State} {n c : Nat} {b : Bundle} (hm : (s.eng n).mc = false) (hr : (s.eng n).run = some c)
    (ha : routineOf b.acts = none) (hp : b.fp = true → (s.eng n).fpOwner = some c) : s.engPrep n b = some s := by
  cases hf : b.fp with
  | false => simp [State.engPrep, hf, State.savesArea, ha]
  | true => simp [State.engPrep, hf, State.savesArea, ha, State.lazyFp_owner hm hr (hp hf)]

theorem State.begun_eng (s : State) (n c : Nat) : (s.begun n c).eng n = (s.eng n).fresh c := State.setEng_eng _ _ _

theorem State.cur_fresh {s : State} {n c : Nat} (h : Calm s n c) : (s.begun n c).cur n = s.ctx n c := by
  simp [State.begun, State.cur, Engine.fresh, Engine.setCtx, h.mc, h.run, h.shadow, Engine.ctx, tget_tput, State.ctx]

theorem State.fixedOn_begun (s : State) (n c : Nat) : (s.begun n c).fixedOn n = s.fixedOn n := State.fixedOn_setEng s n ((s.eng n).fresh c) rfl rfl

theorem State.ran_begun {s : State} {n c : Nat} (h : Calm s n c) (x : Ctx) (k : Nat) (l : List Bool) (u : Nat) :
    (s.begun n c).ran n x k l u = (s.ran n x k l u).begun n c := by
  unfold State.begun
  rw [State.ran_eng]
  refine State.ran_setEng (s := s) (n := n) (e := (s.eng n).fresh c) rfl rfl rfl rfl ?_ x k l u
  simp [State.sealedNow, State.setEng_eng, Engine.fresh, Engine.setCtx, h.run, State.ctx, Engine.ctx, tget_tput]

/-- A bundle that nothing stops, in a calm state. -/
theorem State.engCommit_run {s : State} {n c : Nat} {b : Bundle} (h : Calm s n c) (hf : s.fetchFault n (s.ctx n c) b.words = none)
    (hi : b.illegal = false) (hbr : (sysOps b.acts).contains .brk = false) (hfp : (sysOps b.acts).contains .fpbar = false) (ht : b.fault = none) :
    s.engCommit n b = (s.begun n c).engRun n b := by
  have hx : s.cur n = s.ctx n c := State.cur_calm h
  have hil : (s.ctx n c).illegal b = false := by simp [Ctx.illegal, hi, h.ending]
  have hs : (s.setEng n { s.eng n with bundle := {}, step := false }).setCur n (s.ctx n c) = s.begun n c := by
    simp [State.setCur, h.mc, h.run, h.shadow, State.begun, Engine.fresh, State.ctx]
  have h1 : s.trapDue n = false := by simp [State.trapDue, hx, h.trap]
  have h2 : (s.begun n c).trapDue n = false := by simp [State.trapDue, State.cur_fresh h, h.trap]
  simp only [State.engCommit, h1, hx, hf, h.rpt, hil, hbr, hfp, ht]
  simp only [Option.isSome_none, Bool.false_and, Bool.false_eq_true, if_false, hs, h2]
  rfl

/-- The engine and the context after a bundle that is done. -/
theorem State.done_calm {s1 : State} {n c : Nat} {x y : Ctx} {b : Bundle} {j : Option Word} (e1 : (s1.eng n).mc = false) (e2 : (s1.eng n).run = some c)
    (e3 : (s1.eng n).shadowIn = false) (e4 : (s1.eng n).bundle = {}) (e5 : (s1.eng n).step = false) (e6 : (s1.eng n).ctx c = x) (he : x.ending = []) :
    (s1.countDown n x b j).setCur n y = s1.setEng n ((s1.eng n).after c y b.cond j.isSome) := by
  have hz : x.tests.length = 0 := by rw [Ctx.tests_calm he]; rfl
  simp only [State.countDown, hz, Nat.sub_zero]
  generalize hE : ({ s1.eng n with pbar := (s1.eng n).pbar - b.cond, dint := (s1.eng n).dint.map (· - 1) } : Engine) = E
  obtain ⟨k1, k2, k3, k4⟩ := E.track_keeps x j.isSome
  have h1 : (E.track x j.isSome).mc = false := by rw [k1, ← hE]; exact e1
  have h2 : (E.track x j.isSome).run = some c := by rw [k2, ← hE]; exact e2
  have h3 : (E.track x j.isSome).shadowIn = false := by rw [k3, ← hE]; exact e3
  simp only [State.setCur, State.setEng_eng, h1, h2, h3, State.setEng_setEng, Bool.false_eq_true, if_false]
  have hE' : ({ s1.eng n with bundle := {}, step := false, pbar := (s1.eng n).pbar - b.cond, dint := (s1.eng n).dint.map (· - 1) } : Engine) = E := by
    rw [← hE, ← e4, ← e5]
  simp only [Engine.after, hE', e6]

theorem Engine.after_fresh (e : Engine) (c : Nat) (y : Ctx) (cond : Nat) (t : Bool) : (e.fresh c).after c y cond t = e.after c y cond t := by
  have h : (e.fresh c).ctx c = e.ctx c := Engine.setCtx_ctx _ _ _
  simp only [Engine.after, h]
  have : ({ e.fresh c with bundle := {}, step := false, pbar := (e.fresh c).pbar - cond, dint := (e.fresh c).dint.map (· - 1) } : Engine)
      = ({ e with bundle := {}, step := false, pbar := e.pbar - cond, dint := e.dint.map (· - 1) } : Engine).setCtx c (e.ctx c) := rfl
  rw [this, Engine.track_setCtx, Engine.setCtx_setCtx]

/-- A bundle of light acts that nothing stops, in a calm state. -/
theorem State.engCommit_calm {s : State} {n c : Nat} {b : Bundle} (h : Calm s n c) (hf : s.fetchFault n (s.ctx n c) b.words = none)
    (hi : b.illegal = false) (ha : b.acts.all Act.light = true) (hp : b.fp = true → (s.eng n).fpOwner = some c) (ht : b.fault = none) :
    s.engCommit n b = some (s.passes n c b.words (List.replicate b.cond false) ((s.eng n).done c
      { ((s.ctx n c).acted (s.fixedOn n) b.words b.acts) with pc := (s.ctx n c).pc + w32 (4 * b.words) } b.cond)) := by
  rw [State.engCommit_run h hf hi (by rw [light_sys ha]; rfl) (by rw [light_sys ha]; rfl) ht]
  have hb := s.begun_eng n c
  have hq : (s.begun n c).engPrep n b = some (s.begun n c) :=
    State.engPrep_light (by rw [hb]; exact h.mc) (by rw [hb]; exact h.run) (light_routine ha) (by rw [hb]; exact hp)
  simp only [State.engRun, hq, State.gatherDone_light _ _ _ ha, State.cur_fresh h]
  rw [State.engApply_light (by rw [hb]; exact h.stbuf) ha, State.ran_begun h, Ctx.applied_calm h.pend h.rpt h.ending, Ctx.nextPc_calm h.rpt h.ending,
    State.fixedOn_begun, Ctx.setRoutine_none (Ctx.acted_routine h.routine _ _ _)]
  have hr : ((s.ran n (s.ctx n c) b.words (List.replicate b.cond false) 0).begun n c).eng n = (s.eng n).fresh c := by
    rw [State.begun_eng, State.ran_eng]
  rw [State.done_calm (by rw [hr]; exact h.mc) (by rw [hr]; exact h.run) (by rw [hr]; exact h.shadow) (by rw [hr]; rfl) (by rw [hr]; rfl)
    (by rw [hr]; exact Engine.setCtx_ctx _ _ _) h.ending, hr, Engine.after_fresh]
  simp only [State.begun, State.setEng_setEng]
  rfl

/-- An operation that makes a bundle on its own. -/
def Op.fits (o : Op) : Bool :=
  !o.bad && decide (o.sN ≤ 2) && decide (o.mN ≤ 1) && decide (o.vN ≤ 1) && noDup o.writes && !(o.store && o.vmem)

theorem State.opCtx_calm {s : State} {n c : Nat} {o : Op} (h : Calm s n c) (hp : o.fp = true → (s.eng n).fpOwner = some c) :
    s.opReady n o = s ∧ s.opCtx n o = s.ctx n c := by
  have hx : s.cur n = s.ctx n c := State.cur_calm h
  have hr : s.opReady n o = s := by simp [State.opReady, hx, h.longs]
  refine ⟨hr, ?_⟩
  simp only [State.opCtx, hr, hx, h.longs, List.any_nil, Bool.false_eq_true, if_false]
  cases ho : o.fp with
  | false => rfl
  | true => simp only [State.withFp, h.mc, h.run, State.fpFile, hp ho, if_true, beq_self_eq_true]

/-- Nothing is under way before an operation of a calm engine. -/
theorem State.opStart_calm {s : State} {n c : Nat} (h : Calm s n c) : s.opStart n = s := by
  have hx : s.cur n = s.ctx n c := State.cur_calm h
  have h1 : s.finishRoutine n = s := by simp only [State.finishRoutine, hx, h.routine]
  simp [State.opStart, h1, hx, h.stbuf, h.pend, h.longs]

/-- The owner of the FP file takes no micro-trap. -/
theorem State.asMicro_calm {s : State} {n c : Nat} {o : Op} (h : Calm s n c) (hp : o.fp = true → (s.eng n).fpOwner = some c) : s.asMicro n o = o := by
  cases ho : o.fp with
  | false => simp [State.asMicro, ho]
  | true => simp [State.asMicro, hp ho, h.run]

/-- One operation in a calm state, with no suspended routine that it would wait for, is one bundle. -/
theorem State.engOp_commit' {s : State} {n c : Nat} {w : At} {o : Op} {f : Meaning} (h : Calm s n c) (hw : w.more = false)
    (hp : o.fp = true → (s.eng n).fpOwner = some c) (hs : ((f s (s.ctx n c)).2.2.eng n).bundle = {}) :
    s.engOp n w o f =
      ((f s (s.ctx n c)).2.2.engCommit n (({} : Bundle).add w o (o.only == 2) (f s (s.ctx n c)).1 (f s (s.ctx n c)).2.1)).getD s := by
  have hx : s.cur n = s.ctx n c := State.cur_calm h
  obtain ⟨h1, h2⟩ := State.opCtx_calm (o := o) h hp
  have ht : s.trapDue n = false := by simp [State.trapDue, hx, h.trap]
  have hq : s.opWaits n o = false := by simp [State.opWaits, h.micros, hx, h.micro]
  simp only [State.engOp, h.runs, State.opStart_calm h, State.asMicro_calm h hp, State.engOpOn, hq, h1, h2, ht, h.rpt]
  simp only [State.opAdd, hw, Bool.not_true, Bool.false_eq_true, if_false]
  rw [show ((none : Option Nat) == some 0) = false from rfl]
  simp only [Bool.false_eq_true, if_false, hs]
  cases State.engCommit _ n _ <;> rfl

theorem State.engOp_commit {s : State} {n c : Nat} {w : At} {o : Op} {f : Meaning} (h : Calm s n c) (hw : w.more = false)
    (hp : o.fp = true → (s.eng n).fpOwner = some c) (hs : (f s (s.ctx n c)).2.2 = s) :
    s.engOp n w o f = (s.engCommit n (({} : Bundle).add w o (o.only == 2) (f s (s.ctx n c)).1 (f s (s.ctx n c)).2.1)).getD s := by
  have := State.engOp_commit' (f := f) h hw hp (by rw [hs]; exact h.bundle)
  rw [hs] at this
  exact this

theorem Op.fits_legal {o : Op} {w : At} {only : Bool} {flt : Option (Nat × Word)} {acts : List Act} (h : o.fits = true) (h8 : only = false)
    (hk : w.words ≤ 1 ∨ (w.words ≤ 2 ∧ o.ext = true)) : (({} : Bundle).add w o only flt acts).illegal = false := by
  simp only [Op.fits, Bool.and_eq_true, Bool.not_eq_true', decide_eq_true_eq] at h
  obtain ⟨⟨⟨⟨⟨h1, h2⟩, h3⟩, h4⟩, h5⟩, h6⟩ := h
  have h9 : b2n o.ctl ≤ 1 := by cases o.ctl <;> decide
  have h10 : noDup o.writes = true := by simpa using h5
  have h11 : (decide (1 < w.words) && !o.ext) = false := by
    rcases hk with hk | hk
    · simp; omega
    · simp [hk.2]
  simp only [Bundle.illegal, Bundle.add, h1, h8, h11, Nat.zero_add, List.nil_append, h10, Bool.false_or, Bool.or_false]
  simp
  exact ⟨⟨⟨⟨⟨h2, h3⟩, h4⟩, h9⟩, by cases hs : o.store <;> simp_all⟩, by omega⟩

/-- An operation of light acts that draws free values. -/
theorem State.engOp_free {s : State} {n c m : Nat} {w : At} {o : Op} {f : Meaning} {acts : List Act} (h : Calm s n c) (hw : w.more = false)
    (hk : w.words ≤ 1 ∨ (w.words ≤ 2 ∧ o.ext = true))
    (hff : s.fetchFault n (s.ctx n c) w.words = none) (ho : o.fits = true) (h1 : o.only ≠ 2) (hp : o.fp = true → (s.eng n).fpOwner = some c)
    (hf : f s (s.ctx n c) = (none, acts, { s with free := m })) (ha : acts.all Act.light = true) :
    s.engOp n w o f = ({ s with free := m } : State).passes n c w.words (List.replicate (b2n o.cond) false) ((s.eng n).done c
      { ((s.ctx n c).acted (s.fixedOn n) w.words acts) with pc := (s.ctx n c).pc + w32 (4 * w.words) } (b2n o.cond)) := by
  rw [State.engOp_commit' h hw hp (by rw [hf]; exact h.bundle), hf]
  show ((({ s with free := m } : State).engCommit n (({} : Bundle).add w o (o.only == 2) none acts)).getD s) = _
  have hb : (({} : Bundle).add w o (o.only == 2) none acts).words = w.words := by simp [Bundle.add]
  have hfp : (({} : Bundle).add w o (o.only == 2) none acts).fp = o.fp := by simp [Bundle.add]
  have hc : Calm ({ s with free := m } : State) n c := h.of_eq rfl rfl
  rw [State.engCommit_calm hc (b := ({} : Bundle).add w o (o.only == 2) none acts) (by rw [hb]; exact hff) (Op.fits_legal ho (by simpa using h1) hk)
    (by simpa [Bundle.add] using ha) (by rw [hfp]; exact hp) rfl]
  simp only [Bundle.add, Option.getD_some, Nat.zero_add, List.nil_append]
  rfl

/-- An operation of light acts in a calm state. -/
theorem State.engOp_light {s : State} {n c : Nat} {w : At} {o : Op} {f : Meaning} {acts : List Act} (h : Calm s n c) (hw : w.more = false)
    (hk : w.words ≤ 1 ∨ (w.words ≤ 2 ∧ o.ext = true))
    (hff : s.fetchFault n (s.ctx n c) w.words = none) (ho : o.fits = true) (h1 : o.only ≠ 2) (hp : o.fp = true → (s.eng n).fpOwner = some c)
    (hf : f s (s.ctx n c) = (none, acts, s)) (ha : acts.all Act.light = true) :
    s.engOp n w o f = s.passes n c w.words (List.replicate (b2n o.cond) false) ((s.eng n).done c
      { ((s.ctx n c).acted (s.fixedOn n) w.words acts) with pc := (s.ctx n c).pc + w32 (4 * w.words) } (b2n o.cond)) :=
  State.engOp_free (m := s.free) h hw hk hff ho h1 hp hf ha

@[simp] theorem State.setHc_hc (s : State) (h : Nat) (x : Harbour) : (s.setHc h x).hc h = x := tget_tput _ _ _ _
@[simp] theorem State.setHc_setHc (s : State) (h : Nat) (x y : Harbour) : (s.setHc h x).setHc h y = s.setHc h y := by
  simp only [State.setHc, tput_tput]

theorem hcMems_light (h : Nat) (fall : Word) : ∀ (l : List Act) (s : State) (x : Ctx) (j : Option Word), l.all Act.light = true →
    l.foldl (fun (t : State × Ctx × Option Word) a =>
        let (s', x', j') := t.1.hcMem h fall t.2.1 a
        (s', x', if j'.isSome then j' else t.2.2)) (s, x, j) = (s, x, j)
  | [], _, _, _, _ => rfl
  | a :: t, s, x, j, ha => by
    simp only [List.all_cons, Bool.and_eq_true] at ha
    rw [List.foldl_cons]
    have hm : s.hcMem h fall x a = (s, x, none) := by
      cases a <;> first | (cases ha.1; done) | rfl
    simp only [hm]
    exact hcMems_light h fall t s x j ha.2

theorem State.hcOp_light {s : State} {h : Nat} {w : At} {o : Op} {f : Meaning} {acts : List Act} (hc : HcCalm s h) (hw : w.more = false)
    (hk : w.words = 1 ∨ (w.words = 2 ∧ o.ext = true)) (ht : s.inTask h (s.hc h).pc.toNat (4 * w.words) = true) (ho : o.fits = true) (h1 : o.only ≠ 1)
    (hf : f s (s.hcCur h) = (none, acts, s)) (ha : acts.all Act.light = true) :
    s.hcOp h w o f = s.setHc h ((s.hc h).done ((s.hcCur h).acted true w.words acts).regs w.words) := by
  have hi : (({} : Bundle).add w o (o.only == 1) none acts).illegal = false := Op.fits_legal ho (by simpa using h1) (hk.imp (fun e => by omega) (fun e => ⟨by omega, e.2⟩))
  simp only [State.hcOp, hc.runs, hf, hw, hc.bundle]
  simp only [Bool.not_true, Bool.false_eq_true, if_false, State.hcCommit, hi]
  have hform : (((({} : Bundle).add w o (o.only == 1) none acts).ops == 1 && ((({} : Bundle).add w o (o.only == 1) none acts).words == 1 || (({} : Bundle).add w o (o.only == 1) none acts).words == 2)) || ((({} : Bundle).add w o (o.only == 1) none acts).ops == 2 && (({} : Bundle).add w o (o.only == 1) none acts).words == 1)) = true := by
    simp [Bundle.add]; omega
  have hwd : (({} : Bundle).add w o (o.only == 1) none acts).words = w.words := by simp [Bundle.add]
  have hac : (({} : Bundle).add w o (o.only == 1) none acts).acts = acts := by simp [Bundle.add]
  have hft : (({} : Bundle).add w o (o.only == 1) none acts).fault = none := rfl
  have hpc : (s.hcCur h).pc = (s.hc h).pc := rfl
  rw [hform, hwd, hac, hft, hpc, ht]
  simp only [Bool.not_true, Bool.or_false, Bool.false_eq_true, if_false, light_sys ha, List.foldl_nil]
  rw [hcMems_light _ _ _ _ _ _ ha]
  simp only [State.setHc_hc, State.setHc_setHc]
  rfl

/-- Acts of a taken branch: light ones, then the jump. -/
theorem State.engMems_jump (n : Nat) (fixed : Bool) (next t : Word) : ∀ (l : List Act) (s : State) (x : Ctx) (j : Option Word),
    l.all Act.light = true → s.engMems n fixed next x j (l ++ [.jump t]) = some (s, x, some t)
  | [], _, _, _, _ => rfl
  | a :: l, s, x, j, h => by
    simp only [List.all_cons, Bool.and_eq_true] at h
    have hm : s.engMem n fixed next x a = some (s, x, none) := by
      cases a <;> first | (cases h.1; done) | rfl
    rw [List.cons_append]
    unfold State.engMems
    rw [hm]
    exact State.engMems_jump n fixed next t l s x j h.2

theorem jump_sys (l : List Act) (t : Word) (h : l.all Act.light = true) : sysOps (l ++ [.jump t]) = [] := by
  have := light_sys h
  simp only [sysOps, List.flatMap_append] at this ⊢
  rw [this]; rfl

theorem jump_routine (l : List Act) (t : Word) (h : l.all Act.light = true) : routineOf (l ++ [.jump t]) = none := by
  have := light_routine h
  simp only [routineOf, List.findSome?_append] at this ⊢
  rw [this]; rfl

theorem jump_serial (l : List Act) (t : Word) (h : l.all Act.light = true) : hasSerial (l ++ [.jump t]) = false := by
  have := light_serial h
  simp only [hasSerial, List.any_append] at this ⊢
  rw [this]; rfl

theorem jump_gather (l : List Act) (t : Word) (h : l.all Act.light = true) : gatherOf (l ++ [.jump t]) = none := by
  have := light_gather h
  simp only [gatherOf, List.findSome?_append] at this ⊢
  rw [this]; rfl

theorem jump_splits (l : List Act) (t : Word) (h : l.all Act.light = true) : splits (l ++ [.jump t]) = 0 := by
  have := light_splits h
  simp only [splits, List.length_eq_zero_iff, List.filter_append] at this ⊢
  rw [this]; rfl

theorem jump_jumps (l : List Act) (t : Word) : jumps (l ++ [.jump t]) = true := by
  simp [jumps]

/-- An operation in a calm state whose acts reach memory or jump; `t0` is the state its memory acts find. -/
theorem State.engOp_mem {s s1 : State} {n c : Nat} {w : At} {o : Op} {f : Meaning} {l : List Act} {y : Ctx} {j : Option Word} (h : Calm s n c) (hw : w.more = false)
    (hk : w.words ≤ 1 ∨ (w.words ≤ 2 ∧ o.ext = true))
    (hff : s.fetchFault n (s.ctx n c) w.words = none) (ho : o.fits = true) (h1 : o.only ≠ 2) (hp : o.fp = false)
    (hf : f s (s.ctx n c) = (none, l, s)) (hy : sysOps l = []) (hh : routineOf l = none) (hg : gatherOf l = none) (hz : hasSerial l = false)
    (hm : ((s.ran n (s.ctx n c) w.words (List.replicate (b2n o.cond) (jumps l)) (splits l)).begun n c).engMems n (s.fixedOn n)
      ((s.ctx n c).pc + w32 (4 * w.words)) ((s.ctx n c).acted (s.fixedOn n) w.words l) none l = some (s1, y, j))
    (e1 : (s1.eng n).mc = false) (e2 : (s1.eng n).run = some c) (e3 : (s1.eng n).shadowIn = false)
    (e4 : (s1.eng n).bundle = {}) (e5 : (s1.eng n).step = false) (e6 : (s1.eng n).ctx c = s.ctx n c) (hyr : y.routine = none) :
    s.engOp n w o f = s1.setEng n (match (generalizing := false) j with
      | some t => (s1.eng n).after c { y with pc := t } (b2n o.cond) true
      | none => (s1.eng n).done c { y with pc := (s.ctx n c).pc + w32 (4 * w.words) } (b2n o.cond)) := by
  rw [State.engOp_commit h hw (by simp [hp]) (by rw [hf]), hf]
  have hil := Op.fits_legal (w := w) (only := o.only == 2) (flt := none) (acts := l) ho (by simpa using h1) hk
  generalize hb : ({} : Bundle).add w o (o.only == 2) none l = b at hil
  have hba : b.acts = l := by rw [← hb]; simp [Bundle.add]
  have hbw : b.words = w.words := by rw [← hb]; simp [Bundle.add]
  have hbf : b.fp = false := by rw [← hb]; simp [Bundle.add, hp]
  have hbc : b.cond = b2n o.cond := by rw [← hb]; simp [Bundle.add]
  have hbt : b.fault = none := by rw [← hb]; rfl
  rw [State.engCommit_run h (by rw [hbw]; exact hff) hil (by rw [hba, hy]; rfl) (by rw [hba, hy]; rfl) hbt]
  have hb0 := s.begun_eng n c
  have hprep : (s.begun n c).engPrep n b = some (s.begun n c) :=
    State.engPrep_light (by rw [hb0]; exact h.mc) (by rw [hb0]; exact h.run) (by rw [hba]; exact hh) (by simp [hbf])
  simp only [State.engRun, hprep, State.cur_fresh h, State.gatherDone, hba, hg]
  have hbb : ({ b with acts := l } : Bundle) = b := by rw [← hba]
  rw [hbb]
  simp only [State.engApply, hba, hbw, hbc, State.ran_begun h]
  rw [State.preMem_light (by rw [State.begun_eng, State.ran_eng]; exact h.stbuf) (by rw [hba]; exact hz), Ctx.applied_calm h.pend h.rpt h.ending, State.fixedOn_begun]
  simp only [hba, hbw, Ctx.fall, hm]
  simp only [State.started, hh, Option.map_none, State.engSyss, hy, List.foldl_nil, Ctx.setRoutine_none hyr, Option.getD_some]
  rw [State.done_calm e1 e2 e3 e4 e5 e6 h.ending, hbc]
  cases j with
  | none => simp only [Option.isSome_none, Ctx.nextPc_calm h.rpt h.ending, hbw, Engine.done]
  | some t => simp only [Option.isSome_some, Ctx.nextPc]

/-- A taken branch in a calm state. -/
theorem State.engOp_jump {s : State} {n c : Nat} {w : At} {o : Op} {f : Meaning} {l : List Act} {t : Word} (h : Calm s n c) (hw : w.more = false)
    (hk : w.words ≤ 1 ∨ (w.words ≤ 2 ∧ o.ext = true))
    (hff : s.fetchFault n (s.ctx n c) w.words = none) (ho : o.fits = true) (h1 : o.only ≠ 2) (hp : o.fp = false)
    (hf : f s (s.ctx n c) = (none, l ++ [.jump t], s)) (ha : l.all Act.light = true) :
    s.engOp n w o f = s.passes n c w.words (List.replicate (b2n o.cond) true)
      ((s.eng n).after c { ((s.ctx n c).acted (s.fixedOn n) w.words (l ++ [.jump t])) with pc := t } (b2n o.cond) true) := by
  have hr : ((s.ran n (s.ctx n c) w.words (List.replicate (b2n o.cond) true) 0).begun n c).eng n = (s.eng n).fresh c := by
    rw [State.begun_eng, State.ran_eng]
  have := State.engOp_mem (l := l ++ [.jump t]) (j := some t) (y := (s.ctx n c).acted (s.fixedOn n) w.words (l ++ [.jump t]))
    (s1 := (s.ran n (s.ctx n c) w.words (List.replicate (b2n o.cond) true) 0).begun n c) h hw hk hff ho h1 hp hf
    (jump_sys _ _ ha) (jump_routine _ _ ha) (jump_gather _ _ ha) (jump_serial _ _ ha)
    (by rw [jump_jumps, jump_splits _ _ ha]; exact State.engMems_jump _ _ _ _ _ _ _ _ ha)
    (by rw [hr]; exact h.mc) (by rw [hr]; exact h.run) (by rw [hr]; exact h.shadow) (by rw [hr]; rfl) (by rw [hr]; rfl)
    (by rw [hr]; exact Engine.setCtx_ctx _ _ _) (Ctx.acted_routine h.routine _ _ _)
  rw [this, hr]
  simp only [Engine.after_fresh, State.begun, State.setEng_setEng]
  rfl

theorem hcMems_jump (h : Nat) (fall t : Word) : ∀ (l : List Act) (s : State) (x : Ctx) (j : Option Word), l.all Act.light = true →
    (l ++ [Act.jump t]).foldl (fun (t : State × Ctx × Option Word) a =>
        let (s', x', j') := t.1.hcMem h fall t.2.1 a
        (s', x', if j'.isSome then j' else t.2.2)) (s, x, j) = (s, x, some t)
  | [], _, _, _, _ => rfl
  | a :: l, s, x, j, ha => by
    simp only [List.all_cons, Bool.and_eq_true] at ha
    rw [List.cons_append, List.foldl_cons]
    have hm : s.hcMem h fall x a = (s, x, none) := by
      cases a <;> first | (cases ha.1; done) | rfl
    simp only [hm]
    exact hcMems_jump h fall t l s x j ha.2

theorem State.hcOp_jump {s : State} {h : Nat} {w : At} {o : Op} {f : Meaning} {l : List Act} {t : Word} (hc : HcCalm s h) (hw : w.more = false)
    (hk : w.words = 1 ∨ (w.words = 2 ∧ o.ext = true)) (ht : s.inTask h (s.hc h).pc.toNat (4 * w.words) = true) (ho : o.fits = true) (h1 : o.only ≠ 1)
    (hf : f s (s.hcCur h) = (none, l ++ [.jump t], s)) (ha : l.all Act.light = true) :
    s.hcOp h w o f = s.setHc h { (s.hc h).done ((s.hcCur h).acted true w.words (l ++ [.jump t])).regs w.words with pc := t } := by
  have hi : (({} : Bundle).add w o (o.only == 1) none (l ++ [.jump t])).illegal = false := Op.fits_legal ho (by simpa using h1) (hk.imp (fun e => by omega) (fun e => ⟨by omega, e.2⟩))
  simp only [State.hcOp, hc.runs, hf, hw, hc.bundle]
  simp only [Bool.not_true, Bool.false_eq_true, if_false, State.hcCommit, hi]
  generalize hb : ({} : Bundle).add w o (o.only == 1) none (l ++ [.jump t]) = b
  have hform : ((b.ops == 1 && (b.words == 1 || b.words == 2)) || (b.ops == 2 && b.words == 1)) = true := by
    rw [← hb]; simp [Bundle.add]; omega
  have hwd : b.words = w.words := by rw [← hb]; simp [Bundle.add]
  have hac : b.acts = l ++ [.jump t] := by rw [← hb]; simp [Bundle.add]
  have hft : b.fault = none := by rw [← hb]; rfl
  have hpc : (s.hcCur h).pc = (s.hc h).pc := rfl
  rw [hform, hwd, hac, hft, hpc, ht]
  simp only [Bool.not_true, Bool.or_false, Bool.false_eq_true, if_false, jump_sys _ _ ha, List.foldl_nil]
  rw [hcMems_jump _ _ _ _ _ _ _ ha]
  simp only [State.setHc_hc, State.setHc_setHc]
  rfl

/-! Operations whose acts follow from the registers and need no memory, on either core. -/

/-- What a pure operation does on a calm engine. -/
theorem OnEngineIn.of_pure {m : Nat} {mk : At → Instr} {o : Op} {g : Ctx → List Act} {f : Bool → Ctx → Ctx} {cond : Nat}
    (he : ∀ n k s, exec (mk { core := .engine n, more := false, words := k }) s = .next (s.pureOp { core := .engine n, more := false, words := k } o g))
    (hm : m ≤ 1 ∨ (m ≤ 2 ∧ o.ext = true))
    (ho : o.fits = true) (h1 : o.only ≠ 2) (h2 : o.fp = false) (h3 : b2n o.cond = cond) (hl : ∀ x, (g x).all Act.light = true)
    (hf : ∀ (x : Ctx) fixed k, x.pend = [] → x.longs = [] → { (x.acted fixed k (g x)) with pc := x.pc + w32 (4 * k) } = (f fixed x).past k) :
    OnEngineIn m mk cond f := by
  intro s n c k hc hk hff
  rw [he, ← hf _ _ _ hc.pend hc.longs, ← h3]
  have hk' : k ≤ 1 ∨ (k ≤ 2 ∧ o.ext = true) := by
    rcases hm with hm | ⟨hm, hx⟩
    · left; omega
    · right; exact ⟨by omega, hx⟩
  exact congrArg Host.Outcome.next (State.engOp_light (f := fun s x => (none, g x, s)) (acts := g (s.ctx n c)) hc rfl hk' hff ho h1 (by simp [h2]) rfl (hl _))

/-- The same for an operation on FP registers. -/
theorem OnFpOwner.of_pure {mk : At → Instr} {o : Op} {g : Ctx → List Act} {f : Bool → Ctx → Ctx}
    (he : ∀ n k s, exec (mk { core := .engine n, more := false, words := k }) s = .next (s.pureOp { core := .engine n, more := false, words := k } o g))
    (ho : o.fits = true) (h1 : o.only ≠ 2) (h3 : b2n o.cond = 0) (hl : ∀ x, (g x).all Act.light = true)
    (hf : ∀ (x : Ctx) fixed k, x.pend = [] → x.longs = [] → { (x.acted fixed k (g x)) with pc := x.pc + w32 (4 * k) } = (f fixed x).past k) :
    OnFpOwner mk f := by
  intro s n c k hc hown hk hff
  rw [he, ← hf _ _ _ hc.pend hc.longs]
  have := State.engOp_light (f := fun s x => (none, g x, s)) (acts := g (s.ctx n c)) (w := { core := .engine n, more := false, words := k }) hc rfl (.inl hk) hff ho h1 (fun _ => hown) rfl (hl _)
  rw [h3] at this
  exact congrArg Host.Outcome.next this

/-- The same on a harbour pair. -/
theorem OnHarbourIn.of_pure {m : Nat} {mk : At → Instr} {o : Op} {g : Ctx → List Act} {f : Ctx → Ctx}
    (he : ∀ h k s, exec (mk { core := .harbour h, more := false, words := k }) s = .next (s.pureOp { core := .harbour h, more := false, words := k } o g))
    (hm : m ≤ 1 ∨ (m ≤ 2 ∧ o.ext = true)) (ho : o.fits = true) (h1 : o.only ≠ 1) (hl : ∀ x, (g x).all Act.light = true)
    (hf : ∀ (x : Ctx) k, x.pend = [] → x.longs = [] → (x.acted true k (g x)).regs = (f x).regs) :
    OnHarbourIn m mk f := by
  intro s h k hc hk0 hk ht
  rw [he, ← hf (s.hcCur h) k rfl rfl]
  have hk' : k = 1 ∨ (k = 2 ∧ o.ext = true) := by
    rcases hm with hm | ⟨hm, hx⟩
    · left; omega
    · rcases Nat.lt_or_ge k 2 with h2 | h2
      · left; omega
      · right; exact ⟨by omega, hx⟩
  exact congrArg Host.Outcome.next (State.hcOp_light (f := fun s x => (none, g x, s)) (acts := g (s.hcCur h)) hc rfl hk' ht ho h1 rfl (hl _))

end Sys2Proof.Machine
end

