-- ==== Sys2Proof/WellFormed.lean ====
section
/-! DEFINITION. Well-formed commands: operands within the bounds that their types do not say. An encoding that the manual
calls reserved or ILLEGAL is well-formed: its meaning is the fault the manual gives. -/
namespace Sys2Proof

/-- An operation adds at most its own word and an extension word to its bundle (08 R222). -/
def At.wf (w : At) : Bool := decide (w.words ≤ 2)

/-- A post-increment fits its signed 9-bit field (08 R226). -/
def Addr.wf : Addr → Bool
  | .postInc _ k => decide (-256 ≤ k.toInt) && decide (k.toInt < 256)
  | _ => true

/-- An immediate count fits a field of n bits (08 R232, R235). -/
def Count.wf (n : Nat) : Count → Bool
  | .imm k => decide (k < 2 ^ n)
  | .reg _ => true

/-- An MSI-capable access of the host: 4 or 8 bytes (14 R383). -/
def sizeWf (size : Nat) : Bool := size == 4 || size == 8

/-- DFE codes of the twelve taps (11 R320). -/
def EqCodes.wf (c : EqCodes) : Bool := c.dfe.length == 12

/-- The seal field of a Stream block (03 R63). -/
def fieldWf (field : List Byte) : Bool := field.length == 32

/-- The command is well-formed; the wildcard stands for commands whose operands their types bound. -/
def Instr.wf (i : Instr) : Bool :=
  match i with
  | .registerWrite _ size _ => sizeWf size
  | .eqSnapshot _ c => c.wf
  | .sealBlockRx _ _ _ field => fieldWf field
  | .loop w _ c d => w.wf && c.wf 10 && decide (0 < d.val)
  | .rpt w c => w.wf && c.wf 8
  | .ldB w _ a | .ldBu w _ a | .ldH w _ a | .ldHu w _ a | .ldW w _ a | .ldD w _ a => w.wf && a.wf
  | .stB w _ a | .stH w _ a | .stW w _ a | .stD w _ a => w.wf && a.wf
  | .vldQ w _ a | .vstQ w _ a => w.wf && a.wf
  | .nop w | .add w .. | .sub w .. | .and w .. | .or w .. | .xor w .. | .andn w .. | .sll w .. | .srl w .. | .sra w .. => w.wf
  | .ror w .. | .rol w .. | .slt w .. | .sltu w .. | .min w .. | .max w .. | .minu w .. | .maxu w .. | .adds w .. => w.wf
  | .subs w .. | .neg w .. | .negs w .. | .abs w .. | .abss w .. | .addc w .. | .subc w .. | .clz w .. | .popc w .. => w.wf
  | .brev w .. | .bswap w .. | .addi w .. | .andi w .. | .ori w .. | .xori w .. | .slti w .. | .sltiu w .. | .slli w .. => w.wf
  | .srli w .. | .srai w .. | .rori w .. | .li w .. | .mov w .. | .div w .. | .divu w .. | .rem w .. | .remu w .. => w.wf
  | .mvs w .. | .mvts w .. | .estclr w | .beq w .. | .bne w .. | .blt w .. | .bge w .. | .bltu w .. | .bgeu w .. => w.wf
  | .beqz w .. | .bnez w .. | .dbnz w .. | .j w .. | .call w .. | .callr w .. | .jr w .. | .ret w | .dint w | .eint w => w.wf
  | .swi w .. | .brk w | .syncW w | .iflush w | .pflush w | .pbar w .. | .dcwb w .. | .dcinv w .. | .reti w | .mret w => w.wf
  | .lclr w .. | .end_ w | .yield w | .fpbar w | .ecall w | .eret w | .wfi w | .csrr w .. | .csrw w .. => w.wf
  | .mcrd w .. | .mcwr w .. | .vgathH w .. | .savel w | .saveu w | .restl w | .restu w | .vaddH w .. | .vsubH w .. => w.wf
  | .vand w .. | .vor w .. | .vxor w .. | .vsllH w .. | .vsraH w .. | .vaddW w .. | .vsubW w .. | .vshuf w .. => w.wf
  | .vbcastH w .. | .vmacH w .. | .vmsuH w .. | .vmulH w .. | .vaclr w .. | .vacstH w .. | .vacstW w .. | .vmontH w .. => w.wf
  | .vbarrH w .. | .vmaddH w .. | .vmsubH w .. | .vnttL w .. | .vinttL w .. | .fadd w .. | .fsub w .. | .fmul w .. => w.wf
  | .fma w .. | .fmin w .. | .fmax w .. | .fdiv w .. | .fsqrt w .. | .fcvtWS w .. | .fcvtSW w .. | .fcmp w .. => w.wf
  | .vfadd w .. | .vfsub w .. | .vfmul w .. | .vfma w .. | .mul w .. | .mulh w .. | .mulhu w .. | .mvsf w .. => w.wf
  | .mvfs w .. | .mvsvW w .. | .mvvsW w .. | .mmulW w .. | .mredW w .. => w.wf
  | _ => true

end Sys2Proof
end

