-- ==== Sys2Proof/Tests/Slice0.lean ====
section
/-! SUPPORT. Tests: the checks of WellFormed refuse an ill-formed command each, a few results that the manual states, and, for the
statements with hypotheses, states and operands that meet them. -/
set_option maxRecDepth 100000
set_option Elab.async false

open Sys2Proof Sys2Proof.Machine Sys2Proof.Claims

namespace Sys2Proof.Tests

/-- An engine's operation of one word. -/
def at1 : At := { core := .engine 0, more := false, words := 1 }

theorem test_wf_words : (Instr.add { at1 with words := 3 } 1 2 3).wf = false := by decide
theorem test_wf_access_size : (Instr.registerWrite 0 2 0).wf = false := by decide
theorem test_wf_dfe_taps : (Instr.eqSnapshot 0 { ctle := 0, vga := 0, dfe := List.replicate 11 0 }).wf = false := by decide
theorem test_wf_seal_field : (Instr.sealBlockRx 0 0 { payload := [] } (List.replicate 31 0)).wf = false := by decide
theorem test_wf_loop_count : (Instr.loop at1 0 (.imm 1024) 1).wf = false := by decide
theorem test_wf_loop_end : (Instr.loop at1 0 (.imm 1023) 0).wf = false := by decide
theorem test_wf_repeat_count : (Instr.rpt at1 (.imm 256)).wf = false := by decide
theorem test_wf_increment : (Instr.ldW at1 1 (.postInc 2 256)).wf = false := by decide
theorem test_wf_decrement : (Instr.stW at1 1 (.postInc 2 (-257))).wf = false := by decide
theorem test_wf_accepts : (Instr.stW at1 1 (.postInc 2 (-256))).wf = true := by decide

/-- A lane's seal block of n slices. -/
def slices (n : Nat) : LaneBlock := { payload := List.replicate (3899392 * n) 0 }
theorem slices_length (n : Nat) : (slices n).payload.length = 3899392 * n := List.length_replicate
theorem slices_ne (n : Nat) (h : 0 < n) : (slices n).payload ≠ [] := by
  intro e
  have l := slices_length n
  rw [e] at l
  simp at l
  omega

/-- The result that an operation leaves in flight on engine 0, with its flags. -/
def left (i : Instr) (s : State) : List (Val × Nat) :=
  match exec i s with
  | .next t => (t.ctx 0 0).pend.map (fun p => (p.val, p.flags))
  | _ => []

/-- The long results under way on engine 0. -/
def under (i : Instr) (s : State) : List (Val × Nat) :=
  match exec i s with
  | .next t => (t.ctx 0 0).longs.map (fun p => (p.val, p.flags))
  | _ => []


/-- A context that runs in I-RAM, with D-RAM, shared memory and kiln register space in its data regions. -/
def ctx0 : Ctx := { Ctx.initial with
  st := 3, codeLimit := 0x8000, dataBase := [0, 0x10000, 0x100000, 0x08000000], dataLimit := [0x8000, 0x20000, 0x200000, 0x08010000],
  pc := 0x100, regs := { Regs.zero with s := (List.range 32).map (fun i => w32 (0x10100 + 16 * i)) } }

/-- An engine that runs that context, which owns the FP file. -/
def run0 : State :=
  (({ State.reset with engines := [(0, { Engine.initial with ctxs := [(0, ctx0)], run := some 0, fpOwner := some 0 })] }).setPst 1 1).setReg (pEng 0 + 0x104) 0

/-- That state with context 0, or the engine, changed. -/
def withX (f : Ctx → Ctx) : State := run0.setCtx 0 0 (f (run0.ctx 0 0))
def withE (f : Engine → Engine) : State := run0.setEng 0 (f (run0.eng 0))

/-- 08 R240: 0x80000000 divided by −1 gives 0x80000000 with OV. -/
theorem test_div_overflow :
    under (.div at1 3 1 2) (withX (fun x => (x.putS 1 0x80000000).putS 2 0xFFFFFFFF)) = [(.w 0x80000000, 1)] := by decide +kernel

/-- 08 R240: MULH of 0x80000000 by itself gives 0x40000000. -/
theorem test_mulh : left (.mulh at1 3 1 1) (withX (fun x => x.putS 1 0x80000000)) = [(.w 0x40000000, 0)] := by decide +kernel

/-- 09 R254's example: lanes 98304, −5 and 5 of acc2 shifted by 1 with rounding give 32767 with SAT, −2 and 3. -/
theorem test_vacst :
    left (.vacstH at1 6 2 1 true) (withX (fun x => { x with regs := { x.regs with acc := x.regs.acc.set 2 [98304, -5, 5, 0, 0, 0, 0, 0] } })) =
      [(.v 0x0003FFFE7FFF, 2)] := by decide +kernel

/-- 09's example under R258: 1000 times 1353 under q = 3329 gives 1306. -/
theorem test_vmont :
    left (.vmontH at1 6 1 (.reg 2)) (withX (fun x => { x with regs := { x.regs with vq := 0xF3010D01, v := (x.regs.v.set 1 1000).set 2 1353 } })) =
      [(.v 1306, 0)] := by decide +kernel

/-- 09 R276: the square root of the smallest number, inexact. -/
theorem test_fsqrt_least : fSqrt 0 1 = (0x1A3504F3, 128) := by decide +kernel

/-- A step of the empty machine is one nanosecond of MONO. -/
theorem test_idle_tick : (match step State.reset with | .next t => t.dev.mono | _ => 0) = State.reset.dev.mono + 1 := by decide +kernel

theorem calm_run0 : Calm run0 0 0 := by constructor <;> decide +kernel
theorem hcCalm_reset : HcCalm State.reset 0 := by constructor <;> decide +kernel

/-- The hypotheses of an operation of m words on either core: a calm engine and a calm pair. -/
def BothMet (m : Nat) : Prop :=
  (∃ (s : State) (n : Fin 192) (c : Nat), Calm s n c ∧ s.fetchFault n (s.ctx n c) m = none) ∧
  (∃ (s : State) (h : Fin 2), HcCalm s h ∧ s.inTask h (s.hc h).pc.toNat (4 * m) = true)

theorem bothMet1 : BothMet 1 := ⟨⟨run0, 0, 0, calm_run0, by decide +kernel⟩, ⟨State.reset, 0, hcCalm_reset, by decide +kernel⟩⟩
theorem bothMet2 : BothMet 2 := ⟨⟨run0, 0, 0, calm_run0, by decide +kernel⟩, ⟨State.reset, 0, hcCalm_reset, by decide +kernel⟩⟩

theorem meets_ScalarResults : BothMet 1 := bothMet1
theorem meets_ImmediateResults : BothMet 1 ∧ BothMet 2 := ⟨bothMet1, bothMet2⟩
theorem meets_SaturatingAndCarry : BothMet 1 := bothMet1
theorem meets_MultiplyDivideResults : BothMet 1 := bothMet1
theorem meets_BranchesAndJumps : BothMet 1 ∧ BothMet 2 := ⟨bothMet1, bothMet2⟩

theorem meets_SpecialRegisters : BothMet 1 ∧ (∃ (s : State) (n : Fin 192) (c : Nat), Calm s n c ∧ (s.eng n).fpOwner = some c ∧ s.fetchFault n (s.ctx n c) 1 = none) :=
  ⟨bothMet1, run0, 0, 0, calm_run0, by decide +kernel⟩

/-- A level whose end bundle is at the PC, with a count. -/
def atEnd (n : Word) : State := withX (fun x => { x with regs := { x.regs with loops := x.regs.loops.set 2 { active := true, count := n, start := 0x80, stop := 0x100, order := 0 } } })

/-- A bundle under RPT, with executions left. -/
def repeated (j : Nat) : State := withX (fun x => { x with rpt := some j })

theorem meets_Loops :
    (∃ (s : State) (n : Fin 192) (c : Nat), Calm s n c ∧ s.fetchFault n (s.ctx n c) 1 = none) ∧
    (∀ m : Word, m = 1 ∨ m = 2 → ∃ (s : State) (n : Fin 192) (c k lv : Nat) (l : LoopLv), l.count = m ∧ (s.ctx n c).regs.loops[lv]? = some l ∧ (s.ctx n c).ending = [lv] ∧
      Calm (s.setCtx n c { s.ctx n c with regs := { (s.ctx n c).regs with loops := [] } }) n c ∧ k ≤ 1 ∧ s.fetchFault n (s.ctx n c) k = none) ∧
    (∀ j : Nat, j = 0 ∨ j = 1 ∨ j = 2 → ∃ (s : State) (n : Fin 192) (c k : Nat), (s.ctx n c).rpt = some j ∧ Calm (s.setCtx n c { s.ctx n c with rpt := none }) n c ∧
      k ≤ 2 ∧
      s.fetchFault n (s.ctx n c) k = none) := by
  refine ⟨bothMet1.1, ?_, ?_⟩
  · rintro m (rfl | rfl)
    · exact ⟨atEnd 1, 0, 0, 1, 2, { active := true, count := 1, start := 0x80, stop := 0x100, order := 0 }, rfl, by decide +kernel, by decide +kernel,
    by constructor <;> decide +kernel, by decide +kernel⟩
    · exact ⟨atEnd 2, 0, 0, 1, 2, { active := true, count := 2, start := 0x80, stop := 0x100, order := 0 }, rfl, by decide +kernel, by decide +kernel,
    by constructor <;> decide +kernel, by decide +kernel⟩
  · rintro j (rfl | rfl | rfl)
    · exact ⟨repeated 0, 0, 0, 2, by decide +kernel, by constructor <;> decide +kernel, by decide +kernel⟩
    · exact ⟨repeated 1, 0, 0, 2, by decide +kernel, by constructor <;> decide +kernel, by decide +kernel⟩
    · exact ⟨repeated 2, 0, 0, 2, by decide +kernel, by constructor <;> decide +kernel, by decide +kernel⟩

/-- A load from D-RAM, one across an alignment boundary, one of a pair of registers in SRAM, and an indexed one. -/
theorem meets_LoadOperations :
    (∀ a : Addr, a = .disp 4 0 ∨ a = .disp 4 3 ∨ a = .postInc 4 16 → ∃ (s : State) (e : Fin 192) (c k : Nat), keepsOut [5, 6] a ∧ Calm s e c ∧ k = wordsOf a ∧
      s.fetchFault e (s.ctx e c) k = none ∧ s.engFault e (s.ctx e c) (addressOf (s.ctx e c) 8 a) 8 = none ∧
      (((s.ran e (s.ctx e c) k [] (splitOf (addressOf (s.ctx e c) 8 a) 8)).begun e c).engLoad e (addressOf (s.ctx e c) 8 a) 8).isSome = true) ∧
    (∃ (s : State) (h : Fin 2) (k : Nat) (a : Addr), keepsOut [5, 6] a ∧ HcCalm s h ∧ k = wordsOf a ∧ s.inTask h (s.hc h).pc.toNat (4 * k) = true ∧
      s.hcFault h (addressOf (s.hcCur h) 8 a) 8 false = none) := by
  refine ⟨?_, State.reset, 0, 2, .disp 4 0x1000, by trivial, hcCalm_reset, by decide +kernel⟩
  rintro a (rfl | rfl | rfl)
  · exact ⟨run0, 0, 0, 2, by trivial, calm_run0, by decide +kernel⟩
  · exact ⟨run0, 0, 0, 2, by trivial, calm_run0, by decide +kernel⟩
  · exact ⟨run0, 0, 0, 1, by unfold keepsOut; decide +kernel, calm_run0, by decide +kernel⟩

theorem meets_LoadedValues :
    (∃ (s : State) (e n : Nat) (a : Word), (s.eng e).stbuf = [] ∧ n ∈ [1, 2, 4, 8, 16] ∧ kilnSpace a.toNat = false ∧ ∀ p ∈ partsOf a.toNat n, cached p.1 = false) ∧
    (∃ (s : State) (e n : Nat) (a : Word), (s.eng e).stbuf = [] ∧ n ∈ [1, 2, 4, 8, 16] ∧ kilnSpace a.toNat = false ∧ s.fixedOn e = false ∧ cached a.toNat = true ∧
      a.toNat % n = 0) ∧
    (∃ (s : State) (n : Fin 192) (c k : Nat) (b : Reg), Calm s n c ∧ k ≤ 2 ∧ s.fetchFault n (s.ctx n c) k = none ∧ (s.ctx n c).rs b.val = 0x08000110 ∧
      s.engFault n (s.ctx n c) 0x08000110 4 = none) :=
  ⟨⟨run0, 0, 8, 0x1000D, by decide +kernel⟩, ⟨run0, 0, 16, 0x100010, by decide +kernel⟩,
   ⟨withX (fun x => x.putS 3 0x08000110), 0, 0, 1, 3, by constructor <;> decide +kernel, by decide +kernel⟩⟩

/-- A store at the end of D-RAM, and one of a pair in SRAM. -/
theorem meets_StoreOperations :
    (∃ (s : State) (e : Fin 192) (c k : Nat) (a : Addr), Calm s e c ∧ k = wordsOf a ∧ s.fetchFault e (s.ctx e c) k = none ∧
      s.engFault e (s.ctx e c) (addressOf (s.ctx e c) 16 a) 16 = none ∧ kilnSpace (addressOf (s.ctx e c) 16 a).toNat = false) ∧
    (∃ (s : State) (h : Fin 2) (k m : Nat) (a : Addr), HcCalm s h ∧ k = wordsOf a ∧ s.inTask h (s.hc h).pc.toNat (4 * k) = true ∧
      s.hcFault h (addressOf (s.hcCur h) 8 a) 8 true = none ∧ hcReg (addressOf (s.hcCur h) 8 a).toNat = false ∧ hcAddr h (addressOf (s.hcCur h) 8 a).toNat = some m) :=
  ⟨⟨run0, 0, 0, 2, .disp 0 0xFEF0, calm_run0, by decide +kernel⟩,
   ⟨State.reset, 0, 2, (hcAddr 0 0x1008).getD 0, .disp 4 0x1008, hcCalm_reset, by decide +kernel⟩⟩

/-- A store that waits in the store buffer. -/
def storing : State := withE (fun e => { e with stbuf := [{ addr := 0x10200, bytes := [1, 2, 3, 4] }] })

theorem meets_StoreBuffering :
    (∃ (s : State) (n a m : Nat) (t : List StBuf) (p : StBuf), (s.eng n).stbuf = t ++ [p] ∧ p.addr ≤ a ∧ a + m ≤ p.addr + p.bytes.length ∧ 0 < m) ∧
    (∃ (s : State) (n : Fin 192) (c k : Nat) (p : StBuf), Calm (s.setEng n { s.eng n with stbuf := [] }) n c ∧ (s.eng n).stbuf = [p] ∧ cached p.addr = false ∧
      k ≤ 1 ∧ s.fetchFault n (s.ctx n c) k = none) :=
  ⟨⟨storing, 0, 0x10203, 1, [], { addr := 0x10200, bytes := [1, 2, 3, 4] }, by decide +kernel⟩,
   ⟨storing, 0, 0, 1, { addr := 0x10200, bytes := [1, 2, 3, 4] }, by constructor <;> decide +kernel, by decide +kernel⟩⟩

/-- A pair whose sp is v. -/
def pair0 (v : Word) : State := State.reset.setHc 0 { State.reset.hc 0 with regs := { Regs.zero with s := List.replicate 32 v } }

/-- A stack in D-RAM, and a pair's in SRAM. -/
theorem meets_Calls :
    (∃ (s : State) (n : Fin 192) (c k : Nat), Calm s n c ∧ k = 1 ∧ s.fetchFault n (s.ctx n c) k = none ∧
      s.engFault n (s.ctx n c) ((s.ctx n c).rs 31 - 4) 4 = none ∧ kilnSpace ((s.ctx n c).rs 31 - 4).toNat = false) ∧
    (∃ (s : State) (n : Fin 192) (c k : Nat), Calm s n c ∧ k = 1 ∧ s.fetchFault n (s.ctx n c) k = none ∧ s.engFault n (s.ctx n c) ((s.ctx n c).rs 31) 4 = none ∧
      kilnSpace ((s.ctx n c).rs 31).toNat = false ∧ (((s.ran n (s.ctx n c) k [] (splitOf ((s.ctx n c).rs 31) 4)).begun n c).engLoad n ((s.ctx n c).rs 31) 4).map (fun r => r.2.1) = some false) ∧
    (∃ (s : State) (h : Fin 2) (k m : Nat), HcCalm s h ∧ k = 1 ∧ s.inTask h (s.hc h).pc.toNat (4 * k) = true ∧
      s.hcFault h ((s.hcCur h).rs 31 - 4) 4 true = none ∧ hcReg ((s.hcCur h).rs 31 - 4).toNat = false ∧ hcAddr h ((s.hcCur h).rs 31 - 4).toNat = some m) ∧
    (∃ (s : State) (h : Fin 2) (k m : Nat), HcCalm s h ∧ k = 1 ∧ s.inTask h (s.hc h).pc.toNat (4 * k) = true ∧
      s.hcFault h ((s.hcCur h).rs 31) 4 false = none ∧ hcReg ((s.hcCur h).rs 31).toNat = false ∧ hcAddr h ((s.hcCur h).rs 31).toNat = some m) :=
  ⟨⟨run0, 0, 0, 1, calm_run0, by decide +kernel⟩, ⟨run0, 0, 0, 1, calm_run0, by decide +kernel⟩,
   ⟨pair0 0x1000, 0, 1, (hcAddr 0 0xFFC).getD 0, by constructor <;> decide +kernel, by decide +kernel⟩,
   ⟨pair0 0x1000, 0, 1, (hcAddr 0 0x1000).getD 0, by constructor <;> decide +kernel, by decide +kernel⟩⟩

/-- Counter 1 counts bundles. -/
def counting : State := (run0.setReg (pEng 0 + 0x13C) 0x200).setFront 0 { run0.front 0 with perf := [7, 8] }

/-- A data cache that holds the line of s3 dirty. -/
def line3 : Line := { addr := 0x10120, bytes := List.replicate 32 9, dirty := true }

theorem meets_SystemOperations :
    (∃ (s : State) (n : Fin 192) (c k : Nat), Calm s n c ∧ k ≤ 1 ∧ s.fetchFault n (s.ctx n c) k = none ∧ s.strict n (s.ctx n c) = true) ∧
    (∃ (s : State) (n : Fin 192) (c k : Nat), Calm s n c ∧ k ≤ 1 ∧ s.fetchFault n (s.ctx n c) k = none ∧ s.strict n (s.ctx n c) = false ∧
      (∀ l ∈ (passed s n c k).dcache, l.addr ≠ ((s.ctx n c).rs 3).toNat / 32 * 32)) ∧
    (∃ (s : State) (n : Fin 192) (c k : Nat) (l : Line), Calm s n c ∧ k ≤ 1 ∧ s.fetchFault n (s.ctx n c) k = none ∧ s.strict n (s.ctx n c) = false ∧
      (passed s n c k).dcache.find? (fun l => l.addr == ((s.ctx n c).rs 3).toNat / 32 * 32) = some l) ∧
    (∃ (s : State) (n i v : Nat), s.sealedNow n = false ∧ (s.front n).perf[i]? = some v ∧ s.perfSel n i = 2) ∧
    (∃ (s : State) (n : Nat) (x : Ctx), s.strict n x = false ∧ x.ending = [] ∧ (s.eng n).pbar = 0 ∧ (s.front n).matching x.pc.toNat = none) ∧
    (∃ (s : State) (n : Nat) (x : Ctx) (l : List Bool), x.ending = [] ∧ l = [true] ∧ l.length ≤ (s.eng n).pbar) :=
  ⟨⟨withE (fun e => { e with fixed := true }), 0, 0, 1, by constructor <;> decide +kernel, by decide +kernel⟩,
   ⟨run0, 0, 0, 1, calm_run0, by decide +kernel⟩,
   ⟨withE (fun e => { e with dcache := [line3] }), 0, 0, 1, line3, by constructor <;> decide +kernel, by decide +kernel⟩,
   ⟨counting, 0, 1, 8, by decide +kernel⟩, ⟨run0, 0, ctx0, by decide +kernel⟩, ⟨withE (fun e => { e with pbar := 1 }), 0, ctx0, [true], by decide +kernel⟩⟩

/-- Offsets of 0, and from element m on offsets far outside D-RAM. -/
def gathering (m : Nat) : State := withX (fun x => { x with regs := { x.regs with vprog := 3, v := (x.regs.v.set 4 0).set 5 (if m < 16 then BitVec.ofNat 128 (0xFFFF * 2 ^ (16 * (m - 8))) else 0) } })

theorem meets_Gathers :
    ∀ m : Nat, m = 9 ∨ m = 16 → ∃ (s : State) (n : Fin 192) (c k : Nat) (vd vi : VReg) (sn : Reg), Calm s n c ∧ k ≤ 1 ∧ s.fetchFault n (s.ctx n c) k = none ∧
      vd.val % 2 = 0 ∧ vi.val % 2 = 0 ∧ (s.ctx n c).regs.v.length = 16 ∧
      let addr := fun j => (s.ctx n c).rs sn.val + 2 * ((((s.ctx n c).rv (vi.val + j / 8)).extractLsb' (16 * (j % 8)) 16).setWidth 32)
      let ok := fun j => dram ((addr j).toNat / 2 * 2) = true ∧ (s.ctx n c).inData ((addr j).toNat / 2 * 2) 2 = true
      (s.ctx n c).regs.vprog = 3 ∧ (∀ j < m, 3 ≤ j → ok j) ∧ (m < 16 → ¬ok m) := by
  rintro m (rfl | rfl)
  · exact ⟨gathering 9, 0, 0, 1, 6, 4, 3, by constructor <;> decide +kernel, by decide +kernel⟩
  · exact ⟨gathering 16, 0, 0, 1, 6, 4, 3, by constructor <;> decide +kernel, by decide +kernel⟩

/-- A context with a save area. -/
def saving (b : Bool) : State := withX (fun x => { x with save := 0x100400, sealed_ := b })

/-- A context whose save or restore of a half has begun. -/
def halving (upper save : Bool) : State :=
  (saving false).setCtx 0 0 { (saving false).ctx 0 0 with routine := some { kind := .half upper save, img := List.replicate (if upper then 516 else 248) 0 } }

theorem meets_SavesAndRestores :
    (∀ b : Bool, ∃ (s : State) (n : Fin 192) (c k m : Nat), Calm s n c ∧ k ≤ 1 ∧ s.fetchFault n (s.ctx n c) k = none ∧ (s.ctx n c).save ≠ 0 ∧
      s.engAddr n (s.ctx n c).save = some m ∧ (s.ctx n c).sealed_ = b) ∧
    (∃ (s : State) (n c m : Nat), let x := s.ctx n c
      x.save ≠ 0 ∧ s.engAddr n x.save = some m ∧ x.micro = none ∧ x.regs.s.length = 32 ∧ x.regs.v.length = 16 ∧ x.regs.loops.length = 4 ∧
      x.regs.acc.length = 4 ∧ (∀ l ∈ x.regs.acc, l.length = 8 ∧ ∀ i ∈ l, -(2 ^ 39) ≤ i ∧ i < 2 ^ 39) ∧ x.regs.estat.toNat < 8 ∧ x.regs.vprog.toNat < 32 ∧ c < 64) ∧
    (∀ upper save : Bool, ∃ (s : State) (n : Fin 192) (c m : Nat) (x : Ctx) (img : List Byte), s.ctx n c = { x with routine := some { kind := .half upper save, img := img } } ∧
      (s.eng n).mc = false ∧ (s.eng n).run = some c ∧ (s.eng n).shadowIn = false ∧ s.engRuns n = true ∧ s.engAddr n x.save = some m ∧
      img.length = (if upper then 516 else 248) ∧ x.micro = none ∧ x.routine = none ∧ (upper = false → (wordAt img 2).getLsbD 12 = false)) ∧
    (∃ (s : State) (n : Fin 192) (c : Nat), s.engRuns n = true ∧ Calm (s.finishRoutine n) n c) := by
  refine ⟨?_, ⟨saving false, 0, 0, ((saving false).engAddr 0 0x100400).getD 0, by decide +kernel⟩, ?_, halving true true, 0, 0, by decide +kernel,
    by constructor <;> decide +kernel⟩
  rotate_left
  · intro upper save
    exact ⟨halving upper save, 0, 0, ((saving false).engAddr 0 0x100400).getD 0, (saving false).ctx 0 0, List.replicate (if upper then 516 else 248) 0,
      rfl, by cases upper <;> cases save <;> decide +kernel⟩
  rintro (_ | _)
  · exact ⟨saving false, 0, 0, 1, ((saving false).engAddr 0 0x100400).getD 0, by constructor <;> decide +kernel, by decide +kernel⟩
  · exact ⟨saving true, 0, 0, 1, ((saving true).engAddr 0 0x100400).getD 0, by constructor <;> decide +kernel, by decide +kernel⟩

/-- A second context in bank 2, ready. -/
def two : State := run0.setCtx 0 5 { Ctx.initial with st := 2, pc := 0x300, bank := 2 }

theorem meets_BreakEndYield :
    (∀ b : Bool, ∃ (s : State) (n : Fin 192) (c k : Nat), Calm s n c ∧ c < 64 ∧ k ≤ 1 ∧ s.fetchFault n (s.ctx n c) k = none ∧
      ((s.ctx n c).brkAt = some (s.ctx n c).pc ↔ b = true)) ∧
    (∃ (s : State) (n : Fin 192) (c k : Nat), Calm s n c ∧ c < 64 ∧ k ≤ 1 ∧ s.fetchFault n (s.ctx n c) k = none ∧
      ∃ d < 64, d ≠ c ∧ (s.ctx n d).st = 2 ∧ (s.ctx n d).parked = false) ∧
    (∃ (s : State) (n : Fin 192) (c k : Nat), Calm s n c ∧ c < 64 ∧ k ≤ 1 ∧ s.fetchFault n (s.ctx n c) k = none ∧
      (∀ d < 64, d ≠ c → (s.ctx n d).st ≠ 2 ∨ (s.ctx n d).parked = true) ∧ s.engHalted n = false) := by
  refine ⟨?_, ⟨two, 0, 0, 1, by constructor <;> decide +kernel, by decide +kernel, by decide +kernel, by decide +kernel, 5, by decide +kernel⟩,
    ⟨run0, 0, 0, 1, calm_run0, by decide +kernel⟩⟩
  rintro (_ | _)
  · exact ⟨run0, 0, 0, 1, calm_run0, by decide +kernel⟩
  · exact ⟨withX (fun x => { x with brkAt := some 0x100 }), 0, 0, 1, by constructor <;> decide +kernel, by decide +kernel⟩

/-- A level-1 handler in the bank of context 0. -/
def handler : Engine := { run0.eng 0 with retPc := 0x444, shadow := List.replicate 8 7 }

/-- A second context, spilled. -/
def spilled : State := run0.setCtx 0 5 { Ctx.initial with st := 1, pc := 0x300 }

theorem meets_InterruptReturns :
    (∃ (s : State) (n : Fin 192) (c k : Nat) (e : Engine), c < 64 ∧ k ≤ 1 ∧ Calm (s.setEng n e) n c ∧ s.eng n = { e with shadowIn := true } ∧
      s.fetchFault n (s.cur n) k = none ∧
      (e.ctx c).regs.s.length = 32 ∧ e.shadow.length = 8) ∧
    (∃ (s : State) (n : Fin 192) (c d k : Nat), c < 64 ∧ k ≤ 1 ∧ Calm s n c ∧ (s.eng n).level2 = true ∧ (s.eng n).level2From = some d ∧ d ≠ c ∧ d < 64 ∧
      (s.ctx n d).st = 2 ∧
      s.fetchFault n (s.ctx n c) k = none) ∧
    (∃ (s : State) (n : Fin 192) (c d k : Nat), c < 64 ∧ k ≤ 1 ∧ Calm s n c ∧ (s.eng n).level2 = true ∧ (s.eng n).level2From = some d ∧ d ≠ c ∧ d < 64 ∧
      (s.ctx n d).st = 1 ∧
      (s.eng n).freeBanks ≠ [] ∧ s.fetchFault n (s.ctx n c) k = none) :=
  ⟨⟨withE (fun _ => { handler with shadowIn := true }), 0, 0, 1, handler, by decide +kernel, by decide +kernel, by constructor <;> decide +kernel, by decide +kernel⟩,
   ⟨two.setEng 0 { two.eng 0 with level2 := true, level2From := some 5 }, 0, 0, 5, 1, by decide +kernel, by decide +kernel, by constructor <;> decide +kernel, by decide +kernel⟩,
   ⟨spilled.setEng 0 { spilled.eng 0 with level2 := true, level2From := some 5 }, 0, 0, 5, 1, by decide +kernel, by decide +kernel, by constructor <;> decide +kernel, by decide +kernel⟩⟩

/-- A machine-check handler, with context 5 poisoned or not. -/
def checking (b : Bool) : State :=
  let s := two.setCtx 0 5 { two.ctx 0 5 with poisoned := b }
  s.setEng 0 { s.eng 0 with mc := true, mcCtx := { ctx0 with pc := 0x600 } }

/-- That handler, with its engine changed. -/
def ofHandler (f : Engine → Engine) : State := (checking false).setEng 0 (f ((checking false).eng 0))

theorem meets_MachineChecks :
    (∀ v : Word, v = 0 ∨ v = 0x600 → ∃ (s : State) (n : Fin 192) (c : Nat) (cause : Byte), Calm s n c ∧ s.engHalted n = false ∧ 2 ≤ cause.toNat ∧ cause.toNat ≤ 4 ∧
      s.reg (pEng n + 0x11C) = v) ∧
    (∃ (s : State) (n : Fin 192) (k : Nat) (b : Fin 8) (c : Nat) (y : Ctx), McCalm s n ∧ k ≤ 1 ∧ s.fetchFault n (s.eng n).mcCtx k = none ∧ b.val ≠ 7 ∧
      (s.eng n).ctxs.find? (fun e => e.2.hasBank && e.2.bank == b.val) = some (c, y)) ∧
    (∀ l : List (Nat × Word), l = [] ∨ l = [(103, 9)] → ∃ (s : State) (n : Fin 192) (k : Nat) (b : Fin 8), McCalm s n ∧ k ≤ 1 ∧
      s.fetchFault n (s.eng n).mcCtx k = none ∧ b.val ≠ 7 ∧
      (s.eng n).ctxs.find? (fun e => e.2.hasBank && e.2.bank == b.val) = none ∧ (s.eng n).bankS = l) ∧
    (∀ r : Retry, r = .fill 5 ∨ r = .job → ∃ (s : State) (n : Fin 192) (k : Nat), McCalm s n ∧ k ≤ 1 ∧ s.fetchFault n (s.eng n).mcCtx k = none ∧
      (s.eng n).retry = some r) ∧
    (∀ b : Bool, ∃ (s : State) (n : Fin 192) (k : Nat), McCalm s n ∧ k ≤ 1 ∧ s.fetchFault n (s.eng n).mcCtx k = none ∧ (s.eng n).retry = none ∧
      (s.eng n).run.isSome = true ∧
      if b then (s.ctx n 5).poisoned = true else ∀ c < 64, (s.ctx n c).poisoned = false) := by
  refine ⟨?_, ⟨checking false, 0, 1, 2, 5, (checking false).ctx 0 5, by constructor <;> decide +kernel, by decide +kernel⟩, ?_, ?_, ?_⟩
  · rintro v (rfl | rfl)
    · exact ⟨run0.setReg (pEng 0 + 0x11C) 0, 0, 0, 2, by constructor <;> decide +kernel, by decide +kernel⟩
    · exact ⟨run0.setReg (pEng 0 + 0x11C) 0x600, 0, 0, 4, by constructor <;> decide +kernel, by decide +kernel⟩
  · rintro l (rfl | rfl)
    · exact ⟨checking false, 0, 1, 3, by constructor <;> decide +kernel, by decide +kernel⟩
    · exact ⟨ofHandler (fun e => { e with bankS := [(103, 9)] }), 0, 1, 3, by constructor <;> decide +kernel, by decide +kernel⟩
  · rintro r (rfl | rfl)
    · exact ⟨ofHandler (fun e => { e with retry := some (.fill 5) }), 0, 1, by constructor <;> decide +kernel, by decide +kernel⟩
    · exact ⟨ofHandler (fun e => { e with retry := some .job }), 0, 1, by constructor <;> decide +kernel, by decide +kernel⟩
  · rintro (_ | _)
    · exact ⟨checking false, 0, 1, by constructor <;> decide +kernel, by decide +kernel⟩
    · exact ⟨checking true, 0, 1, by constructor <;> decide +kernel, by decide +kernel⟩

/-- A pair whose STATUS is v, with its low lines enabled. -/
def pairOf (v : Word) : State :=
  (((State.reset.setCsr 0 0 v).setCsr 0 8 0x3FF).setCsr 0 13 0).setCsr 0 14 0x100000

theorem meets_HarbourTraps :
    (∀ v : Word, v = 0 ∨ v = 1 ∨ v = 3 → ∃ (s : State) (h : Fin 2) (k : Nat), HcCalm s h ∧ k = 1 ∧ s.inTask h (s.hc h).pc.toNat (4 * k) = true ∧
      s.csr h 0 = v ∧ (v = 1 → s.firmware h = true)) ∧
    (∃ (s : State) (h : Fin 2) (l : Fin 32), HcCalm s h ∧ (s.csr h 0).getLsbD 1 = true ∧ (s.csr h 8).getLsbD l.val = true ∧ s.hcLine h l = true) ∧
    (∃ (s : State) (h : Fin 2) (cause : Byte), HcCalm s h ∧ 1 ≤ cause.toNat ∧ cause.toNat ≤ 6 ∧ (s.hc h).waiting = false ∧
      ((s.csr h 0).getLsbD 0 = false ∨ (s.csr h 0).getLsbD 1 = true)) := by
  refine ⟨?_, ⟨(((pairOf 3).withPci { (pairOf 3).pci with fwRoutes := [(28, 0x23)] }).setReg 0x8010 1).setReg 0x8014 1, 0, 3, by constructor <;> decide +kernel,
    by decide +kernel⟩, ⟨pairOf 0, 0, 6, by constructor <;> decide +kernel, by decide +kernel⟩⟩
  rintro v (rfl | rfl | rfl)
  · exact ⟨pairOf 0, 0, 1, by constructor <;> decide +kernel, by decide +kernel⟩
  · exact ⟨pairOf 1, 0, 1, by constructor <;> decide +kernel, by decide +kernel⟩
  · exact ⟨pairOf 3, 0, 1, by constructor <;> decide +kernel, by decide +kernel⟩

theorem meets_ControlRegisters : BothMet 1 ∧
    (∀ b : Bool, ∃ (s : State) (h : Fin 2) (k : Nat), HcCalm s h ∧ k = 1 ∧ s.inTask h (s.hc h).pc.toNat (4 * k) = true ∧ s.firmware h = b) := by
  refine ⟨bothMet1, ?_⟩
  rintro (_ | _)
  · exact ⟨pairOf 2, 0, 1, by constructor <;> decide +kernel, by decide +kernel⟩
  · exact ⟨pairOf 3, 0, 1, by constructor <;> decide +kernel, by decide +kernel⟩

/-- An engine with line 5 at level 1 or line 3 at level 2, whose handler context 9 is resident. -/
def lined (l : List Nat) (d : Option Nat) : State :=
  let s := run0.setCtx 0 9 { Ctx.initial with st := 2, pc := 0x900 }
  (((s.setEng 0 { s.eng 0 with lines := l, dint := d }).setReg (pEng 0 + 0x134) 0xFFFF).setReg (pEng 0 + 0x138) 0xF0).setReg (pEng 0 + 0x140 + 12) 9

/-- Line 5 is due while a save of the upper half is at step 2. -/
def underWay : State := (lined [5] none).setCtx 0 0 { (lined [5] none).ctx 0 0 with routine := some { kind := .half true true, step := 2 } }

/-- Such a save suspended, with its operands as they stood. -/
def stopped : Micro :=
  { pc := 0, temps := [], pend := { dst := none, val := .w 0 }, run := some { kind := .half true true, step := 2 }, seen := run0.routineInputs 0 ctx0 (.half true true) }

theorem meets_InterruptEntry :
    (∀ d : Option Nat, d = none ∨ d = some 0 → ∃ (s : State) (n : Fin 192) (c : Nat) (l : Fin 16), Calm s n c ∧ s.engHalted n = false ∧ (s.eng n).dint = d ∧
      (s.ctx n c).sealed_ = false ∧
      (s.eng n).level2 = false ∧
      let due := fun (one : Bool) (i : Nat) => (s.reg (pEng n + 0x134)).getLsbD i && ((s.reg (pEng n + 0x138)).getLsbD i == one) && s.lineUp n i
      due true l = true ∧ (∀ i < l.val, due true i = false)) ∧
    (∃ (s : State) (n : Fin 192) (c : Nat) (l : Fin 16), Calm s n c ∧ s.engHalted n = false ∧ (s.eng n).dint = none ∧ (s.ctx n c).sealed_ = false ∧
      (s.eng n).level2 = false ∧
      let due := fun (one : Bool) (i : Nat) => (s.reg (pEng n + 0x134)).getLsbD i && ((s.reg (pEng n + 0x138)).getLsbD i == one) && s.lineUp n i
      let h := (s.reg (pEng n + 0x140 + 4 * l.val)).toNat % 64
      due false l = true ∧ (∀ i < 16, due true i = false) ∧ (∀ i < l.val, due false i = false) ∧ h ≠ c ∧ (s.ctx n h).st = 2) ∧
    (∃ (s : State) (n : Fin 192) (c : Nat) (l : Fin 16) (x : Ctx) (r : Run), s.ctx n c = { x with routine := some r } ∧ Calm (s.setCtx n c x) n c ∧
      r.step ≤ r.kind.steps ∧
      s.engHalted n = false ∧ (s.eng n).dint = none ∧ x.sealed_ = false ∧
      let due := fun (i : Nat) => (s.reg (pEng n + 0x134)).getLsbD i && (s.reg (pEng n + 0x138)).getLsbD i && s.lineUp n i
      due l = true ∧ (∀ i < l.val, due i = false)) ∧
    (∃ (s : State) (n : Nat) (x : Ctx) (m : Micro) (r : Run), x.micro = some m ∧ m.run = some r ∧ m.known = true ∧
      s.routineInputs n { x with micro := none } r.kind = m.seen) ∧
    (∃ (s : State) (n : Fin 192) (c : Nat) (x : Ctx) (r : Run), s.ctx n c = { x with routine := some r } ∧ Calm (s.setCtx n c x) n c ∧ s.engHalted n = false ∧
      s.reg (pEng n + 0x11C) ≠ 0) := by
  refine ⟨?_, ⟨lined [3] none, 0, 0, 3, by constructor <;> decide +kernel, by decide +kernel⟩,
    ⟨underWay, 0, 0, 5, (lined [5] none).ctx 0 0, { kind := .half true true, step := 2 }, rfl, by constructor <;> decide +kernel, by decide +kernel⟩,
    ⟨run0, 0, { ctx0 with micro := some stopped }, stopped, { kind := .half true true, step := 2 }, rfl, rfl, rfl, by decide +kernel⟩,
    ⟨underWay.setReg (pEng 0 + 0x11C) 0x600, 0, 0, (lined [5] none).ctx 0 0, { kind := .half true true, step := 2 }, rfl, by constructor <;> decide +kernel, by decide +kernel⟩⟩
  rintro d (rfl | rfl)
  · exact ⟨lined [5] none, 0, 0, 5, by constructor <;> decide +kernel, by decide +kernel⟩
  · exact ⟨lined [5] (some 0), 0, 0, 5, by constructor <;> decide +kernel, by decide +kernel⟩

/-- A result in flight. -/
def inFlight (p : Pend) : State := withX (fun x => { x with pend := [p] })

theorem meets_ContextFaults :
    (∀ b : Bool, ∃ (s : State) (n : Fin 192) (c : Nat) (code : Byte), Calm s n c ∧ code.toNat ∈ [1, 2, 3, 4, 5, 7, 9] ∧ (s.ctx n c).sealed_ = b) ∧
    (∃ (s : State) (n : Fin 192) (c x : Nat), Calm (s.setCtx n c { s.ctx n c with fpTrap := 0 }) n c ∧ (s.ctx n c).fpTrap = x ∧ 0 < x ∧ x < 32 ∧
      (s.ctx n c).sealed_ = false) ∧
    (∃ (s : State) (n : Fin 192) (c : Fin 64) (d : Nat), s.awake n = true ∧ (s.eng n).mc = false ∧ (s.eng n).run = some d ∧ d ≠ c.val ∧ (s.ctx n c).st = 1 ∧
      (s.eng n).freeBanks ≠ []) ∧
    (∃ (s : State) (n : Fin 192) (c : Nat) (p : Pend) (t : List Pend), s.engRuns n = true ∧ (s.eng n).mc = false ∧ (s.eng n).shadowIn = false ∧
      (s.eng n).run = some c ∧ (s.ctx n c).routine = none ∧ (s.ctx n c).longs = p :: t) ∧
    (∀ a : Nat, a = 1 ∨ a = 2 → ∃ (s : State) (n : Fin 192) (c k : Nat) (p : Pend), p.age = a ∧ Calm (s.setCtx n c { s.ctx n c with pend := [] }) n c ∧
      (s.ctx n c).pend = [p] ∧ s.fixedOn n = false ∧ k ≤ 1 ∧
      s.fetchFault n (s.ctx n c) k = none) := by
  refine ⟨?_, ⟨withX (fun x => { x with fpTrap := 31 }), 0, 0, 31, by constructor <;> decide +kernel, by decide +kernel⟩,
    ⟨run0.setCtx 0 63 { Ctx.initial with st := 1 }, 0, 63, 0, by decide +kernel⟩,
    ⟨withX (fun x => { x with longs := [{ dst := some (.s 3), val := .w 7 }] }), 0, 0, { dst := some (.s 3), val := .w 7 }, [], by decide +kernel⟩, ?_⟩
  · rintro (_ | _)
    · exact ⟨run0, 0, 0, 9, calm_run0, by decide +kernel⟩
    · exact ⟨withX (fun x => { x with sealed_ := true }), 0, 0, 1, by constructor <;> decide +kernel, by decide +kernel⟩
  · rintro a (rfl | rfl)
    · exact ⟨inFlight { dst := some (.s 3), val := .w 7, age := 1 }, 0, 0, 1, { dst := some (.s 3), val := .w 7, age := 1 }, rfl, by constructor <;> decide +kernel,
    by decide +kernel⟩
    · exact ⟨inFlight { dst := some (.s 3), val := .w 7, age := 2 }, 0, 0, 1, { dst := some (.s 3), val := .w 7, age := 2 }, rfl, by constructor <;> decide +kernel,
    by decide +kernel⟩

/-- A context in the body of a loop. -/
def looped : Ctx := { ctx0 with pc := 0x100100, regs := { ctx0.regs with loops := ctx0.regs.loops.set 2 { active := true, count := 5, start := 0x100080, stop := 0x100200, order := 0 } } }

/-- A V operation whose memory operand lies near the end of D-RAM, and one in a loop body. -/
theorem meets_VectorLanes :
    (∃ (s : State) (n : Fin 192) (c k a : Nat), Calm s n c ∧ (s.ctx n c).regs.v.length = 16 ∧ k ≤ 1 ∧ s.fetchFault n (s.ctx n c) k = none ∧ (s.eng n).stbuf = [] ∧
      0x10000 ≤ a ∧ a + 16 < 0x20000 ∧ a % 16 = 0 ∧ s.engFault n (s.ctx n c) (BitVec.ofNat 32 a) 16 = none) ∧
    (∀ on : Bool, ∃ (s : State) (n : Nat) (x : Ctx) (a : Nat) (r : RepBody) (v : Vec), (s.eng n).stbuf = [] ∧ 0x10000 ≤ a ∧ a + 16 < 0x20000 ∧ x.body.isSome = true ∧
      (s.eng n).inBody x = some r ∧ r.on = on ∧ (s.eng n).ahead x.pc.toNat a = some v) := by
  refine ⟨⟨run0, 0, 0, 1, 0x1FFE0, calm_run0, by decide +kernel⟩, ?_⟩
  rintro (_ | _)
  · exact ⟨withE (fun e => { e with repBody := some { start := 0x100080 }, rep := [(0x100100, 0x10020, 7)] }), 0, looped, 0x10020, { start := 0x100080 }, 7,
    by decide +kernel⟩
  · exact ⟨withE (fun e => { e with repBody := some { start := 0x100080, on := true }, rep := [(0x100100, 0x10020, 7)] }), 0, looped, 0x10020,
    { start := 0x100080, on := true }, 7,
      by decide +kernel⟩

theorem meets_Accumulators :
    (∃ (s : State) (n : Fin 192) (c k : Nat), Calm s n c ∧ (s.ctx n c).regs.v.length = 16 ∧ k ≤ 1 ∧ s.fetchFault n (s.ctx n c) k = none) ∧
    (∃ (s : State) (n : Fin 192) (c k : Nat) (ad : AReg) (p : Pend) (l : List Int), Calm (s.setCtx n c { s.ctx n c with pend := [] }) n c ∧ (s.ctx n c).pend = [p] ∧
      p.dst = some (.acc ad.val) ∧ p.val = .a l ∧ p.age = 2 ∧ k ≤ 1 ∧ s.fetchFault n (s.ctx n c) k = none ∧ s.fixedOn n = false) :=
  ⟨⟨run0, 0, 0, 1, calm_run0, by decide +kernel⟩,
   ⟨inFlight { dst := some (.acc 3), val := .a [1, 2, 3, 4, 5, 6, 7, 8], age := 2 }, 0, 0, 1, 3, { dst := some (.acc 3), val := .a [1, 2, 3, 4, 5, 6, 7, 8], age := 2 }, [1, 2, 3, 4, 5, 6, 7, 8], by constructor <;> decide +kernel, by decide +kernel,
     by decide +kernel⟩⟩

/-- A context with 3329 and its inverse in vq, or with an even modulus. -/
def modulus (q : Word) : State := withX (fun x => { (x.putS 3 0x10100) with regs := { (x.putS 3 0x10100).regs with vq := q } })

theorem meets_ModularOperations :
    ∀ b : Bool, ∃ (s : State) (n : Fin 192) (c k : Nat), Calm s n c ∧ (s.ctx n c).regs.v.length = 16 ∧ k ≤ 1 ∧ s.fetchFault n (s.ctx n c) k = none ∧
      (validVq (s.ctx n c).regs.vq ↔ b = true) := by
  rintro (_ | _)
  · exact ⟨modulus 0xF3010D00, 0, 0, 1, by constructor <;> decide +kernel, by unfold validVq; decide +kernel⟩
  · exact ⟨modulus 0xF3010D01, 0, 0, 1, by constructor <;> decide +kernel, by unfold validVq; decide +kernel⟩

/-- A context whose NTT step 13 has begun. -/
def layering (inv : Bool) : State := withX (fun x => { x with routine := some { kind := .ntt inv 3 13 } })

theorem meets_NttLayers :
    (∀ b : Bool, ∃ (s : State) (n : Fin 192) (c k : Nat) (sn : Reg) (step : Fin 16), Calm s n c ∧ k ≤ 1 ∧ s.fetchFault n (s.ctx n c) k = none ∧ step.val ≤ 13 ∧
      ((s.ctx n c).rs sn.val).toNat % 16 = 0 ∧ (∀ j < 256,
    dram (((s.ctx n c).rs sn.val).toNat + 2 * j) = true ∧ (s.ctx n c).inData (((s.ctx n c).rs sn.val).toNat + 2 * j) 2 = true) ∧
      (∀ j < 128, dram (0x1FF00 + 2 * j) = true ∧ (s.ctx n c).inData (0x1FF00 + 2 * j) 2 = true) ∧ (validVq (s.ctx n c).regs.vq ↔ b = true)) ∧
    (∃ (s : State) (n : Fin 192) (c k : Nat) (sn : Reg) (step : Fin 16), Calm s n c ∧ k ≤ 1 ∧ s.fetchFault n (s.ctx n c) k = none ∧ step.val ≤ 13 ∧
      ((s.ctx n c).rs sn.val).toNat % 16 ≠ 0) ∧
    (∀ inv : Bool, ∃ (s : State) (n : Fin 192) (c m : Nat) (x : Ctx) (sn : Reg) (step : Fin 16), s.ctx n c = { x with routine := some { kind := .ntt inv sn.val step.val } } ∧
      x.routine = none ∧ (s.eng n).mc = false ∧ (s.eng n).run = some c ∧ (s.eng n).shadowIn = false ∧ s.engRuns n = true ∧ step.val ≤ 13 ∧
      0x10000 ≤ (x.rs sn.val).toNat ∧ (x.rs sn.val).toNat + 512 ≤ 0x1FF00 ∧ s.engAddr n (x.rs sn.val).toNat = some m) := by
  refine ⟨?_, ⟨withX (fun x => x.putS 3 0x10101), 0, 0, 1, 3, 0, by constructor <;> decide +kernel, by decide +kernel⟩, fun inv => ?_⟩
  rotate_left
  · exact ⟨layering inv, 0, 0, ((layering inv).engAddr 0 0x10130).getD 0, ctx0, 3, 13, rfl, by cases inv <;> decide +kernel⟩
  rintro (_ | _)
  · exact ⟨modulus 0xF3010D00, 0, 0, 1, 3, 0, by constructor <;> decide +kernel, by unfold validVq; decide +kernel⟩
  · exact ⟨modulus 0xF3010D01, 0, 0, 1, 3, 13, by constructor <;> decide +kernel, by unfold validVq; decide +kernel⟩

/-- N = 3 with n0′ = −1/3 modulo 2^32 in the low lane of v13, or N = 4. -/
def montN (n n0 : Nat) : State := withX (fun x => { x with regs := { x.regs with v := ((x.regs.v.set 14 (BitVec.ofNat 128 n)).set 15 0).set 13 (BitVec.ofNat 128 n0) } })

theorem meets_MontgomeryReductions :
    (∃ (s : State) (n : Fin 192) (c k : Nat) (vd va vb : VReg), Calm s n c ∧ k ≤ 1 ∧ s.fetchFault n (s.ctx n c) k = none ∧ vd.val % 2 = 0 ∧ vd.val ≤ 10 ∧
      let x := s.ctx n c
      let pair := fun r => (x.rv r).toNat + 2 ^ 128 * (x.rv (r + 1)).toNat
      va.val % 4 = 0 ∧ va.val ≠ 12 ∧ vb.val % 2 = 0 ∧ pair 14 % 2 = 1 ∧ (pair 14 * (lane 32 (x.rv 13) 0).toNat + 1) % 2 ^ 32 = 0 ∧ pair va.val * pair vb.val < pair 14 * 2 ^ 256 ∧
      pair va.val + 2 ^ 256 * pair (va.val + 2) < pair 14 * 2 ^ 256) ∧
    (∃ (s : State) (n : Fin 192) (c k : Nat), Calm s n c ∧ k ≤ 1 ∧ s.fetchFault n (s.ctx n c) k = none ∧ ((s.ctx n c).rv 14).toNat % 2 = 0) :=
  ⟨⟨montN 3 0x55555555, 0, 0, 1, 10, 8, 6, by constructor <;> decide +kernel, by decide +kernel⟩,
   ⟨montN 4 0, 0, 0, 1, by constructor <;> decide +kernel, by decide +kernel⟩⟩

/-- The hypotheses of an operation of the FP file's owner. -/
def OwnerMet : Prop := ∃ (s : State) (n : Fin 192) (c k : Nat),
    Calm s n c ∧ (s.eng n).fpOwner = some c ∧ (s.ctx n c).regs.v.length = 16 ∧ k ≤ 1 ∧ s.fetchFault n (s.ctx n c) k = none

theorem meets_FpOperations : OwnerMet := ⟨run0, 0, 0, 1, calm_run0, by decide +kernel⟩
theorem meets_FpFusedAndVector : OwnerMet := meets_FpOperations

theorem meets_FpSpecialValues :
    (∃ a : Word, a.toNat / 2 ^ 23 % 256 = 255 ∧ a.toNat % 2 ^ 23 ≠ 0) ∧ (∃ a b : Word, (a = 0x7F800000 ∨ a = 0xFF800000) ∧ (b = 0 ∨ b = 0x80000000)) ∧
    (∃ a : Word, ¬(a.toNat / 2 ^ 23 % 256 = 255 ∧ a.toNat % 2 ^ 23 ≠ 0) ∧ ¬(a = 0 ∨ a = 0x80000000) ∧ a.getLsbD 31 = true) :=
  ⟨⟨0x7F800001, by decide⟩, ⟨0xFF800000, 0x80000000, by decide⟩, ⟨0x80000001, by decide⟩⟩

theorem meets_FpBoundaryResults :
    (∃ (s : State) (n : Fin 192) (c k : Nat) (fa fb : FReg), Calm s n c ∧ (s.eng n).fpOwner = some c ∧ k ≤ 1 ∧ s.fetchFault n (s.ctx n c) k = none ∧
      (s.ctx n c).rf fa.val = 1 ∧ (s.ctx n c).rf fb.val = 0x3F000000 ∧ rounding (s.ctx n c) = 3) ∧
    (∃ (s : State) (n : Fin 192) (c k : Nat) (fd fa fb : FReg), Calm s n c ∧ (s.eng n).fpOwner = some c ∧ k ≤ 1 ∧ s.fetchFault n (s.ctx n c) k = none ∧
      (s.ctx n c).rf fa.val = 0x7F7FFFFF ∧ (s.ctx n c).rf fb.val = 0x40000000 ∧ (s.ctx n c).rf fd.val = 0xFF7FFFFF) :=
  ⟨⟨withX (fun x => { x with fpstat := 3, f := [1, 0x3F000000] ++ List.replicate 14 0 }), 0, 0, 1, 0, 1, by constructor <;> decide +kernel, by decide +kernel⟩,
   ⟨withX (fun x => { x with f := [0x7F7FFFFF, 0x40000000, 0xFF7FFFFF] ++ List.replicate 13 0 }), 0, 0, 1, 2, 0, 1, by constructor <;> decide +kernel, by decide +kernel⟩⟩

theorem meets_StepRunsFront : (∃ (s : State) (c : Instr) (rest : List Instr), s.pending = c :: rest) ∧ (∃ s : State, s.pending = []) :=
  ⟨⟨{ State.reset with pending := [.sealCmd 0] }, _, _, rfl⟩, State.reset, rfl⟩

theorem meets_MemoryStaysCanonical : ∃ s t : State, MemOk s ∧ step s = .next t := ⟨State.reset, _, by unfold MemOk; decide, rfl⟩
theorem meets_FusesAreOneWay : ∃ (c : Instr) (s t : State), exec c s = .next t := ⟨.railOutOfRange 0, State.reset, _, rfl⟩

end Sys2Proof.Tests


namespace Sys2Proof.Tests.Set8

def stages : List State := [0,1,2,3,4,5,6,0xE].map (fun n => State.reset.setRegFld (pBoot+0x100) 0 4 n)
def embs : List State := stages.map (fun s => s.withDev { s.dev with ember := some ⟨.staged,4,false⟩ })
def sts : List State := (stages.drop 5).flatMap (fun s => [DState.staged,.protect,.sealed,.zeroized,.cold].map (fun d => s.withDev {s.dev with dstate := d}))
def hot : List State := sts.map (fun s => s.setReg 0x4100 1)
def cool : List State := sts.map (fun s => s.setReg 0x4100 0)
def drbs : List State := (sts.take 3).flatMap (fun s => [s.withVault {s.vault with drbSrc:=true,drbUp:=true,drbStall:=[1]},
    s.withVault {s.vault with drbFails:=[0,0]}, s.withVault {s.vault with drbSrc:=false}])
def st (i : Nat) : State := (stages ++ embs ++ sts ++ hot ++ cool ++ drbs).getD i State.reset


/-- The hypotheses of the clauses of ColdResets, a part of Resets, are met. -/
theorem meets_ColdResets :
    (∃ (s : State), s.dev.dstate = .cold ∧ s.dev.zeroBall = false) :=
  ⟨st 20, by decide +kernel⟩

/-- The hypotheses of the clauses of BootStages are met. -/
theorem meets_BootStages :
    (∃ (s : State), ∃ (o : BootOutcome), s.dev.dstate ≠ .cold ∧ s.dev.lhOnly = false ∧ s.warmBoot = false ∧ s.stage = 1 ∧ o.stageFailed = true) ∧
    (∃ (s : State), ∃ (o : BootOutcome), s.dev.dstate ≠ .cold ∧ s.dev.lhOnly = false ∧ s.warmBoot = false ∧ s.stage = 1 ∧ o.stageFailed = false) ∧
    (∃ (s : State), s.dev.dstate ≠ .cold ∧ s.dev.lhOnly = false ∧ s.warmBoot = false ∧ s.stage = 2) ∧
    (∃ (s : State), s.dev.dstate ≠ .cold ∧ s.dev.lhOnly = false ∧ s.warmBoot = false ∧ s.stage = 3) ∧
    (∃ (s : State), s.dev.dstate ≠ .cold ∧ s.dev.lhOnly = false ∧ s.warmBoot = false ∧ s.stage = 4) ∧
    (∃ (s : State), s.dev.dstate ≠ .cold ∧ s.dev.lhOnly = false ∧ s.warmBoot = true ∧ s.stage = 1) ∧
    (∃ (s : State), s.dev.dstate ≠ .cold ∧ s.dev.lhOnly = false ∧ s.warmBoot = true ∧ s.stage = 4) :=
  ⟨⟨st 1, ⟨true, 7⟩, by decide +kernel⟩,
   ⟨st 1, ⟨false, 7⟩, by decide +kernel⟩,
   ⟨st 2, by decide +kernel⟩,
   ⟨st 3, by decide +kernel⟩,
   ⟨st 4, by decide +kernel⟩,
   ⟨st 9, by decide +kernel⟩,
   ⟨st 12, by decide +kernel⟩⟩

/-- The hypotheses of the clauses of EntropySource are met. -/
theorem meets_EntropySource :
    (∃ (s : State), s.dev.dstate ≠ .cold ∧ s.vault.drbDead = false ∧ s.vault.drbCast = false ∧ s.dev.lhOnly = false) ∧
    (∃ (s : State), s.dev.dstate ≠ .cold ∧ s.vault.drbCast = false ∧ s.vault.drbSrc = true ∧ s.vault.drbUp = true) ∧
    (∃ (s : State), ∃ (i : Fin 3), s.dev.dstate ≠ .cold ∧ s.vault.drbCast = false ∧ s.vault.drbSrc = false ∧ i.val ≠ 2 ∧ i.val ∉ s.vault.drbStall) ∧
    (∃ (s : State), s.dev.dstate ≠ .cold ∧ s.recentFails.length < 2 ∧ fld (s.reg 0x88104) 0 16 < 0xFFFF) ∧
    (∃ (s : State), s.dev.dstate ≠ .cold ∧ 2 ≤ s.recentFails.length) :=
  ⟨⟨st 0, by decide +kernel⟩,
   ⟨State.reset.withVault { State.reset.vault with drbCast := false, drbSrc := true, drbUp := true }, by decide +kernel⟩,
   ⟨st 0, 0, by decide +kernel⟩,
   ⟨st 0, by decide +kernel⟩,
   ⟨State.reset.withVault { State.reset.vault with drbFails := [0, 0] }, by decide +kernel⟩⟩

/-- The hypotheses of the clauses of EmberResets, a part of Resets, are met. -/
theorem meets_EmberResets :
    (∃ (s : State), s.hostOpen 0xB100 ∧ s.dev.ember = none ∧ (s.dev.dstate = .boot ∨ s.dev.dstate = .staged ∨ s.dev.dstate = .protect) ∧ s.dev.lhOnly = false) ∧
    (∃ (s : State), s.dev.ember = none ∧ (s.dev.dstate = .boot ∨ s.dev.dstate = .staged ∨ s.dev.dstate = .protect) ∧ s.dev.lhOnly = false ∧ bit (s.reg 0x4100) 0 = true) ∧
    (∃ (s : State), s.dev.dstate ≠ .cold ∧ bit (s.reg 0x4100) 0 = false) ∧
    (∃ (s : State), s.alive 0 = true ∧ s.stage ≠ 0xE ∧ s.dev.dstate = .sealed ∧ bit (s.reg 0xC10C) 3 = false ∧ bit (s.reg 0xC10C) 4 = false ∧ s.saf.active = []) ∧
    (∃ (s : State), ∃ e, s.dev.ember = some e ∧ e.from_ = .staged ∧ e.sealedIn = false ∧ s.dev.dstate = .boot ∧ s.boot.inSvc = [] ∧ s.stage = 6 ∧ s.gen.phase = 0) :=
  ⟨⟨st 0, by unfold State.hostOpen; decide +kernel⟩,
   ⟨st 0, by decide +kernel⟩,
   ⟨State.reset.setReg 0x4100 0, by decide +kernel⟩,
   ⟨st 18, by decide +kernel⟩,
   ⟨st 14, ⟨.staged,4,false⟩, by decide +kernel⟩⟩

end Sys2Proof.Tests.Set8


namespace Sys2Proof.Tests.Set9

def base : List State := [5,6].map (fun n => State.reset.setRegFld (pBoot+0x100) 0 4 n)
def sts : List State := base.flatMap (fun s => [DState.staged,.protect,.sealed,.cold,.boot].map (fun d => s.withDev {s.dev with dstate := d}))
def more : List State := sts.flatMap (fun s => [s, ((s.setReg 0x8100 5).setReg 0x8108 390).setReg 0x4104 0x10A, (s.setReg 0xA1A0 4).setReg 0x4104 0x113,
    (s.withDev {s.dev with ppsLast := some 7}).withGen { s.gen with live := [(0x78128,3)] },
    (((s.withGen { s.gen with live := [(0x78128,3),(0x78134,1)] }).withDev { s.dev with tod := 987654321012345678901234567890, mono := 5*10^9, ppsOut := true, ppsLast := some (10^9), units := [2048,1792,513] }).withPci {s.pci with routes := [(3,5)], table := [(1,{})], fwRoutes := [(1,1)]}),
    (s.setHc 0 { s.hc 0 with inService := false }).setHc 1 { s.hc 1 with inService := false },
    (s.withGen { s.gen with live := [(0x78128,3)] }).withDev { s.dev with ppsLast := some 0 } |>.setPst 193 0 ])
def st (i : Nat) : State := (more).getD i State.reset


/-- The hypotheses of the clauses of SuppliesAndClocks, a part of ClocksAndTime, are met. -/
theorem meets_SuppliesAndClocks :
    (∃ (s : State), s.dev.dstate ≠ .cold) ∧
    (∃ (s : State), s.dev.dstate ≠ .cold ∧ fld (s.reg 0x8100) 0 1 = 0) ∧
    (∃ (s : State), s.dev.dstate ≠ .cold ∧ fld (s.reg 0x8100) 0 1 = 1) ∧
    (∃ (s : State), ∃ (k : Fin 24), s.dev.dstate ≠ .cold ∧ s.hostOpen (0xA140 + 4 * k)) ∧
    (∃ (s : State), ∃ (k : Fin 24), s.dev.dstate ≠ .cold ∧ fld (s.reg (0xA1A0 + 4 * k)) 2 1 = 1) ∧
    (∃ (s : State), ∃ (q : Int), s.dev.dstate ≠ .cold ∧ -2048 ≤ q ∧ q < 440) ∧
    (∃ (s : State), ∃ (q : Int), s.dev.dstate ≠ .cold ∧ 440 ≤ q ∧ q < 2048 ∧ 440 ≤ sgn 12 (fld (s.reg 0x8104) 0 12)) ∧
    (∃ (s : State), ∃ (q : Int), s.dev.dstate ≠ .cold ∧ 440 ≤ q ∧ q < 2048 ∧ sgn 12 (fld (s.reg 0x8104) 0 12) < 440) :=
  ⟨⟨st 0, by decide +kernel⟩,
   ⟨st 0, by decide +kernel⟩,
   ⟨st 1, by decide +kernel⟩,
   ⟨st 0, 0, by unfold State.hostOpen; decide +kernel⟩,
   ⟨st 2, 0, by decide +kernel⟩,
   ⟨st 0, (0), by decide +kernel⟩,
   ⟨(st 0).setReg 0x8104 441, (440), by decide +kernel⟩,
   ⟨st 0, (440), by decide +kernel⟩⟩

/-- The hypotheses of the clauses of TimeOfDay, a part of ClocksAndTime, are met. -/
theorem meets_TimeOfDay :
    (∃ (s : State), ∃ (a : Agent), s.todOwner a = true ∧ ((a = .host → s.hostOpen 0x78114))) ∧
    (∃ (s : State), ∃ (a : Agent), s.todOwner a = true ∧ ((a = .host → s.hostOpen 0x78120))) ∧
    (∃ (s : State), ∃ (a : Agent), s.todOwner a = true ∧ ((a = .host → s.hostOpen 0x78124))) ∧
    (∃ (s : State), ∃ (a : Agent), s.todOwner a = false ∧ a ≠ .host) ∧
    (∃ (s : State), bit (s.lv 0x78128) 0 = true) ∧
    (∃ (s : State), s.dev.ppsOut = true) ∧
    (∃ (s : State), bit (s.lv 0x78128) 1 = true ∧ ((∀ u ∈ s.dev.ppsLast, u + 500000000 ≤ s.dev.mono))) ∧
    (∃ (s : State), ∃ u, bit (s.lv 0x78128) 1 = true ∧ s.dev.ppsLast = some u ∧ s.dev.mono < u + 500000000) ∧
    (∃ (s : State), bit (s.lv 0x78128) 1 = true) :=
  ⟨⟨st 0, Sys2Proof.Agent.host, by unfold State.hostOpen; decide +kernel⟩,
   ⟨st 0, Sys2Proof.Agent.host, by unfold State.hostOpen; decide +kernel⟩,
   ⟨st 0, Sys2Proof.Agent.host, by unfold State.hostOpen; decide +kernel⟩,
   ⟨st 0, Sys2Proof.Agent.harbour 0, by decide +kernel⟩,
   ⟨st 3, by decide +kernel⟩,
   ⟨st 4, by decide +kernel⟩,
   ⟨st 4, by decide +kernel⟩,
   ⟨st 3, 7, by decide +kernel⟩,
   ⟨st 3, by decide +kernel⟩⟩

/-- The hypotheses of the clauses of HostLink, a part of HostAndUnitResets, are met. -/
theorem meets_HostLink :
    (∃ (s : State), s.dev.dstate ≠ .cold) ∧
    (∃ (s : State), s.dev.dstate ≠ .cold ∧ bit (s.reg 0x4104) 8 = true) ∧
    (∃ (s : State), s.dev.dstate ≠ .cold) ∧
    (∃ (s : State), s.dev.dstate ≠ .cold ∧ s.dev.perstN = false ∧ s.dev.lhOnly = false) :=
  ⟨⟨st 0, by decide +kernel⟩,
   ⟨st 1, by decide +kernel⟩,
   ⟨st 0, by decide +kernel⟩,
   ⟨st 0, by decide +kernel⟩⟩

/-- The hypotheses of the clauses of UnitResets, a part of HostAndUnitResets, are met. -/
theorem meets_UnitResets :
    (∃ (s : State), ∃ (n : Fin 192), s.hostOpen 0xB104 ∧ s.dev.dstate ≠ .cold ∧ s.dev.ember = none ∧ s.islOff (193 + n / 8) = false ∧ 256 + n.val ∉ s.dev.units) ∧
    (∃ (s : State), ∃ (k : Fin 24), s.hostOpen 0xB104 ∧ s.dev.dstate ≠ .cold ∧ s.dev.ember = none ∧ s.islOff (193 + k) = false ∧ 512 + k.val ∉ s.dev.units) ∧
    (∃ (s : State), ∃ (k : Fin 24), s.hostOpen 0xB104 ∧ s.dev.dstate ≠ .cold ∧ s.islOff (193 + k) = true) ∧
    (∃ (s : State), ∃ (n : Fin 9), s.hostOpen 0xB104 ∧ s.dev.dstate ≠ .cold ∧ s.dev.ember = none ∧ 768 + n.val ∉ s.dev.units) ∧
    (∃ (s : State), ∃ (n : Fin 9), s.hostOpen 0xB104 ∧ s.dev.dstate ≠ .cold ∧ s.dev.ember = none ∧ 1024 + n.val ∉ s.dev.units) ∧
    (∃ (s : State), ∃ (g : Fin 8), s.hostOpen 0xB104 ∧ s.dev.dstate ≠ .cold ∧ s.dev.ember = none ∧ 1280 + g.val ∉ s.dev.units) ∧
    (∃ (s : State), ∃ (g : Fin 8), s.hostOpen 0xB104 ∧ s.dev.dstate ≠ .cold ∧ s.dev.ember = none ∧ 1536 + g.val ∉ s.dev.units) ∧
    (∃ (s : State), ∃ (h : Fin 2), s.hostOpen 0xB104 ∧ s.dev.dstate ≠ .cold ∧ s.dev.ember = none ∧ 1792 + h.val ∉ s.dev.units) ∧
    (∃ (s : State), s.hostOpen 0xB104 ∧ s.dev.dstate ≠ .cold ∧ s.dev.ember = none ∧ 2048 ∉ s.dev.units) ∧
    (∃ (s : State), 2048 ∈ s.dev.units) ∧
    (∃ (s : State), ∃ (h : Fin 2), s.dev.dstate ≠ .cold ∧ s.hcUp h = true ∧ (s.hc h).lockFaults = []) ∧
    (∃ (s : State), ∃ (h : Fin 2), s.hcUp h = false ∧ s.boot.inSvc = []) ∧
    (∃ (s : State), s.mayReload = false) :=
  ⟨⟨st 0, 0, by unfold State.hostOpen; decide +kernel⟩,
   ⟨st 0, 0, by unfold State.hostOpen; decide +kernel⟩,
   ⟨st 6, 0, by unfold State.hostOpen; decide +kernel⟩,
   ⟨st 0, 0, by unfold State.hostOpen; decide +kernel⟩,
   ⟨st 0, 0, by unfold State.hostOpen; decide +kernel⟩,
   ⟨st 0, 0, by unfold State.hostOpen; decide +kernel⟩,
   ⟨st 0, 0, by unfold State.hostOpen; decide +kernel⟩,
   ⟨st 0, 0, by unfold State.hostOpen; decide +kernel⟩,
   ⟨st 0, by unfold State.hostOpen; decide +kernel⟩,
   ⟨st 4, by decide +kernel⟩,
   ⟨st 0, 0, by decide +kernel⟩,
   ⟨st 5, 0, by decide +kernel⟩,
   ⟨st 5, by decide +kernel⟩⟩

end Sys2Proof.Tests.Set9


namespace Sys2Proof.Tests.Set10

def base : List State := [5,6].map (fun n => State.reset.setRegFld (pBoot+0x100) 0 4 n)
def sts : List State := base.flatMap (fun s => [DState.staged,.protect,.sealed,.cold,.boot,.zeroized].map (fun d => s.withDev {s.dev with dstate := d}))
def more : List State := sts.flatMap (fun s => [s,
    ((s.setReg 0xC110 0x8001).withDev {s.dev with zeroing := some 3, tampRun := [1,0,1,1]}).withSaf { s.saf with proofArmed := true},
    (((s.withSaf { s.saf with active := [60,62]}).withVault { s.vault with policy := 8 }).setPst (1+5) 1).setPst 1 1, s.setReg 0xC034 1])
def st (i : Nat) : State := (more).getD i State.reset


/-- The hypotheses of the clauses of SealedState, a part of SealAndZeroize, are met. -/
theorem meets_SealedState :
    (∃ (s : State), s.hostOpen 0xC104) ∧
    (∃ (s : State), ∃ v, s.hostOpen 0xC104 ∧ v ≠ 0x5345414C) ∧
    (∃ (s : State), Running s) ∧
    (∃ (s : State), ∃ kind, ∃ detail, ∃ inj, s.dev.dstate = .sealed ∧ s.causeMet kind detail inj = false ∧ bit (s.reg 0xC110) 15 = false) ∧
    (∃ (s : State), ∃ kind, ∃ detail, ∃ inj, s.dev.dstate = .sealed ∧ s.causeMet kind detail inj = false ∧ bit (s.reg 0xC110) 15 = true) ∧
    (∃ (s : State), ∃ kind, ∃ detail, ∃ inj, ∃ n, ∃ d, s.dev.dstate = .sealed ∧ s.causeMet kind detail inj = false ∧ s.saf.entry = some (n, d) ∧ n = s.lclk ∧
      sealRank kind detail < reasonRank (s.reg 0xC108)) ∧
    (∃ (s : State), ∃ kind, ∃ detail, ∃ inj, ∃ n, ∃ d, s.dev.dstate = .sealed ∧ s.causeMet kind detail inj = false ∧ s.saf.entry = some (n, d) ∧ n ≠ s.lclk) ∧
    (∃ (s : State), s.saf.active ≠ []) ∧
    (∃ (s : State), s.saf.injected = []) ∧
    (∃ (s : State), ∃ a, ∃ b, s.saf.injected = [] ∧ (a = false ∨ b = false)) :=
  ⟨⟨st 0, by unfold State.hostOpen; decide +kernel⟩,
   ⟨st 0, 0, by unfold State.hostOpen; decide +kernel⟩,
   ⟨st 0, by unfold Running; decide +kernel⟩,
   ⟨st 8, 1, 60, false, by decide +kernel⟩,
   ⟨st 9, 1, 60, false, by decide +kernel⟩,
   ⟨((st 8).withSaf { (st 8).saf with entry := some (0, 3) }).setReg 0xC108 0x8003, 1, 60, false, 0, 3, by decide +kernel⟩,
   ⟨((st 8).withSaf { (st 8).saf with entry := some (1, 3) }).setReg 0xC108 0x8003, 1, 60, false, 1, 3, by decide +kernel⟩,
   ⟨st 2, by decide +kernel⟩,
   ⟨st 0, by decide +kernel⟩,
   ⟨st 0, true, false, by decide +kernel⟩⟩

/-- The hypotheses of the clauses of TamperAndZeroize, a part of SealAndZeroize, are met. -/
theorem meets_TamperAndZeroize :
    (∃ (s : State), s.dev.dstate = .cold) ∧
    (∃ (s : State), s.dev.dstate ≠ .cold) ∧
    (∃ (s : State), s.dev.dstate ≠ .cold ∧ s.vault.policy.getLsbD 2 = true) ∧
    (∃ (s : State), s.dev.dstate ≠ .cold ∧ s.vault.policy.getLsbD 2 = false) ∧
    (∃ (s : State), ∃ (n : Fin 4), ∃ sns, s.dev.tampDriven.length = 4 ∧ s.dev.tampRun.length = 4 ∧ s.dev.tampDriven.getD n false = sns) ∧
    (∃ (s : State), ∃ (n : Fin 4), ∃ sns, s.dev.tampRun.length = 4 ∧ s.dev.tampDriven.getD n false ≠ sns ∧ s.dev.tampRun.getD n 9 = 0) ∧
    (∃ (s : State), ∃ (n : Fin 4), ∃ sns, s.dev.tampRun.length = 4 ∧ s.dev.tampDriven.getD n false ≠ sns ∧ s.dev.tampRun.getD n 9 = 1) ∧
    (∃ (s : State), ∃ r, s.dev.zeroing = some r) :=
  ⟨⟨st 12, by decide +kernel⟩,
   ⟨st 0, by decide +kernel⟩,
   ⟨st 0, by decide +kernel⟩,
   ⟨st 2, by decide +kernel⟩,
   ⟨st 0, 0, false, by decide +kernel⟩,
   ⟨st 0, 0, true, by decide +kernel⟩,
   ⟨st 1, 0, true, by decide +kernel⟩,
   ⟨st 1, 3, by decide +kernel⟩⟩

/-- The hypotheses of the clauses of FaultLines, a part of FaultsAndScrubs, are met. -/
theorem meets_FaultLines :
    (∃ (s : State), ∃ pb, ∃ b, ∃ n, s.dev.dstate ≠ .cold ∧ evNum pb b = some n ∧ ftClass n ≠ 2 ∧ b < 32 ∧ (pb < 0xB0000 ∨ 0x100000 ≤ pb)) ∧
    (∃ (s : State), ∃ pb, ∃ b, ∃ n, s.dev.dstate ≠ .cold ∧ evNum pb b = some n ∧ ftClass n = 2 ∧ Running s) ∧
    (∃ (s : State), ∃ (p : Page), ∃ (b : Fin 6), s.dev.dstate ≠ .cold ∧ (p, b) ∈ [(.cfg, 0), (.lhs, 0), (.lhs, 1), (.pwr, 0), (.rst, 0), (.boot, 0)]) ∧
    (∃ (s : State), ∃ (b : Fin 2), s.dev.dstate ≠ .cold ∧ b.val = 0) ∧
    (∃ (s : State), s.dev.dstate ≠ .cold ∧ s.hostOpen 0xC118) ∧
    (∃ (s : State), s.dev.dstate ≠ .cold ∧ s.hostOpen 0x5002C ∧ s.saf.proofArmed = true) ∧
    (∃ (s : State), s.dev.dstate ≠ .cold ∧ s.hostOpen 0x5002C ∧ s.saf.proofArmed = false) :=
  ⟨⟨st 0, 0, 0, 0, by decide +kernel⟩,
   ⟨st 0, 0x8000, 0, 28, by unfold Running; decide +kernel⟩,
   ⟨st 0, Sys2Proof.Page.cfg, 0, by decide +kernel⟩,
   ⟨st 0, 0, by decide +kernel⟩,
   ⟨st 0, by unfold State.hostOpen; decide +kernel⟩,
   ⟨st 1, by unfold State.hostOpen; decide +kernel⟩,
   ⟨st 0, by unfold State.hostOpen; decide +kernel⟩⟩

/-- The hypotheses of the clauses of Scrubs, a part of FaultsAndScrubs, are met. -/
theorem meets_Scrubs :
    (∃ (s : State), ∃ (h : Fin 2), ∃ v, s.dev.dstate ≠ .cold ∧ s.saf.injected = [] ∧ s.hostOpen (0x60108 + 0x1000 * h) ∧ s.hbmOn h = true ∧ bit v 8 = true ∧
      fld (s.reg (0x60100 + 0x1000 * h)) (fld v 0 5) 1 = 0) ∧
    (∃ (s : State), ∃ (h : Fin 2), ∃ n, s.dev.dstate ≠ .cold ∧ s.saf.injected = [] ∧ s.hbmOn h = true ∧ bit (s.reg (0x60118 + 0x1000 * h)) 0 = true ∧
      (s.reg (0x6010C + 0x1000 * h)).toNat + n < 2 ^ 32) ∧
    (∃ (s : State), ∃ n, s.dev.dstate ≠ .cold ∧ s.saf.injected = [] ∧ (s.reg 0x8110).toNat + n < 2 ^ 32) ∧
    (∃ (s : State), ∃ (n : Fin 192), s.dev.dstate ≠ .cold ∧ s.saf.injected = [] ∧ s.awake n = true) ∧
    (∃ (s : State), ∃ (k : Fin 24), ∃ n, s.dev.dstate ≠ .cold ∧ s.saf.injected = [] ∧ s.islOff (193 + k) = false ∧ (s.reg (0x100128 + 0x10000 * k)).toNat + n < 2 ^ 32) ∧
    (∃ (s : State), ∃ (k : Fin 24), s.dev.dstate ≠ .cold ∧ s.saf.injected = [] ∧ s.islOff (193 + k) = false) ∧
    (∃ (s : State), ∃ (k : Fin 24), ∃ a, s.dev.dstate ≠ .cold ∧ s.saf.injected = [] ∧ s.islOff (193 + k) = false ∧ a < 2048) ∧
    (∃ (s : State), ∃ (k : Fin 24), ∃ a, s.dev.dstate ≠ .cold ∧ s.saf.injected = [] ∧ s.islOff (193 + k) = false ∧ 2048 ≤ a ∧ k.val ∉ s.kiln.parity ∧ s.hcUp 1 = true) :=
  ⟨⟨st 0, 0, 4294967295, by unfold State.hostOpen; decide +kernel⟩,
   ⟨st 0, 0, 0, by decide +kernel⟩,
   ⟨st 0, 0, by decide +kernel⟩,
   ⟨st 0, 0, by decide +kernel⟩,
   ⟨st 0, 0, 0, by decide +kernel⟩,
   ⟨st 0, 0, by decide +kernel⟩,
   ⟨st 0, 0, 0, by decide +kernel⟩,
   ⟨st 0, 0, 7696581394432, by decide +kernel⟩⟩

end Sys2Proof.Tests.Set10


namespace Sys2Proof.Tests.Set11

def base : List State := [5].map (fun n => State.reset.setRegFld (pBoot+0x100) 0 4 n)
def sts : List State := base.flatMap (fun s => [DState.staged,.sealed,.cold].map (fun d => s.withDev {s.dev with dstate := d}))
def pstall (s : State) (ps : Nat) (cmd : Bool) (kept : Option Bool) : State := (List.range 259).foldl (fun s i => s.setIsland (i+1) {s.island (i+1) with ps := ps, cmd := cmd, kept := kept}) s
def more : List State := sts.flatMap (fun s => [s, pstall s 0 false none, pstall s 1 true none, pstall s 2 true none, pstall s 3 true none,
    ((List.range 24).foldl (fun s k => s.setReg (pKln k + 0x104) 3) s).withKiln {s.kiln with patched := List.range 24},
  ((List.range 192).foldl (fun s k => s.setPst (1+k) 0) s), ((List.range 192).foldl (fun s k => s.setPst (1+k) 0) (pstall s 1 false none)),
    (pstall s 0 false none).setReg 0x9110 1, ((List.range 0x4d).foldl (fun s k => s.setReg (0x1000*k+0x34) 1) s).setReg (0x60034) 1,
  ({s with pci := {s.pci with due := [0,2], msixEn := true, busMaster := true, table := [(2,{ctrl := 0, data := 5, addrLo := 0x1000, addrHi := 3})], routes := [(3,0x100),(7,0x102),(351,0x300)]}}.setReg 0x14 0xFF).setReg 0x10 0xFF,
    (s.setReg (pCls + 0x14) 5).withGen {s.gen with live := [(pHpt 0+0x100,1)]} ])
def st (i : Nat) : State := (more).getD i State.reset


/-- The hypotheses of the clauses of Islands are met. -/
theorem meets_Islands :
    (∃ (s : State), ∃ (i : Fin 260), IslOpen s i ∧ s.pst i = 0) ∧
    (∃ (s : State), ∃ (i : Fin 260), IslOpen s i ∧ s.pst i = 1) ∧
    (∃ (s : State), ∃ (i : Fin 260), IslOpen s i ∧ s.pst i = 2) ∧
    (∃ (s : State), ∃ (i : Fin 260), s.hostOpen 0x9100 ∧ s.dev.lhOnly = false ∧ s.dev.ember = none ∧ s.cmdIsland i = false) ∧
    (∃ (s : State), ∃ (i : Fin 260), 251 ≤ i.val ∧ IslOpen s i ∧ s.pst i = 1 ∧ s.downRule i = 0) ∧
    (∃ (s : State), ∃ (k : Fin 24), IslOpen s (193 + k) ∧ s.pst (193 + k) = 1 ∧ s.downRule (193 + k) = 0) ∧
    (∃ (s : State), ∃ (i : Fin 260), IslOpen s i ∧ (s.pst i = 0 ∨ s.pst i = 1) ∧ s.downRule i ≠ 0) ∧
    (∃ (s : State), ∃ (i : Fin 260), s.pst i = 3 ∧ (s.island i).cmd = true) ∧
    (∃ (s : State), ∃ (i : Fin 260), s.pst i = 3 ∧ (s.island i).cmd = true ∧ 251 ≤ i.val) ∧
    (∃ (s : State), ∃ (i : Fin 260), s.pst i = 2 ∧ (s.island i).cmd = true) ∧
    (∃ (s : State), ∃ (i : Fin 260), 2 ≤ s.pst i) ∧
    (∃ (s : State), ∃ (n : Fin 192), s.awake n = true ∧ s.engBusy n = false) ∧
    (∃ (s : State), ∃ (n : Fin 192), s.pst (1 + n) = 0 ∧ s.islOff (193 + n / 8) = false) ∧
    (∃ (s : State), ∃ (k : Fin 24), ((∀ e : Fin 8, s.pst (1 + 8 * k + e) = 0)) ∧ s.islOff (193 + k) = false) ∧
    (∃ (s : State), s.hostOpen 0x910C ∧ s.dev.lhOnly = false ∧ s.deepIdle = false ∧ s.dev.ember = none ∧ s.poolBusy = false ∧ s.peerKeyed = 0) ∧
    (∃ (s : State), s.hostOpen 0x910C ∧ s.dev.lhOnly = false ∧ s.deepIdle = false ∧ s.poolBusy = true) ∧
    (∃ (s : State), s.hostOpen 0x910C ∧ s.deepIdle = true) :=
  ⟨⟨(st 0).setPst 193 0, 193, by unfold IslOpen State.hostOpen; decide +kernel⟩,
   ⟨st 0, 193, by unfold IslOpen State.hostOpen; decide +kernel⟩,
   ⟨st 3, 193, by unfold IslOpen State.hostOpen; decide +kernel⟩,
   ⟨st 0, 0, by unfold State.hostOpen; decide +kernel⟩,
   ⟨st 0, 251, by unfold IslOpen State.hostOpen; decide +kernel⟩,
   ⟨st 5, 0, by unfold IslOpen State.hostOpen; decide +kernel⟩,
   ⟨st 0, 193, by unfold IslOpen State.hostOpen; decide +kernel⟩,
   ⟨st 4, 1, by decide +kernel⟩,
   ⟨st 4, 251, by decide +kernel⟩,
   ⟨st 3, 1, by decide +kernel⟩,
   ⟨st 3, 1, by decide +kernel⟩,
   ⟨st 0, 0, by decide +kernel⟩,
   ⟨st 6, 0, by decide +kernel⟩,
   ⟨st 6, 0, by decide +kernel⟩,
   ⟨st 0, by unfold State.hostOpen; decide +kernel⟩,
   ⟨st 11, by unfold State.hostOpen; decide +kernel⟩,
   ⟨(st 0).setReg 0x9110 1, by unfold State.hostOpen; decide +kernel⟩⟩

/-- The hypotheses of the clauses of PageHeaders are met. -/
theorem meets_PageHeaders :
    (∃ (s : State), ∃ (p : Page), HeaderOpen s (pageOff p + 0x34)) ∧
    (∃ (s : State), ∃ (p : Page), HeaderOpen s (pageOff p + 0x18)) ∧
    (∃ (s : State), ∃ (p : Page), pageOff p < 0x100000 ∧ s.hostOpen (pageOff p + 0x1C)) ∧
    (∃ (s : State), ∃ (p : Page), pageOff p < 0x100000 ∧ s.hostOpen (pageOff p + 0x14)) ∧
    (∃ (s : State), ∃ (p : Page), HeaderOpen s (pageOff p + 0x28)) ∧
    (∃ (s : State), ∃ (p : Page), s.hostGone = false ∧ s.dev.h48 = true ∧ pageOff p < 0xA0000 ∧ s.locked (pageOff p) = true ∧ pageOff p ≠ 0x4000) ∧
    (∃ (s : State), ∃ (n : Fin 640), s.hostOpen (0x3100 + 4 * n)) ∧
    (∃ (s : State), ∃ (v : Fin 256), v.val ∈ s.pci.due ∧ s.msixOpen v = true) ∧
    (∃ (s : State), ∃ (v : Fin 256), v.val ∈ s.pci.due ∧ s.msixOpen v = false) :=
  ⟨⟨st 0, Sys2Proof.Page.cfg, by unfold HeaderOpen; decide +kernel⟩,
   ⟨st 0, Sys2Proof.Page.cfg, by unfold HeaderOpen; decide +kernel⟩,
   ⟨st 0, Sys2Proof.Page.cfg, by unfold State.hostOpen; decide +kernel⟩,
   ⟨st 0, Sys2Proof.Page.cfg, by unfold State.hostOpen; decide +kernel⟩,
   ⟨st 0, Sys2Proof.Page.cfg, by unfold HeaderOpen; decide +kernel⟩,
   ⟨st 9, Sys2Proof.Page.cfg, by decide +kernel⟩,
   ⟨st 0, 0, by unfold State.hostOpen; decide +kernel⟩,
   ⟨st 10, 2, by decide +kernel⟩,
   ⟨st 10, 0, by decide +kernel⟩⟩

end Sys2Proof.Tests.Set11


namespace Sys2Proof.Tests.Set12

def base : List State := [5].map (fun n => State.reset.setRegFld (pBoot+0x100) 0 4 n)
def sts : List State := base.flatMap (fun s => [DState.staged,.boot,.cold].map (fun d => s.withDev {s.dev with dstate := d, resetN := true, extest := some []}))
def ringS (s : State) (v tail : Word) : State := [0].foldl (fun s r => ((s.setReg (pRing r + 0x108) v).setReg (pRing r + 0x110) tail)) (s.withPci {s.pci with busMaster := true})
def more : List State := sts.flatMap (fun s => [s, s.withGen {s.gen with phase := 1, green := [(0x1000000,5)], live := [(0x1000000,3)]},
    s.withGen {s.gen with phase := 2, green := [(0x1000000,1)], live := [(0x1000000,3)]},s.withGen {s.gen with phase := 2,green := [(pCfg,3)]},
    s.withGen {s.gen with phase := 3, green := [(0x70100,5)], passed := [3]}, s.withGen {s.gen with phase := 3, liveNo := 5, green := [(0x70100,5)], passed := [3]},
    s.withGen {s.gen with refireOk := true, prev := [(0x1000,3)]}, ringS s 0x116 4, ringS s 0x10016 0, ringS s 0x26 0, ringS s 0x1 0,
    (((s.setReg 0x8110 7).setReg 0x9114 9).setReg 0x9118 2 |>.setPst 1 1), (((List.range 4).foldl (fun s k => s.setPst (1+k) 1) s).setReg (pBoot + 0x11C) 1),
    ((List.range 4).foldl (fun s k => (s.setPst (1+k) 1).setReg (pEng k + 0x104) 0) s).setReg (pBoot + 0x11C) 1,
    {s with cnt := [(ccOff 0 0, 5), (ccOff 1 3, 0x700000009), (ccOff 8191 15, 3)], mem := [(3,5),(9,1)]} ])
def chk0 : State := let s := (State.reset.withDev {State.reset.dev with dstate := .staged}); s.withGen {s.gen with phase := 2, green := (List.range 16).flatMap (fun i => (List.range 4).map (fun n => (pPort (8 ≤ i) (i % 8) + 0x110 + 4 * n, 0)))}
def badc : State := (State.reset.withDev {State.reset.dev with dstate := .staged}).withGen {(State.reset.withDev {State.reset.dev with dstate := .staged}).gen with phase := 2, green := [(0x1000000,0xF)]}
def st (i : Nat) : State := (more ++ [chk0,badc]).getD i State.reset
def checked : State := (st 2).withGen {(st 2).gen with green := (List.range 16).flatMap (fun i => (List.range 4).map (fun n => (pPort (8 ≤ i) (i % 8) + 0x110 + 4 * n, 0)))}

/-- The hypotheses of the clauses of RegisterAccess, a part of RegistersAndDebug, are met. -/
theorem meets_RegisterAccess :
    (∃ (s : State), ∃ pg, ∃ o, ∃ (r : Row), RowOpen s pg o r ∧ r.acc = .rw ∧ pg ≠ 0x90 ∧ pg ≠ 0x78) ∧
    (∃ (s : State), ∃ pg, ∃ o, ∃ (r : Row), RowOpen s pg o r ∧ r.acc = .w1c) ∧
    (∃ (s : State), ∃ pg, ∃ o, ∃ (r : Row), RowOpen s pg o r ∧ (r.acc = .ro ∨ r.acc = .rc)) ∧
    (∃ (s : State), ∃ (off : Word), ∃ size, s.hostGone = false ∧ off.toNat < 0x4000000 ∧ (¬(size = 4 ∧ off.toNat % 4 = 0)) ∧ (¬(size = 8 ∧ off.toNat % 8 = 0))) ∧
    (∃ (s : State), ∃ (off : Word), ∃ m, s.hostGone = false ∧ off.toNat < 0x4000000 ∧ 0x1000000 ≤ off.toNat ∧ off.toNat % 4 = 0 ∧ stagedMask off.toNat = some m ∧
      s.gen.phase = 1) ∧
    (∃ (s : State), ∃ (off : Word), ∃ m, s.hostGone = false ∧ off.toNat < 0x4000000 ∧ 0x1000000 ≤ off.toNat ∧ off.toNat % 4 = 0 ∧ stagedMask off.toNat = some m ∧
      s.gen.phase ≠ 1) ∧
    (∃ (s : State), ∃ (off : Word), s.hostGone = false ∧ off.toNat < 0x4000000 ∧ off.toNat % 4 = 0) ∧
    (∃ (s : State), ∃ (off : Word), s.hostGone = false ∧ off ∈ [0x8110#32, 0x9114#32, 0x9118#32, 0x911C#32]) ∧
    (∃ (s : State), ∃ (c : Nat), ∃ (n : Nat), s.hostGone = false ∧ s.islOff 251 = false ∧ c < 8192 ∧ n < 16) ∧
    (∃ (s : State), ∃ (c : Nat), ∃ (n : Nat), s.hostOpen 0x20128 ∧ c < 8192 ∧ n < 16) :=
  ⟨⟨st 0, 9, 260, ⟨260, 4, 1, .rw, 0x64, 0x3FFF⟩, by unfold RowOpen State.hostOpen; exact ⟨⟨by decide +kernel, by decide +kernel, ⟨rowsPwr, 0, by decide +kernel, by decide +kernel⟩, by decide +kernel, fun _ => rfl⟩, by decide +kernel⟩⟩,
   ⟨st 0, 112, 552, ⟨552, 64, 8, .w1c, 0, 0xFFF⟩, by unfold RowOpen State.hostOpen; exact ⟨⟨by decide +kernel, by decide +kernel, ⟨rowsSns, 256, by decide +kernel, by decide +kernel⟩, by decide +kernel, fun _ => rfl⟩, by decide +kernel⟩⟩,
   ⟨st 0, 4, 260, ⟨260, 4, 1, .ro, 0, 0xFFFFFFFF⟩, by unfold RowOpen State.hostOpen; exact ⟨⟨by decide +kernel, by decide +kernel, ⟨rowsPci, 259, by decide +kernel, by decide +kernel⟩, by decide +kernel, fun _ => rfl⟩, by decide +kernel⟩⟩,
   ⟨st 0, 0, 0, by decide +kernel⟩,
   ⟨st 1, 0x1000000, (stagedMask 0x1000000).getD 0, by decide +kernel⟩,
   ⟨st 0, 0x1000000, (stagedMask 0x1000000).getD 0, by decide +kernel⟩,
   ⟨st 0, 0, by decide +kernel⟩,
   ⟨st 0, 33040, by decide +kernel⟩,
   ⟨st 0, 0, 0, by decide +kernel⟩,
   ⟨st 0, 0, 0, by unfold State.hostOpen; decide +kernel⟩⟩

/-- The hypotheses of the clauses of DmaRings are met. -/
theorem meets_DmaRings :
    (∃ (s : State), ∃ (r : Fin 64), ∃ v, s.hostOpen (0xB0108 + 0x1000 * r) ∧ bit v 8 = false) ∧
    (∃ (s : State), ∃ (r : Fin 64), ∃ v, s.hostOpen (0xB0108 + 0x1000 * r) ∧ bit v 8 = true ∧ fld (s.reg (0xB0108 + 0x1000 * r)) 8 1 = 0 ∧
      6 ≤ fld (s.reg (0xB0108 + 0x1000 * r)) 0 4 ∧ fld (s.reg (0xB0108 + 0x1000 * r)) 4 2 ≠ 3) ∧
    (∃ (s : State), ∃ (r : Fin 64), ∃ v, s.hostOpen (0xB0108 + 0x1000 * r) ∧ bit v 8 = true ∧ fld (s.reg (0xB0108 + 0x1000 * r)) 8 1 = 0 ∧
      fld (s.reg (0xB0108 + 0x1000 * r)) 0 4 < 6) ∧
    (∃ (s : State), ∃ (r : Fin 64), ∃ (v : Word), s.hostOpen (0xB0110 + 0x1000 * r) ∧ fld (s.reg (0xB0108 + 0x1000 * r)) 4 2 = 1 ∧
      ((v &&& 0xFFFF).toNat + 65536 - (s.reg (0xB010C + 0x1000 * r)).toNat) % 65536 ≤ ringSize (s.reg (0xB0108 + 0x1000 * r))) ∧
    (∃ (s : State), ∃ (r : Fin 64), ∃ (v : Word), s.hostOpen (0xB0110 + 0x1000 * r) ∧ fld (s.reg (0xB0108 + 0x1000 * r)) 4 2 = 1 ∧ s.ringOn r = true ∧
      ringSize (s.reg (0xB0108 + 0x1000 * r)) < ((v &&& 0xFFFF).toNat + 65536 - (s.reg (0xB010C + 0x1000 * r)).toNat) % 65536) ∧
    (∃ (s : State), ∃ (r : Fin 64), ∃ d, s.ringNext (r.val / 8) = some r.val ∧ s.hostGone = false ∧ s.pci.busMaster = true ∧ copyCode d = 2) ∧
    (∃ (s : State), ∃ (r : Fin 64), ∃ d, ∃ w, s.ringNext (r.val / 8) = some r.val ∧ s.hostGone = false ∧ s.pci.busMaster = true ∧ copyCode d = 0 ∧ d.len = 4 ∧
      d.dflags = 0 ∧ ((s.ringTurn r).dwordWrite d.barOff.toNat w).ringOn r = true) ∧
    (∃ (s : State), ∃ (r : Fin 64), s.ringNext (r.val / 8) ≠ some r.val) ∧
    (∃ code, code ≠ 4) :=
  ⟨⟨st 0, 0, 0, by unfold State.hostOpen; decide +kernel⟩,
   ⟨st 8, 0, 4294967295, by unfold State.hostOpen; decide +kernel⟩,
   ⟨st 0, 0, 4294967295, by unfold State.hostOpen; decide +kernel⟩,
   ⟨ringS (st 0) 0x10016 4, 0, 4, by unfold State.hostOpen; decide +kernel⟩,
   ⟨ringS (st 0) 0x116 0, 0, 0xFFFF, by unfold State.hostOpen; decide +kernel⟩,
   ⟨st 7, 0, ⟨0x1000,0x9104,3,0⟩, by decide +kernel⟩,
   ⟨st 7, 0, ⟨0x1000,0x9104,4,0⟩, 0, by decide +kernel⟩,
   ⟨st 0, 0, by decide +kernel⟩,
   ⟨0, by decide +kernel⟩⟩

/-- The hypotheses of the clauses of Generations are met. -/
theorem meets_Generations :
    (∃ (s : State), ∃ v, s.hostOpen 0x1100 ∧ bit v 0 = true ∧ s.gen.phase = 0) ∧
    (∃ (s : State), ∃ v, s.hostOpen 0x110C ∧ bit v 0 = true ∧ s.gen.phase = 1) ∧
    (∃ (s : State), ∃ v, s.hostOpen 0x1104 ∧ bit v 0 = true) ∧
    (∃ (s : State), ∃ v, s.hostOpen 0x1108 ∧ bit v 0 = true) ∧
    (∃ (s : State), ∃ pg, s.gen.phase = 2 ∧ s.gen.refire = false ∧ s.tableChecks.allChecks.2 = some pg) ∧
    (∃ (s : State), s.gen.phase = 2 ∧ s.tableChecks.allChecks.2 = none) ∧
    (∃ (s : State), s.gen.phase = 3) ∧
    (∃ (s : State), s.gen.phase = 3) ∧
    (∃ (s : State), s.gen.phase = 3 ∧ s.allPassed = false) ∧
    (∃ (s : State), s.gen.phase = 3 ∧ s.allPassed = true ∧ s.finishOld.closeRecast.regroupAll.gen.liveNo ≠ 0) ∧
    (∃ (s : State), ∃ ns, s.gen.phase = 3 ∧ s.allPassed = true ∧ s.finishOld.closeRecast.regroupAll.gen.liveNo = 0 ∧
      (s.finishOld.closeRecast.regroupAll.switchOver ns).dev.dstate = .boot ∧ (s.finishOld.closeRecast.regroupAll.switchOver ns).dev.ember = none) :=
  ⟨⟨st 0, 1, by unfold State.hostOpen; decide +kernel⟩,
   ⟨st 1, 1, by unfold State.hostOpen; decide +kernel⟩,
   ⟨st 0, 1, by unfold State.hostOpen; decide +kernel⟩,
   ⟨st 0, 1, by unfold State.hostOpen; decide +kernel⟩,
   ⟨st 2, 65536, by decide +kernel⟩,
   ⟨checked, by decide +kernel⟩,
   ⟨st 4, by decide +kernel⟩,
   ⟨st 4, by decide +kernel⟩,
   ⟨(st 4).withGen { (st 4).gen with phase := 3, passed := [], live := [(pPort false 0 + 0x100, 1), (pPort false 0 + 0x110, 1)] }, by decide +kernel⟩,
   ⟨st 5, by decide +kernel⟩,
   ⟨st 19, 0, by decide +kernel⟩⟩

/-- The hypotheses of the clauses of Debug, a part of RegistersAndDebug, are met. -/
theorem meets_Debug :
    (∃ (s : State), ∃ (n : Fin 192), s.debugOpen = true ∧ s.sealedRun n = false ∧ s.islOff (193 + n.val / 8) = false) ∧
    (∃ (s : State), ∃ (n : Fin 192), s.debugOpen = true ∧ s.sealedRun n = false ∧ s.engHalted n = true) ∧
    (∃ (s : State), s.debugOpen = true) ∧
    (∃ (s : State), ∃ a, s.debugOpen = true ∧ s.sealedCell a = false) ∧
    (∃ (s : State), ∃ a, s.debugOpen = true ∧ s.sealedCell a = false ∧ Memory.wf s.mem = true) ∧
    (∃ (s : State), ∃ a, (s.debugOpen = false ∨ s.sealedCell a = true)) ∧
    (∃ (s : State), ∃ (n : Fin 192), ∃ v, s.barred (pEng n + 0x104) = none ∧ fld (s.reg (pEng n + 0x104)) 0 1 = 0 ∧ bit v 0 = true) ∧
    (∃ (s : State), ∃ (n : Fin 192), ∃ v, s.barred (pEng n + 0x104) = none ∧ fld (s.reg (pEng n + 0x104)) 0 1 = 1 ∧ bit v 0 = false) :=
  ⟨⟨st 12, 0, by decide +kernel⟩,
   ⟨st 12, 0, by decide +kernel⟩,
   ⟨st 12, by decide +kernel⟩,
   ⟨st 12, 0, by decide +kernel⟩,
   ⟨st 12, 0, by decide +kernel⟩,
   ⟨st 0, 0, by decide +kernel⟩,
   ⟨st 13, 0, 1, by decide +kernel⟩,
   ⟨st 0, 0, 0, by decide +kernel⟩⟩

end Sys2Proof.Tests.Set12


namespace Sys2Proof.Tests.Set13

def frm (et : Nat) (n : Nat) : List Byte := List.replicate 12 9 ++ beBytes 2 et ++ List.replicate n 0
def base : List State := [5].map (fun n => State.reset.setRegFld (pBoot+0x100) 0 4 n)
def lv1 (m : Nat) (miss : Nat) (gb : Nat) : Tbl Word := (List.range 1).flatMap (fun g => [(pHpt g + 0x100, w32 (m+gb)), (pSpt g + 0x100, w32 (m+gb)),(pHpt g + 0x110,
    1)]) ++ (List.range 1).map (fun p => (pCls+0x180+4*p, w32 miss))
def ups (s : State) (st : Nat) (f : Port → Port) : State := (List.range 1).foldl (fun s p => (s.setPort false p (f {s.port false p with step := st})).setPort true p (f {s.port true p with step := st})) s
def sts : List State := base.flatMap (fun s => [DState.staged,.protect].map (fun d => [0, 8].foldl (fun s g => s.setPst (217+g) 1) (s.withDev {s.dev with dstate := d})))
def gs (s : State) (m miss gb : Nat) : State := s.withGen {s.gen with live := lv1 m miss gb}
def more : List State := sts.flatMap (fun s => [s, ups (gs s 4 5 0) 6 id, ups (gs s 4 4 0) 6 id, ups (gs s 4 6 0x60) 0 id, ups (gs s 4 6 0x20) 1 id,
    ups (gs s 4 6 0x40) 1 id,ups (gs s 4 6 0x40) 2 id,ups (gs s 4 6 0x40) 3 id,ups (gs s 4 6 0x40) 4 id,ups (gs s 4 6 0x40) 5 id,
    ups (gs s 4 5 0) 6 (fun p => {p with xoffPause := true, paused := true, pfcPaused := 5, srcLost := true, tsf := List.replicate 16 ⟨1,2,3,4⟩}),
    ups (gs s 4 5 0) 6 (fun p => {p with xoffPause := true, xoffPfc := 7,paused := true, pfcPaused := 255, tsfLatch := some ⟨1,2,3,2^90⟩}), ups (gs s 8 5 0) 6 id])
def st (i : Nat) : State := (more).getD i State.reset


/-- The hypotheses of the clauses of HomeIngress, a part of HomeSide, are met. -/
theorem meets_HomeIngress :
    (∃ (s : State), ∃ (p : Fin 32), ∃ (h : HomeFrame), HomeOpen s p ∧ lenOf h.bytes < 64) ∧
    (∃ (s : State), ∃ (p : Fin 32), ∃ (h : HomeFrame), HomeOpen s p ∧ 64 ≤ lenOf h.bytes ∧ lenOf h.bytes ≤ 10240 ∧ h.fcsOk = true ∧
      beNat (cut h.bytes 12 2) = 0x8808 ∧ beNat (cut h.bytes 14 2) = 1 ∧ fld (s.pcfg false false p) 0 2 = 1 ∧ s.gen.phase ≠ 3) ∧
    (∃ (s : State), ∃ (p : Fin 32), ∃ (h : HomeFrame), ∃ c, ∃ miss, HomeOpen s p ∧ 64 ≤ lenOf h.bytes ∧ lenOf h.bytes ≤ 10240 ∧ h.fcsOk = true ∧
      beNat (cut h.bytes 12 2) ≠ 0x8808 ∧ s.gen.phase ≠ 3 ∧ bit (s.pcfg false false p) 4 = false ∧ s.classify false p h.bytes = (1, c, miss)) ∧
    (∃ (s : State), ∃ (p : Fin 32), ∃ (h : HomeFrame), ∃ c, ∃ miss, HomeOpen s p ∧ 64 ≤ lenOf h.bytes ∧ lenOf h.bytes ≤ 10240 ∧ h.fcsOk = true ∧
      beNat (cut h.bytes 12 2) ≠ 0x8808 ∧ s.gen.phase ≠ 3 ∧ bit (s.pcfg false false p) 4 = false ∧ s.classify false p h.bytes = (0, c, miss) ∧
      lenOf h.bytes ≤ s.maxLen false c ∧ c < 8192) ∧
    (∃ (s : State), ∃ (p : Fin 32), (s.port false p).xoffPause = true ∧ (s.port false p).xoffPfc = 0 ∧ s.portUp false p = true) ∧
    (∃ (s : State), ∃ (p : Fin 32), (s.port false p).xoffPfc ≠ 0 ∧ (s.port false p).xoffPfc < 256 ∧ s.portUp false p = true) :=
  ⟨⟨st 14, 0, ⟨frm 0x0800 20, true⟩, by unfold HomeOpen; decide +kernel⟩,
   ⟨st 14, 0, ⟨frm 0x8808 0 ++ [0, 1, 0, 7] ++ List.replicate 60 0, true⟩, by unfold HomeOpen; decide +kernel⟩,
   ⟨st 14, 0, ⟨frm 0x0800 80, true⟩, 1, true, by unfold HomeOpen; decide +kernel⟩,
   ⟨st 15, 0, ⟨frm 0x0800 80, true⟩, 1, true, by unfold HomeOpen; decide +kernel⟩,
   ⟨st 10, 0, by decide +kernel⟩,
   ⟨st 11, 0, by decide +kernel⟩⟩

/-- The hypotheses of the clauses of PortLinks, a part of PortsAndOtn, are met. -/
theorem meets_PortLinks :
    (∃ (s : State), ∃ (side : Side), ∃ (p : Fin 32), PortOn s (sideB side) p ∧ (s.port (sideB side) p).step = 0) ∧
    (∃ (s : State), ∃ (side : Side), ∃ (p : Fin 32), PortOn s (sideB side) p ∧ (s.port (sideB side) p).step = 1) ∧
    (∃ (s : State), ∃ (side : Side), ∃ (p : Fin 32), PortOn s (sideB side) p ∧ (s.port (sideB side) p).step = 2) ∧
    (∃ (s : State), ∃ (side : Side), ∃ (p : Fin 32), PortOn s (sideB side) p ∧ (s.port (sideB side) p).step = 3) ∧
    (∃ (s : State), ∃ (side : Side), ∃ (p : Fin 32), PortOn s (sideB side) p ∧ (s.port (sideB side) p).step = 4 ∧ s.pidBad (sideB side) (p / 4) = false) ∧
    (∃ (s : State), ∃ (side : Side), ∃ (p : Fin 32), ((s.port (sideB side) p).step = 4 ∨ (s.port (sideB side) p).step = 5) ∧ s.pidBad (sideB side) (p / 4) = true) ∧
    (∃ (s : State), ∃ (side : Side), ∃ (p : Fin 32), (s.port (sideB side) p).step = 4) ∧
    (∃ (s : State), ∃ (side : Side), ∃ (p : Fin 32), (s.port (sideB side) p).step = 5 ∧ s.portExists (sideB side) p = true ∧ s.pidBad (sideB side) (p / 4) = false) ∧
    (∃ (s : State), ∃ (p : Fin 32), (s.port false p).step = 6) ∧
    (∃ (s : State), ∃ (p : Fin 32), (s.port true p).step = 6) ∧
    (∃ (s : State), ∃ (side : Side), ∃ (g : Fin 8), ∃ n, s.hostOpen (pPort (sideB side) g + 0x10C) ∧ n < 18) :=
  ⟨⟨st 3, Sys2Proof.Side.home, 0, by unfold PortOn; decide +kernel⟩,
   ⟨st 4, Sys2Proof.Side.home, 0, by unfold PortOn; decide +kernel⟩,
   ⟨st 6, Sys2Proof.Side.home, 0, by unfold PortOn; decide +kernel⟩,
   ⟨st 7, Sys2Proof.Side.home, 0, by unfold PortOn; decide +kernel⟩,
   ⟨st 8, Sys2Proof.Side.home, 0, by unfold PortOn; decide +kernel⟩,
   ⟨(gs (st 8) 8 6 0x40).setReg (pHpt 0 + 0x180) 0x1000, .home, 0, by decide +kernel⟩,
   ⟨st 8, Sys2Proof.Side.home, 0, by decide +kernel⟩,
   ⟨st 9, Sys2Proof.Side.home, 0, by decide +kernel⟩,
   ⟨st 1, 0, by decide +kernel⟩,
   ⟨st 1, 0, by decide +kernel⟩,
   ⟨st 0, Sys2Proof.Side.home, 0, 0, by unfold State.hostOpen; decide +kernel⟩⟩

/-- The hypotheses of the clauses of OtnAndPtp, a part of PortsAndOtn, are met. -/
theorem meets_OtnAndPtp :
    (∃ (s : State), ∃ side, ∃ (g : Fin 8), ∃ d, modeOtn (s.mode (sideB side) g) = true ∧ d &&& 0x17 = 0) ∧
    (∃ (s : State), ∃ side, ∃ (g : Fin 8), ∃ d, modeOtn (s.mode (sideB side) g) = true ∧ OtnLost d) ∧
    (∃ (s : State), ∃ side, ∃ (g : Fin 8), (s.port (sideB side) (4 * g)).srcLost = true) ∧
    (∃ (s : State), ∃ (side : Side), ∃ (p : Fin 32), ∃ (m : PtpSend), s.portUp (sideB side) p = true ∧ s.txOpen = true ∧ s.hcUp 0 = true ∧
      modeOtn (s.mode (sideB side) (p / 4)) = false ∧ m.oneStep = false ∧ (s.port (sideB side) p).tsf.length < 16) ∧
    (∃ (s : State), ∃ (side : Side), ∃ (p : Fin 32), ∃ (m : PtpSend), s.portUp (sideB side) p = true ∧ s.txOpen = true ∧ s.hcUp 0 = true ∧
      modeOtn (s.mode (sideB side) (p / 4)) = false ∧ m.oneStep = false ∧ (s.port (sideB side) p).tsf.length = 16) ∧
    (∃ (s : State), s.hcUp 0 = false) :=
  ⟨⟨st 12, Sys2Proof.Side.home, 0, 0, by decide +kernel⟩,
   ⟨st 12, Sys2Proof.Side.home, 0, 1, by unfold OtnLost; decide +kernel⟩,
   ⟨st 10, Sys2Proof.Side.home, 0, by decide +kernel⟩,
   ⟨st 14, .home, 0, ⟨false, 0, 5, 1, List.replicate 60 3⟩, by decide +kernel⟩,
   ⟨st 23, .home, 0, ⟨false, 0, 5, 1, List.replicate 60 3⟩, by decide +kernel⟩,
   ⟨State.reset.setHc 0 { State.reset.hc 0 with inService := false }, by decide +kernel⟩⟩

end Sys2Proof.Tests.Set13


namespace Sys2Proof.Tests.Set14

def hb (n : Nat) : List Byte := (List.range n).map (fun i => by8 (i*7+1))
def qf (fmt : Nat) : QFrame := { bytes := hb 60, cls := 0, fmt := fmt, conf := 0 }
def ks : KeySlot := { valid := true, epoch := 1, key := hb 32, salt := hb 12 }
def ar (c : Nat) : Arriving := { bytes := hb 60, fcsOk := true, chan := c }
def arr (i : Nat) : Arriving := ([0,1,2].flatMap fun c => [ar c, {ar c with decided := true, resv := 3}, {ar c with decided := true, refused := 2},
    {ar c with decided := true, fcsOk := false},{ar c with decided := true, bytes := hb 11000}]).getD i (ar 0)
def rt : Ret := { pn := 1, epoch := 1, units := 1, rtx := true, len := 100 }
def fl : Flight := { pn := 1, epoch := 1, bytes := hb 60, frame := hb 100 }
def live : Tbl Word := [(pHpt 0+0x100, 4),(pSpt 0+0x100, 4),(pQmg+0x118,0x10),(pQmg + 0x11C,0x10),(pQmg+0x120,0x10),(pQmg+0x104,64),(pQmg+0x10C,100),(pQmg+0x108,0x80C0),
 (0x1000000,1),(0x1000000+8,0x80C00010),(0x1080000,1),(0x1080004,16), (0x1000040,3),(0x1080040,3),(0x1000080,1+2+8),(0x1080080,1+2+8),(0x10000C0,1),(0x10000C8,
    0x80C00000),(0x10800C0,1)]
def b0 : State := let s := State.reset.setRegFld (pBoot+0x100) 0 4 6
  let s := s.withDev {s.dev with dstate := .protect, startHold := false, mono := 12345}
  let s := s.withGen {s.gen with live := live}
  let s := (List.range 4).foldl (fun s p => (s.setPort false p {s.port false p with step := 6}).setPort true p {s.port true p with step := 6}) s
  let s := (s.setPeer 0 {s.peer 0 with sub := .joined}).setPath 0 {s.path 0 with up := true}
  [0,1,2,3].foldl (fun s c => (s.setSlot 0 c 1 ks).setChan c {s.chan c with st := .active, txNext := 7, cur := 1, curEpoch := 1, climit := 1000, ackLimit := 0}) s
def upd (s : State) (f : Chan → Chan) : State := [0,1,2,3].foldl (fun s c => s.setChan c (f (s.chan c))) s
def ringed (k : Nat) (rtx : Bool) : State := [0,1,2,
    3].foldl (fun s c => (List.range k).foldl (fun s i => s.putRet c { pn := i+1, epoch := 1, units := 1, rtx := rtx, tsent := 5 } (hb (100 + i)) false) s) b0
def heldS : State := [0,1,2,3].foldl (fun s c => (s.withMem (holdPut s.mem [3*c,
    3*c+1] (hb 300))).setChan c {s.chan c with q := [{qf 0 with onChip := false, bytes := hb 300, hold := [3*c,3*c+1]}]}) b0
def ring1 : State := (b0.setChan 0 {b0.chan 0 with ret := [{rt with len := 64}], ring := 2 ^ 24, head := 88}).withMem ([(2, 64), (4, 1), (12, 1), (14, 1), (20, 45),
    (21, 92), (22, 177), (23, 60)].map fun e => (spRing 0 + e.1, e.2))
def more : List State := [(ringed 2 true).setPort true 0 {(ringed 2 true).port true 0 with turn := 5}, b0, upd b0 (fun x => {x with q := [qf 0]}),
    upd b0 (fun x => {x with q := [qf 0, qf 0]}), upd b0 (fun x => {x with q := [qf 1]}), heldS, ringed 2 true, ringed 3 false,
    upd (ringed 2 true) (fun x => {x with q := [qf 0], flight := [fl]}),upd b0 (fun x => {x with flight := [{fl with retained := true}, fl]})] ++
  (((List.range 15).map arr).flatMap fun a => [b0.setPort false 0 {b0.port false 0 with arr := some a},
    (upd b0 (fun x => {x with st := .idle})).setPort false 0 {b0.port false 0 with arr := some a}])
def st (i : Nat) : State := (more).getD i State.reset


/-- The hypotheses of the clauses of Admission, a part of HomeSide, are met. -/
theorem meets_Admission :
    (∃ (s : State), ∃ (p : Fin 32), ∃ (a : Arriving), (s.port false p).arr = some a ∧ a.newGen = false ∧ a.decided = false ∧ (s.chan a.chan).st ≠ .active ∧
      (s.chan a.chan).st ≠ .held) ∧
    (∃ (s : State), ∃ (p : Fin 32), ∃ (a : Arriving), (s.port false p).arr = some a ∧ a.newGen = false ∧ a.decided = false ∧ s.isSealed = false ∧
      (s.chan a.chan).st = .active ∧ bit (s.txw false a.chan 0) 16 = false ∧ fld (s.txw false a.chan 0) 1 2 = 0 ∧ fld (s.txw false a.chan 0) 3 2 = 0 ∧
      4096 * fld (s.txw false a.chan 2) 0 16 < (s.chan a.chan).occ + reservation s a.chan) ∧
    (∃ (s : State), ∃ (p : Fin 32), ∃ (a : Arriving), (s.port false p).arr = some a ∧ a.newGen = false ∧ a.decided = false ∧ s.isSealed = false ∧
      (s.chan a.chan).st = .active ∧ bit (s.txw false a.chan 0) 16 = false ∧ fld (s.txw false a.chan 0) 1 2 = 0 ∧ fld (s.txw false a.chan 0) 3 2 = 0 ∧
      (s.chan a.chan).occ + reservation s a.chan ≤ 4096 * fld (s.txw false a.chan 2) 0 16 ∧ s.poolOcc + reservation s a.chan ≤ s.poolOf false) ∧
    (∃ (s : State), ∃ (p : Fin 32), ∃ (a : Arriving), (s.port false p).arr = some a ∧ a.newGen = false ∧ a.decided = true ∧ a.fcsOk = true ∧
      lenOf a.bytes ≤ s.maxLen false a.chan ∧ a.refused = 0 ∧ s.isSealed = false ∧ (s.chan a.chan).st = .active ∧ bit (s.txw false a.chan 0) 16 = false ∧
      a.cutPn = none ∧ a.chan < 8192) ∧
    (∃ (s : State), ∃ (p : Fin 32), ∃ (a : Arriving), (s.port false p).arr = some a ∧ a.newGen = false ∧ a.decided = true ∧ a.fcsOk = true ∧
      lenOf a.bytes ≤ s.maxLen false a.chan ∧ a.refused = 2) ∧
    (∃ (s : State), ∃ (p : Fin 32), ∃ (a : Arriving), (s.port false p).arr = some a ∧ a.newGen = false ∧ a.decided = true ∧ a.fcsOk = true ∧
      s.maxLen false a.chan < lenOf a.bytes) ∧
    (∃ (s : State), ∃ (p : Fin 32), ∃ (a : Arriving), (s.port false p).arr = some a ∧ a.newGen = false ∧ a.decided = true ∧ a.fcsOk = false) :=
  ⟨⟨st 11, 0, arr 0, by decide +kernel⟩,
   ⟨b0.setPort false 0 { b0.port false 0 with arr := some (ar 3) }, 0, ar 3, by decide +kernel⟩,
   ⟨st 10, 0, arr 0, by decide +kernel⟩,
   ⟨st 12, 0, arr 1, by decide +kernel⟩,
   ⟨st 14, 0, arr 2, by decide +kernel⟩,
   ⟨st 18, 0, { ar 0 with decided := true, bytes := hb 11000 }, by decide +kernel⟩,
   ⟨st 16, 0, arr 3, by decide +kernel⟩⟩

/-- The hypotheses of the clauses of Transmission are met. -/
theorem meets_Transmission :
    (∃ (s : State), ∃ (c : Fin 8192), ∃ n, ∃ f, ∃ rest, MaySend s c n f rest ∧ f.fmt = 0) ∧
    (∃ (s : State), ∃ (c : Fin 8192), ∃ n, ∃ f, ∃ rest, MaySend s c n f rest ∧ f.fmt = 0 ∧ f.cls = 0) ∧
    (∃ (s : State), ∃ (c : Fin 8192), ∃ n, ∃ f, ∃ rest, MaySend s c n f rest ∧ (f.fmt = 1 ∨ f.fmt = 2)) ∧
    (∃ (s : State), ∃ (c : Fin 8192), ∃ n, ∃ f, ∃ rest, MaySend s c n f rest) ∧
    (∃ (s : State), ∃ (c : Fin 8192), (s.chan c).flight.any (·.replay) = false ∧ (s.chan c).marked ≠ none ∧ s.unitFor 0 c ≠ none) ∧
    (∃ (s : State), ∃ (c : Fin 8192), ∃ f, ∃ rest, (s.chan c).flight = f :: rest ∧ f.replay = false ∧ ((s.assured c = true → f.retained = true))) ∧
    (∃ (s : State), ∃ (c : Fin 8192), ∃ (f : QFrame), (s.chan c).q = [f] ∧ f.onChip = false ∧ 0 < fld (s.lv 0x50104) 0 16 ∧ cellsOf f.bytes ≤ s.txFree ∧
      s.lostAt [] f.hold = none) ∧
    (∃ (s : State), ∃ (c : Fin 8192), ∃ r, ∃ o, MayResend s c r o) ∧
    (∃ (s : State), ∃ (c : Fin 8192), ∃ r, ∃ o, MayResend s c r o) ∧
    (∃ (s : State), ∃ (c : Fin 8192), ∃ r, ∃ rest, ∃ o, s.resendAllowed c = true ∧ s.assured c = true ∧ (s.chan c).ret = r :: rest ∧ r.void = false ∧
      s.lostAt [] (s.ringChunks c r) = none ∧ s.fetchRet c r.pn = some o) :=
  ⟨⟨st 2, 1, 0, (qf 0), [], by unfold MaySend; decide +kernel⟩,
   ⟨st 2, 1, 0, (qf 0), [], by unfold MaySend; decide +kernel⟩,
   ⟨st 4, 1, 0, (qf 1), [], by unfold MaySend; decide +kernel⟩,
   ⟨st 2, 1, 0, (qf 0), [], by unfold MaySend; decide +kernel⟩,
   ⟨st 0, 0, by decide +kernel⟩,
   ⟨st 8, 1, fl, [], by decide +kernel⟩,
   ⟨st 5, 0, { qf 0 with onChip := false, bytes := hb 300, hold := [0, 1] }, by decide +kernel⟩,
   ⟨ring1, 0, { rt with len := 64 }, 0, by unfold MayResend; decide +kernel⟩,
   ⟨ring1, 0, { rt with len := 64 }, 0, by unfold MayResend; decide +kernel⟩,
   ⟨ring1, 0, { rt with len := 64 }, [], 0, by decide +kernel⟩⟩

/-- The hypotheses of the clauses of FramesOpen are met. -/
theorem meets_FramesOpen :
    (∃ (pn : Nat), ∃ (flags : Nat), ∃ (k : KeySlot), ∃ (home : List Byte), 12 ≤ home.length ∧ pn < 2 ^ 64 ∧ flags < 256 ∧ nbit flags 6 = false ∧ k.key.length = 32 ∧
      k.salt.length = 12) :=
  ⟨0, 0, ks, (hb 60), by decide +kernel⟩

end Sys2Proof.Tests.Set14


namespace Sys2Proof.Tests.Set15

def hb (n : Nat) : List Byte := (List.range n).map (fun i => by8 (i*7+1))
def ks : KeySlot := { valid := true, epoch := 1, key := hb 32, salt := hb 12 }
def fl : Flight := { pn := 1, epoch := 1, bytes := hb 60, frame := hb 100 }
def live : Tbl Word := [(pHpt 0+0x100, 4),(pSpt 0+0x100, 4),(pQmg+0x118,0x10),(pQmg + 0x11C,0x10),(pQmg+0x120,0x10),(pQmg+0x104,64),(pQmg+0x10C,100),(pQmg+0x108,0x80C0),
 (0x1000000,1),(0x1000000+8,0x80C00010),(0x1080000,1),(0x1080004,16), (0x1000040,3),(0x1080040,3),(0x1000080,1+2+8),(0x1080080,1+2+8),(0x10000C0,1),(0x10000C8,
    0x80C00000),(0x10800C0,1)]
def b0 : State := let s := State.reset.setRegFld (pBoot+0x100) 0 4 6
  let s := s.withDev {s.dev with dstate := .protect, startHold := false, mono := 12345}
  let s := s.withGen {s.gen with live := live}
  let s := (List.range 4).foldl (fun s p => (s.setPort false p {s.port false p with step := 6}).setPort true p {s.port true p with step := 6}) s
  let s := (s.setPeer 0 {s.peer 0 with sub := .joined}).setPath 0 {s.path 0 with up := true}
  [0,1,2,3].foldl (fun s c => (s.setSlot 0 c 1 ks).setChan c {s.chan c with st := .active, txNext := 7, cur := 1, curEpoch := 1, climit := 1000, ackLimit := 0}) s
def upd (s : State) (f : Chan → Chan) : State := [0,1,2,3].foldl (fun s c => s.setChan c (f (s.chan c))) s
def b1 (upd : Chan → Chan) : State := [0,1,2,
    3].foldl (fun s c => (s.setSlot 1 c 1 ks).setChan c (upd {s.chan c with rxHand := 7, rxNext := 7})) ((b0.setPort true 0 {b0.port true 0 with step := 6}).withGen {b0.gen with live := b0.gen.live ++ [(pCls+0x280,1),(pCls+0x284,0)]})
def gf (c pn : Nat) : List Byte := b0.asxFrame c ks pn 0 0 (hb 60)
def macc (t n : Nat) : List Byte := hb 12 ++ beBytes 2 t ++ hb n
def rf (pn : Nat) : RxFrame := { pn := pn, epoch := 1, units := 1, bytes := hb 60, port := 0 }
def more : List State := let s := b1 id
 let q := b1 (fun x => {x with rq := [rf 7, rf 8], marks := [7,8], rxHand := 9})
 [s, b1 (fun x => {x with rq := [rf 3]}), s.withDev {s.dev with dstate := .sealed}, s.withVault {s.vault with policy := 0}, b1 (fun x => {x with marks := [9]}), [0,
    1].foldl (fun s c => s.setSlot 1 c 1 {ks with valid := false}) s,
  q, q.setPort false 0 {q.port false 0 with leaving := some (0,7)}, q.setPort false 0 {q.port false 0 with leaving := some (1,7)},
    q.setPort false 0 {q.port false 0 with leaving := some (8192,0), clearQ := [hb 60]},q.setPort false 0 {q.port false 0 with rr := 2, clearQ := [hb 60]},
    q.setPort false 0 {q.port false 0 with rr := 2}, {q with vault := {q.vault with policy := 1}},
    {q with regs := [], gen := {q.gen with live := q.gen.live ++ [(pCls+0x280,1)]}, vault := {q.vault with policy := 0x3F}}]
def st (i : Nat) : State := (more).getD i State.reset


/-- The hypotheses of the clauses of Reception are met. -/
theorem meets_Reception :
    (∃ (s : State), ∃ (p : Fin 32), ∃ (b : List Byte), s.portUp true p = true ∧ s.dev.lhOnly = false ∧ s.dev.ember = none ∧ modeOtn (s.mode true (p / 4)) = false ∧
      lenOf b < 64) ∧
    (∃ (s : State), ∃ (p : Fin 32), ∃ (b : List Byte), s.portUp true p = true ∧ s.dev.lhOnly = false ∧ s.dev.ember = none ∧ modeOtn (s.mode true (p / 4)) = false ∧
      10280 < lenOf b) ∧
    (∃ (s : State), ∃ (p : Fin 32), ∃ (b : List Byte), StraitOpen s p b) ∧
    (∃ (s : State), ∃ (p : Fin 32), ∃ (b : List Byte), s.portUp true p = true ∧ s.dev.lhOnly = false ∧ s.dev.ember = none ∧ modeOtn (s.mode true (p / 4)) = false ∧
      64 ≤ lenOf b ∧ lenOf b ≤ 10280 ∧ beNat (cut b 12 2) = 0x8808) ∧
    (∃ (s : State), ∃ (p : Fin 32), ∃ (b : List Byte), StraitOpen s p b ∧ s.isSealed = true) ∧
    (∃ (s : State), ∃ (p : Fin 32), ∃ (b : List Byte), StraitOpen s p b ∧ s.isSealed = false ∧ beNat (cut b 12 2) = (s.lv 0x40100).toNat ∧
      hchk (b.take 34) ≠ cut b 34 2) ∧
    (∃ (s : State), ∃ (p : Fin 32), ∃ (b : List Byte), StraitOpen s p b ∧ s.isSealed = false ∧ beNat (cut b 12 2) ≠ (s.lv 0x40100).toNat ∧
      beNat (cut b 12 2) ≠ 0x88E5 ∧ bit (s.lv (pCls + 0x280 + 4 * (p / 4))) 0 = true ∧ s.policy 0 = true) ∧
    (∃ (s : State), ∃ (p : Fin 32), ∃ (b : List Byte), StraitOpen s p b ∧ s.isSealed = false ∧ beNat (cut b 12 2) ≠ (s.lv 0x40100).toNat ∧
      beNat (cut b 12 2) ≠ 0x88E5 ∧ (bit (s.lv (pCls + 0x280 + 4 * (p / 4))) 0 = false ∨ s.policy 0 = false)) ∧
    (∃ (s : State), ∃ (p : Fin 32), ∃ (b : List Byte), ∃ c, StraitOpen s p b ∧ DataFrame s p c b ∧ s.clsOf (s.newGen true p) c = 0 ∧
      (beNat (cut b 20 8) < (s.chan c).rxHand ∨ (s.chan c).marks.contains (beNat (cut b 20 8)) = true)) ∧
    (∃ (s : State), ∃ (p : Fin 32), ∃ (b : List Byte), ∃ c, StraitOpen s p b ∧ DataFrame s p c b ∧ s.clsOf (s.newGen true p) c = 1 ∧
      (s.slot 1 c (beNat (cut b 18 2) % 2)).valid = false) ∧
    (∃ (s : State), ∃ (p : Fin 32), ∃ (b : List Byte), ∃ (lg : LgOutcome), ∃ c, ∃ k, ∃ n, StraitOpen s p b ∧ DataFrame s p c b ∧ s.clsOf (s.newGen true p) c = 0 ∧
      beNat (cut b 20 8) = (s.chan c).rxHand ∧ (s.chan c).marks = [] ∧ (s.chan c).voids = [] ∧ s.slot 1 c (beNat (cut b 18 2) % 2) = k ∧ k.valid = true ∧
      k.bad = false ∧ k.epoch = beNat (cut b 18 2) ∧ k.epoch ≠ 0 ∧ s.unitFor 1 c = some n ∧ s.saf.injected = [] ∧ lg = .agree ∧ (openAsx k b).2 = false ∧
      s.begins c = false) ∧
    (∃ (s : State), ∃ (p : Fin 32), ∃ (b : List Byte), ∃ (lg : LgOutcome), ∃ c, ∃ k, ∃ n, StraitOpen s p b ∧ DataFrame s p c b ∧ s.clsOf (s.newGen true p) c = 0 ∧
      beNat (cut b 20 8) = (s.chan c).rxHand ∧ (s.chan c).marks = [] ∧ (s.chan c).voids = [] ∧ (s.chan c).held = [] ∧
      ((∀ q ∈ (s.chan c).rq, q.pn < (s.chan c).rxHand)) ∧ s.slot 1 c (beNat (cut b 18 2) % 2) = k ∧ k.valid = true ∧ k.bad = false ∧ k.epoch = beNat (cut b 18 2) ∧
      k.epoch ≠ 0 ∧ s.unitFor 1 c = some n ∧ s.saf.injected = [] ∧ lg = .agree ∧ (openAsx k b).2 = true ∧ s.rxRoom c (openAsx k b).1 = true) ∧
    (∃ (s : State), ∃ (p : Fin 32), ∃ c, ∃ pn, ∃ f, (s.port false p).leaving = some (c, pn) ∧ c < 8192 ∧ s.txOpen = true ∧
      (s.chan c).rq.find? (fun f => f.pn == pn) = some f) ∧
    (∃ (s : State), ∃ (p : Fin 32), ∃ c, ∃ pn, ∃ f, (s.port false p).leaving = some (c, pn) ∧ c < 8192 ∧ s.txOpen = true ∧
      (s.chan c).rq.find? (fun f => f.pn == pn) = some f) ∧
    (∃ (s : State), ∃ (p : Fin 32), ∃ n, ∃ f, ∃ rest, (s.port false p).leaving = some (8192, n) ∧ s.txOpen = true ∧ (s.port false p).clearQ = f :: rest) ∧
    (∃ (s : State), ∃ (p : Fin 32), (s.port false p).leaving = none ∧ s.egressReady p ≠ []) ∧
    (∃ (s : State), ∃ (p : Fin 32), s.egressReady p = []) :=
  ⟨⟨st 0, 0, (hb 13), by decide +kernel⟩,
   ⟨st 0, 0, hb 12000, by decide +kernel⟩,
   ⟨st 0, 0, (hb 60), by unfold StraitOpen; decide +kernel⟩,
   ⟨st 0, 0, (macc 0x8808 60), by decide +kernel⟩,
   ⟨st 2, 0, (hb 60), by unfold StraitOpen; decide +kernel⟩,
   ⟨st 0, 0, (gf 0 7 |>.set 34 0), by unfold StraitOpen; decide +kernel⟩,
   ⟨st 12, 0, (hb 60), by unfold StraitOpen; decide +kernel⟩,
   ⟨st 0, 0, (hb 60), by unfold StraitOpen; decide +kernel⟩,
   ⟨st 0, 0, (gf 0 5), 0, by unfold StraitOpen DataFrame; decide +kernel⟩,
   ⟨st 5, 0, (gf 1 7), 1, by unfold StraitOpen DataFrame; decide +kernel⟩,
   ⟨st 1, 0, (gf 0 7).set 60 0x55, .agree, 0, ks, 0, by unfold StraitOpen DataFrame; decide +kernel⟩,
   ⟨st 0, 0, (gf 0 7), .agree, 0, ks, 0, by unfold StraitOpen DataFrame; decide +kernel⟩,
   ⟨st 7, 0, 0, 7, (rf 7), by decide +kernel⟩,
   ⟨st 7, 0, 0, 7, (rf 7), by decide +kernel⟩,
   ⟨st 9, 0, 0, (hb 60), [], by decide +kernel⟩,
   ⟨st 1, 0, by decide +kernel⟩,
   ⟨st 0, 0, by decide +kernel⟩⟩

end Sys2Proof.Tests.Set15


namespace Sys2Proof.Tests.Set16

def hb (n : Nat) : List Byte := (List.range n).map (fun i => by8 (i*7+1))
def ks : KeySlot := { valid := true, epoch := 1, key := hb 32, salt := hb 12 }
def live : Tbl Word := [(pHpt 0+0x100, 4),(pSpt 0+0x100, 4),(pQmg+0x118,0x10),(pQmg + 0x11C,0x10),(pQmg+0x120,0x10),(pQmg+0x104,64),(pQmg+0x10C,100),(pQmg+0x108,0x80C0),
 (0x1000000,1),(0x1000000+8,0x80C00010),(0x1080000,1),(0x1080004,16), (0x1000040,3),(0x1080040,3),(0x1000080,1+2+8),(0x1080080,1+2+8),(0x10000C0,1),(0x10000C8,
    0x80C00000),(0x10800C0,1)]
def b0 : State := let s := State.reset.setRegFld (pBoot+0x100) 0 4 6
  let s := s.withDev {s.dev with dstate := .protect, startHold := false, mono := 12345}
  let s := s.withGen {s.gen with live := live}
  let s := (List.range 4).foldl (fun s p => (s.setPort false p {s.port false p with step := 6}).setPort true p {s.port true p with step := 6}) s
  let s := (s.setPeer 0 {s.peer 0 with sub := .joined}).setPath 0 {s.path 0 with up := true}
  [0,1,2,3].foldl (fun s c => (s.setSlot 0 c 1 ks).setChan c {s.chan c with st := .active, txNext := 7, cur := 1, curEpoch := 1, climit := 1000, ackLimit := 0}) s
def base0 := (b0.withGen {b0.gen with live := (0x1000100, 5) :: (0x1080100,1) :: (pCls+0x140, 9) :: (pSpt 0 + 0x100, 7) :: b0.gen.live}).withVault {b0.vault with drbSrc := true, drbUp := true}
def otu4 (s : State) : State := s.withGen {s.gen with live := (0x1000100, 5) :: (0x1080100,1) :: (pCls+0x140, 9) :: (pSpt 0 + 0x100, 11) :: b0.gen.live}
def act (s : State) := (s.setSlot 0 4 1 ks |>.setSlot 1 4 1 ks).setChan 4 {s.chan 4 with st := .active, cur := 1, curEpoch := 1}
def lu (s : State) (d n : Nat) (r : Bool) := s.setLaneU d n {s.laneU d n with loaded := true, resetting := r}
def more : List State :=
  let s := act base0
  let sq := fun (s : State) d n => s.setReg (pLane d n + 0x100) (s.reg (pLane d n + 0x100) ||| 0x20)
  let bad := fun (s : State) => [0,1].foldl (fun s d => [0,4].foldl (fun s c => [0,1].foldl (fun s k => s.setSlot d c k {s.slot d c k with bad := true}) s) s) s
  [s, sq (sq s 0 1) 1 0, lu (lu s 0 1 true) 1 8 true, lu (lu s 0 8 true) 1 8 true, lu (sq (sq s 0 8) 0 1) 0 0 true, bad s, s.setReg 0xC120 0x80000005,
   s.setStream 0 4 0 {block := some 5, epoch := 1}, s.setStream 0 4 0 {block := some 5, epoch := 1, cur := some 4, curEpoch := 1},
   (s.setStream 0 4 0 {block := some 5, epoch := 1}).setChan 4 {s.chan 4 with curEpoch := 2},
   (s.setReg (pLane 0 7 + 0x100) 0x40).setStream 0 4 0 {block := some 5, epoch := 1, cur := some 4, curEpoch := 1},
   (s.setReg (pLane 1 7 + 0x100) 0x40).setStream 1 4 0 {block := some 5, epoch := 1, prevTag := hb 16}, s.setStream 1 4 0 {prevTag := hb 15},
    sq (sq s 1 0) 0 0] ++ [otu4 s, otu4 ((s.setReg (pLane 0 7 + 0x100) 0x40).setStream 0 4 0 {block := some 5, epoch := 1, cur := some 4, curEpoch := 1}),
    otu4 ((s.setReg (pLane 1 7 + 0x100) 0x40).setStream 1 4 1 {block := some 5, epoch := 1, prevTag := hb 16}),
    s.setStream 1 4 0 {block := some 5, epoch := 1, prevTag := hb 16}]
def st (i : Nat) : State := (more).getD i State.reset


/-- The hypotheses of the clauses of CipherUnits, a part of CipherLanes, are met. -/
theorem meets_CipherUnits :
    (∃ (s : State), ∃ (d : Dir), ∃ (n : Fin 9), ∃ k, s.spare (dirN d) = some k ∧ s.lowestWaiting (dirN d) = some n.val) ∧
    (∃ (s : State), ∃ (d : Dir), ∃ (n : Fin 9), bit (s.reg (pLane (dirN d) n + 0x100)) 5 = false ∧ (s.laneU (dirN d) n).loaded = true ∧
      fld (s.reg (pLane (dirN d) n + 0x100)) 0 4 = 15 ∧ s.lowestWaiting (dirN d) = none) ∧
    (∃ (s : State), ∃ (d : Dir), ∃ (n : Fin 9), ∃ m, bit (s.reg (pLane (dirN d) n + 0x100)) 5 = false ∧ (s.laneU (dirN d) n).loaded = true ∧
      (s.laneU (dirN d) n).resetting = true ∧ s.lowestWaiting (dirN d) = some m) ∧
    (∃ (s : State), ∃ (d : Dir), ∃ (n : Fin 9), s.islOff (laneIsland (dirN d) n) = false ∧ s.saf.injected = []) ∧
    (∃ (s : State), ∃ (d : Dir), ∃ (n : Fin 9), s.islOff (laneIsland (dirN d) n) = false ∧ s.dev.dstate = .protect) ∧
    (∃ (s : State), ∃ (c : Fin 8192), ∃ (b : Fin 2), (s.slot 0 c b).bad = true) ∧
    (∃ (s : State), ∃ (c : Fin 8192), ∃ (b : Fin 2), (s.slot 1 c b).bad = true) ∧
    (∃ (s : State), ∃ (c : Fin 8192), ∃ (b : Fin 2), (s.slot 0 c b).bad = true) ∧
    (∃ (s : State), ∃ (d : Dir), ∃ (n : Fin 9), s.hostOpen (pLane (dirN d) n + 0x13C)) :=
  ⟨⟨st 1, Sys2Proof.Dir.enc, 1, 8, by decide +kernel⟩,
   ⟨st 0, Sys2Proof.Dir.enc, 8, by decide +kernel⟩,
   ⟨st 2, Sys2Proof.Dir.enc, 1, 1, by decide +kernel⟩,
   ⟨st 0, Sys2Proof.Dir.enc, 8, by decide +kernel⟩,
   ⟨st 0, Sys2Proof.Dir.enc, 8, by decide +kernel⟩,
   ⟨st 5, 0, 0, by decide +kernel⟩,
   ⟨st 5, 0, 0, by decide +kernel⟩,
   ⟨st 5, 0, 0, by decide +kernel⟩,
   ⟨st 0, Sys2Proof.Dir.enc, 8, by unfold State.hostOpen; decide +kernel⟩⟩

/-- The hypotheses of the clauses of StreamBlocks, a part of CipherLanes, are met. -/
theorem meets_StreamBlocks :
    (∃ (s : State), ∃ (c : Fin 8192), ∃ (x : LaneBlock), ∃ n, ∃ b, ∃ k, StreamSends s c 0 n x ∧ (s.stream 0 c 0).block = some b ∧
      (s.stream 0 c 0).epoch = (s.chan c).curEpoch ∧ s.epochKey 0 c (s.stream 0 c 0).epoch = some k) ∧
    (∃ (s : State), ∃ (c : Fin 8192), ∃ (x : LaneBlock), ∃ n, ∃ k, StreamSends s c 0 n x ∧ (s.stream 0 c 0).block = none ∧ s.drbServes 2 = true ∧
      s.epochKey 0 c (s.chan c).curEpoch = some k) ∧
    (∃ (s : State), ∃ (c : Fin 8192), ∃ (x : LaneBlock), ∃ n, ∃ b, ∃ k, StreamSends s c 0 n x ∧ (s.stream 0 c 0).block = some b ∧ (s.chan c).curEpoch ≠ 0 ∧
      (s.chan c).curEpoch ≠ (s.stream 0 c 0).epoch ∧ s.drbServes 2 = true ∧ s.epochKey 0 c (s.stream 0 c 0).epoch = some k) ∧
    (∃ (s : State), ∃ (c : Fin 8192), ∃ (x : LaneBlock), ∃ n, ∃ b, ∃ nb, ∃ k, StreamSends s c 1 n x ∧ (s.stream 0 c 0).cur = some b ∧
      (s.stream 0 c 0).block = some nb ∧ s.epochKey 0 c (s.stream 0 c 0).curEpoch = some k) ∧
    (∃ (s : State), ∃ (c : Fin 8192), ∃ (x : LaneBlock), ∃ n, ∃ b, ∃ k, StreamSends s c 0 n x ∧ (s.stream 0 c 0).block = some b ∧
      s.epochKey 0 c (s.stream 0 c 0).epoch = some k) ∧
    (∃ (s : State), ∃ (c : Fin 8192), ∃ (x : LaneBlock), ∃ (l : Fin 2), ∃ n, ∃ b, ∃ k, StreamTakes s c l x ∧ s.unitOf 1 (s.spg c) (l == 1) = some n ∧
      s.knownBlock c l = some (b, k)) ∧
    (∃ (s : State), ∃ (c : Fin 8192), ∃ (x : LaneBlock), ∃ (l : Fin 2), ∃ n, StreamTakes s c l x ∧ s.unitOf 1 (s.spg c) (l == 1) = some n ∧
      (s.stream 1 c l).block = none) ∧
    (∃ (s : State), ∃ (c : Fin 8192), ∃ (x : LaneBlock), ∃ (l : Fin 2), ∃ field, ∃ n, StreamTakes s c l x ∧ s.unitOf 1 (s.spg c) (l == 1) = some n ∧
      (s.stream 1 c l).prevTag ≠ [] ∧ (s.stream 1 c l).prevTag ≠ field.take 16 ∧ nbit (beNat (cut field 26 2)) 1 = false) ∧
    (∃ (s : State), ∃ (c : Fin 8192), ∃ (x : LaneBlock), ∃ (l : Fin 2), StreamTakes s c l x ∧ s.unitOf 1 (s.spg c) (l == 1) = none) ∧
    (∃ (s : State), ∃ (c : Fin 8192), ∃ (x : LaneBlock), ∃ (l : Fin 2), x.payload.length ≠ s.laneBytes c l) :=
  ⟨⟨st 7, 4, slices 1, 0, 5, ks, by exact ⟨⟨by decide +kernel, (slices_length 1).trans (by decide +kernel), slices_ne 1 (by decide), by decide +kernel, rfl, by decide +kernel⟩, by decide +kernel, by decide +kernel, by decide +kernel⟩⟩,
   ⟨st 0, 4, slices 1, 0, ks, by exact ⟨⟨by decide +kernel, (slices_length 1).trans (by decide +kernel), slices_ne 1 (by decide), by decide +kernel, rfl, by decide +kernel⟩, by decide +kernel, by decide +kernel, by decide +kernel⟩⟩,
   ⟨st 9, 4, slices 1, 0, 5, ks, by exact ⟨⟨by decide +kernel, (slices_length 1).trans (by decide +kernel), slices_ne 1 (by decide), by decide +kernel, rfl, by decide +kernel⟩, by decide +kernel, by decide +kernel, by decide +kernel, by decide +kernel, by decide +kernel⟩⟩,
   ⟨st 15, 4, slices 2, 7, 4, 5, ks, by exact ⟨⟨by decide +kernel, (slices_length 2).trans (by decide +kernel), slices_ne 2 (by decide), by decide +kernel, rfl, by decide +kernel⟩, by decide +kernel, by decide +kernel, by decide +kernel⟩⟩,
   ⟨st 7, 4, slices 1, 0, 5, ks, by exact ⟨⟨by decide +kernel, (slices_length 1).trans (by decide +kernel), slices_ne 1 (by decide), by decide +kernel, rfl, by decide +kernel⟩, by decide +kernel, by decide +kernel⟩⟩,
   ⟨st 11, 4, slices 1, 0, 0, 5, ks, by exact ⟨⟨by decide +kernel, by decide +kernel, by decide +kernel, by decide +kernel, (slices_length 1).trans (by decide +kernel), slices_ne 1 (by decide), rfl, by decide +kernel⟩, by decide +kernel, by decide +kernel⟩⟩,
   ⟨st 0, 4, slices 1, 0, 0, by exact ⟨⟨by decide +kernel, by decide +kernel, by decide +kernel, by decide +kernel, (slices_length 1).trans (by decide +kernel), slices_ne 1 (by decide), rfl, by decide +kernel⟩, by decide +kernel, by decide +kernel⟩⟩,
   ⟨st 11, 4, slices 1, 0, List.replicate 28 0, 0, by exact ⟨⟨by decide +kernel, by decide +kernel, by decide +kernel, by decide +kernel, (slices_length 1).trans (by decide +kernel), slices_ne 1 (by decide), rfl, by decide +kernel⟩, by decide +kernel, by decide +kernel, by decide +kernel, by decide +kernel⟩⟩,
   ⟨st 1, 4, slices 1, 0, by exact ⟨⟨by decide +kernel, by decide +kernel, by decide +kernel, by decide +kernel, (slices_length 1).trans (by decide +kernel), slices_ne 1 (by decide), rfl, by decide +kernel⟩, by decide +kernel⟩⟩,
   ⟨st 0, 4, { payload := [0] }, 0, by decide +kernel⟩⟩

end Sys2Proof.Tests.Set16


namespace Sys2Proof.Tests.Set17

def hb (n : Nat) : List Byte := (List.range n).map (fun i => by8 (i*7+1))
def ks : KeySlot := { valid := true, epoch := 1, key := hb 32, salt := hb 12 }
def live : Tbl Word := [(pHpt 0+0x100, 4),(pSpt 0+0x100, 4),(pQmg+0x118,0x10),(pQmg + 0x11C,0x10),(pQmg+0x120,0x10),(pQmg+0x104,64),(pQmg+0x10C,100),(pQmg+0x108,0x80C0),
 (0x1000000,1),(0x1000000+8,0x80C00010),(0x1080000,1),(0x1080004,16), (0x1000040,3),(0x1080040,3),(0x1000080,1+2+8),(0x1080080,1+2+8),(0x10000C0,1),(0x10000C8,
    0x80C00000),(0x10800C0,1)]
def b0 : State := let s := State.reset.setRegFld (pBoot+0x100) 0 4 6
  let s := s.withDev {s.dev with dstate := .protect, startHold := false, mono := 12345}
  let s := s.withGen {s.gen with live := live}
  let s := (List.range 4).foldl (fun s p => (s.setPort false p {s.port false p with step := 6}).setPort true p {s.port true p with step := 6}) s
  let s := (s.setPeer 0 {s.peer 0 with sub := .joined}).setPath 0 {s.path 0 with up := true}
  [0,1,2,3].foldl (fun s c => (s.setSlot 0 c 1 ks).setChan c {s.chan c with st := .active, txNext := 7, cur := 1, curEpoch := 1, climit := 1000, ackLimit := 0}) s
def withL (l : List (Nat × Word)) := b0.withGen {b0.gen with live := l ++ b0.gen.live}
def base0 := withL [(pAsx + 0x140, 0x91), (pAsx+0x144, 0x13 + 32),(aGrp 0, 3),(pAsx+0x11C, 0x80000)]
def pe (s : State) (f : Peer → Peer) : State := (s.setPeer 0 (f (s.peer 0))).setPeer 1 (f (s.peer 1))
def up (s : State) (g : Nat) (b : Bool) : State := s.setPath g {s.path g with up := b, heard := 15, rxOk := 15}
def ch (s : State) (f : Chan → Chan) : State := [0,1,2,3].foldl (fun s c => s.setChan c (f (s.chan c))) s
def keyd (s : State) := (pe s (fun p => {p with portEpoch := 1})).setPslot 0 0 1 ks
def more : List State :=
  let s := base0
  let z := up (up (ch s (fun x => {x with ackSent := 0, ackLimit := 0, rxNext := 1, rxHand := 1})) 0 false) 1 false
  let pj := fun (s : State) sub => pe s (fun p => {p with sub := sub})
  let on := fun (s : State) b => pe s (fun p => {p with onProtect := b})
  let cn := fun (s : State) b => pe s (fun p => {p with connecting := b, force := 1})
  [s, ch s (fun x => {x with ackSent := 0, ackLimit := 0, rxNext := 1}),
    ch s (fun x => {x with ackSent := 0, ackLimit := 0, rxNext := 7, rxHand := 7, ackChange := 12000, nacked := [(9,3)]}),
   pe s (fun p => {p with acks := List.replicate 63 {rtype := 1, chan := 0, a := 1, b := 2}}), keyd s, pj (keyd z) .joined, pj z .stranded, pj z .unkeyed,
    pj z .keying, pj z .landfall] ++
  ([.joined,.unkeyed].flatMap fun sub => [true,false].flatMap fun onP => [none, some true, some false].flatMap fun c => [(true,true),(false,true),(true,false),
    (false,false)].map fun (a,b) => up (up (cn (on (pj s sub) onP) c) 1 a) 1 b |> fun s => up (up s 0 a) 1 b) ++
  [pe s (fun p => {p with resync := true, doneSent := true}), pe (ch s (fun x => {x with unconfirmed := false})) (fun p => {p with resync := true}),
    (pe s (fun p => {p with resync := true})).setChan 0 {s.chan 0 with unconfirmed := true}, up (pe s (fun p => {p with onProtect := true})) 1 true]
def st (i : Nat) : State := (more).getD i State.reset


/-- The hypotheses of the clauses of PathsAndAcks, a part of Peers, are met. -/
theorem meets_PathsAndAcks :
    (∃ (s : State), ∃ (c : Fin 8192), s.assured c = true ∧ (s.chan c).st = .active ∧ ((s.chan c).ackSent + 1 ≠ (s.chan c).rxNext ∨ (s.chan c).ackLimit ≠ s.climitOf c)) ∧
    (∃ (s : State), ∃ (c : Fin 8192), (s.chan c).ackSent + 1 = (s.chan c).rxNext ∧ (s.chan c).ackLimit = s.climitOf c) ∧
    (∃ (s : State), ∃ (g : Fin 8), ∃ (c : Fin 8192), c.val ∈ s.peerChans (s.home_ g) s.assured ∧ (s.chan c).st = .active ∧
      s.dev.mono ≤ (s.chan c).ackChange + fld (s.lv 0x4011C) 16 8 * 1000000) ∧
    (∃ (s : State), ∃ (c : Fin 8192), ∃ pn, s.assured c = true ∧ (s.chan c).st = .active ∧ (s.chan c).nacked.any (fun e => e.1 == pn) = true ∧
      (s.chan c).rxHand ≤ pn ∧ pn ∉ (s.chan c).marks ∧ (s.chan c).voids = []) ∧
    (∃ (s : State), ∃ (p : Fin 32), (s.peer (s.home_ (p / 4))).portEpoch ≠ 0 ∧ p.val ∈ s.pathPorts (p / 4) ∧ s.txOpen = true ∧ s.portUp true p = true ∧
      s.dev.startHold = false ∧ (s.pslot 0 (s.home_ (p / 4)) ((s.peer (s.home_ (p / 4))).portEpoch % 2)).valid = true ∧
      (s.pslot 0 (s.home_ (p / 4)) ((s.peer (s.home_ (p / 4))).portEpoch % 2)).epoch = (s.peer (s.home_ (p / 4))).portEpoch) ∧
    (∃ (s : State), ∃ (g : Fin 8), (s.path g).up = false ∧ s.pathCond g = true ∧ (s.peer (s.home_ g)).sub = .stranded) ∧
    (∃ (s : State), ∃ (g : Fin 8), (s.path g).up = false ∧ s.pathCond g = true ∧ (s.peer (s.home_ g)).sub ≠ .stranded) ∧
    (∃ (s : State), ∃ (g : Fin 8), ((s.peer (s.home_ g)).sub = .joined ∨ (s.peer (s.home_ g)).sub = .landfall) ∧ s.anyPath (s.home_ g) = false) ∧
    (∃ (s : State), ∃ (g : Fin 8), s.anyPath (s.home_ g) = true) :=
  ⟨⟨st 0, 0, by decide +kernel⟩,
   ⟨st 0, 1, by decide +kernel⟩,
   ⟨st 0, 0, 0, by decide +kernel⟩,
   ⟨st 2, 0, 9, by decide +kernel⟩,
   ⟨st 4, 0, by decide +kernel⟩,
   ⟨st 6, 0, by decide +kernel⟩,
   ⟨st 5, 0, by decide +kernel⟩,
   ⟨st 5, 0, by decide +kernel⟩,
   ⟨st 0, 0, by decide +kernel⟩⟩

/-- The hypotheses of the clauses of Switchover, a part of Peers, are met. -/
theorem meets_Switchover :
    (∃ (s : State), ∃ (g : Fin 8), (s.peer (s.home_ g)).resync = true ∧ ((∀ c ∈ s.covered (s.home_ g), (s.chan c).unconfirmed = false)) ∧
      (s.peer (s.home_ g)).doneSent = true ∧ (s.peer (s.home_ g)).doneGot = false) ∧
    (∃ (s : State), ∃ (g : Fin 8), ∃ c, (s.peer (s.home_ g)).resync = true ∧ (s.peer (s.home_ g)).doneSent = false ∧
      (s.covered (s.home_ g)).filter (fun c => (s.chan c).unconfirmed) = [c]) ∧
    (∃ (s : State), ∃ (p : Fin 4), ∃ w, ∃ g, ∃ rev, s.wpPair p = some (w, g, rev) ∧ (s.peer w).onProtect = false ∧ (s.peer w).connecting = none ∧
      (s.path w).up = false ∧ (s.path g).up = true) ∧
    (∃ (s : State), ∃ (p : Fin 4), ∃ w, ∃ g, ∃ rev, s.wpPair p = some (w, g, rev) ∧ (s.peer w).onProtect = true ∧ (s.peer w).connecting = none ∧
      (s.path g).up = false ∧ (s.path w).up = true) ∧
    (∃ (s : State), ∃ (p : Fin 4), ∃ w, ∃ g, ∃ rev, s.wpPair p = some (w, g, rev) ∧ (s.peer w).connecting ≠ none ∧ (s.peer w).onProtect = false ∧
      (s.path w).up = false ∧ (s.path g).up = true) ∧
    (∃ (s : State), ∃ (p : Fin 4), ∃ w, ∃ g, ∃ rev, ∃ b, s.wpPair p = some (w, g, rev) ∧ (s.peer w).connecting = some b ∧ (s.peer w).sub.keyed = false ∧
      (s.peer w).switchNext = false) ∧
    (∃ (s : State), ∃ (p : Fin 4), ∃ w, ∃ g, ∃ rev, ∃ b, s.wpPair p = some (w, g, rev) ∧ (s.peer w).connecting = some b ∧ (s.peer w).sub.keyed = true ∧
      (s.peer w).switchNext = false) ∧
    (∃ (s : State), ∃ (p : Fin 4), ∃ w, ∃ g, ∃ rev, s.hostOpen 0x40124 ∧ s.wpPair p = some (w, g, rev) ∧ (s.peer w).connecting = none ∧ (s.path w).up = true ∧
      (s.path g).up = true) ∧
    (∃ (s : State), ∃ (p : Fin 4), ∃ w, ∃ g, ∃ rev, s.hostOpen 0x40124 ∧ s.wpPair p = some (w, g, rev) ∧ (s.peer w).connecting = none ∧ (s.path w).up = true ∧
      (s.path g).up = true) ∧
    (∃ (s : State), ∃ (p : Fin 4), ∃ w, ∃ g, ∃ rev, s.hostOpen 0x40124 ∧ s.wpPair p = some (w, g, rev)) ∧
    (∃ (s : State), ∃ (p : Fin 4), ∃ w, ∃ g, s.wpPair p = some (w, g, true) ∧ (s.peer w).force = 0 ∧ (s.peer w).onProtect = true ∧ (s.path w).up = true ∧
      (s.peer w).connecting = none) ∧
    (∃ (s : State), ∃ (p : Fin 4), ∃ w, ∃ g, ∃ rev, s.wpPair p = some (w, g, rev) ∧ (s.peer w).force ≠ 0) ∧
    (∃ (s : State), s.hostOpen 0x40128) :=
  ⟨⟨st 58, 0, by decide +kernel⟩,
   ⟨st 60, 0, 0, by decide +kernel⟩,
   ⟨st 23, 0, 0, 1, true, by decide +kernel⟩,
   ⟨st 12, 0, 0, 1, true, by decide +kernel⟩,
   ⟨st 27, 0, 0, 1, true, by decide +kernel⟩,
   ⟨st 38, 0, 0, 1, true, true, by decide +kernel⟩,
   ⟨st 14, 0, 0, 1, true, true, by decide +kernel⟩,
   ⟨st 10, 0, 0, 1, true, by unfold State.hostOpen; decide +kernel⟩,
   ⟨st 10, 0, 0, 1, true, by unfold State.hostOpen; decide +kernel⟩,
   ⟨st 0, 0, 0, 1, true, by unfold State.hostOpen; decide +kernel⟩,
   ⟨st 61, 0, 0, 1, by decide +kernel⟩,
   ⟨st 10, 0, 0, 1, true, by decide +kernel⟩,
   ⟨st 0, by unfold State.hostOpen; decide +kernel⟩⟩

end Sys2Proof.Tests.Set17


namespace Sys2Proof.Tests.Set18

def hb (n : Nat) : List Byte := (List.range n).map (fun i => by8 (i*7+1))
def ks : KeySlot := { valid := true, epoch := 1, key := hb 32, salt := hb 12 }
def xc (i p : Nat) (ini : Bool): Xch := { xid := 5, g := 0, chan := some 7, init := ini, phase := p, priv := 3, hello := hb 30, sends := i, finish := hb 10 }
def hw (enc : Bool) : HeldWrite := { enc := enc, chan := 0, epoch := 2, data := hb 44, ratchet := false, xid := 5, at_ := 0 }
def jb : Job := { kiln := 0, queue := 2, id := 1, engine := 0, ctx := 3, sealed_ := true, pair := 9, grant := 0xFFFFFFFF, timeout := 0 }
def pr (k : Nat) (d : List Byte): Pairing := { id := 3, kiln := k, tag := 9, desc0 := 0x01000103, desc1 := 0x00300002, desc2 := 0, data := d }
def pr2 (k : Nat) (d : List Byte): Pairing := { id := 3, kiln := k, tag := 9, desc0 := 0x503, desc1 := 0x00300002, desc2 := 0, data := d }
def rd : Rnd := { tag := 9, at_ := 12000, base := 77, pos := [(0,4)] }
def live : Tbl Word := [(pHpt 0+0x100, 4),(pSpt 0+0x100, 4),(pQmg+0x118,0x10),(pQmg + 0x11C,0x10),(pQmg+0x120,0x10),(pQmg+0x104,64),(pQmg+0x10C,100),(pQmg+0x108,
    0x80C0),(aGrp 0, 3),
 (0x1000000,1),(0x1000000+8,0x80C00010),(0x1080000,1),(0x1080004,16), (0x1000040,3),(0x1080040,3)]
def b0 : State := let s := State.reset.setRegFld (pBoot+0x100) 0 4 6
  let s := s.withDev {s.dev with dstate := .protect, startHold := false, mono := 12345}
  let s := s.withGen {s.gen with live := live}
  let s := (List.range 4).foldl (fun s p => (s.setPort false p {s.port false p with step := 6}).setPort true p {s.port true p with step := 6}) s
  let s := (s.setPeer 0 {s.peer 0 with sub := .joined}).setPath 0 {s.path 0 with up := true}
  let s := s.withVault {s.vault with idk := hb 100, drbUp := true, drbCast := false, drbStall := []}
  [0,1,2,
    3].foldl (fun s c => (s.setSlot 0 c 1 {ks with firstAt := some 4}).setChan c {s.chan c with st := .active, txNext := 7, cur := 1, curEpoch := 1, climit := 1000, ackLimit := 0}) s
def pj (s : State) (sub : Sub) := s.setPeer 0 {s.peer 0 with sub := sub}
def vt (s : State) (f : Vault → Vault) := s.withVault (f s.vault)
def sealedS (d0 d1 : Word) (data : List Byte): State :=
  let s := (b0.setEng 0 {(b0.eng 0).setCtx 3 {Ctx.initial with st := 3, sealed_ := true, bank := 0} with run := some 3}).withKiln {b0.kiln with jobs := [jb], rnds := [rd]}
  ((s.setReg (kpBase 0) d0).setReg (kpBase 0 + 4) d1).setKp 0 {data := data}
def more : List State :=
 let s := b0
 [s, pj s .stranded, pj s .landfall, pj s .keying, pj s .unkeyed, vt s (fun v => {v with xchs := [xc 1 0 true]}), vt s (fun v => {v with xchs := [xc 6 0 true]}),
    vt s (fun v => {v with xchs := [xc 1 3 true]}),vt (pj s .keying) (fun v => {v with xchs := [{xc 6 0 true with chan := none}]}),
  vt s (fun v => {v with busy := [(0,none),(0,some 1)], prks := [{xid := 5, g := 0, chan := none, key := hb 48, init := true, done := true},{xid := 6, g := 0, chan := none, key := hb 48, init := true, done := true, waiting := [3]},{xid := 5, g := 0, chan := none, key := hb 48, init := true, done := false}]}),

  s.setChan 0 {s.chan 0 with nextSent := 2, rekeyHeld := true, ratchetHeld := true},
    (pj s .landfall).setChan 0 {s.chan 0 with nextSent := 2, rekeyHeld := true, ratchetHeld := true},
  vt s (fun v => {v with heldWrites := [hw true, hw false]}), vt s (fun v => {v with retry := [0,1]}), vt (pj s .stranded) (fun v => {v with retry := [0,1]}),
    s.setSlot 0 0 0 {ks with epoch := 2, confirmed := true, ratchet := true}, s.setSlot 0 0 0 {ks with epoch := 2},
  vt s (fun v => {v with chains := [(0, (2, 1, hb 48))]}), vt s (fun v => {v with drbStall := [1]})] ++
 [sealedS 0x01000103 0x00300002 (hb 48), sealedS 0x503 0x00300002 (hb 48), sealedS 0x503 0x00300002 [], sealedS 0x12 0x00200000 [], sealedS 0x55 0x00200000 [],
    vt (sealedS 0x503 0x00300002 (hb 48)) (fun v => {v with pairs := [pr2 1 (hb 48)]}),
  (sealedS 0x12 0x00200000 []).withKiln {(sealedS 0x12 0x00200000 []).kiln with jobs := [{jb with grant := 0}]},
  vt (sealedS 0x503 0x00300002 (hb 48)) (fun v => {v with pairs := [pr2 1 ((hb 48).set 3 9)]}),
    vt (sealedS 0x503 0x00300002 (hb 48)) (fun v => {v with pairs := [pr2 0 (hb 48)]})]
def sealedZero : State := (sealedS 0x12 0x00200000 []).withKiln {b0.kiln with jobs := [{jb with grant := 0}], rnds := [rd]}
def st (i : Nat) : State := (more).getD i State.reset


/-- The hypotheses of the clauses of Exchanges, a part of Keying, are met. -/
theorem meets_Exchanges :
    (∃ (s : State), ∃ (c : Fin 8192), ∃ w, Keyable s c w ∧ (s.peer w).sub = .joined ∧ MayStart s w (some c) ∧ RekeyOn s c) ∧
    (∃ (s : State), ∃ (c : Fin 8192), ∃ w, Keyable s c w ∧ (s.peer w).sub = .joined ∧ MayStart s w (some c)) ∧
    (∃ (s : State), ∃ (c : Fin 8192), ∃ w, Keyable s c w ∧ ((s.peer w).sub = .stranded ∨ (s.peer w).sub = .landfall)) ∧
    (∃ (s : State), ∃ (c : Fin 8192), (¬ RekeyOn s c)) ∧
    (∃ (s : State), ∃ (g : Fin 8), (s.peer (s.home_ g)).sub = .joined ∧ MayStart s (s.home_ g) none) ∧
    (∃ (s : State), ∃ (g : Fin 8), (s.peer (s.home_ g)).sub ≠ .joined) ∧
    (∃ (s : State), ∃ (g : Fin 8), (s.peer (s.home_ g)).sub = .joined) ∧
    (∃ (s : State), ∃ (c : Fin 8192), ∃ w, (s.chan c).st ≠ .closed ∧ s.home_ (s.spg c) = w) ∧
    (∃ (s : State), ∃ xid, ∃ x, s.vault.xchs.find? (fun x => x.xid == xid && x.init) = some x ∧ 6 ≤ x.sends) ∧
    (∃ (s : State), ∃ xid, ∃ x, s.vault.xchs.find? (fun x => x.xid == xid && x.init) = some x ∧ x.sends < 6 ∧ x.phase = 0) ∧
    (∃ (s : State), ∃ xid, ∃ x, s.vault.xchs.find? (fun x => x.xid == xid && x.init) = some x ∧ x.sends < 6 ∧ x.phase ≠ 0) ∧
    (∃ (s : State), ∃ (g : Fin 8), ∃ (c : Option (Fin 8192)), s.vault.busy.contains (s.home_ g, c.map (·.val)) = true ∧ s.keysFlow (s.home_ g) = true) ∧
    (∃ (s : State), ∃ (g : Fin 8), s.keysFlow (s.home_ g) = false) ∧
    (∃ (s : State), ∃ (g : Fin 8), ((∀ c ∈ s.peerChans (s.home_ g) (fun _ => true), (s.chan c).nextSent = 0))) ∧
    (∃ (s : State), ∃ (g : Fin 8), ∃ c, (s.peerChans (s.home_ g) (fun _ => true)).filter (fun c => (s.chan c).nextSent != 0) = [c] ∧ s.keysFlow (s.home_ g) = true ∧
      ((s.slot 0 c ((s.chan c).nextSent % 2)).ratchet = false ∨ s.covering (s.home_ g) c = false)) :=
  ⟨⟨st 13, 0, 0, by unfold MayStart Keyable RekeyOn; decide +kernel⟩,
   ⟨st 0, 0, 0, by unfold MayStart Keyable; decide +kernel⟩,
   ⟨st 1, 0, 0, by unfold Keyable; decide +kernel⟩,
   ⟨st 0, 0, by unfold RekeyOn; decide +kernel⟩,
   ⟨st 0, 0, by unfold MayStart; decide +kernel⟩,
   ⟨st 0, 1, by decide +kernel⟩,
   ⟨st 0, 0, by decide +kernel⟩,
   ⟨st 0, 0, 0, by decide +kernel⟩,
   ⟨st 6, 5, (xc 6 0 true), by decide +kernel⟩,
   ⟨st 5, 5, (xc 1 0 true), by decide +kernel⟩,
   ⟨st 7, 5, (xc 1 3 true), by decide +kernel⟩,
   ⟨st 9, 0, none, by decide +kernel⟩,
   ⟨st 0, 1, by decide +kernel⟩,
   ⟨st 0, 0, by decide +kernel⟩,
   ⟨st 10, 0, 0, by decide +kernel⟩⟩

/-- The hypotheses of the clauses of KeySlots, a part of Keying, are met. -/
theorem meets_KeySlots :
    (∃ (s : State), ∃ (c : Fin 8192), ∃ d, ∃ h, s.vault.heldWrites.find? (fun h => h.enc == decide (d = Dir.enc) && h.chan == c.val && !s.slotHeld (decide (d = Dir.enc)) c h.epoch) = some h ∧
      s.saf.injected = []) ∧
    (∃ (s : State), ∃ (c : Fin 8192), ∃ d, s.vault.heldWrites.find? (fun h => h.enc == decide (d = Dir.enc) && h.chan == c.val && !s.slotHeld (decide (d = Dir.enc)) c h.epoch) = none) ∧
    (∃ (s : State), ∃ (c : Fin 8192), ∃ k, (s.chan c).curEpoch ≠ 0 ∧ s.slot 0 c (1 - (s.chan c).cur) = k ∧ k.valid = true ∧ k.confirmed = true ∧
      k.epoch = nextEpoch (s.chan c).curEpoch ∧ (s.chan c).st ≠ .closed ∧ s.macsec c = false ∧ (s.peer (s.home_ (s.spg c))).sub ≠ .stranded ∧
      (s.peer (s.home_ (s.spg c))).sub ≠ .landfall) ∧
    (∃ (s : State), ∃ (c : Fin 8192), s.macsec c = false ∧ ((s.peer (s.home_ (s.spg c))).sub = .stranded ∨ (s.peer (s.home_ (s.spg c))).sub = .landfall)) ∧
    (∃ (s : State), ∃ (c : Fin 8192), ∃ w, Keyable s c w ∧ (s.chan c).curEpoch ≠ 0 ∧ (s.slot 0 c (s.chan c).cur).firstAt.isSome = true ∧
      ((s.peer w).sub = .stranded ∨ (s.peer w).sub = .landfall)) ∧
    (∃ (s : State), ∃ (c : Fin 8192), ∃ w, ∃ e, ∃ dir, ∃ ck, Keyable s c w ∧ e = nextEpoch (s.chan c).curEpoch ∧ (s.chan c).curEpoch ≠ 0 ∧
      (s.slot 0 c (s.chan c).cur).firstAt.isSome = true ∧ (s.peer w).sub = .joined ∧ (s.chan c).nextSent = 0 ∧ s.vault.heldWrites = [] ∧
      ((∀ x ∈ s.vault.xchs, x.g = w → x.chan ≠ none ∧ x.chan ≠ some c.val)) ∧ tget s.vault.chains (chainIx false c 0) (0, 0, []) = (e, dir, ck) ∧ ck ≠ [] ∧
      s.slotHeld true c e = false ∧ s.saf.injected = []) :=
  ⟨⟨st 12, 0, Sys2Proof.Dir.enc, (hw true), by decide +kernel⟩,
   ⟨st 0, 0, Sys2Proof.Dir.enc, by decide +kernel⟩,
   ⟨st 15, 0, {ks with epoch := 2, confirmed := true, ratchet := true}, by decide +kernel⟩,
   ⟨st 1, 0, by decide +kernel⟩,
   ⟨st 1, 0, 0, by unfold Keyable; decide +kernel⟩,
   ⟨st 17, 0, 0, 2, 1, (hb 48), by unfold Keyable; decide +kernel⟩⟩

/-- The hypotheses of the clauses of KeyPorts are met. -/
theorem meets_KeyPorts :
    (∃ v, bit v 0 = false) ∧
    (∃ (s : State), ∃ (n : Fin 192), ∃ v, bit v 0 = true ∧ s.sealedJob n = none) ∧
    (∃ (s : State), ∃ (n : Fin 192), ∃ v, ∃ j, bit v 0 = true ∧ s.sealedJob n = some j ∧ s.kpFields (s.kpDesc n) = false) ∧
    (∃ (s : State), ∃ (n : Fin 192), ∃ v, ∃ j, bit v 0 = true ∧ s.sealedJob n = some j ∧ s.kpFields (s.kpDesc n) = true ∧ kpLen (s.kpDesc n) = true ∧
      0x10 ≤ (s.kpDesc n).kind ∧ granted j (s.kpDesc n) = true ∧ (s.kpKey (s.kpDesc n)).length = (s.kpDesc n).len) ∧
    (∃ (s : State), ∃ (n : Fin 192), ∃ v, ∃ j, bit v 0 = true ∧ s.sealedJob n = some j ∧ s.kpFields (s.kpDesc n) = true ∧ kpLen (s.kpDesc n) = true ∧
      0x10 ≤ (s.kpDesc n).kind ∧ granted j (s.kpDesc n) = false) ∧
    (∃ (s : State), ∃ (n : Fin 192), ∃ v, ∃ j, bit v 0 = true ∧ s.sealedJob n = some j ∧ s.kpFields (s.kpDesc n) = true ∧ kpLen (s.kpDesc n) = true ∧
      (s.kpDesc n).kind < 0x10 ∧ (s.kp n).data.length = (s.kpDesc n).len ∧ s.vault.pairs = []) ∧
    (∃ (s : State), ∃ (n : Fin 192), ∃ v, ∃ j, ∃ p, bit v 0 = true ∧ s.sealedJob n = some j ∧ s.kpFields (s.kpDesc n) = true ∧ kpLen (s.kpDesc n) = true ∧
      (s.kpDesc n).kind < 0x10 ∧ (s.kp n).data.length = (s.kpDesc n).len ∧ s.vault.pairs = [p] ∧ p.tag = j.pair ∧ p.desc0 = s.reg (kpBase n) ∧
      p.desc1 = s.reg (kpBase n + 4) ∧ p.desc2 = s.reg (kpBase n + 8) ∧ p.kiln ≠ n / 8 ∧ p.data = (s.kp n).data ∧ s.isSealed = false) ∧
    (∃ (s : State), ∃ (n : Fin 192), ∃ v, ∃ j, ∃ p, bit v 0 = true ∧ s.sealedJob n = some j ∧ s.kpFields (s.kpDesc n) = true ∧ kpLen (s.kpDesc n) = true ∧
      (s.kpDesc n).kind < 0x10 ∧ (s.kp n).data.length = (s.kpDesc n).len ∧ s.vault.pairs = [p] ∧ p.tag = j.pair ∧ p.desc0 = s.reg (kpBase n) ∧
      p.desc1 = s.reg (kpBase n + 4) ∧ p.desc2 = s.reg (kpBase n + 8) ∧ p.kiln ≠ n / 8 ∧ p.data ≠ (s.kp n).data ∧ s.vault.mism = []) ∧
    (∃ (s : State), ∃ i, ∃ p, s.vault.pairs.find? (fun p => p.id == i) = some p ∧ s.vault.mism = []) ∧
    (∃ (s : State), ∃ a, s.vault.drbUp = true ∧ s.vault.drbCast = false ∧ 1 ∉ s.vault.drbStall ∧ s.tagOf a = 0) ∧
    (∃ (s : State), ∃ (k : Fin 24), ∃ a, ∃ r, s.vault.drbUp = true ∧ s.vault.drbCast = false ∧ 1 ∉ s.vault.drbStall ∧ s.tagOf a ≠ 0 ∧
      s.kiln.rnds.find? (fun r => r.tag == s.tagOf a) = some r ∧ s.dev.mono ≤ r.at_ + 2000000 ∧ tget r.pos k 0 < 256) ∧
    (∃ (s : State), 1 ∈ s.vault.drbStall) :=
  ⟨⟨0, by decide +kernel⟩,
   ⟨st 0, 0, 1, by decide +kernel⟩,
   ⟨st 19, 0, 1, jb, by decide +kernel⟩,
   ⟨st 22, 0, 1, jb, by decide +kernel⟩,
   ⟨sealedZero, 0, 1, { jb with grant := 0 }, by decide +kernel⟩,
   ⟨st 20, 0, 1, jb, by decide +kernel⟩,
   ⟨st 24, 0, 1, jb, (pr2 1 (hb 48)), by decide +kernel⟩,
   ⟨st 26, 0, 1, jb, (pr2 1 ((hb 48).set 3 9)), by decide +kernel⟩,
   ⟨st 24, 3, (pr2 1 (hb 48)), by decide +kernel⟩,
   ⟨st 0, Sys2Proof.Agent.host, by decide +kernel⟩,
   ⟨st 19, 0, Sys2Proof.Agent.engine 0, rd, by decide +kernel⟩,
   ⟨st 18, by decide +kernel⟩⟩

end Sys2Proof.Tests.Set18


namespace Sys2Proof.Tests.Set19

def hb (n : Nat) : List Byte := (List.range n).map (fun i => by8 (i*7+1))
def blob0 (r : List Byte): List Byte := [1,1,2,0,1,0,0,0] ++ r ++ List.replicate (1721-16) 3
def pol : Word := 0x0064001C
def live : Tbl Word := [(pHpt 0+0x100, 4),(pSpt 0+0x100, 4),(aGrp 0, 3),
 (0x1000000,1),(0x1000000+8,0x80C00010),(0x1080000,1),(0x1080004,16), (0x1000040,3),(0x1080040,3),(0x1000080,1+2+8)]
def b0 : State := let s := State.reset.setRegFld (pBoot+0x100) 0 4 6
  let s := s.withDev {s.dev with dstate := .protect, startHold := false, mono := 12345, lifecycle := 2}
  let s := s.withGen {s.gen with live := live}
  let s := (List.range 4).foldl (fun s p => (s.setPort false p {s.port false p with step := 6}).setPort true p {s.port true p with step := 6}) s
  let s := (s.setPeer 0 {s.peer 0 with sub := .joined}).setPath 0 {s.path 0 with up := true}
  s.withVault {s.vault with idk := hb 100, drbUp := true, drbCast := false, drbStall := [], policy := pol}
def vt (s : State) (f : Vault → Vault) := s.withVault (f s.vault)
def pj (s : State) (sub : Sub) := s.setPeer 0 {s.peer 0 with sub := sub}
def fw (ver : Nat) : List Byte := leBytes 4 0x57465A4F ++ leBytes 2 1 ++ leBytes 2 0xB0 ++ leBytes 4 ver ++ leBytes 4 1 ++ leBytes 2 3 ++ List.replicate 14 0 ++ ([0] ++ List.replicate 47 0) ++ ([1,
    1] ++ List.replicate 46 0)++ ([2,1] ++ List.replicate 46 0)
def more : List State := let s := b0
 [s, s.setReg (pCh 0) 3, s.setRegFld (pBoot+0x100) 0 4 0xE, s.setRegFld (pBoot+0x100) 0 4 2, vt s (fun v => {v with policy := 0x0064001E}),
    vt s (fun v => {v with idk := []}), s.withDev {s.dev with lifecycle := 3}, pj s .stranded, pj s .landfall, vt s (fun v => {v with drbUp := false}),
  s.withBoot {s.boot with fuses := 0}, s.withBoot {s.boot with fuses := 1, fwFloor := 2, intKeys := [(1, hb 32)]}, (s.setReg 0x98108 5).setReg 0x98110 3,
    s.withDev {s.dev with dstate := .sealed},
  (s.mput (norSlot 1) (fw 4)), (s.mput (norSlot 1) (fw 4)).withBoot {s.boot with fwFloor := 5}]
def st (i : Nat) : State := (more).getD i State.reset


/-- The hypotheses of the clauses of VaultKeeper, a part of MailboxCommands, are met. -/
theorem meets_VaultKeeper :
    (∃ (s : State), ∃ word, ∃ mask, KeeperOpen s 0x40 ∧ 60 ≤ fld (masked s.vault.policy word mask) 16 16) ∧
    (∃ (s : State), ∃ (g : Byte), ∃ (ec : List Byte), ∃ (pq : List Byte), KeeperOpen s 0x41 ∧ bit s.vault.policy 1 = false ∧ g < 8#8 ∧ ec.length = 65 ∧
      pq.length = 1952) ∧
    (∃ (s : State), ∃ (ec : List Byte), ∃ (pq : List Byte), KeeperOpen s 0x41 ∧ bit s.vault.policy 1 = true ∧ ec.length = 65 ∧ pq.length = 1952) ∧
    (∃ (s : State), ∃ (ec : List Byte), KeeperOpen s 0x41 ∧ ec.length ≠ 65) ∧
    (∃ (s : State), KeeperOpen s 0x42) ∧
    (∃ (s : State), ∃ (nonce : List Byte), s.alive 1 = true ∧ nonce.length = 32) ∧
    (∃ (s : State), KeeperOpen s 0x45 ∧ s.vault.idk = [] ∧ s.vault.duk.length < 4 ∧ s.entropy = true ∧ s.dev.dstate ≠ .zeroized) ∧
    (∃ (s : State), KeeperOpen s 0x45 ∧ s.vault.idk ≠ []) ∧
    (∃ (s : State), ∃ (cert : List Byte), KeeperOpen s 0x46 ∧ s.vault.idk ≠ [] ∧ cert.length ≤ 4096) ∧
    (∃ (s : State), KeeperOpen s 0x47) ∧
    (∃ (s : State), s.alive 1 = true ∧ s.life = 3) ∧
    (∃ (s : State), s.alive 1 = false) ∧
    (∃ (s : State), KeeperOpen s 0x48) ∧
    (∃ (s : State), ∃ confirm, KeeperOpen s 0x48 ∧ confirm ≠ 0x5A5AA5A5) ∧
    (∃ (s : State), ∃ word, ∃ mask, KeeperOpen s 0x4A ∧ ((∀ i : Fin 16, fld (masked s.vault.sense word mask) (2 * i) 2 ≠ 3))) ∧
    (∃ (s : State), ∃ word, ∃ mask, ∃ (i : Fin 16), KeeperOpen s 0x4A ∧ fld (masked s.vault.sense word mask) (2 * i) 2 = 3) :=
  ⟨⟨st 0, 0, 0, by unfold KeeperOpen; decide +kernel⟩,
   ⟨st 0, 7, hb 65, hb 1952, by unfold KeeperOpen; decide +kernel⟩,
   ⟨st 4, hb 65, hb 1952, by unfold KeeperOpen; decide +kernel⟩,
   ⟨st 0, hb 64, by unfold KeeperOpen; decide +kernel⟩,
   ⟨st 0, by unfold KeeperOpen; decide +kernel⟩,
   ⟨st 0, hb 32, by decide +kernel⟩,
   ⟨st 5, by unfold KeeperOpen; decide +kernel⟩,
   ⟨st 0, by unfold KeeperOpen; decide +kernel⟩,
   ⟨st 0, hb 4096, by unfold KeeperOpen; decide +kernel⟩,
   ⟨st 0, by unfold KeeperOpen; decide +kernel⟩,
   ⟨st 6, by decide +kernel⟩,
   ⟨st 2, by decide +kernel⟩,
   ⟨st 0, by unfold KeeperOpen; decide +kernel⟩,
   ⟨st 0, 0, by unfold KeeperOpen; decide +kernel⟩,
   ⟨st 0, 0, 0, by unfold KeeperOpen; decide +kernel⟩,
   ⟨st 0, 1515890085, 1515890085, 2, by unfold KeeperOpen; decide +kernel⟩⟩

/-- The hypotheses of the clauses of KeysAndLifecycle, a part of MailboxCommands, are met. -/
theorem meets_KeysAndLifecycle :
    (∃ (s : State), ∃ blob, KeeperOpen s 0x43 ∧ blob.length = 1721 ∧ s.entropy = true ∧ s.isSealed = false ∧ s.dev.dstate ≠ .zeroized ∧ blobOk blob = true ∧
      s.slotHeld (leNat (cut blob 1 1) == 1) (leNat (cut blob 2 2) % 8192) (leNat (cut blob 4 1)) = false ∧ s.saf.injected = []) ∧
    (∃ (s : State), ∃ blob, KeeperOpen s 0x43 ∧ blob.length = 1721 ∧ s.entropy = true ∧ s.isSealed = false ∧ s.dev.dstate ≠ .zeroized ∧ blobOk blob = true ∧
      (s.importCheck blob).1 ≠ 0) ∧
    (∃ (s : State), ∃ (blob : List Byte), KeeperOpen s 0x43 ∧ blob.length = 1721 ∧ s.isSealed = true) ∧
    (∃ (s : State), ∃ g, KeeperOpen s 0x49 ∧ g < 8#8 ∧ (s.peer (s.home_ g.toNat)).sub = .joined ∧ s.mayKey = true ∧ s.vault.xchs = []) ∧
    (∃ (s : State), ∃ g, KeeperOpen s 0x49 ∧ g < 8#8 ∧ ((s.peer (s.home_ g.toNat)).sub = .stranded ∨ (s.peer (s.home_ g.toNat)).sub = .landfall)) ∧
    (∃ (s : State), ∃ g, ∃ c, KeeperOpen s 0x49 ∧ g < 8#8 ∧ c < 8192#16 ∧ s.chEn c.toNat = true ∧ s.asxon c.toNat = true ∧
      s.home_ (s.spg c.toNat) = s.home_ g.toNat ∧ (s.peer (s.home_ g.toNat)).sub = .joined ∧ s.mayKey = true ∧ s.vault.xchs = []) ∧
    (∃ (s : State), ∃ g, KeeperOpen s 0x49 ∧ g < 8#8 ∧ (s.peer (s.home_ g.toNat)).sub = .joined ∧ s.mayKey = false) ∧
    (∃ (s : State), s.alive 1 = true ∧ lifeOf s.boot.fuses = 1) ∧
    (∃ (s : State), s.alive 1 = true ∧ lifeOf s.boot.fuses = 2) ∧
    (∃ (s : State), ∃ (target : Byte), s.alive 1 = true ∧ target.toNat ≤ lifeOf s.boot.fuses) ∧
    (∃ (s : State), ∃ (n : Byte), ∃ (hash : List Byte), s.alive 1 = true ∧ s.life ≠ 3 ∧ n < 4#8 ∧ hash.length = 32 ∧
      s.boot.intKeys.any (fun e => e.1 == n.toNat) = false) ∧
    (∃ (s : State), ∃ (n : Byte), ∃ (hash : List Byte), s.alive 1 = true ∧ s.life ≠ 3 ∧ hash.length = 32 ∧ s.boot.intKeys.any (fun e => e.1 == n.toNat) = true) ∧
    (∃ (s : State), ∃ n, s.alive 1 = true ∧ n < 4#8) ∧
    (∃ (s : State), ∃ (ver : Word), s.alive 1 = true ∧ ver.toNat ≤ (s.reg 0x98108).toNat ∧ ver.toNat ≤ 64 ∧ s.boot.fwFloor ≤ ver.toNat) ∧
    (∃ (s : State), ∃ (ver : Word), s.alive 1 = true ∧ ver.toNat ≤ (s.reg 0x98110).toNat ∧ ver.toNat ≤ 64 ∧ s.boot.patchFloor ≤ ver.toNat) ∧
    (∃ (s : State), ∃ (ver : Word), s.alive 1 = true ∧ (ver.toNat < s.boot.fwFloor ∨ (s.reg 0x98108).toNat < ver.toNat)) :=
  ⟨⟨st 0, blob0 (hb 8), by unfold KeeperOpen; decide +kernel⟩,
   ⟨st 0, blob0 (hb 8), by unfold KeeperOpen; decide +kernel⟩,
   ⟨st 13, blob0 (hb 8), by unfold KeeperOpen; decide +kernel⟩,
   ⟨st 0, 0, by unfold KeeperOpen; decide +kernel⟩,
   ⟨st 7, 0, by unfold KeeperOpen; decide +kernel⟩,
   ⟨st 0, 0, 0, by unfold KeeperOpen; decide +kernel⟩,
   ⟨st 5, 0, by unfold KeeperOpen; decide +kernel⟩,
   ⟨st 0, by decide +kernel⟩,
   ⟨st 11, by decide +kernel⟩,
   ⟨st 0, 0, by decide +kernel⟩,
   ⟨st 0, 3, hb 32, by decide +kernel⟩,
   ⟨st 11, 1, hb 32, by decide +kernel⟩,
   ⟨st 0, 0, by decide +kernel⟩,
   ⟨st 12, 5, by decide +kernel⟩,
   ⟨st 12, 3, by decide +kernel⟩,
   ⟨st 12, 6, by decide +kernel⟩⟩

/-- The hypotheses of the clauses of Management, a part of MailboxCommands, are met. -/
theorem meets_Management :
    (∃ (s : State), s.alive 0 = true) ∧
    (∃ (s : State), ∃ (n : Byte), ∃ (off : Word), ∃ (bytes : List Byte), s.alive 0 = true ∧ s.stage ≠ 0xE ∧ n.toNat ≤ 1 ∧ n.toNat ≠ fld (s.reg 0x98100) 8 1 ∧
      off.toNat % 4096 = 0 ∧ off.toNat + bytes.length ≤ 0x800000 ∧ bytes.length ≤ 65504 ∧ MemOk s) ∧
    (∃ (s : State), ∃ (n : Byte), ∃ (bytes : List Byte), s.alive 0 = true ∧ s.stage ≠ 0xE ∧ n.toNat = fld (s.reg 0x98100) 8 1 ∧ bytes.length ≤ 65504) ∧
    (∃ (s : State), ∃ (off : Word), ∃ (bytes : List Byte), s.alive 0 = true ∧ s.stage ≠ 0xE ∧ off.toNat + bytes.length ≤ 0x1000000 ∧ bytes.length ≤ 65512 ∧ MemOk s) ∧
    (∃ (s : State), s.alive 0 = true ∧ s.stage = 0xE) ∧
    (∃ (s : State), ∃ (n : Byte), s.alive 0 = true ∧ n.toNat ≤ 1 ∧ (s.fwFormat n.toNat).1 = false) ∧
    (∃ (s : State), ∃ (n : Byte), s.alive 0 = true ∧ n.toNat ≤ 1 ∧ (s.fwFormat n.toNat).1 = true ∧ (s.mword (norSlot n.toNat + 8)).toNat < s.boot.fwFloor) ∧
    (∃ (s : State), ∃ (n : Byte), s.alive 0 = true ∧ n.toNat ≤ 1 ∧ (s.fwFormat n.toNat).1 = true ∧ s.boot.fwFloor ≤ (s.mword (norSlot n.toNat + 8)).toNat ∧
      s.stage ≠ 0xE) ∧
    (∃ (s : State), s.alive 0 = true ∧ s.stage ≠ 0xE) ∧
    (∃ (s : State), s.alive 0 = true ∧ s.stage ≠ 0xE) ∧
    (∃ (s : State), s.alive 0 = false) :=
  ⟨⟨st 0, by decide +kernel⟩,
   ⟨st 0, 1, 0x7FF000, hb 4096, by unfold MemOk; decide +kernel⟩,
   ⟨st 0, 0, hb 16, by decide +kernel⟩,
   ⟨st 0, 0xFFF000, hb 4096, by unfold MemOk; decide +kernel⟩,
   ⟨st 2, by decide +kernel⟩,
   ⟨st 0, 1, by decide +kernel⟩,
   ⟨st 15, 1, by decide +kernel⟩,
   ⟨st 14, 1, by decide +kernel⟩,
   ⟨st 0, by decide +kernel⟩,
   ⟨st 0, by decide +kernel⟩,
   ⟨st 3, by decide +kernel⟩⟩

end Sys2Proof.Tests.Set19


namespace Sys2Proof.Tests.Set20

def ent (f : Word) : List Byte := leBytes 4 77 ++ leBytes 4 f.toNat ++ leBytes 4 0x100 ++ leBytes 4 0 ++ leBytes 4 0x4000 ++ (List.range 8).flatMap (fun i => leBytes 4 (if i % 2 == 0 then 0x10000 else 0x10040)) ++ leBytes 4 0x55 ++ leBytes 4 0 ++ leBytes 4 0
def q0 (s : State) (q : Nat) (f : Word) : State := (((((s.setReg (queueAt 0 q) 0x100000).setReg (queueAt 0 q + 4) 0x103000).setReg (queueAt 0 q + 8) 0x104).setReg (queueAt 0 q + 0x10) 2).mput (spShmem 0) (ent f ++ ent 0))
def b0 : State := let s := State.reset.setRegFld (pBoot+0x100) 0 4 6
  let s := s.withDev {s.dev with dstate := .protect, startHold := false, mono := 12345}
  let s := s.setPst 193 1 |>.setPst 1 1
  let s := s.setReg (pEng 0 + 0x104) 0
  (s.setReg (pKln 0 + 0x104) 3).withKiln {s.kiln with patched := [0]}
def jb : Job := { kiln := 0, queue := 0, id := 1, engine := 0, ctx := 3, sealed_ := false, pair := 0, grant := 0, timeout := 5 }
def cx (st : Nat) (s : State): State := (s.setEng 0 {(b0.eng 0).setCtx 3 {Ctx.initial with st := st, bank := 0, restart := true, faultPc := 0x44, fault := 7} with run := if st == 3 then some 3 else none})
def dm (s : State) (st : Nat) (e : List Byte) : State := ((s.setDma 0 0 {list := 0x100040, idx := 0, owner := 8, ctx := 0, used := true}).setReg (dmaReg 0 0 + 8) (w32 st)).mput (spShmem 0 + 0x40) e |>.mput (spShmem 0 + 0x1000) [1,
    2,3]
def hs (s : State) (c : Word) (n : Nat): State := ((s.setHash 0 0 {owner := some (8,0), input := [1,2,3]}).setReg (hashReg 0 0) c).setReg (hashReg 0 0 + 4) (w32 n) |>.setReg (hashReg 0 0 + 0x10) 1
def more : List State := let s := b0
 [s, q0 s 0 0, q0 s 3 0, q0 s 1 0x10, q0 s 3 0x10, (cx 3 s).withKiln {s.kiln with jobs := [jb]}, cx 4 s, cx 2 s, cx 1 s, s.setPst 193 0,
    s.withKiln {s.kiln with patched := []}] ++
 (([ent 0, ent 0x10, leBytes 4 0x101000 ++ leBytes 4 0x102000 ++ leBytes 4 32 ++ leBytes 4 1,
    leBytes 4 0x101000 ++ leBytes 4 0x102000 ++ leBytes 4 32 ++ leBytes 4 0,
    leBytes 4 0x101000 ++ leBytes 4 0x102000 ++ leBytes 4 0 ++ leBytes 4 0] : List (List Byte)).map fun e => dm s 1 e) ++ [dm s 3 [],
    dm s 1 (List.replicate 16 0xFF), hs s 0 3, hs s 0 4, hs s 4 3, hs s 0x15 3, cx 3 (hs s 2 3)]
def st (i : Nat) : State := (more).getD i State.reset


/-- The hypotheses of the clauses of JobsAndContexts, a part of Kilns, are met. -/
theorem meets_JobsAndContexts :
    (∃ (s : State), ∃ (k : Fin 24), ∃ (h : Fin 2), ∃ (q : Fin 4), ∃ v, s.islOff (193 + k) = false ∧ h.val = q / 2 ∧ s.gen.held = [] ∧
      fld v 0 10 < 2 ^ fld (s.reg (queueAt k q + 8)) 0 4 ∧ fld (s.reg (queueAt k q + 0x14)) 0 10 < 2 ^ fld (s.reg (queueAt k q + 8)) 0 4) ∧
    (∃ (s : State), ∃ (k : Fin 24), ∃ (h : Fin 2), ∃ (q : Fin 4), s.islOff (193 + k) = false ∧ h.val ≠ q / 2) ∧
    (∃ (s : State), ∃ (k : Fin 24), ∃ (q : Fin 4), s.mayDispatch k = true ∧ ((∀ r : Fin 4, q < r → s.takeJob k r = none)) ∧ (s.takeJob k q).isSome = true) ∧
    (∃ (s : State), ∃ (k : Fin 24), s.mayDispatch k = false) ∧
    (∃ (s : State), ∃ (k : Fin 24), ∃ (q : Fin 4), ∃ e, HeadIs s k q e ∧ jobBreach q e = true) ∧
    (∃ (s : State), ∃ (k : Fin 24), ∃ (q : Fin 4), ∃ e, ∃ n, HeadIs s k q e ∧ jobBreach q e = false ∧
      s.engineFor k (fld (wordAt e 1) 8 8) (bit (wordAt e 1) 0) = some n ∧ (s.eng n).freeBanks ≠ []) ∧
    (∃ (s : State), ∃ (n : Fin 192), ∃ (c : Fin 64), s.kiln.jobs.any (fun j => j.kiln == n.val / 8 && j.engine == n.val % 8 && j.ctx == c.val && j.timeout != 0) = true) ∧
    (∃ (s : State), ∃ (n : Fin 192), ∃ (c : Fin 64), (s.ctx n c).st = 4 ∧ (s.ctx n c).restart = true ∧ (s.ctx n c).sealed_ = false) ∧
    (∃ (s : State), ∃ (n : Fin 192), ∃ (c : Fin 64), (s.ctx n c).st ≠ 4) ∧
    (∃ (s : State), ∃ (n : Fin 192), ∃ (c : Fin 64), (s.ctx n c).st ≠ 0) ∧
    (∃ (s : State), ∃ (n : Fin 192), ∃ (c : Fin 64), (s.ctx n c).st = 0) ∧
    (∃ (s : State), ∃ (k : Fin 24), ∃ v, ∃ (e : Fin 8), s.islOff (193 + k) = false ∧ bit v e = true) ∧
    (∃ (s : State), ∃ (k : Fin 24), s.islOff (193 + k) = false) :=
  ⟨⟨st 0, 0, 0, 0, 0, by decide +kernel⟩,
   ⟨st 0, 0, 0, 2, by decide +kernel⟩,
   ⟨q0 b0 3 1, 0, 3, by decide +kernel⟩,
   ⟨st 9, 0, by decide +kernel⟩,
   ⟨st 3, 0, 1, (ent 0x10), by unfold HeadIs; decide +kernel⟩,
   ⟨st 1, 0, 0, (ent 0), 0, by unfold HeadIs; decide +kernel⟩,
   ⟨st 5, 0, 3, by decide +kernel⟩,
   ⟨st 6, 0, 3, by decide +kernel⟩,
   ⟨st 0, 0, 0, by decide +kernel⟩,
   ⟨st 5, 0, 3, by decide +kernel⟩,
   ⟨st 0, 0, 0, by decide +kernel⟩,
   ⟨st 0, 0, 1, 0, by decide +kernel⟩,
   ⟨st 0, 0, by decide +kernel⟩⟩

/-- The hypotheses of the clauses of DmaAndHash, a part of Kilns, are met. -/
theorem meets_DmaAndHash :
    (∃ (s : State), ∃ (k : Fin 24), ∃ (a : Agent), ∃ (ch : Fin 8), s.islOff (193 + k) = false ∧ s.dmaBarred k ch a = false) ∧
    (∃ (s : State), ∃ (k : Fin 24), ∃ (a : Agent), ∃ (ch : Fin 8), s.islOff (193 + k) = false ∧ s.dmaBarred k ch a = true) ∧
    (∃ (s : State), ∃ (k : Fin 24), ∃ (a : Agent), ∃ (ch : Fin 8), ∃ (h : Fin 2), s.islOff (193 + k) = false ∧ fld (s.reg (dmaReg k ch + 8)) 0 2 = 1 ∧ a = .harbour h) ∧
    (∃ (s : State), ∃ (k : Fin 24), ∃ (a : Agent), ∃ (ch : Fin 8), s.islOff (193 + k) = false ∧ fld (s.reg (dmaReg k ch + 8)) 0 2 = 3 ∧ s.dmaBarred k ch a = false) ∧
    (∃ (s : State), ∃ (k : Fin 24), ∃ (ch : Fin 8), s.islOff (193 + k) = false ∧ fld (s.reg (dmaReg k ch + 8)) 0 2 = 1 ∧ s.dmaEntry k ch = none) ∧
    (∃ (s : State), ∃ (k : Fin 24), ∃ (ch : Fin 8), ∃ e, s.islOff (193 + k) = false ∧ fld (s.reg (dmaReg k ch + 8)) 0 2 = 1 ∧ s.dmaEntry k ch = some e ∧
      s.dmaCheck k (s.dma k ch) (wordAt e 0).toNat (wordAt e 1).toNat (fld (wordAt e 2) 0 24) (wordAt e 3).toNat ≠ 0) ∧
    (∃ (s : State), ∃ (k : Fin 24), ∃ (ch : Fin 8), ∃ e, ∃ sa, ∃ da, s.islOff (193 + k) = false ∧ fld (s.reg (dmaReg k ch + 8)) 0 2 = 1 ∧ s.dmaEntry k ch = some e ∧
      s.dmaCheck k (s.dma k ch) (wordAt e 0).toNat (wordAt e 1).toNat (fld (wordAt e 2) 0 24) (wordAt e 3).toNat = 0 ∧ kilnFifo (wordAt e 0).toNat = none ∧
      kilnFifo (wordAt e 1).toNat = none ∧ s.dmaAddr k (s.dma k ch).owner (wordAt e 0).toNat = some sa ∧
      s.dmaAddr k (s.dma k ch).owner (wordAt e 1).toNat = some da ∧ (sa + fld (wordAt e 2) 0 24 ≤ da ∨ da + fld (wordAt e 2) 0 24 ≤ sa)) ∧
    (∃ (s : State), ∃ (k : Fin 24), ∃ (a : Agent), ∃ (h : Fin 4), ∃ v, s.islOff (193 + k) = false ∧ s.hashForeign k h a = false ∧ bit v 24 = true) ∧
    (∃ (s : State), ∃ (k : Fin 24), ∃ (a : Agent), ∃ (h : Fin 4), s.islOff (193 + k) = false ∧ s.hashForeign k h a = true) ∧
    (∃ (s : State), ∃ (k : Fin 24), ∃ (h : Fin 4), ∃ (i : Fin 16), bit (s.reg (hashReg k h + 0x10)) 0 = true ∧ s.hashNeed k h ≤ (s.hash k h).input.length ∧
      fld (s.reg (hashReg k h)) 4 2 = 0 ∧ fld (s.reg (hashReg k h)) 0 4 ≤ 4 ∧ bit (s.reg (hashReg k h)) 7 = false ∧
      4 * i.val < digestLen (fld (s.reg (hashReg k h)) 0 4)) ∧
    (∃ (s : State), ∃ (k : Fin 24), ∃ (h : Fin 4), (s.hash k h).input.length < s.hashNeed k h) ∧
    (∃ (s : State), ∃ (k : Fin 24), ∃ (a : Agent), ∃ (h : Fin 4), ∃ v, s.islOff (193 + k) = false ∧ s.hashForeign k h a = false ∧ bit v 0 = true) :=
  ⟨⟨st 0, 0, Sys2Proof.Agent.engine 0, 0, by decide +kernel⟩,
   ⟨st 0, 0, Sys2Proof.Agent.host, 0, by decide +kernel⟩,
   ⟨st 11, 0, Sys2Proof.Agent.harbour 0, 0, 0, by decide +kernel⟩,
   ⟨st 16, 0, Sys2Proof.Agent.harbour 0, 0, by decide +kernel⟩,
   ⟨st 17, 0, 0, by decide +kernel⟩,
   ⟨st 15, 0, 0, (leBytes 4 0x101000 ++ leBytes 4 0x102000 ++ leBytes 4 0 ++ leBytes 4 0), by decide +kernel⟩,
   ⟨st 13, 0, 0, (leBytes 4 0x101000 ++ leBytes 4 0x102000 ++ leBytes 4 32 ++ leBytes 4 1), 3298534887424, 3298534891520, by decide +kernel⟩,
   ⟨st 0, 0, Sys2Proof.Agent.engine 0, 0, 16777216, by decide +kernel⟩,
   ⟨st 0, 0, Sys2Proof.Agent.host, 0, by decide +kernel⟩,
   ⟨st 18, 0, 0, 0, by decide +kernel⟩,
   ⟨st 19, 0, 0, by decide +kernel⟩,
   ⟨st 0, 0, Sys2Proof.Agent.engine 0, 0, 1, by decide +kernel⟩⟩

end Sys2Proof.Tests.Set20


namespace Sys2Proof.Tests.Set21

def ks : KeySlot := { valid := true, epoch := 1, key := List.replicate 32 3, salt := List.replicate 12 4 }
def live : Tbl Word := [(pHpt 0+0x100, 4),(pSpt 0+0x100, 4),(aGrp 0, 3),(pSns + 0x100, 0x10000),(sGrp 0, 4), (sGrp 0+4, 0x55),(pSns + 0x400, 0xFF01),(pSns+0x404,
    0xFF03),(pSns + 0x104, 0x00100010),(pSns+0x108,0xFF000010),(pSns+0x10C,0x00100010),(pSns+0x110,0x101),(pSns+0x114,2)]
def b0 : State := let s := State.reset.setRegFld (pBoot+0x100) 0 4 6
  let s := s.withDev {s.dev with dstate := .protect, startHold := false, mono := 12345}
  let s := s.withGen {s.gen with live := live}
  let s := (List.range 4).foldl (fun s p => (s.setPort false p {s.port false p with step := 6}).setPort true p {s.port true p with step := 6}) s
  let s := (s.setPeer 0 {s.peer 0 with sub := .joined, portEpoch := 1}).setPath 0 {s.path 0 with up := true}
  s.setPslot 0 0 1 ks
def lists (t : Nat): List (Nat × Nat × Nat × Nat) := (List.range 1088).map fun i => ((2000-i)*65536*1000,(2000-i)*65536*1000+50*65536 + t,
    (2000-i)*65536*1000+60*65536,(2000-i)*65536*1000+110*65536)
def md (s : State) (m : Nat) := s.setSenseMode 0 m
def pt (s : State) (f : Port → Port) := s.setPort true 0 (f (s.port true 0))
def act (s : State) (w : Word) := s.withVault {s.vault with sense := w}
def sl (s : State) (f : Slot → Slot) := (s.setSlotOf 0 (f (s.slotOf 0))).setSlotOf 1 (f (s.slotOf 1))
def more : List State := let s := act b0 0
 [s, md s 1, md s 2, md s 3, md (s.setPath 0 {s.path 0 with up := false}) 2, pt s (fun p => {p with reqs := [(5,3),(6,7)], lostNow := 3, doneNow := 9}),
    md (pt s (fun p => {p with done := 1088})) 3,
  (md (pt s (fun p => {p with done := 1088, probes := lists 0})) 3),
    (md (pt s (fun p => {p with done := 1088, probes := lists 9000})) 3).setSense 0 {s.sense 0 with wasArmed := true},
  (md (pt s (fun p => {p with done := 1088, probes := lists 0, lostNow := 3})) 2).setSense 0 {s.sense 0 with authHit := true, hits := [(12,1)]},
    act (md s 2) 0x00800000, act (md s 1) 0xAAAAAAAA,
  sl s (fun x => {x with misses := 1}), sl s (fun x => {x with misses := 2}), (sl s (fun x => {x with misses := 2})).setReg (wSlot 0) 2,
    (sl s (fun x => {x with misses := 2})).setReg (wSlot 1) 2, (md s 2).setSense 0 {s.sense 0 with eqBase := [[0,0,0,0,0]], hits := [(16,1)]}]
def st (i : Nat) : State := (more).getD i State.reset


/-- The hypotheses of the clauses of ProbesAndBatches, a part of Sensing, are met. -/
theorem meets_ProbesAndBatches :
    (∃ (s : State), ∃ (p : Fin 32), s.probes p = false) ∧
    (∃ (s : State), ∃ (p : Fin 32), s.probes p = true ∧ (s.port true p).reqs.length < 1024) ∧
    (∃ (s : State), ∃ (p : Fin 32), ∃ n, (s.port true p).reqs.any (fun e => e.1 == n) = true) ∧
    (∃ (s : State), ∃ (p : Fin 32), ∃ n, (s.port true p).reqs.any (fun e => e.1 == n) = false) ∧
    (∃ (s : State), ∃ (g : Fin 8), s.senseMode g = 0) ∧
    (∃ (s : State), ∃ (g : Fin 8), s.senseMode g ≠ 0 ∧ s.senses_ = true ∧ (s.path g).up = false) ∧
    (∃ (s : State), ∃ (g : Fin 8), s.senseMode g ≠ 0 ∧ s.senses_ = true ∧ (s.path g).up = true ∧ LogOnly s) ∧
    (∃ (s : State), ∃ (g : Fin 8), s.senseMode g = 3 ∧ s.senses_ = true ∧ (s.path g).up = true ∧ (s.port true (s.refPort g)).measure.isSome = true) ∧
    (∃ (s : State), ∃ (g : Fin 8), s.senseMode g ≠ 0) ∧
    (∃ (s : State), ∃ (g : Fin 8), s.senseMode g = 0) ∧
    (∃ (s : State), ∃ (g : Fin 8), s.senseMode g ≠ 0 ∧ s.actionOf 11 = 0) ∧
    (∃ (s : State), ∃ (g : Fin 8), s.senseMode g ≠ 0 ∧ s.actionOf 11 = 2) ∧
    (∃ (s : State), ∃ (g : Fin 8), s.senseMode g = 1) ∧
    (∃ (s : State), ∃ (g : Fin 8), s.senseMode g ≠ 1) ∧
    (∃ (s : State), ∃ (g : Fin 8), s.senseMode g = 3 ∧ (s.path g).up = true ∧ 1088 ≤ (s.port true (s.refPort g)).done ∧ (s.sense g).wasArmed = false) ∧
    (∃ (s : State), ∃ (g : Fin 8), s.senseMode g = 3 ∧ (s.path g).up = true ∧ 1088 ≤ (s.port true (s.refPort g)).done ∧ (s.sense g).wasArmed = true ∧ LogOnly s) ∧
    (∃ (s : State), ∃ (g : Fin 8), (s.port true (s.refPort g)).done < 1088) :=
  ⟨⟨st 0, 4, by decide +kernel⟩,
   ⟨st 0, 0, by decide +kernel⟩,
   ⟨st 5, 0, 5, by decide +kernel⟩,
   ⟨st 0, 0, 0, by decide +kernel⟩,
   ⟨st 0, 0, by decide +kernel⟩,
   ⟨st 4, 0, by decide +kernel⟩,
   ⟨st 1, 0, by unfold LogOnly; decide +kernel⟩,
   ⟨st 7, 0, by decide +kernel⟩,
   ⟨st 1, 0, by decide +kernel⟩,
   ⟨st 0, 0, by decide +kernel⟩,
   ⟨st 1, 0, by decide +kernel⟩,
   ⟨st 10, 0, by decide +kernel⟩,
   ⟨st 1, 0, by decide +kernel⟩,
   ⟨st 0, 0, by decide +kernel⟩,
   ⟨st 6, 0, by decide +kernel⟩,
   ⟨st 8, 0, by unfold LogOnly; decide +kernel⟩,
   ⟨st 0, 0, by decide +kernel⟩⟩

/-- The hypotheses of the clauses of EqualisersAndOptics, a part of Sensing, are met. -/
theorem meets_EqualisersAndOptics :
    (∃ (s : State), s.actionOf 3 = 0) ∧
    (∃ (s : State), ∃ (i : Fin 32), s.slotPolled i = false) ∧
    (∃ (s : State), ∃ (i : Fin 32), s.slotPolled i = true ∧ bit (s.optCfg i) 1 = false ∧ (s.slotOf i).misses < 2) ∧
    (∃ (s : State), ∃ (i : Fin 32), s.slotPolled i = true ∧ bit (s.optCfg i) 1 = false ∧ (s.slotOf i).misses = 2 ∧ s.actionOf 10 = 0) ∧
    (∃ (s : State), ∃ (i : Fin 32), s.slotPolled i = true ∧ (s.slotOf i).misses = 2 ∧ s.actionOf 10 = 0) ∧
    (∃ (s : State), ∃ (i : Fin 32), s.slotPolled i = true ∧ bit (s.optCfg i) 1 = false ∧ LogOnly s) ∧
    (∃ (s : State), ∃ (i : Fin 32), s.slotPolled i = true ∧ LogOnly s) ∧
    (∃ (s : State), ∃ (i : Fin 32), bit (s.reg (0x1510000 + 64 * i)) 1 = true ∧ s.slotOn i = true) ∧
    (∃ (s : State), ∃ (i : Fin 32), s.slotOn i = false) :=
  ⟨⟨st 0, by decide +kernel⟩,
   ⟨st 14, 0, by decide +kernel⟩,
   ⟨st 0, 0, by decide +kernel⟩,
   ⟨st 13, 0, by decide +kernel⟩,
   ⟨st 13, 0, by decide +kernel⟩,
   ⟨st 0, 0, by unfold LogOnly; decide +kernel⟩,
   ⟨st 0, 0, by unfold LogOnly; decide +kernel⟩,
   ⟨st 14, 0, by decide +kernel⟩,
   ⟨st 0, 20, by decide +kernel⟩⟩

end Sys2Proof.Tests.Set21
end

/-! Control operations: what Laws/Traim.lean says of a taken branch and of an operation of light acts, put together on either
core, and the branches, jumps and DBNZ by it. -/
namespace Sys2Proof.Machine

open Sys2Proof.Claims

/-- Acts l, then the jump where there is a target. -/
def withJump (l : List Act) : Option Word → List Act
  | some a => l ++ [.jump a]
  | none => l

/-- A jump leaves the registers as the acts before it do. -/
theorem Ctx.acted_jump (x : Ctx) (fixed : Bool) (k : Nat) (l : List Act) (a : Word) :
    x.acted fixed k (l ++ [.jump a]) = x.acted fixed k l := by
  have ho : ordered (l ++ [.jump a]) = ordered l ++ [.jump a] := by simp [ordered]
  simp only [Ctx.acted, ho, List.foldl_append, List.foldl_cons, List.foldl_nil, Ctx.act]

theorem Ctx.past_eq_off (x : Ctx) (k : Nat) : x.past k = x.off (x.pc + w32 (4 * k)) := rfl

/-- Operation o is control flow on either core: it has m words at most and `cond` conditional branches, and its acts g are l, which
do f to the registers, and then the jump to t where it branches. -/
structure IsControl (m cond : Nat) (o : Op) (g l : Ctx → List Act) (f : Ctx → Ctx) (t : Ctx → Option Word) : Prop where
  fits : o.fits = true
  only : o.only = 0
  fp : o.fp = false
  branch : b2n o.cond = cond
  words : m ≤ 1 ∨ (m ≤ 2 ∧ o.ext = true)
  acts : ∀ x, g x = withJump (l x) (t x)
  light : ∀ x, (l x).all Act.light = true
  acted : ∀ x fixed k a, { x.acted fixed k (l x) with pc := a } = (f x).off a
  pc : ∀ x, (f x).pc = x.pc

section
variable {m cond : Nat} {o : Op} {g l : Ctx → List Act} {f : Ctx → Ctx} {t : Ctx → Option Word}

theorem IsControl.fewWords (hi : IsControl m cond o g l f t) {k : Nat} (hk : k ≤ m) : k ≤ 1 ∨ (k ≤ 2 ∧ o.ext = true) :=
  hi.words.imp (Nat.le_trans hk) (.imp_left (Nat.le_trans hk))

theorem IsControl.acted_regs (hi : IsControl m cond o g l f t) (x : Ctx) (fixed : Bool) (k : Nat) :
    (x.acted fixed k (l x)).regs = (f x).regs := by
  have hregs := congrArg Ctx.regs (hi.acted x fixed k x.pc)
  exact hregs

/-- On a calm engine: the jump where there is a target, else the next bundle. -/
theorem IsControl.pureOp_engine (hi : IsControl m cond o g l f t) {s : State} {n : Fin 192} {c k : Nat} (hc : Calm s n c) (hk : k ≤ m)
    (hff : s.fetchFault n (s.ctx n c) k = none) :
    s.pureOp { core := .engine n, more := false, words := k } o g =
      (match t (s.ctx n c) with
       | some a => s.passes n c k (List.replicate cond true) ((s.eng n).after c ((f (s.ctx n c)).off a) cond true)
       | none => s.passes n c k (List.replicate cond false) ((s.eng n).done c ((f (s.ctx n c)).past k) cond)) := by
  have h1 : o.only ≠ 2 := by simp [hi.only]
  have hg := hi.acts (s.ctx n c)
  cases ht : t (s.ctx n c) with
  | some a =>
    rw [ht] at hg
    refine (State.engOp_jump (w := { core := .engine n, more := false, words := k }) hc rfl (hi.fewWords hk) hff hi.fits h1 hi.fp
      (congrArg (none, ·, s) hg) (hi.light _)).trans ?_
    simp only [Ctx.acted_jump, hi.acted, hi.branch]
  | none =>
    rw [ht] at hg
    refine (State.engOp_light (acts := l _) (w := { core := .engine n, more := false, words := k }) hc rfl (hi.fewWords hk) hff hi.fits h1
      (by simp [hi.fp]) (congrArg (none, ·, s) hg) (hi.light _)).trans ?_
    simp only [hi.acted, Ctx.past_eq_off, hi.pc, hi.branch]

/-- The same on a harbour pair. -/
theorem IsControl.pureOp_harbour (hi : IsControl m cond o g l f t) {s : State} {h : Fin 2} {k : Nat} (hc : HcCalm s h) (hk0 : 1 ≤ k) (hk : k ≤ m)
    (htask : s.inTask h (s.hc h).pc.toNat (4 * k) = true) :
    s.pureOp { core := .harbour h, more := false, words := k } o g = s.setHc h
      (match t (s.hcCur h) with
       | some a => { (s.hc h).done (f (s.hcCur h)).regs k with pc := a }
       | none => (s.hc h).done (f (s.hcCur h)).regs k) := by
  have h1 : o.only ≠ 1 := by simp [hi.only]
  have hk' : k = 1 ∨ (k = 2 ∧ o.ext = true) := by
    have hfew := hi.fewWords hk
    grind
  have hg := hi.acts (s.hcCur h)
  cases ht : t (s.hcCur h) with
  | some a =>
    rw [ht] at hg
    refine (State.hcOp_jump (f := fun s x => (none, g x, s)) (w := { core := .harbour h, more := false, words := k }) hc rfl
      hk' htask hi.fits h1 (congrArg (none, ·, s) hg) (hi.light _)).trans ?_
    simp only [Ctx.acted_jump, hi.acted_regs]
  | none =>
    rw [ht] at hg
    refine (State.hcOp_light (acts := l _) (f := fun s x => (none, g x, s)) (w := { core := .harbour h, more := false, words := k }) hc rfl
      hk' htask hi.fits h1 (congrArg (none, ·, s) hg) (hi.light _)).trans ?_
    simp only [hi.acted_regs]

theorem jumps_of_control {mk : At → Instr} (he : ∀ w s, exec (mk w) s = .next (s.pureOp w o g)) (hi : IsControl m cond o g l f t) :
    Jumps m mk cond f t :=
  ⟨fun s _ _ _ hc hk hff => (he _ s).trans (congrArg Host.Outcome.next (hi.pureOp_engine hc hk hff)),
   fun s _ _ hc hk0 hk htask => (he _ s).trans (congrArg Host.Outcome.next (hi.pureOp_harbour hc hk0 hk htask))⟩

/-- An operation that does nothing but jump where it has a target. -/
theorem IsControl.of_jump (hfits : o.fits = true) (honly : o.only = 0) (hfp : o.fp = false) (hbranch : b2n o.cond = cond)
    (hwords : m ≤ 1 ∨ (m ≤ 2 ∧ o.ext = true)) (hg : ∀ x, g x = withJump [] (t x)) : IsControl m cond o g (fun _ => []) id t where
  fits := hfits
  only := honly
  fp := hfp
  branch := hbranch
  words := hwords
  acts := hg
  light _ := rfl
  acted _ _ _ _ := rfl
  pc _ := rfl

end

theorem withJump_ite (l : List Act) (p : Prop) [Decidable p] (a : Word) :
    withJump l (if p then some a else none) = l ++ if p then [.jump a] else [] := by
  split <;> simp [withJump]

theorem branches_of_branch {mk : At → Reg → Reg → Word → Instr} {p q : Word → Word → Bool} (hp : ∀ a b, q a b = p a b)
    (he : ∀ w ra rb d s, exec (mk w ra rb d) s = .next (s.branch w ra rb d q)) : Branches mk p := fun ra rb d => by
  obtain rfl : q = p := funext fun a => funext (hp a)
  exact jumps_of_control (he · ra rb d) (.of_jump rfl rfl rfl rfl (.inr ⟨Nat.le_refl 2, rfl⟩) (fun _ => (withJump_ite [] _ _).symm))

theorem jumps_of_branchZ {mk : At → Instr} {ra : Reg} {d : Word} {q : Word → Bool} {P : Word → Prop} [DecidablePred P]
    (hp : ∀ a, q a = true ↔ P a) (he : ∀ w s, exec (mk w) s = .next (s.branchZ w ra d q)) :
    Jumps 2 mk 1 id (fun x => if P (x.rs ra.val) then some (x.pc + 4 * d) else none) := by
  simp only [← hp]
  exact jumps_of_control he (.of_jump rfl rfl rfl rfl (.inr ⟨Nat.le_refl 2, rfl⟩) (fun _ => (withJump_ite [] _ _).symm))

theorem bne_eq_decide (a b : Word) : (a != b) = decide (a ≠ b) := by
  rw [Bool.eq_iff_iff, bne_iff_ne, decide_eq_true_iff]

/-- The new value of DBNZ's register is 0 where the old one is 1. -/
theorem sub_one_ne_zero_iff (a : Word) : (a - 1 != 0) = true ↔ a ≠ 1 := by
  rw [bne_iff_ne]
  bv_omega

theorem dbnz_jumps (ra : Reg) (d : Word) : Jumps 2 (.dbnz · ra d) 1 (fun x => x.putS ra.val (x.rs ra.val - 1))
    (fun x => if x.rs ra.val ≠ 1 then some (x.pc + 4 * d) else none) := by
  refine jumps_of_control (l := fun x => [.set (.s ra.val) (.w (x.rs ra.val - 1))]) (fun _ _ => rfl) ?_
  exact {
    fits := rfl
    only := rfl
    fp := rfl
    branch := rfl
    words := .inr ⟨Nat.le_refl 2, rfl⟩
    acts := fun x => by simp only [withJump_ite, sub_one_ne_zero_iff, target, List.singleton_append]
    light := fun _ => rfl
    acted := fun _ _ _ _ => rfl
    pc := fun _ => rfl }

theorem j_jumps (d : Word) : Jumps 2 (.j · d) 0 id (fun x => some (x.pc + 4 * d)) :=
  jumps_of_control (fun _ _ => rfl) (.of_jump rfl rfl rfl rfl (.inr ⟨Nat.le_refl 2, rfl⟩) (fun _ => rfl))

theorem jr_jumps (ra : Reg) : Jumps 1 (.jr · ra) 0 id (fun x => some (x.rs ra.val)) :=
  jumps_of_control (fun _ _ => rfl) (.of_jump rfl rfl rfl rfl (.inl (Nat.le_refl 1)) (fun _ => rfl))

/-- Settles O6: a taken branch jumps, any other operation of light acts goes on, and the acts of the eleven operations are a
jump alone, DBNZ's a write of ra before it. -/
theorem branchesAndJumps : Obligations.BranchesAndJumps := by
  unfold Obligations.BranchesAndJumps
  refine ⟨?beq, ?bne, ?blt, ?bge, ?bltu, ?bgeu, fun ra d => ⟨?beqz, ?bnez, dbnz_jumps ra d, j_jumps d, jr_jumps ra⟩⟩
  case bne => exact branches_of_branch bne_eq_decide (fun _ _ _ _ _ => rfl)
  case beqz => exact jumps_of_branchZ (P := (· = 0)) (fun _ => beq_iff_eq) (fun _ _ => rfl)
  case bnez => exact jumps_of_branchZ (P := (· ≠ 0)) (fun _ => bne_iff_ne) (fun _ _ => rfl)
  all_goals exact branches_of_branch (fun _ _ => rfl) (fun _ _ _ _ _ => rfl)

end Sys2Proof.Machine

/-! The FP unit: what Laws/Traim.lean says of an operation of light acts, for the owner of the FP file, and the boundary results
of 09 R276 by it. -/
namespace Sys2Proof.Machine

open Sys2Proof.Claims

theorem rounding_eq_rm (x : Ctx) : rounding x = x.rm := by simp [rounding, Ctx.rm, fld]

theorem Ctx.rm_lt_four (x : Ctx) : x.rm < 4 := fld_lt x.fpstat 0 2

/-- The context when a bundle begins: the breakpoint that it stood at is past. -/
def Ctx.unbroken (x : Ctx) : Ctx := { x with brkAt := if x.brkAt = some x.pc then none else x.brkAt }

/-- A result lands in a bundle as it does between bundles: it does not look at the PC or the breakpoint passed. -/
theorem Ctx.land_past (x : Ctx) (p : Pend) (k : Nat) :
    { x.unbroken.land p with pc := x.pc + w32 (4 * k) } = (x.land p).past k := by
  obtain ⟨dst, val, age, flags, src⟩ := p
  cases dst with
  | none => rfl
  | some d => cases d <;> cases val <;> rfl

/-- What an operation of the FP unit with the result and flags r does: a late result, or a long operation. -/
def fpAct (long : Bool) (d : Dst) (r : Word × Nat) : Act :=
  if long then .long d (.w r.1) r.2 [] else .late d (.w r.1) r.2

theorem fpAct_light (long : Bool) (d : Dst) (r : Word × Nat) : [fpAct long d r].all Act.light = true := by
  cases long <;> rfl

theorem Ctx.later_past (x : Ctx) (fixed : Bool) (p : Pend) (k : Nat) :
    { x.unbroken.later fixed p with pc := x.pc + w32 (4 * k) } = (x.later fixed p).past k := by
  cases fixed with
  | false => rfl
  | true => exact x.land_past p k

theorem Ctx.slowly_past (x : Ctx) (fixed : Bool) (p : Pend) (k : Nat) :
    { x.unbroken.slowly fixed p with pc := x.pc + w32 (4 * k) } = (x.slowly fixed p).past k := by
  cases fixed with
  | false => rfl
  | true => exact x.land_past p k

/-- A long operation starts where nothing is in flight. -/
theorem Ctx.addLong_eq_slowly {x : Ctx} (hpend : x.pend = []) (hlongs : x.longs = []) (fixed : Bool) (p : Pend) :
    x.addLong fixed p = x.slowly fixed p := by
  have hover : ∀ codes, x.overwritten codes = x := fun codes => by
    rw [Ctx.overwritten, hpend, List.map_nil, ← hpend]
  simp only [Ctx.addLong, hover, hlongs, Ctx.slowly, List.nil_append]

/-- The context after a bundle of one FP result, where nothing is in flight (07 R197, R199). -/
theorem Ctx.acted_fpAct {x : Ctx} (hpend : x.pend = []) (hlongs : x.longs = []) (fixed : Bool) (k : Nat) (long : Bool) (d : Dst) (r : Word × Nat) :
    let p : Pend := { dst := some d, val := .w r.1, flags := r.2 }
    { (x.acted fixed k [fpAct long d r]) with pc := x.pc + w32 (4 * k) } = (if long then x.slowly fixed p else x.later fixed p).past k := by
  intro p
  cases long with
  | false => exact x.later_past fixed p k
  | true =>
    have hacted : x.acted fixed k [fpAct true d r] = x.unbroken.slowly fixed p := Ctx.addLong_eq_slowly (x := x.unbroken) hpend hlongs fixed p
    rw [hacted]
    exact x.slowly_past fixed p k

/-- An operation of the FP unit, alone in its bundle's V slot, with one result. -/
def fpUnit (slow : Bool) (reads : List Nat) (write : Nat) : Op :=
  { vN := 1, only := 1, fp := true, slow := slow, reads := reads, writes := [write] }

theorem fpUnit_fits (slow : Bool) (reads : List Nat) (write : Nat) : (fpUnit slow reads write).fits = true := rfl

theorem fpUnit_only (slow : Bool) (reads : List Nat) (write : Nat) : (fpUnit slow reads write).only ≠ 2 := by simp [fpUnit]

theorem onFpOwner_of_fpUnit {mk : At → Instr} {long : Bool} {reads : List Nat} {write : Nat} {d : Dst} {r : Ctx → Word × Nat}
    (he : ∀ w s, exec (mk w) s = .next (s.pureOp w (fpUnit long reads write) fun x => [fpAct long d (r x)])) :
    OnFpOwner mk (fun fixed x => let p : Pend := { dst := some d, val := .w (r x).1, flags := (r x).2 }
      if long then x.slowly fixed p else x.later fixed p) :=
  .of_pure (fun _ _ => he _) (fpUnit_fits ..) (fpUnit_only _ _ _) rfl (fun _ => fpAct_light ..)
    (fun _ fixed k hpend hlongs => Ctx.acted_fpAct hpend hlongs fixed k long d _)

/-- The rows of an operation whose result is g of RM and its operands, from the values of g alone. -/
theorem fpGives_of_fpUnit {mk : At → FReg → FReg → FReg → Instr} {dst : Nat → Dst} {src : Ctx → Nat → Word} {long : Bool}
    {reads : FReg → FReg → List Nat} {write : FReg → Nat} {l : List (Word × Word × Nat × Word × Nat)} (g : Nat → Word → Word → Word × Nat)
    (he : ∀ fd fa fb w s, exec (mk w fd fa fb) s = .next (s.pureOp w (fpUnit long (reads fa fb) (write fd)) fun x =>
      [fpAct long (dst fd) (g x.rm (src x fa) (src x fb))]))
    (hl : ∀ e ∈ l, g e.2.2.1 e.1 e.2.1 = e.2.2.2) : FpGives mk dst src long l := by
  rintro a b rm r fl hmem s n c k fd fa fb hc hown hk hff rfl rfl rfl
  have hrow : g (s.ctx n c).rm (src (s.ctx n c) fa) (src (s.ctx n c) fb) = (r, fl) := by
    rw [← rounding_eq_rm]
    exact hl _ hmem
  refine (onFpOwner_of_fpUnit (he fd fa fb) s n c k hc hown hk hff).trans ?_
  simp only [hrow]

/-! Free values move nothing of the front end. -/

theorem State.perfAdd_free (s : State) (m n ev k : Nat) : ({ s with free := m } : State).perfAdd n ev k = { s.perfAdd n ev k with free := m } := by
  have hsealed : ({ s with free := m } : State).sealedNow n = s.sealedNow n := rfl
  unfold State.perfAdd
  rw [hsealed]
  split <;> rfl

theorem State.ran_free (s : State) (m n : Nat) (x : Ctx) (k : Nat) (l : List Bool) (u : Nat) :
    ({ s with free := m } : State).ran n x k l u = { s.ran n x k l u with free := m } := by
  unfold State.ran
  simp only [← State.perfAdd_free]
  rfl

/-- A bundle leaves the same, the counter of free values apart, whatever that counter stands at. -/
theorem State.passes_free (s : State) (m n c k : Nat) (l : List Bool) (e : Engine) :
    { ({ s with free := m } : State).passes n c k l e with free := s.free } = s.passes n c k l e := by
  obtain ⟨fronts, hran⟩ := s.ran_eq n (s.ctx n c) k l 0
  have hdrawn : ({ s with free := m } : State).ran n (s.ctx n c) k l 0 = { s with free := m, fronts := fronts } := by
    rw [State.ran_free, hran]
  have hctx : ({ s with free := m } : State).ctx n c = s.ctx n c := rfl
  rw [State.passes, State.passes, hctx, hdrawn, hran]
  rfl

/-- What FMA does: d := a × b + d, a free value saying whether 0 × ∞ + a quiet NaN raises NV. -/
def fmaMeaning (fd fa fb : FReg) : Meaning := fun s x =>
  (none, [fpAct false (.f fd) (fFma (Config.freeBool s.free) x.rm (x.rf fa) (x.rf fb) (x.rf fd))], s.drawn)

theorem exec_fma (w : At) (fd fa fb : FReg) (s : State) : exec (.fma w fd fa fb) s =
    .next (s.op w (fpUnit false [regF fa, regF fb, regF fd] (regF fd)) (fmaMeaning fd fa fb)) := rfl

/-- FMA on the owner's registers, but for the free value that it draws. -/
theorem exec_fma_calm {s : State} {n : Fin 192} {c k : Nat} (hc : Calm s n c) (hown : (s.eng n).fpOwner = some c) (hk : k ≤ 1)
    (hff : s.fetchFault n (s.ctx n c) k = none) (fd fa fb : FReg) :
    ∃ o t, exec (.fma { core := .engine n, more := false, words := k } fd fa fb) s = .next t ∧ { t with free := s.free } =
      s.passes n c k [] ((s.eng n).done c ((fpLater (s.fixedOn n) (s.ctx n c) (.f fd.val)
        (fFma o (s.ctx n c).rm ((s.ctx n c).rf fa.val) ((s.ctx n c).rf fb.val) ((s.ctx n c).rf fd.val))).past k) 0) := by
  have hop := State.engOp_free (f := fmaMeaning fd fa fb) (w := { core := .engine n, more := false, words := k }) hc rfl (.inl hk) hff
    (fpUnit_fits false [regF fa, regF fb, regF fd] (regF fd)) (fpUnit_only _ _ _) (fun _ => hown) rfl (fpAct_light _ _ _)
  rw [Ctx.acted_fpAct hc.pend hc.longs] at hop
  exact ⟨_, _, (exec_fma _ fd fa fb s).trans (congrArg Host.Outcome.next hop), s.passes_free (s.free + 1) n c k [] _⟩

/-- The rows of FMA: in every mode, and whatever the free value. -/
theorem fFma_boundary {a b d r : Word} (hmem : (a, b, d, r) ∈ [((0x7F7FFFFF : Word), (0x40000000 : Word), (0xFF7FFFFF : Word), (0x7F7FFFFF : Word)),
      (0x7F7FFFFF, 0x7F7FFFFF, 0xFF800000, 0xFF800000), (1, 0x3F800000, 1, 2)]) :
    ∀ o, ∀ rm < 4, fFma o rm a b d = (r, 0) := by
  simp only [List.mem_cons, Prod.mk.injEq, List.not_mem_nil, or_false] at hmem
  obtain ⟨rfl, rfl, rfl, rfl⟩ | ⟨rfl, rfl, rfl, rfl⟩ | ⟨rfl, rfl, rfl, rfl⟩ := hmem <;> decide

/-- Settles O31: each operation hands its operands to one function of binary32, and that function has the table's values. -/
theorem fpBoundaryResults : Obligations.FpBoundaryResults := by
  unfold Obligations.FpBoundaryResults
  refine ⟨?fmul, ?fadd, ?fsub, ?fdiv, ?fsqrt, ?fcvtWS, ?fcvtSW, ?fma⟩
  case fmul => exact fpGives_of_fpUnit fMul (fun _ _ _ _ _ => rfl) (by decide)
  case fadd => exact fpGives_of_fpUnit fAdd (fun _ _ _ _ _ => rfl) (by decide)
  case fsub => exact fpGives_of_fpUnit fSub (fun _ _ _ _ _ => rfl) (by decide)
  case fdiv => exact fpGives_of_fpUnit fDiv (fun _ _ _ _ _ => rfl) (by decide)
  case fsqrt => exact fpGives_of_fpUnit (fun rm a _ => fSqrt rm a) (fun _ _ _ _ _ => rfl) (by decide +kernel)
  case fcvtWS => exact fpGives_of_fpUnit (fun rm a _ => fToInt rm a) (fun _ _ _ _ _ => rfl) (by decide)
  case fcvtSW => exact fpGives_of_fpUnit (fun rm a _ => fOfInt rm a) (fun _ _ _ _ _ => rfl) (by decide)
  case fma =>
    rintro a b d r hmem s n c k fd fa fb hc hown hk hff rfl rfl rfl
    obtain ⟨o, t, hexec, ht⟩ := exec_fma_calm hc hown hk hff fd fa fb
    rw [fFma_boundary hmem o _ (Ctx.rm_lt_four _)] at ht
    exact ⟨t, hexec, ht⟩

end Sys2Proof.Machine
